-- ==== Sys2Proof/Word.lean ====
section
/-! DEFINITION. The word types of the GI-4096 (00 R1, R5): a byte, a 32-bit slot word or lane, a 64-bit scalar. -/

namespace Sys2Proof

/-- One byte of memory. -/
abbrev Byte := BitVec 8
/-- A slot word, a lane of a vector register, an accumulator element. -/
abbrev Word := BitVec 32
/-- A scalar register, a control register, a 64-bit word of memory. -/
abbrev DWord := BitVec 64
/-- A predicate register, one bit per lane. -/
abbrev Pred := BitVec 16

end Sys2Proof
end

