-- ==== Sys2Proof/Syntax.lean ====
section
/-! DEFINITION. The instructions, commands, nodes and events of the GI-4096: one constructor of `Instr` for
each row of spec/opcode_table.json. Register numbers and small codes are decoded here into types of their own;
immediates stay bit vectors, as the encodings of chapter 03 give them. -/

namespace Sys2Proof

/-- A scalar register number, s0 to s31 (03 R56). -/
abbrev SReg := Fin 32
/-- A vector register number, v0 to v63. -/
abbrev VReg := Fin 64
/-- A predicate register number, p0 to p15. -/
abbrev PReg := Fin 16
/-- An accumulator tile number, acc0 to acc7. -/
abbrev Acc := Fin 8

/-- Scalar widths, field w (03 Table 3.4). -/
inductive Width where
  | w8 | w16 | w32 | w64
deriving DecidableEq, Repr

/-- Element types, fields t and ty (03 Table 3.4). -/
inductive ElemTy where
  | f32 | bf16 | f16 | e4m3 | e5m2 | i32 | i16 | i8 | z32 | z16 | z8 | sx3 | sx5 | sx8
deriving DecidableEq, Repr

/-- Scalar memory types, field ty of the scalar M instructions (03 Table 3.4). -/
inductive MemTy where
  | s8 | s16 | s32 | s64 | z8 | z16 | z32
deriving DecidableEq, Repr

/-- Rounding modes, field rm (03 Table 3.4). -/
inductive Rm where
  | rne | rz | rd | ru
deriving DecidableEq, Repr

/-- Scopes (03 Table 3.4). -/
inductive Scope where
  | cl | rg | die | mod | sys
deriving DecidableEq, Repr

/-- Atomic operations (03 Table 3.4). -/
inductive Aop where
  | add | sub | and | or | xor | min | max | minu | maxu | fadd | fmin | fmax | xchg | cas
deriving DecidableEq, Repr

/-- Conditions of BRC (03 R63). -/
inductive BCond where
  | eq | ne | lt | ge | gt | le
deriving DecidableEq, Repr

/-- Modes of BRP and region reductions of PHEND (03 R63). -/
inductive BMode where
  | any | all | none
deriving DecidableEq, Repr

/-- Conditions of VCMP (07 Table 7.3). -/
inductive VCond where
  | eq | ne | lt | le | gt | ge | un | ord | tst | sgn
deriving DecidableEq, Repr

/-- Patterns of VSHUF (07 Table 7.4). -/
inductive Shuf where
  | lo1 | lo2 | lo4 | lo8 | hi1 | hi2 | hi4 | hi8 | evn | odd | zipl | ziph | rev
deriving DecidableEq, Repr

/-- The narrow type of VQNT, VDQ and VQFIT: named, or `.q`, which is encoded as type code 0x0 and stands for
FMTCFG.QTYPE (08 R158, R163). -/
inductive QTy where
  | q | e4m3 | e5m2 | i8 | z8
deriving DecidableEq, Repr

/-- Access paths of DRAIN (03 R61). -/
inductive Path where
  | local | die | module | link
deriving DecidableEq, Repr

/-- Kinds of FENCE (03 R61). -/
inductive FenceKind where
  | acquire | release | full
deriving DecidableEq, Repr

/-- The engine slots (03 R65). -/
inductive EngSlot where
  | x | e | k
deriving DecidableEq, Repr

/-- The wait and signal clauses of an engine slot word (03 Table 3.14): `wv` says whether a wait on semaphore
`wsem` with threshold `wthr` is present; a non-zero `ginc` signals semaphore `gsem`. -/
structure EClause where
  wv : Bool
  wsem : Fin 256
  wthr : Fin 256
  gsem : Fin 256
  ginc : BitVec 4
deriving DecidableEq, Repr

/-- A destination field of a node word (03 Table 3.17); port 0 is none, 1 a, 2 b, 3 c. -/
structure NDest where
  y : Fin 8
  x : Fin 8
  stage : Fin 8
  port : Fin 4
deriving DecidableEq, Repr

/-- A node of a dataflow block that is not chain-class: its place, its type, its consumers and its operands
(03 Table 3.17). -/
structure Node where
  y : Fin 8
  x : Fin 8
  stage : Fin 8
  t : Fin 16
  d0 : NDest
  d1 : NDest
  imm : BitVec 16
  rm : Rm
deriving DecidableEq, Repr

/-- A chain-class node (CLD, CST, CATOM): its place, its type, its consumers, and its static index and
neighbours (03 Table 3.17, 13 R258). CATOM has one consumer and keeps its operation in `aop`. -/
structure ChainNode where
  y : Fin 8
  x : Fin 8
  stage : Fin 8
  t : Fin 16
  d0 : NDest
  d1 : NDest
  aop : Fin 16
  s : Fin 64
  pred : Fin 128
  succ : Fin 128
deriving DecidableEq, Repr

/-- Where a host's request goes: an offset of BAR0, or of BAR2 (26 R417). -/
structure BarAddr where
  bar2 : Bool
  off : Nat
deriving DecidableEq, Repr

/-- One constructor for each row of spec/opcode_table.json. The events have no encoding: their arguments name
the place where the event happens (cluster key `k`, die key `g`, module key `m`, context, message). -/
inductive Instr where
  -- headers and NOP (03 R52 to R55, R76)
  | nop
  | emptyBundle
  | foldedRun (n : BitVec 16)
  | stampedBundleIssue (stamp : Word)
  -- scalar (05)
  | add (d a b : SReg) (w : Width)
  | sub (d a b : SReg) (w : Width)
  | mul (d a b : SReg) (w : Width)
  | mulh (d a b : SReg) (w : Width)
  | mulhu (d a b : SReg) (w : Width)
  | div (d a b : SReg) (w : Width)
  | divu (d a b : SReg) (w : Width)
  | rem (d a b : SReg) (w : Width)
  | remu (d a b : SReg) (w : Width)
  | and (d a b : SReg) (w : Width)
  | or (d a b : SReg) (w : Width)
  | xor (d a b : SReg) (w : Width)
  | shl (d a b : SReg) (w : Width)
  | shr (d a b : SReg) (w : Width)
  | sra (d a b : SReg) (w : Width)
  | min (d a b : SReg) (w : Width)
  | max (d a b : SReg) (w : Width)
  | minu (d a b : SReg) (w : Width)
  | maxu (d a b : SReg) (w : Width)
  | slt (d a b : SReg) (w : Width)
  | sltu (d a b : SReg) (w : Width)
  | seq (d a b : SReg) (w : Width)
  | sel (d a b c : SReg)
  | mov (d a : SReg)
  | clz (d a : SReg) (w : Width)
  | ctz (d a : SReg) (w : Width)
  | popc (d a : SReg) (w : Width)
  | bfx (d a : SReg) (pos lenm1 : Fin 64)
  | bfi (d a : SReg) (pos lenm1 : Fin 64)
  | addi (d a : SReg) (w : Width) (imm : BitVec 14)
  | andi (d a : SReg) (w : Width) (imm : BitVec 14)
  | ori (d a : SReg) (w : Width) (imm : BitVec 14)
  | xori (d a : SReg) (w : Width) (imm : BitVec 14)
  | shli (d a : SReg) (w : Width) (n : Fin 64)
  | shri (d a : SReg) (w : Width) (n : Fin 64)
  | srai (d a : SReg) (w : Width) (n : Fin 64)
  | li (d : SReg) (imm : BitVec 21)
  | lui (d : SReg) (imm : BitVec 21)
  | csrr (d : SReg) (c : BitVec 12)
  | csrw (d a : SReg) (c : BitVec 12)
  | rdgts (d : SReg)
  | extq (d a : SReg)
  | mapreq (d a b c : SReg)
  | semsigImm (n : Fin 256) (imm : BitVec 8)
  | semsigReg (a : SReg) (n : Fin 256)
  | semwait (d : SReg) (e : Bool) (n thr : Fin 256)
  | semsetImm (n : Fin 256) (imm : BitVec 8)
  | semsetReg (a : SReg) (n : Fin 256)
  | semrd (d : SReg) (n : Fin 256)
  | barinit (sc : Scope) (n : Fin 16) (count : Fin 256)
  | bara (d : SReg) (sc : Scope) (n : Fin 16)
  | barw (n : Fin 16)
  | xld (d a : SReg)
  | xdrop (d : SReg) (n : Fin 16)
  | xqry (d : SReg)
  | qpost (d a b : SReg)
  | sigadd (d a b : SReg)
  -- vector and predicate (07)
  | vadd (d a b : VReg) (t : ElemTy) (p : PReg)
  | vsub (d a b : VReg) (t : ElemTy) (p : PReg)
  | vmul (d a b : VReg) (t : ElemTy) (p : PReg)
  | vmulh (d a b : VReg) (t : ElemTy) (p : PReg)
  | vfma (d a b : VReg) (t : ElemTy) (p : PReg)
  | vfms (d a b : VReg) (t : ElemTy) (p : PReg)
  | vfnma (d a b : VReg) (t : ElemTy) (p : PReg)
  | vmin (d a b : VReg) (t : ElemTy) (p : PReg)
  | vmax (d a b : VReg) (t : ElemTy) (p : PReg)
  | vabs (d a : VReg) (t : ElemTy) (p : PReg)
  | vneg (d a : VReg) (t : ElemTy) (p : PReg)
  | vand (d a b : VReg) (p : PReg)
  | vor (d a b : VReg) (p : PReg)
  | vxor (d a b : VReg) (p : PReg)
  | vnot (d a : VReg) (p : PReg)
  | vshl (d a b : VReg) (t : ElemTy) (p : PReg)
  | vshr (d a b : VReg) (t : ElemTy) (p : PReg)
  | vsra (d a b : VReg) (t : ElemTy) (p : PReg)
  | vrcp (d a : VReg) (rm : Rm) (t2 t : ElemTy) (p : PReg)
  | vrsq (d a : VReg) (rm : Rm) (t2 t : ElemTy) (p : PReg)
  | vsqrt (d a : VReg) (rm : Rm) (t2 t : ElemTy) (p : PReg)
  | vexp2 (d a : VReg) (rm : Rm) (t2 t : ElemTy) (p : PReg)
  | vlog2 (d a : VReg) (rm : Rm) (t2 t : ElemTy) (p : PReg)
  | vcmp (pd : PReg) (cc : VCond) (a b : VReg) (t : ElemTy)
  | vsel (d a b : VReg) (p : PReg)
  | vmov (d a : VReg) (p : PReg)
  | vbcst (d : VReg) (a : SReg) (t : ElemTy) (p : PReg)
  | vext (d : SReg) (a : VReg) (lane : Fin 16) (t : ElemTy)
  | vins (d : VReg) (a : SReg) (lane : Fin 16) (t : ElemTy)
  | vperm (d a b : VReg) (p : PReg)
  | vshuf (d a b : VReg) (pat : Shuf) (p : PReg)
  | vrot (d a : VReg) (n : Fin 16) (p : PReg)
  | vrsum (d a : VReg) (t : ElemTy) (p : PReg)
  | vrmax (d a : VReg) (t : ElemTy) (p : PReg)
  | vrmin (d a : VReg) (t : ElemTy) (p : PReg)
  | vramax (d a : VReg) (t : ElemTy) (p : PReg)
  | pand (pd pa pb : PReg)
  | por (pd pa pb : PReg)
  | pxor (pd pa pb : PReg)
  | pnot (pd pa : PReg)
  | pset (pd : PReg) (imm : BitVec 16)
  | pcnt (d : SReg) (pa : PReg)
  -- quantisation, conversion, butterflies (08), custom opcodes (15)
  | vcvt (d a : VReg) (rm : Rm) (t2 t : ElemTy) (p : PReg)
  | vpksx (d a : VReg) (rm : Rm) (t2 t : ElemTy) (p : PReg)
  | vupsx (d a : VReg) (rm : Rm) (t2 t : ElemTy) (p : PReg)
  | vqnt (d a : VReg) (rm : Rm) (t2 : ElemTy) (t : QTy) (p : PReg)
  | vdq (d a : VReg) (rm : Rm) (t2 : QTy) (t : ElemTy) (p : PReg)
  | vqch (d a : VReg) (rm : Rm) (t2 t : ElemTy) (p : PReg)
  | vqfit (d a : VReg) (t2 : ElemTy) (t : QTy) (p : PReg)
  | vbf2 (d a b : VReg) (t : ElemTy) (p : PReg)
  | vbf4 (d a b : VReg) (t : ElemTy) (p : PReg)
  | vcmul (d a b : VReg) (t : ElemTy) (p : PReg)
  | vconj (d a : VReg) (t : ElemTy) (p : PReg)
  | vtwid (d : VReg) (a : SReg) (log2n : Fin 64) (t : ElemTy) (p : PReg)
  | xop (d a b : VReg) (n : Fin 16) (p : PReg)
  -- memory and ordering (09, 12)
  | ld (d base : SReg) (ty : MemTy) (rp : PReg) (off : BitVec 7)
  | st (d base : SReg) (ty : MemTy) (off : BitVec 7)
  | vld (d : VReg) (base : SReg) (ty : ElemTy) (rp : PReg) (off : BitVec 7)
  | vlds (d : VReg) (base : SReg) (ty : ElemTy) (rp : PReg) (b : SReg)
  | vldb (d : VReg) (base : SReg) (ty : ElemTy) (rp : PReg) (off : BitVec 7)
  | vgath (d : VReg) (base : SReg) (ty : ElemTy) (rp : PReg) (b : VReg)
  | vst (d : VReg) (base : SReg) (ty : ElemTy) (off : BitVec 7)
  | vsts (d : VReg) (base : SReg) (ty : ElemTy) (b : SReg)
  | vscat (d : VReg) (base : SReg) (ty : ElemTy) (b : VReg)
  | atom (d base : SReg) (ty : ElemTy) (aop : Aop) (b : SReg) (sc : Bool)
  | atomn (base : SReg) (ty : ElemTy) (aop : Aop) (b : SReg) (sc : Bool)
  | vatom (d : VReg) (base : SReg) (ty : ElemTy) (aop : Aop) (b : VReg) (sc : Bool)
  | vatomn (base : SReg) (ty : ElemTy) (aop : Aop) (b : VReg) (sc : Bool)
  | scAtomicPerform (id : Nat)
  | drain (path : Path)
  | fence (sc : Scope) (kind : FenceKind)
  | sbar (mask : BitVec 16)
  | ldacq (d base : SReg) (ty : MemTy) (sc : Scope) (off : BitVec 7)
  | strel (d base : SReg) (ty : MemTy) (sc : Scope) (off : BitVec 7)
  -- control (04, 13, 18, 24, 25)
  | br (off : BitVec 26)
  | brc (a : SReg) (cc : BCond) (off : BitVec 18)
  | brp (p : PReg) (mode : BMode) (off : BitVec 20)
  | bru (p : PReg) (sense : Bool) (off : BitVec 20)
  | jmpi (a : SReg)
  | call (off : BitVec 26)
  | ret
  | loop (lc : Fin 3) (a : SReg) (step : BitVec 4) (fin : BitVec 15)
  | loopi (lc : Fin 3) (count : BitVec 10) (step : BitVec 4) (fin : BitVec 10)
  | lexit (lc : Fin 3)
  | bsel (a : SReg)
  | phend (p : PReg) (mode : BMode)
  | halt
  | trap (code : BitVec 11)
  | waitarr (d a : SReg)
  | waitarrRelease (k : Nat)
  | array (a b : SReg) (chain : BitVec 8)
  | arwait
  | ftrecv (d : SReg)
  | ftrecvRelease (k : Nat)
  | repair (a b : SReg)
  | ctxsave (a : SReg)
  | ctxload (a : SReg)
  -- engine commands (03 Table 3.15)
  | engineNop (slot : EngSlot) (c : EClause)
  | mcfg (cfg : SReg) (c : EClause)
  | mldw (km1 nm1 : Fin 32) (c : EClause)
  | mldwSp (km1 nm1 : Fin 32) (nsel : Fin 8) (c : EClause)
  | mrun (acc : Acc) (rowsm1 : Fin 512) (c : EClause)
  | mrunSpan (acc : Acc) (rowsm1 : Fin 512) (c : EClause)
  | mzero (acc : Acc) (c : EClause)
  | mrd (acc : Acc) (row0 : Fin 32) (vd : VReg) (rowsm1 : Fin 8) (c : EClause)
  | mwait (acc : Acc) (c : EClause)
  | madd (dst src : Acc) (c : EClause)
  | mscl (a : SReg) (c : EClause)
  | matrixCmdStart (k : Nat)
  | matrixCmdComplete (k : Nat)
  | scopy (dst src len : SReg) (q : Fin 16) (c : EClause)
  | sfill (src len : SReg) (fifo : Bool) (q : Fin 16) (c : EClause)
  | ssend (och : Fin 16) (src len : SReg) (q : Fin 16) (c : EClause)
  | sfree (ich : Fin 16) (slot : SReg) (q : Fin 16) (c : EClause)
  | swake (addr val : SReg) (q : Fin 16) (c : EClause)
  | sclose (q : Fin 16) (c : EClause)
  | spost (dst src len : SReg) (q : Fin 16) (c : EClause)
  | sget (dst src len : SReg) (q : Fin 16) (c : EClause)
  | streamCmdStart (k : Nat) (q : Fin 16)
  | streamCmdComplete (k : Nat) (q : Fin 16)
  -- requests of hosts and of management (26)
  | hsemTake (m owner lease : Nat)
  | hsemRelease (m owner : Nat)
  | registerWrite (pa : Nat) (v : DWord)
  | hostWrite (m port : Nat) (at_ : BarAddr) (ep : Bool) (data : List Byte)
  | hostRead (m port : Nat) (at_ : BarAddr) (n : Nat)
  | mgmtSpace2Access (k : Nat) (off : Nat) (wr : Bool) (v : DWord)
  -- nodes of a dataflow block (13): the firing of a node of the running block
  | steer (n : Node)
  | merge (n : Node)
  | cld (n : ChainNode)
  | cst (n : ChainNode)
  | catom (n : ChainNode)
  | tsend (n : Node)
  | trecv (n : Node)
  | dadd (n : Node)
  | dsub (n : Node)
  | dmul (n : Node)
  | dfma (n : Node)
  | dmin (n : Node)
  | dmax (n : Node)
  | dand (n : Node)
  | dor (n : Node)
  | dxor (n : Node)
  | dshl (n : Node)
  | dshr (n : Node)
  | dsra (n : Node)
  | dcmp (n : Node)
  | dsel (n : Node)
  | dcvt (n : Node)
  | dmov (n : Node)
  | daddk (n : Node)
  | dshlk (n : Node)
  | dshrk (n : Node)
  | dandk (n : Node)
  -- events of array mode, synchronisation and faults (13, 16, 24)
  | iterationAdmit (k : Nat)
  | chainOpSend (k : Nat)
  | chainGap (k : Nat)
  | blockEnd (k : Nat)
  | waitTimeout (k : Nat)
  | barrierRegionFlip (k : Nat) (n : Fin 16)
  | icacheLineFill (k : Nat) (line : Nat)
  | asyncFaultTake (k : Nat)
  | faultTokenEnqueue (k : Nat)
  | contextReentry (k : Nat)
  | lhTimeout (g tag : Nat)
  | lockhouseLoader (g tag : Nat)
  | lockhousePolicy (g tag : Nat)
  | stateErrDetect (k : Nat) (fw : Bool) (info : Word)
  | registerSoftError (k : Nat) (fw : Bool) (reg elem : Nat)
  -- time, links and packets (19, 12, 09)
  | strokeStart (m : Nat)
  | beaconReceive (m link : Nat) (gts : Nat)
  | timeOrigin (m : Nat) (gts : Nat)
  | frameReceive (m link : Nat) (good : Bool)
  | linkTrain (m link : Nat)
  | linkDown (m link : Nat)
  | packetForward (id : Nat)
  | packetArrive (id : Nat)
  | freeReturnArrive (id : Nat)
  | remoteWritePerform (id : Nat)
  | ackArrive (id : Nat)
  | remoteReadServe (id : Nat)
  | readResponseArrive (id : Nat)
  | semSignalWordWrite (k : Nat) (n : Fin 256) (v : Word)
  | semSetWordWrite (k : Nat) (n : Fin 256) (v : Word)
  | wakeWordWrite (k : Nat) (n : Fin 16) (v : DWord)
  | residencyChange (k : Nat) (ext : Nat) (res : Nat)
  | mapreqSettle (k : Nat) (idx : Nat) (res : Nat)
  -- queues, launches and phases (22)
  | qcfgWrite (m q : Nat) (off : Nat) (v : DWord)
  | qwriteWrite (m q : Nat) (v : DWord)
  | queueFetch (m q : Nat)
  | packetExamine (m q : Nat)
  | copyPacket (m q : Nat)
  | packetComplete (m q : Nat)
  | launchSelect (m : Nat) (g : Nat)
  | launchTranslate (g : Nat)
  | launchBind (g : Nat)
  | memberDone (k : Nat)
  | phaseStep (g cox : Nat)
  | launchEnd (g cox : Nat)
  -- firmware, pre-emption, migration, boot, hosts (25, 26)
  | preempt (g cox : Nat)
  | preemptRebind (g idx : Nat)
  | checkpoint (k : Nat)
  | checkpointCommit (k : Nat)
  | moduleFailed (m : Nat)
  | firmwareActivation (m : Nat)
  | boot (m : Nat)
  | bootAckTimeout (m : Nat)
  | moduleJoin (m : Nat)
  | lnkbudWrite (m link : Nat) (v : DWord)
  | plreqWrite (k : Nat) (v : DWord)
  | blackBoxRead (m : Nat) (idx : Nat)
  | attestationRequest (m : Nat) (nonce : Nat)
  | moduleReset (m : Nat)
  | logicSupplyLoss (m : Nat)
  | latencyResultWrite
  | illegalKindHeader (h : Word)
  | unassignedOpcode (w : Word)
  | plreqInstallEnd (k : Nat) (res : Nat)
  | mctpControlMessage (m : Nat) (msg : Nat)
  | sramSupplyLoss (m : Nat)
  | logicSupplyReturn (m : Nat)
deriving DecidableEq, Repr

end Sys2Proof
end

