-- ==== Sys2Proof/WellFormed.lean ====
section
/-! DEFINITION. Which instructions are well-formed: the operand limits that the spec checks on the encoding
itself (ILLEGAL_FIELD, 03 R74). Checks that need the issuing context stand with the meanings. -/

namespace Sys2Proof

/-- .f32 .bf16 .f16 -/
def ElemTy.isF3 : ElemTy → Bool
  | .f32 | .bf16 | .f16 => true
  | _ => false
/-- The integer types. -/
def ElemTy.isInt : ElemTy → Bool
  | .i32 | .i16 | .i8 | .z32 | .z16 | .z8 => true
  | _ => false
/-- The types of VADD (07 Table 7.1). -/
def ElemTy.isArith (t : ElemTy) : Bool := t.isF3 || t.isInt
/-- The types of VABS and VRAMAX. -/
def ElemTy.isAbs (t : ElemTy) : Bool := t.isF3 || t == .i32 || t == .i16 || t == .i8
/-- The SX types. -/
def ElemTy.isSx : ElemTy → Bool
  | .sx3 | .sx5 | .sx8 => true
  | _ => false

/-- A group's first register: even and at most `m` (08 Table 8.2). -/
def evenUpTo (r : VReg) (m : Nat) : Bool := r.val % 2 == 0 && decide (r.val ≤ m)

/-- Types each atomic accepts (09 Table 9.3). -/
def aopOk (aop : Aop) (t : ElemTy) : Bool :=
  match aop with
  | .fadd => t == .f32 || t == .bf16
  | .fmin | .fmax => t == .f32
  | .xchg | .cas => t == .i32 || t == .z32 || t == .f32
  | _ => t == .i32 || t == .z32

/-- The clauses of an engine word: fields of an absent wait or signal are zero (03 R66). -/
def EClause.wf (c : EClause) : Bool :=
  (c.wv || (c.wsem == 0 && c.wthr == 0)) && (c.ginc != 0 || c.gsem == 0)

/-- An empty consumer field is wholly zero (03 R69). That a node word is illegal with a stage of 6 or 7 (R71) is read of the
node's own stage: a consumer field may name one, and then no node stands there (DESIGN CHOICE, log 63). -/
def NDest.wf (d : NDest) : Bool := d.port != 0 || (d.y == 0 && d.x == 0 && d.stage == 0)

/-- A scratchpad element has x + y odd (01 R10). -/
def isSE (y x : Fin 8) : Bool := (y.val + x.val) % 2 == 1

/-- Place and consumers of a plain node (03 R69, R71). -/
def Node.place (n : Node) : Bool := decide (n.stage.val < 6) && !isSE n.y n.x && n.d0.wf && n.d1.wf

/-- Place, consumers and static indices of a chain-class node (03 R69, R71). -/
def ChainNode.place (n : ChainNode) : Bool :=
  decide (n.stage.val < 6) && isSE n.y n.x && n.d0.wf && n.d1.wf &&
    (decide (n.pred.val < 64) || n.pred == 127) && (decide (n.succ.val < 64) || n.succ == 127)

/-- The element type a node's field t names, if any. -/
def elemOf (n : Nat) : Option ElemTy :=
  match n with
  | 0 => some .f32
  | 1 => some .bf16
  | 2 => some .f16
  | 3 => some .e4m3
  | 4 => some .e5m2
  | 5 => some .i32
  | 6 => some .i16
  | 7 => some .i8
  | 8 => some .z32
  | 9 => some .z16
  | 10 => some .z8
  | 11 => some .sx3
  | 12 => some .sx5
  | 13 => some .sx8
  | _ => none

/-- A node's type satisfies `f`. -/
def tyIs (t : Fin 16) (f : ElemTy → Bool) : Bool :=
  match elemOf t.val with
  | some e => f e
  | none => false

/-- An element type of a vector register or of memory: codes 0x0 to 0xA. -/
def ElemTy.isElem (t : ElemTy) : Bool := !t.isSx

/-- Plain two-operand node: no immediate. -/
def Node.plain (n : Node) (f : ElemTy → Bool) : Bool := n.place && tyIs n.t f && n.imm == 0
/-- Untyped node without immediate or rounding. -/
def Node.bare (n : Node) : Bool := n.place && n.t == 0 && n.imm == 0 && n.rm == .rne

/-- The operation code of an atomic. -/
def aopOf (n : Nat) : Option Aop :=
  match n with
  | 0 => some .add
  | 1 => some .sub
  | 2 => some .and
  | 3 => some .or
  | 4 => some .xor
  | 5 => some .min
  | 6 => some .max
  | 7 => some .minu
  | 8 => some .maxu
  | 9 => some .fadd
  | 10 => some .fmin
  | 11 => some .fmax
  | 12 => some .xchg
  | 13 => some .cas
  | _ => none

/-- CATOM's operation and type (13 R260). -/
def catomOk (n : ChainNode) : Bool :=
  match aopOf n.aop.val, elemOf n.t.val with
  | some a, some t => aopOk a t
  | _, _ => false

/-- Operand limits checked on the encoding. -/
def Instr.wf : Instr → Bool
  | .bfx _ _ pos l => decide (pos.val + l.val + 1 ≤ 64)
  | .bfi _ _ pos l => decide (pos.val + l.val + 1 ≤ 64)
  | .semsigReg a _ => a != 0
  | .semsetReg a _ => a != 0
  | .vadd _ _ _ t _ | .vsub _ _ _ t _ | .vmul _ _ _ t _ => t.isArith
  | .vmulh _ _ _ t _ => t.isInt
  | .vfma _ _ _ t _ | .vfms _ _ _ t _ | .vfnma _ _ _ t _ => t.isArith
  | .vmin _ _ _ t _ | .vmax _ _ _ t _ => t.isArith
  | .vabs _ _ t _ | .vneg _ _ t _ => t.isAbs
  | .vshl _ _ _ t _ | .vshr _ _ _ t _ | .vsra _ _ _ t _ => t.isInt
  | .vrcp _ _ _ t2 t _ | .vrsq _ _ _ t2 t _ | .vsqrt _ _ _ t2 t _ | .vexp2 _ _ _ t2 t _
  | .vlog2 _ _ _ t2 t _ => t2 == t && t.isF3
  | .vcmp _ cc _ b t =>
    t.isArith && (cc != .sgn || b == 0) && (!(cc == .un || cc == .ord) || t.isF3)
  | .vbcst _ _ t _ => t.isElem
  | .vext _ _ _ t => t.isElem
  | .vins _ _ _ t => t.isElem
  | .vshuf _ _ b pat _ => pat != .rev || b == 0
  | .vrsum _ _ t _ | .vrmax _ _ t _ | .vrmin _ _ t _ => t.isArith
  | .vramax _ _ t _ => t.isAbs
  | .vcvt _ _ _ t2 t _ => t2.isElem && t.isElem
  | .vpksx _ _ _ t2 t _ => t2.isF3 && t.isSx
  | .vupsx _ _ _ t2 t _ => t2.isSx && t.isF3
  | .vqnt _ _ rm t2 t _ => t2.isF3 && (t != .z8 || rm == .rne)
  | .vdq _ _ _ _ t _ => t.isF3
  | .vqch d a _ t2 t _ => t2 == t && t.isF3 && decide (a.val ≤ 62) && decide (d.val ≤ 61)
  | .vqfit _ _ t2 t _ => t2.isF3 && t != .z8
  | .vbf2 d a b t _ => t.isF3 && evenUpTo a 62 && evenUpTo b 62 && evenUpTo d 60
  | .vbf4 d a b t _ => t.isF3 && evenUpTo a 56 && evenUpTo d 56 && evenUpTo b 58
  | .vcmul d a b t _ => t.isF3 && evenUpTo d 62 && evenUpTo a 62 && evenUpTo b 62
  | .vconj d a t _ => t.isF3 && evenUpTo d 62 && evenUpTo a 62
  | .vtwid d _ l t _ => t.isF3 && evenUpTo d 62 && decide (l.val ≤ 24)
  | .st _ _ ty _ => ty == .s8 || ty == .s16 || ty == .s32 || ty == .s64
  | .vld _ _ t _ _ | .vldb _ _ t _ _ => t.isElem
  | .vlds _ _ t _ _ => t.isElem
  | .vgath _ _ t _ _ => t.isElem
  | .vst _ _ t _ => t.isElem
  | .vsts _ _ t _ => t.isElem
  | .vscat _ _ t _ => t.isElem
  | .atom _ _ t o b _ | .atomn _ t o b _ => aopOk o t && (o != .cas || (b.val % 2 == 0 && decide (b.val ≤ 30)))
  | .vatom _ _ t o b _ | .vatomn _ t o b _ =>
    aopOk o t && decide (b.val ≤ 62) && (o != .cas || (b.val % 2 == 0 && decide (b.val ≤ 60)))
  | .sbar m => m != 0
  | .ldacq _ _ ty _ _ => ty == .s32 || ty == .s64 || ty == .z32
  | .strel _ _ ty _ _ => ty == .s32 || ty == .s64
  | .engineNop _ c => c.wf
  | .mcfg _ c => c.wf
  | .mldw _ _ c => c.wf
  | .mldwSp k _ n c => c.wf && k.val == 31 && n.val != 0
  | .mrun _ r c => c.wf && decide (r.val ≤ 31)
  | .mrunSpan _ _ c => c.wf
  | .mzero _ c => c.wf
  | .mrd _ r0 vd r c => c.wf && decide (r0.val + r.val + 1 ≤ 32) && decide (vd.val + 2 * (r.val + 1) - 1 ≤ 63)
  | .mwait _ c => c.wf
  | .madd d a c => c.wf && d != a
  | .mscl _ c => c.wf
  | .scopy _ _ _ q c | .sfill _ _ _ q c | .ssend _ _ _ q c | .sfree _ _ q c | .swake _ _ q c | .sclose q c
  | .spost _ _ _ q c | .sget _ _ _ q c => c.wf && decide (4 ≤ q.val)
  | .steer n => n.bare
  | .merge n => n.bare
  | .tsend n => n.place && n.t == 0 && decide (n.imm.toNat < 8) && n.rm == .rne && n.d0.port == 0 && n.d1.port == 0
  | .trecv n => n.place && n.t == 0 && decide (n.imm.toNat < 8) && n.rm == .rne
  | .cld n => n.place && tyIs n.t ElemTy.isElem && n.aop == 0
  | .cst n => n.place && tyIs n.t ElemTy.isElem && n.aop == 0 && n.d0.port == 0 && n.d1.port == 0
  | .catom n => n.place && catomOk n && n.d1.port == 0
  | .dadd n | .dsub n | .dmul n | .dfma n => n.plain ElemTy.isArith
  | .dmin n | .dmax n => n.plain ElemTy.isArith && n.rm == .rne
  | .dand n | .dor n | .dxor n => n.bare
  | .dshl n | .dshr n | .dsra n => n.plain ElemTy.isInt && n.rm == .rne
  | .dcmp n => n.place && tyIs n.t ElemTy.isArith && decide (n.imm.toNat < 10) && n.rm == .rne &&
      (!(n.imm == 6 || n.imm == 7) || tyIs n.t ElemTy.isF3)
  | .dsel n => n.bare
  | .dcvt n => n.place && tyIs n.t ElemTy.isElem && decide (n.imm.toNat < 11)
  | .dmov n => n.bare
  | .daddk n => n.place && tyIs n.t ElemTy.isInt && n.rm == .rne
  | .dshlk n | .dshrk n => n.place && tyIs n.t ElemTy.isInt && n.rm == .rne
  | .dandk n => n.place && n.t == 0 && n.rm == .rne
  | _ => true

end Sys2Proof
end

