-- ==== Sys2Proof/Decode.lean ====
section
/-! DEFINITION. Decoding of slot words, headers and node words (chapter 03), total on any word and rejecting by
name, and the encoder of well-formed instructions written from the same encoding tables. -/

namespace Sys2Proof

/-- What a slot word decodes to (03 R74). -/
inductive Dec where
  | ok (i : Instr)
  | illegalOp
  | illegalField
deriving DecidableEq, Repr

/-- The decoded instruction, if the word is legal. -/
def Dec.toOption : Dec → Option Instr
  | .ok i => some i
  | _ => none

/-- Accepted when the reserved fields are zero and the operand limits hold. -/
def accept (reserved : Bool) (i : Instr) : Dec := if reserved && i.wf then .ok i else .illegalField

-- Fields (03 R56): the register or bit pattern at bit `lo`.
def fS (w lo : Nat) : SReg := Fin.ofNat 32 (w / 2 ^ lo)
def fV (w lo : Nat) : VReg := Fin.ofNat 64 (w / 2 ^ lo)
def fP (w lo : Nat) : PReg := Fin.ofNat 16 (w / 2 ^ lo)
def fA (w lo : Nat) : Acc := Fin.ofNat 8 (w / 2 ^ lo)
def fB (n w lo : Nat) : BitVec n := BitVec.ofNat n (w / 2 ^ lo)
/-- Reserved bits are zero. -/
def rz (w lo n : Nat) : Bool := w / 2 ^ lo % 2 ^ n == 0

-- Code fields (03 Table 3.4): codes to names and names to codes.
def widthOf (n : Nat) : Width :=
  match n % 4 with
  | 0 => .w8
  | 1 => .w16
  | 2 => .w32
  | _ => .w64
def widthCode : Width → Nat
  | .w8 => 0
  | .w16 => 1
  | .w32 => 2
  | .w64 => 3
def elemCode : ElemTy → Nat
  | .f32 => 0
  | .bf16 => 1
  | .f16 => 2
  | .e4m3 => 3
  | .e5m2 => 4
  | .i32 => 5
  | .i16 => 6
  | .i8 => 7
  | .z32 => 8
  | .z16 => 9
  | .z8 => 10
  | .sx3 => 11
  | .sx5 => 12
  | .sx8 => 13
def memTyOf (n : Nat) : Option MemTy :=
  match n with
  | 0 => some .s8
  | 1 => some .s16
  | 2 => some .s32
  | 3 => some .s64
  | 4 => some .z8
  | 5 => some .z16
  | 6 => some .z32
  | _ => none
def memTyCode : MemTy → Nat
  | .s8 => 0
  | .s16 => 1
  | .s32 => 2
  | .s64 => 3
  | .z8 => 4
  | .z16 => 5
  | .z32 => 6
def rmOf (n : Nat) : Rm :=
  match n % 4 with
  | 0 => .rne
  | 1 => .rz
  | 2 => .rd
  | _ => .ru
def rmCode : Rm → Nat
  | .rne => 0
  | .rz => 1
  | .rd => 2
  | .ru => 3
def scopeOf (n : Nat) : Option Scope :=
  match n with
  | 0 => some .cl
  | 1 => some .rg
  | 2 => some .die
  | 3 => some .mod
  | 4 => some .sys
  | _ => none
def scopeCode : Scope → Nat
  | .cl => 0
  | .rg => 1
  | .die => 2
  | .mod => 3
  | .sys => 4
def aopCode : Aop → Nat
  | .add => 0
  | .sub => 1
  | .and => 2
  | .or => 3
  | .xor => 4
  | .min => 5
  | .max => 6
  | .minu => 7
  | .maxu => 8
  | .fadd => 9
  | .fmin => 10
  | .fmax => 11
  | .xchg => 12
  | .cas => 13
def bcondOf (n : Nat) : Option BCond :=
  match n with
  | 0 => some .eq
  | 1 => some .ne
  | 2 => some .lt
  | 3 => some .ge
  | 4 => some .gt
  | 5 => some .le
  | _ => none
def bcondCode : BCond → Nat
  | .eq => 0
  | .ne => 1
  | .lt => 2
  | .ge => 3
  | .gt => 4
  | .le => 5
/-- BRP's mode: 00 any, 01 all, 10 none (03 R63). -/
def brpModeOf (n : Nat) : Option BMode :=
  match n with
  | 0 => some .any
  | 1 => some .all
  | 2 => some .none
  | _ => none
def brpModeCode : BMode → Nat
  | .any => 0
  | .all => 1
  | .none => 2
/-- PHEND's mode: 00 all, 01 any, 10 none (03 R63). -/
def phModeOf (n : Nat) : Option BMode :=
  match n with
  | 0 => some .all
  | 1 => some .any
  | 2 => some .none
  | _ => none
def phModeCode : BMode → Nat
  | .all => 0
  | .any => 1
  | .none => 2
def vcondOf (n : Nat) : Option VCond :=
  match n with
  | 0 => some .eq
  | 1 => some .ne
  | 2 => some .lt
  | 3 => some .le
  | 4 => some .gt
  | 5 => some .ge
  | 6 => some .un
  | 7 => some .ord
  | 8 => some .tst
  | 9 => some .sgn
  | _ => none
def vcondCode : VCond → Nat
  | .eq => 0
  | .ne => 1
  | .lt => 2
  | .le => 3
  | .gt => 4
  | .ge => 5
  | .un => 6
  | .ord => 7
  | .tst => 8
  | .sgn => 9
def shufOf (n : Nat) : Option Shuf :=
  match n with
  | 0 => some .lo1
  | 1 => some .lo2
  | 2 => some .lo4
  | 3 => some .lo8
  | 4 => some .hi1
  | 5 => some .hi2
  | 6 => some .hi4
  | 7 => some .hi8
  | 8 => some .evn
  | 9 => some .odd
  | 10 => some .zipl
  | 11 => some .ziph
  | 12 => some .rev
  | _ => none
def shufCode : Shuf → Nat
  | .lo1 => 0
  | .lo2 => 1
  | .lo4 => 2
  | .lo8 => 3
  | .hi1 => 4
  | .hi2 => 5
  | .hi4 => 6
  | .hi8 => 7
  | .evn => 8
  | .odd => 9
  | .zipl => 10
  | .ziph => 11
  | .rev => 12
/-- The narrow type field of VQNT, VDQ and VQFIT: code 0x0 is .q (08 R158). -/
def qtyOf (n : Nat) : Option QTy :=
  match n with
  | 0 => some .q
  | 3 => some .e4m3
  | 4 => some .e5m2
  | 7 => some .i8
  | 10 => some .z8
  | _ => none
def qtyCode : QTy → Nat
  | .q => 0
  | .e4m3 => 3
  | .e5m2 => 4
  | .i8 => 7
  | .z8 => 10
def pathOf (n : Nat) : Path :=
  match n % 4 with
  | 0 => .local
  | 1 => .die
  | 2 => .module
  | _ => .link
def pathCode : Path → Nat
  | .local => 0
  | .die => 1
  | .module => 2
  | .link => 3
def fenceOf (n : Nat) : Option FenceKind :=
  match n with
  | 0 => some .acquire
  | 1 => some .release
  | 2 => some .full
  | _ => none
def fenceCode : FenceKind → Nat
  | .acquire => 0
  | .release => 1
  | .full => 2

/-- A code that must be listed. -/
def withCode {α : Type} (o : Option α) (f : α → Dec) : Dec :=
  match o with
  | some x => f x
  | none => .illegalField

/-- An S slot word (03 Tables 3.5 and 3.6). -/
def decS (w : Nat) : Dec :=
  let d := fS w 21
  let a := fS w 16
  let b := fS w 11
  let c := fS w 6
  let i8 := fB 8 w 0
  let idx : Fin 256 := Fin.ofNat 256 (w / 2 ^ 8)
  let n8 : Fin 256 := Fin.ofNat 256 w
  match w / 2 ^ 26 % 64 with
  | 0x00 => if w = 0 then .ok .nop else .illegalField
  | 0x01 => accept (rz w 6 5 && rz w 0 4) (.add d a b (widthOf (w / 2 ^ 4)))
  | 0x02 => accept (rz w 6 5 && rz w 0 4) (.sub d a b (widthOf (w / 2 ^ 4)))
  | 0x03 => accept (rz w 6 5 && rz w 0 4) (.mul d a b (widthOf (w / 2 ^ 4)))
  | 0x04 => accept (rz w 6 5 && rz w 0 4) (.mulh d a b (widthOf (w / 2 ^ 4)))
  | 0x05 => accept (rz w 6 5 && rz w 0 4) (.mulhu d a b (widthOf (w / 2 ^ 4)))
  | 0x06 => accept (rz w 6 5 && rz w 0 4) (.div d a b (widthOf (w / 2 ^ 4)))
  | 0x07 => accept (rz w 6 5 && rz w 0 4) (.divu d a b (widthOf (w / 2 ^ 4)))
  | 0x08 => accept (rz w 6 5 && rz w 0 4) (.rem d a b (widthOf (w / 2 ^ 4)))
  | 0x09 => accept (rz w 6 5 && rz w 0 4) (.remu d a b (widthOf (w / 2 ^ 4)))
  | 0x0A => accept (rz w 6 5 && rz w 0 4) (.and d a b (widthOf (w / 2 ^ 4)))
  | 0x0B => accept (rz w 6 5 && rz w 0 4) (.or d a b (widthOf (w / 2 ^ 4)))
  | 0x0C => accept (rz w 6 5 && rz w 0 4) (.xor d a b (widthOf (w / 2 ^ 4)))
  | 0x0D => accept (rz w 6 5 && rz w 0 4) (.shl d a b (widthOf (w / 2 ^ 4)))
  | 0x0E => accept (rz w 6 5 && rz w 0 4) (.shr d a b (widthOf (w / 2 ^ 4)))
  | 0x0F => accept (rz w 6 5 && rz w 0 4) (.sra d a b (widthOf (w / 2 ^ 4)))
  | 0x10 => accept (rz w 6 5 && rz w 0 4) (.min d a b (widthOf (w / 2 ^ 4)))
  | 0x11 => accept (rz w 6 5 && rz w 0 4) (.max d a b (widthOf (w / 2 ^ 4)))
  | 0x12 => accept (rz w 6 5 && rz w 0 4) (.minu d a b (widthOf (w / 2 ^ 4)))
  | 0x13 => accept (rz w 6 5 && rz w 0 4) (.maxu d a b (widthOf (w / 2 ^ 4)))
  | 0x14 => accept (rz w 6 5 && rz w 0 4) (.slt d a b (widthOf (w / 2 ^ 4)))
  | 0x15 => accept (rz w 6 5 && rz w 0 4) (.sltu d a b (widthOf (w / 2 ^ 4)))
  | 0x16 => accept (rz w 6 5 && rz w 0 4) (.seq d a b (widthOf (w / 2 ^ 4)))
  | 0x17 => accept (w / 2 ^ 4 % 4 == 3 && rz w 0 4) (.sel d a b c)
  | 0x18 => accept (w / 2 ^ 4 % 4 == 3 && rz w 0 4 && rz w 6 10) (.mov d a)
  | 0x19 => accept (rz w 6 10 && rz w 0 4) (.clz d a (widthOf (w / 2 ^ 4)))
  | 0x1A => accept (rz w 6 10 && rz w 0 4) (.ctz d a (widthOf (w / 2 ^ 4)))
  | 0x1B => accept (rz w 6 10 && rz w 0 4) (.popc d a (widthOf (w / 2 ^ 4)))
  | 0x1C => accept (rz w 0 4) (.bfx d a (Fin.ofNat 64 (w / 2 ^ 10)) (Fin.ofNat 64 (w / 2 ^ 4)))
  | 0x1D => accept (rz w 0 4) (.bfi d a (Fin.ofNat 64 (w / 2 ^ 10)) (Fin.ofNat 64 (w / 2 ^ 4)))
  | 0x20 => accept (true) (.addi d a (widthOf (w / 2 ^ 14)) (fB 14 w 0))
  | 0x21 => accept (true) (.andi d a (widthOf (w / 2 ^ 14)) (fB 14 w 0))
  | 0x22 => accept (true) (.ori d a (widthOf (w / 2 ^ 14)) (fB 14 w 0))
  | 0x23 => accept (true) (.xori d a (widthOf (w / 2 ^ 14)) (fB 14 w 0))
  | 0x24 => accept (rz w 6 8) (.shli d a (widthOf (w / 2 ^ 14)) (Fin.ofNat 64 w))
  | 0x25 => accept (rz w 6 8) (.shri d a (widthOf (w / 2 ^ 14)) (Fin.ofNat 64 w))
  | 0x26 => accept (rz w 6 8) (.srai d a (widthOf (w / 2 ^ 14)) (Fin.ofNat 64 w))
  | 0x28 => accept (true) (.li d (fB 21 w 0))
  | 0x29 => accept (true) (.lui d (fB 21 w 0))
  | 0x2A => accept (rz w 16 5 && rz w 0 4) (.csrr d (fB 12 w 4))
  | 0x2B => accept (rz w 0 4) (.csrw d a (fB 12 w 4))
  | 0x2C => accept (rz w 6 15 && w / 2 ^ 4 % 4 == 3 && rz w 0 4) (.rdgts d)
  | 0x30 => accept (rz w 0 16) (.extq d a)
  | 0x31 => accept (rz w 0 6) (.mapreq d a b c)
  | 0x34 =>
    if a = 0 then accept (rz w 21 5) (.semsigImm idx i8) else accept (rz w 21 5 && rz w 0 8) (.semsigReg a idx)
  | 0x35 => accept (rz w 17 4) (.semwait d (w / 2 ^ 16 % 2 == 1) idx n8)
  | 0x36 =>
    if a = 0 then accept (rz w 21 5) (.semsetImm idx i8) else accept (rz w 21 5 && rz w 0 8) (.semsetReg a idx)
  | 0x37 => accept (rz w 16 5 && rz w 0 8) (.semrd d idx)
  | 0x38 => withCode (scopeOf (w / 2 ^ 16 % 8)) (fun sc =>
    accept (rz w 19 7 && rz w 12 4) (.barinit sc (Fin.ofNat 16 (w / 2 ^ 8)) n8))
  | 0x39 => withCode (scopeOf (w / 2 ^ 16 % 8)) (fun sc =>
    accept (rz w 19 2 && rz w 12 4 && rz w 0 8) (.bara d sc (Fin.ofNat 16 (w / 2 ^ 8))))
  | 0x3A => accept (rz w 16 10 && rz w 12 4 && rz w 0 8) (.barw (Fin.ofNat 16 (w / 2 ^ 8)))
  | 0x3B => accept (rz w 0 16) (.xld d a)
  | 0x3C => accept (rz w 4 17) (.xdrop d (Fin.ofNat 16 w))
  | 0x3D => accept (rz w 0 21) (.xqry d)
  | 0x3E => accept (rz w 0 11) (.qpost d a b)
  | 0x3F => accept (rz w 0 11) (.sigadd d a b)
  | _ => .illegalOp

/-- A V slot word (03 Tables 3.7 and 3.8). -/
def decV (w : Nat) : Dec :=
  let d := fV w 20
  let a := fV w 14
  let b := fV w 8
  let p := fP w 0
  let t := elemOf (w / 2 ^ 4 % 16)
  let t2 := elemOf (w / 2 ^ 8 % 16)
  let rm := rmOf (w / 2 ^ 12)
  let sa := fS w 14
  let ln : Fin 16 := Fin.ofNat 16 (w / 2 ^ 8)
  let pd := fP w 22
  match w / 2 ^ 26 % 64 with
  | 0x00 => if w = 0 then .ok .nop else .illegalField
  | 0x01 => withCode t (fun t => accept true (.vadd d a b t p))
  | 0x02 => withCode t (fun t => accept true (.vsub d a b t p))
  | 0x03 => withCode t (fun t => accept true (.vmul d a b t p))
  | 0x04 => withCode t (fun t => accept true (.vmulh d a b t p))
  | 0x05 => withCode t (fun t => accept true (.vfma d a b t p))
  | 0x06 => withCode t (fun t => accept true (.vfms d a b t p))
  | 0x07 => withCode t (fun t => accept true (.vfnma d a b t p))
  | 0x08 => withCode t (fun t => accept true (.vmin d a b t p))
  | 0x09 => withCode t (fun t => accept true (.vmax d a b t p))
  | 0x0A => withCode t (fun t => accept (rz w 8 6) (.vabs d a t p))
  | 0x0B => withCode t (fun t => accept (rz w 8 6) (.vneg d a t p))
  | 0x0C => accept (rz w 4 4) (.vand d a b p)
  | 0x0D => accept (rz w 4 4) (.vor d a b p)
  | 0x0E => accept (rz w 4 4) (.vxor d a b p)
  | 0x0F => accept (rz w 4 10) (.vnot d a p)
  | 0x10 => withCode t (fun t => accept true (.vshl d a b t p))
  | 0x11 => withCode t (fun t => accept true (.vshr d a b t p))
  | 0x12 => withCode t (fun t => accept true (.vsra d a b t p))
  | 0x13 => withCode t2 (fun t2 => withCode t (fun t => accept true (.vrcp d a rm t2 t p)))
  | 0x14 => withCode t2 (fun t2 => withCode t (fun t => accept true (.vrsq d a rm t2 t p)))
  | 0x15 => withCode t2 (fun t2 => withCode t (fun t => accept true (.vsqrt d a rm t2 t p)))
  | 0x16 => withCode t2 (fun t2 => withCode t (fun t => accept true (.vexp2 d a rm t2 t p)))
  | 0x17 => withCode t2 (fun t2 => withCode t (fun t => accept true (.vlog2 d a rm t2 t p)))
  | 0x18 => withCode (vcondOf (w / 2 ^ 18 % 16)) (fun cc => withCode (elemOf (w / 2 ^ 2 % 16)) (fun t =>
    accept (rz w 0 2) (.vcmp pd cc (fV w 12) (fV w 6) t)))
  | 0x19 => accept (rz w 4 4) (.vsel d a b p)
  | 0x1A => accept (rz w 4 10) (.vmov d a p)
  | 0x1B => withCode t (fun t => accept (rz w 19 1 && rz w 8 6) (.vbcst d sa t p))
  | 0x1C => withCode t (fun t => accept (rz w 25 1 && rz w 12 2 && rz w 0 4) (.vext (fS w 20) a ln t))
  | 0x1D => withCode t (fun t => accept (rz w 19 1 && rz w 12 2 && rz w 0 4) (.vins d sa ln t))
  | 0x1E => accept (rz w 4 4) (.vperm d a b p)
  | 0x1F => withCode (shufOf (w / 2 ^ 4 % 16)) (fun s => accept true (.vshuf d a b s p))
  | 0x20 => accept (rz w 12 2 && rz w 4 4) (.vrot d a ln p)
  | 0x21 => withCode t (fun t => accept (rz w 8 6) (.vrsum d a t p))
  | 0x22 => withCode t (fun t => accept (rz w 8 6) (.vrmax d a t p))
  | 0x23 => withCode t (fun t => accept (rz w 8 6) (.vrmin d a t p))
  | 0x24 => withCode t (fun t => accept (rz w 8 6) (.vramax d a t p))
  | 0x25 => accept (rz w 0 14) (.pand pd (fP w 18) (fP w 14))
  | 0x26 => accept (rz w 0 14) (.por pd (fP w 18) (fP w 14))
  | 0x27 => accept (rz w 0 14) (.pxor pd (fP w 18) (fP w 14))
  | 0x28 => accept (rz w 0 18) (.pnot pd (fP w 18))
  | 0x29 => accept (rz w 0 6) (.pset pd (fB 16 w 6))
  | 0x2A => accept (rz w 0 17) (.pcnt (fS w 21) (fP w 17))
  | 0x2B => withCode t2 (fun t2 => withCode t (fun t => accept true (.vcvt d a rm t2 t p)))
  | 0x2C => withCode t2 (fun t2 => withCode t (fun t => accept true (.vpksx d a rm t2 t p)))
  | 0x2D => withCode t2 (fun t2 => withCode t (fun t => accept true (.vupsx d a rm t2 t p)))
  | 0x2E => withCode t2 (fun t2 => withCode (qtyOf (w / 2 ^ 4 % 16)) (fun t => accept true (.vqnt d a rm t2 t p)))
  | 0x2F => withCode (qtyOf (w / 2 ^ 8 % 16)) (fun t2 => withCode t (fun t => accept true (.vdq d a rm t2 t p)))
  | 0x30 => withCode t2 (fun t2 => withCode t (fun t => accept true (.vqch d a rm t2 t p)))
  | 0x31 => withCode t2 (fun t2 => withCode (qtyOf (w / 2 ^ 4 % 16)) (fun t => accept (rz w 12 2) (.vqfit d a t2 t p)))
  | 0x32 => withCode t (fun t => accept true (.vbf2 d a b t p))
  | 0x33 => withCode t (fun t => accept true (.vbf4 d a b t p))
  | 0x34 => withCode t (fun t => accept true (.vcmul d a b t p))
  | 0x35 => withCode t (fun t => accept (rz w 8 6) (.vconj d a t p))
  | 0x36 => withCode t (fun t => accept (rz w 19 1) (.vtwid d sa (Fin.ofNat 64 (w / 2 ^ 8)) t p))
  | 0x37 => accept true (.xop d a b (Fin.ofNat 16 (w / 2 ^ 4)) p)
  | _ => .illegalOp

/-- An M slot word (03 Tables 3.9 and 3.10). -/
def decM (w : Nat) : Dec :=
  let d := fS w 20
  let v := fV w 20
  let base := fS w 15
  let ty := elemOf (w / 2 ^ 11 % 16)
  let mt := memTyOf (w / 2 ^ 11 % 16)
  let rp := fP w 7
  let off := fB 7 w 0
  let bs := fS w 1
  let bv := fV w 1
  let aop := aopOf (w / 2 ^ 7 % 16)
  let sc := w % 2 == 1
  match w / 2 ^ 26 % 64 with
  | 0x00 => if w = 0 then .ok .nop else .illegalField
  | 0x01 => withCode mt (fun t => accept (rz w 25 1) (.ld d base t rp off))
  | 0x02 => withCode mt (fun t => accept (rz w 25 1 && rz w 7 4) (.st d base t off))
  | 0x03 => withCode ty (fun t => accept true (.vld v base t rp off))
  | 0x04 => withCode ty (fun t => accept (rz w 6 1 && rz w 0 1) (.vlds v base t rp bs))
  | 0x05 => withCode ty (fun t => accept true (.vldb v base t rp off))
  | 0x06 => withCode ty (fun t => accept (rz w 0 1) (.vgath v base t rp bv))
  | 0x07 => withCode ty (fun t => accept (rz w 7 4) (.vst v base t off))
  | 0x08 => withCode ty (fun t => accept (rz w 7 4 && rz w 6 1 && rz w 0 1) (.vsts v base t bs))
  | 0x09 => withCode ty (fun t => accept (rz w 7 4 && rz w 0 1) (.vscat v base t bv))
  | 0x0A => withCode ty (fun t => withCode aop (fun o => accept (rz w 25 1 && rz w 6 1) (.atom d base t o bs sc)))
  | 0x0B => withCode ty (fun t => withCode aop (fun o => accept (rz w 20 6 && rz w 6 1) (.atomn base t o bs sc)))
  | 0x0C => withCode ty (fun t => withCode aop (fun o => accept true (.vatom v base t o bv sc)))
  | 0x0D => withCode ty (fun t => withCode aop (fun o => accept (rz w 20 6) (.vatomn base t o bv sc)))
  | 0x0E => accept (rz w 7 19 && rz w 0 5) (.drain (pathOf (w / 2 ^ 5)))
  | 0x10 => withCode (scopeOf (w / 2 ^ 7 % 8)) (fun s => withCode (fenceOf (w / 2 ^ 5 % 4)) (fun k =>
    accept (rz w 10 16 && rz w 0 5) (.fence s k)))
  | 0x11 => accept (rz w 0 10) (.sbar (fB 16 w 10))
  | 0x12 => withCode mt (fun t => withCode (scopeOf (w / 2 ^ 7 % 8)) (fun s =>
    accept (rz w 25 1 && rz w 10 1) (.ldacq d base t s off)))
  | 0x13 => withCode mt (fun t => withCode (scopeOf (w / 2 ^ 7 % 8)) (fun s =>
    accept (rz w 25 1 && rz w 10 1) (.strel d base t s off)))
  | _ => .illegalOp

/-- A loop counter field: 3 is reserved (03 R63). -/
def lcOf (n : Nat) : Option (Fin 3) :=
  match n with
  | 0 => some 0
  | 1 => some 1
  | 2 => some 2
  | _ => none

/-- A B slot word (03 Tables 3.11 to 3.13). -/
def decB (w : Nat) : Dec :=
  let d := fS w 21
  let a := fS w 16
  let b := fS w 11
  match w / 2 ^ 26 % 64 with
  | 0x00 => if w = 0 then .ok .nop else .illegalField
  | 0x01 => accept true (.br (fB 26 w 0))
  | 0x02 => withCode (bcondOf (w / 2 ^ 18 % 8)) (fun c => accept true (.brc d c (fB 18 w 0)))
  | 0x03 => withCode (brpModeOf (w / 2 ^ 20 % 4)) (fun m => accept true (.brp (fP w 22) m (fB 20 w 0)))
  | 0x04 => accept (rz w 20 1) (.bru (fP w 22) (w / 2 ^ 21 % 2 == 1) (fB 20 w 0))
  | 0x05 => accept (rz w 21 5 && rz w 0 16) (.jmpi a)
  | 0x06 => accept true (.call (fB 26 w 0))
  | 0x07 => accept (rz w 0 26) .ret
  | 0x08 => withCode (lcOf (w / 2 ^ 24 % 4)) (fun l => accept true (.loop l (fS w 19) (fB 4 w 15) (fB 15 w 0)))
  | 0x09 => withCode (lcOf (w / 2 ^ 24 % 4)) (fun l => accept true (.loopi l (fB 10 w 14) (fB 4 w 10) (fB 10 w 0)))
  | 0x0A => withCode (lcOf (w % 4)) (fun l => accept (rz w 2 24) (.lexit l))
  | 0x0B => accept (rz w 21 5 && rz w 0 16) (.bsel a)
  | 0x0C => withCode (phModeOf (w / 2 ^ 20 % 4)) (fun m => accept (rz w 0 20) (.phend (fP w 22) m))
  | 0x0D => accept (rz w 0 26) .halt
  | 0x0E => accept (rz w 11 15) (.trap (fB 11 w 0))
  | 0x0F => accept (rz w 0 16) (.waitarr d a)
  | 0x10 => accept (rz w 21 5 && rz w 8 3) (.array a b (fB 8 w 0))
  | 0x11 => accept (rz w 0 26) .arwait
  | 0x38 => accept (rz w 0 21) (.ftrecv d)
  | 0x39 => accept (rz w 21 5 && rz w 0 11) (.repair a b)
  | 0x3A => accept (rz w 21 5 && rz w 0 16) (.ctxsave a)
  | 0x3B => accept (rz w 21 5 && rz w 0 16) (.ctxload a)
  | _ => .illegalOp

/-- The clauses of an engine slot word (03 Table 3.14). -/
def decClause (w : Nat) : EClause :=
  ⟨w / 2 ^ 57 % 2 == 1, Fin.ofNat 256 (w / 2 ^ 49), Fin.ofNat 256 (w / 2 ^ 41), Fin.ofNat 256 (w / 2 ^ 33),
    fB 4 w 29⟩

/-- An X slot word (03 Table 3.15). -/
def decX (w : Nat) : Dec :=
  let c := decClause w
  let acc := fA w 26
  match w / 2 ^ 58 % 64 with
  | 0x00 => accept (rz w 0 29) (.engineNop .x c)
  | 0x01 => accept (rz w 0 24) (.mcfg (fS w 24) c)
  | 0x02 =>
    if w / 2 ^ 18 % 2 = 1 then
      accept (rz w 0 15) (.mldwSp (Fin.ofNat 32 (w / 2 ^ 24)) (Fin.ofNat 32 (w / 2 ^ 19)) (Fin.ofNat 8 (w / 2 ^ 15)) c)
    else accept (rz w 0 18) (.mldw (Fin.ofNat 32 (w / 2 ^ 24)) (Fin.ofNat 32 (w / 2 ^ 19)) c)
  | 0x03 =>
    if w / 2 ^ 16 % 2 = 1 then accept (rz w 0 16) (.mrunSpan acc (Fin.ofNat 512 (w / 2 ^ 17)) c)
    else accept (rz w 0 16) (.mrun acc (Fin.ofNat 512 (w / 2 ^ 17)) c)
  | 0x04 => accept (rz w 0 26) (.mzero acc c)
  | 0x05 => accept (rz w 0 12) (.mrd acc (Fin.ofNat 32 (w / 2 ^ 21)) (fV w 15) (Fin.ofNat 8 (w / 2 ^ 12)) c)
  | 0x06 => accept (rz w 0 26) (.mwait acc c)
  | 0x07 => accept (rz w 0 23) (.madd acc (fA w 23) c)
  | _ => .illegalOp

/-- An E slot word (03 Table 3.15). -/
def decE (w : Nat) : Dec :=
  let c := decClause w
  let q : Fin 16 := Fin.ofNat 16 w
  match w / 2 ^ 58 % 64 with
  | 0x00 => accept (rz w 0 29) (.engineNop .e c)
  | 0x01 => accept (rz w 4 10) (.scopy (fS w 24) (fS w 19) (fS w 14) q c)
  | 0x02 => accept (rz w 4 14) (.sfill (fS w 24) (fS w 19) (w / 2 ^ 18 % 2 == 1) q c)
  | 0x03 => accept (rz w 4 11) (.ssend (Fin.ofNat 16 (w / 2 ^ 25)) (fS w 20) (fS w 15) q c)
  | 0x04 => accept (rz w 4 16) (.sfree (Fin.ofNat 16 (w / 2 ^ 25)) (fS w 20) q c)
  | 0x05 => accept (rz w 4 15) (.swake (fS w 24) (fS w 19) q c)
  | 0x06 => accept (rz w 4 25) (.sclose q c)
  | 0x07 => accept (rz w 4 10) (.spost (fS w 24) (fS w 19) (fS w 14) q c)
  | 0x08 => accept (rz w 4 10) (.sget (fS w 24) (fS w 19) (fS w 14) q c)
  | _ => .illegalOp

/-- A K slot word (03 Table 3.15). -/
def decK (w : Nat) : Dec :=
  let c := decClause w
  match w / 2 ^ 58 % 64 with
  | 0x00 => accept (rz w 0 29) (.engineNop .k c)
  | 0x01 => accept (rz w 0 24) (.mscl (fS w 24) c)
  | _ => .illegalOp

/-- A consumer field of a node word (03 Table 3.17). -/
def decDest (w lo : Nat) : NDest :=
  ⟨Fin.ofNat 8 (w / 2 ^ (lo + 8)), Fin.ofNat 8 (w / 2 ^ (lo + 5)), Fin.ofNat 8 (w / 2 ^ (lo + 2)),
    Fin.ofNat 4 (w / 2 ^ lo)⟩

/-- The fields of a plain node word. -/
def decNode (w : Nat) : Node :=
  ⟨Fin.ofNat 8 (w / 2 ^ 55), Fin.ofNat 8 (w / 2 ^ 52), Fin.ofNat 8 (w / 2 ^ 49), Fin.ofNat 16 (w / 2 ^ 45),
    decDest w 34, decDest w 23, fB 16 w 7, rmOf (w / 2 ^ 5)⟩

/-- The fields of a chain-class node word; CATOM keeps its operation in [33:30] and has one consumer. -/
def decChain (w : Nat) (atom : Bool) : ChainNode :=
  ⟨Fin.ofNat 8 (w / 2 ^ 55), Fin.ofNat 8 (w / 2 ^ 52), Fin.ofNat 8 (w / 2 ^ 49), Fin.ofNat 16 (w / 2 ^ 45),
    decDest w 34, if atom then ⟨0, 0, 0, 0⟩ else decDest w 23,
    if atom then Fin.ofNat 16 (w / 2 ^ 30) else 0,
    Fin.ofNat 64 (w / 2 ^ 17), Fin.ofNat 128 (w / 2 ^ 10), Fin.ofNat 128 (w / 2 ^ 3)⟩

/-- A node word of a block (03 Tables 3.17 and 3.18). CONST (0x03) and ITER (0x04) have no constructor of their
own: they fire inside ITERATION_ADMIT, and the block's check reads them in Machine/Array.lean. -/
def decBlockNode (w : Nat) : Dec :=
  let n := decNode w
  let r := rz w 0 5
  match w / 2 ^ 58 % 64 with
  | 0x01 => accept r (.steer n)
  | 0x02 => accept r (.merge n)
  | 0x05 => accept (rz w 0 3) (.cld (decChain w false))
  | 0x06 => accept (rz w 0 3) (.cst (decChain w false))
  | 0x07 => accept (rz w 0 3 && rz w 23 7) (.catom (decChain w true))
  | 0x08 => accept r (.tsend n)
  | 0x09 => accept r (.trecv n)
  | 0x20 => accept r (.dadd n)
  | 0x21 => accept r (.dsub n)
  | 0x22 => accept r (.dmul n)
  | 0x23 => accept r (.dfma n)
  | 0x24 => accept r (.dmin n)
  | 0x25 => accept r (.dmax n)
  | 0x26 => accept r (.dand n)
  | 0x27 => accept r (.dor n)
  | 0x28 => accept r (.dxor n)
  | 0x29 => accept r (.dshl n)
  | 0x2A => accept r (.dshr n)
  | 0x2B => accept r (.dsra n)
  | 0x2C => accept r (.dcmp n)
  | 0x2D => accept r (.dsel n)
  | 0x2E => accept r (.dcvt n)
  | 0x2F => accept r (.dmov n)
  | 0x30 => accept r (.daddk n)
  | 0x31 => accept r (.dshlk n)
  | 0x32 => accept r (.dshrk n)
  | 0x33 => accept r (.dandk n)
  | _ => .illegalOp

/-- A bundle header (03 R52 to R54): the legal forms, or the fault it raises. -/
inductive Header where
  | bundle (mask : Nat) (stamped : Bool) (words : Nat)
  | folded (n : BitVec 16)
  | illegalKind
  | badField
  | badLen
deriving DecidableEq, Repr

/-- One bits among bits [k + n - 1 : k] of a mask. -/
def maskCount (m k : Nat) : Nat → Nat
  | 0 => 0
  | n + 1 => m / 2 ^ k % 2 + maskCount m (k + 1) n

/-- Words of slot words a mask calls for (03 R53): the X, E and K slots (mask bits 3, 2, 1) hold two each. -/
def maskWords (m : Nat) : Nat := maskCount m 0 14 + maskCount m 1 3

/-- Decoding of a header word. The mask is header bits [27:14]; mask bit 13 is S0, mask bit 0 is B. -/
def decHeader (w : Nat) : Header :=
  let kind := w / 2 ^ 28 % 16
  if kind = 0 ∨ kind = 2 then
    let m := w / 2 ^ 14 % 2 ^ 14
    let wlen := w / 2 ^ 9 % 32
    if w % 2 ^ 9 ≠ 0 then .badField
    else if wlen ≠ maskWords m then .badLen
    else .bundle m (kind == 2) wlen
  else if kind = 1 then
    if w / 2 ^ 16 % 2 ^ 12 ≠ 0 ∨ w % 2 ^ 16 = 0 then .badField else .folded (BitVec.ofNat 16 w)
  else .illegalKind

/-- The decoder of slot number `n` (03 Table 3.2). -/
def decSlot (n w : Nat) : Dec :=
  if n < 2 then decS w
  else if n < 6 then decV w
  else if n < 10 then decM w
  else if n = 10 then decX w
  else if n = 11 then decE w
  else if n = 12 then decK w
  else decB w

/-- The first decoder of a list that accepts a word. -/
def firstOk : List Dec → Option Instr
  | [] => none
  | d :: r => match d.toOption with
    | some i => some i
    | none => firstOk r

/-- The instruction read from a row's word as spec/opcode_table.json numbers its bits. The slot classes share
opcode numbers and the table's word does not say its slot, so the word is given to the decoders of S, V, M and B
(32 bits) or X, E, K and the block nodes (64 bits) in this order, and the first that accepts answers (log 2). -/
def decodeTableWord (nbits w : Nat) : Option Instr :=
  let w := w % 2 ^ nbits
  if nbits ≤ 32 then firstOk [decS w, decV w, decM w, decB w]
  else if nbits ≤ 64 then firstOk [decX w, decE w, decK w, decBlockNode w]
  else none

/-! ### The encoder -/

/-- A word packed from fields: values at bit positions. -/
def pack : List (Nat × Nat) → Nat
  | [] => 0
  | (x, lo) :: r => x * 2 ^ lo + pack r

/-- An engine word: opcode, clause, operand fields (03 Table 3.14). -/
def engWord (op : Nat) (c : EClause) (ops : List (Nat × Nat)) : Nat :=
  pack ((op, 58) :: (if c.wv then 1 else 0, 57) :: (c.wsem.val, 49) :: (c.wthr.val, 41) :: (c.gsem.val, 33) ::
    (c.ginc.toNat, 29) :: ops)

/-- A consumer field. -/
def encDest (d : NDest) : Nat := pack [(d.y.val, 8), (d.x.val, 5), (d.stage.val, 2), (d.port.val, 0)]

/-- A plain node word with opcode `op`. -/
def encNode (op : Nat) (n : Node) : Nat :=
  pack [(op, 58), (n.y.val, 55), (n.x.val, 52), (n.stage.val, 49), (n.t.val, 45), (encDest n.d0, 34),
    (encDest n.d1, 23), (n.imm.toNat, 7), (rmCode n.rm, 5)]

/-- A chain-class node word with opcode `op`; CATOM (7) keeps its operation where the others have a second
consumer. -/
def encChain (op : Nat) (n : ChainNode) : Nat :=
  pack [(op, 58), (n.y.val, 55), (n.x.val, 52), (n.stage.val, 49), (n.t.val, 45), (encDest n.d0, 34),
    if op = 7 then (n.aop.val, 30) else (encDest n.d1, 23), (n.s.val, 17), (n.pred.val, 10), (n.succ.val, 3)]

/-- Words of the S slots. -/
def encodeS : Instr → Nat
  | .add d a b w => pack [(0x01, 26), (d.val, 21), (a.val, 16), (b.val, 11), (widthCode w, 4)]
  | .sub d a b w => pack [(0x02, 26), (d.val, 21), (a.val, 16), (b.val, 11), (widthCode w, 4)]
  | .mul d a b w => pack [(0x03, 26), (d.val, 21), (a.val, 16), (b.val, 11), (widthCode w, 4)]
  | .mulh d a b w => pack [(0x04, 26), (d.val, 21), (a.val, 16), (b.val, 11), (widthCode w, 4)]
  | .mulhu d a b w => pack [(0x05, 26), (d.val, 21), (a.val, 16), (b.val, 11), (widthCode w, 4)]
  | .div d a b w => pack [(0x06, 26), (d.val, 21), (a.val, 16), (b.val, 11), (widthCode w, 4)]
  | .divu d a b w => pack [(0x07, 26), (d.val, 21), (a.val, 16), (b.val, 11), (widthCode w, 4)]
  | .rem d a b w => pack [(0x08, 26), (d.val, 21), (a.val, 16), (b.val, 11), (widthCode w, 4)]
  | .remu d a b w => pack [(0x09, 26), (d.val, 21), (a.val, 16), (b.val, 11), (widthCode w, 4)]
  | .and d a b w => pack [(0x0A, 26), (d.val, 21), (a.val, 16), (b.val, 11), (widthCode w, 4)]
  | .or d a b w => pack [(0x0B, 26), (d.val, 21), (a.val, 16), (b.val, 11), (widthCode w, 4)]
  | .xor d a b w => pack [(0x0C, 26), (d.val, 21), (a.val, 16), (b.val, 11), (widthCode w, 4)]
  | .shl d a b w => pack [(0x0D, 26), (d.val, 21), (a.val, 16), (b.val, 11), (widthCode w, 4)]
  | .shr d a b w => pack [(0x0E, 26), (d.val, 21), (a.val, 16), (b.val, 11), (widthCode w, 4)]
  | .sra d a b w => pack [(0x0F, 26), (d.val, 21), (a.val, 16), (b.val, 11), (widthCode w, 4)]
  | .min d a b w => pack [(0x10, 26), (d.val, 21), (a.val, 16), (b.val, 11), (widthCode w, 4)]
  | .max d a b w => pack [(0x11, 26), (d.val, 21), (a.val, 16), (b.val, 11), (widthCode w, 4)]
  | .minu d a b w => pack [(0x12, 26), (d.val, 21), (a.val, 16), (b.val, 11), (widthCode w, 4)]
  | .maxu d a b w => pack [(0x13, 26), (d.val, 21), (a.val, 16), (b.val, 11), (widthCode w, 4)]
  | .slt d a b w => pack [(0x14, 26), (d.val, 21), (a.val, 16), (b.val, 11), (widthCode w, 4)]
  | .sltu d a b w => pack [(0x15, 26), (d.val, 21), (a.val, 16), (b.val, 11), (widthCode w, 4)]
  | .seq d a b w => pack [(0x16, 26), (d.val, 21), (a.val, 16), (b.val, 11), (widthCode w, 4)]
  | .sel d a b c => pack [(0x17, 26), (d.val, 21), (a.val, 16), (b.val, 11), (c.val, 6), (3, 4)]
  | .mov d a => pack [(0x18, 26), (d.val, 21), (a.val, 16), (3, 4)]
  | .clz d a w => pack [(0x19, 26), (d.val, 21), (a.val, 16), (widthCode w, 4)]
  | .ctz d a w => pack [(0x1A, 26), (d.val, 21), (a.val, 16), (widthCode w, 4)]
  | .popc d a w => pack [(0x1B, 26), (d.val, 21), (a.val, 16), (widthCode w, 4)]
  | .bfx d a p l => pack [(0x1C, 26), (d.val, 21), (a.val, 16), (p.val, 10), (l.val, 4)]
  | .bfi d a p l => pack [(0x1D, 26), (d.val, 21), (a.val, 16), (p.val, 10), (l.val, 4)]
  | .addi d a w i => pack [(0x20, 26), (d.val, 21), (a.val, 16), (widthCode w, 14), (i.toNat, 0)]
  | .andi d a w i => pack [(0x21, 26), (d.val, 21), (a.val, 16), (widthCode w, 14), (i.toNat, 0)]
  | .ori d a w i => pack [(0x22, 26), (d.val, 21), (a.val, 16), (widthCode w, 14), (i.toNat, 0)]
  | .xori d a w i => pack [(0x23, 26), (d.val, 21), (a.val, 16), (widthCode w, 14), (i.toNat, 0)]
  | .shli d a w n => pack [(0x24, 26), (d.val, 21), (a.val, 16), (widthCode w, 14), (n.val, 0)]
  | .shri d a w n => pack [(0x25, 26), (d.val, 21), (a.val, 16), (widthCode w, 14), (n.val, 0)]
  | .srai d a w n => pack [(0x26, 26), (d.val, 21), (a.val, 16), (widthCode w, 14), (n.val, 0)]
  | .li d i => pack [(0x28, 26), (d.val, 21), (i.toNat, 0)]
  | .lui d i => pack [(0x29, 26), (d.val, 21), (i.toNat, 0)]
  | .csrr d c => pack [(0x2A, 26), (d.val, 21), (c.toNat, 4)]
  | .csrw d a c => pack [(0x2B, 26), (d.val, 21), (a.val, 16), (c.toNat, 4)]
  | .rdgts d => pack [(0x2C, 26), (d.val, 21), (3, 4)]
  | .extq d a => pack [(0x30, 26), (d.val, 21), (a.val, 16)]
  | .mapreq d a b c => pack [(0x31, 26), (d.val, 21), (a.val, 16), (b.val, 11), (c.val, 6)]
  | .semsigImm n i => pack [(0x34, 26), (n.val, 8), (i.toNat, 0)]
  | .semsigReg a n => pack [(0x34, 26), (a.val, 16), (n.val, 8)]
  | .semwait d e n t => pack [(0x35, 26), (d.val, 21), ((if e then 1 else 0), 16), (n.val, 8), (t.val, 0)]
  | .semsetImm n i => pack [(0x36, 26), (n.val, 8), (i.toNat, 0)]
  | .semsetReg a n => pack [(0x36, 26), (a.val, 16), (n.val, 8)]
  | .semrd d n => pack [(0x37, 26), (d.val, 21), (n.val, 8)]
  | .barinit sc n c => pack [(0x38, 26), (scopeCode sc, 16), (n.val, 8), (c.val, 0)]
  | .bara d sc n => pack [(0x39, 26), (d.val, 21), (scopeCode sc, 16), (n.val, 8)]
  | .barw n => pack [(0x3A, 26), (n.val, 8)]
  | .xld d a => pack [(0x3B, 26), (d.val, 21), (a.val, 16)]
  | .xdrop d n => pack [(0x3C, 26), (d.val, 21), (n.val, 0)]
  | .xqry d => pack [(0x3D, 26), (d.val, 21)]
  | .qpost d a b => pack [(0x3E, 26), (d.val, 21), (a.val, 16), (b.val, 11)]
  | .sigadd d a b => pack [(0x3F, 26), (d.val, 21), (a.val, 16), (b.val, 11)]
  | _ => 0

/-- Words of the V slots. -/
def encodeV : Instr → Nat
  | .vadd d a b t p => pack [(0x01, 26), (d.val, 20), (a.val, 14), (b.val, 8), (elemCode t, 4), (p.val, 0)]
  | .vsub d a b t p => pack [(0x02, 26), (d.val, 20), (a.val, 14), (b.val, 8), (elemCode t, 4), (p.val, 0)]
  | .vmul d a b t p => pack [(0x03, 26), (d.val, 20), (a.val, 14), (b.val, 8), (elemCode t, 4), (p.val, 0)]
  | .vmulh d a b t p => pack [(0x04, 26), (d.val, 20), (a.val, 14), (b.val, 8), (elemCode t, 4), (p.val, 0)]
  | .vfma d a b t p => pack [(0x05, 26), (d.val, 20), (a.val, 14), (b.val, 8), (elemCode t, 4), (p.val, 0)]
  | .vfms d a b t p => pack [(0x06, 26), (d.val, 20), (a.val, 14), (b.val, 8), (elemCode t, 4), (p.val, 0)]
  | .vfnma d a b t p => pack [(0x07, 26), (d.val, 20), (a.val, 14), (b.val, 8), (elemCode t, 4), (p.val, 0)]
  | .vmin d a b t p => pack [(0x08, 26), (d.val, 20), (a.val, 14), (b.val, 8), (elemCode t, 4), (p.val, 0)]
  | .vmax d a b t p => pack [(0x09, 26), (d.val, 20), (a.val, 14), (b.val, 8), (elemCode t, 4), (p.val, 0)]
  | .vabs d a t p => pack [(0x0A, 26), (d.val, 20), (a.val, 14), (elemCode t, 4), (p.val, 0)]
  | .vneg d a t p => pack [(0x0B, 26), (d.val, 20), (a.val, 14), (elemCode t, 4), (p.val, 0)]
  | .vand d a b p => pack [(0x0C, 26), (d.val, 20), (a.val, 14), (b.val, 8), (p.val, 0)]
  | .vor d a b p => pack [(0x0D, 26), (d.val, 20), (a.val, 14), (b.val, 8), (p.val, 0)]
  | .vxor d a b p => pack [(0x0E, 26), (d.val, 20), (a.val, 14), (b.val, 8), (p.val, 0)]
  | .vnot d a p => pack [(0x0F, 26), (d.val, 20), (a.val, 14), (p.val, 0)]
  | .vshl d a b t p => pack [(0x10, 26), (d.val, 20), (a.val, 14), (b.val, 8), (elemCode t, 4), (p.val, 0)]
  | .vshr d a b t p => pack [(0x11, 26), (d.val, 20), (a.val, 14), (b.val, 8), (elemCode t, 4), (p.val, 0)]
  | .vsra d a b t p => pack [(0x12, 26), (d.val, 20), (a.val, 14), (b.val, 8), (elemCode t, 4), (p.val, 0)]
  | .vrcp d a rm t2 t p => pack [(0x13, 26), (d.val, 20), (a.val, 14), (rmCode rm, 12), (elemCode t2, 8), (elemCode t, 4), (p.val, 0)]
  | .vrsq d a rm t2 t p => pack [(0x14, 26), (d.val, 20), (a.val, 14), (rmCode rm, 12), (elemCode t2, 8), (elemCode t, 4), (p.val, 0)]
  | .vsqrt d a rm t2 t p => pack [(0x15, 26), (d.val, 20), (a.val, 14), (rmCode rm, 12), (elemCode t2, 8), (elemCode t, 4), (p.val, 0)]
  | .vexp2 d a rm t2 t p => pack [(0x16, 26), (d.val, 20), (a.val, 14), (rmCode rm, 12), (elemCode t2, 8), (elemCode t, 4), (p.val, 0)]
  | .vlog2 d a rm t2 t p => pack [(0x17, 26), (d.val, 20), (a.val, 14), (rmCode rm, 12), (elemCode t2, 8), (elemCode t, 4), (p.val, 0)]
  | .vcmp pd cc a b t => pack [(0x18, 26), (pd.val, 22), (vcondCode cc, 18), (a.val, 12), (b.val, 6), (elemCode t, 2)]
  | .vsel d a b p => pack [(0x19, 26), (d.val, 20), (a.val, 14), (b.val, 8), (p.val, 0)]
  | .vmov d a p => pack [(0x1A, 26), (d.val, 20), (a.val, 14), (p.val, 0)]
  | .vbcst d a t p => pack [(0x1B, 26), (d.val, 20), (a.val, 14), (elemCode t, 4), (p.val, 0)]
  | .vext d a l t => pack [(0x1C, 26), (d.val, 20), (a.val, 14), (l.val, 8), (elemCode t, 4)]
  | .vins d a l t => pack [(0x1D, 26), (d.val, 20), (a.val, 14), (l.val, 8), (elemCode t, 4)]
  | .vperm d a b p => pack [(0x1E, 26), (d.val, 20), (a.val, 14), (b.val, 8), (p.val, 0)]
  | .vshuf d a b s p => pack [(0x1F, 26), (d.val, 20), (a.val, 14), (b.val, 8), (shufCode s, 4), (p.val, 0)]
  | .vrot d a n p => pack [(0x20, 26), (d.val, 20), (a.val, 14), (n.val, 8), (p.val, 0)]
  | .vrsum d a t p => pack [(0x21, 26), (d.val, 20), (a.val, 14), (elemCode t, 4), (p.val, 0)]
  | .vrmax d a t p => pack [(0x22, 26), (d.val, 20), (a.val, 14), (elemCode t, 4), (p.val, 0)]
  | .vrmin d a t p => pack [(0x23, 26), (d.val, 20), (a.val, 14), (elemCode t, 4), (p.val, 0)]
  | .vramax d a t p => pack [(0x24, 26), (d.val, 20), (a.val, 14), (elemCode t, 4), (p.val, 0)]
  | .pand q a b => pack [(0x25, 26), (q.val, 22), (a.val, 18), (b.val, 14)]
  | .por q a b => pack [(0x26, 26), (q.val, 22), (a.val, 18), (b.val, 14)]
  | .pxor q a b => pack [(0x27, 26), (q.val, 22), (a.val, 18), (b.val, 14)]
  | .pnot q a => pack [(0x28, 26), (q.val, 22), (a.val, 18)]
  | .pset q i => pack [(0x29, 26), (q.val, 22), (i.toNat, 6)]
  | .pcnt d a => pack [(0x2A, 26), (d.val, 21), (a.val, 17)]
  | .vcvt d a rm t2 t p => pack [(0x2B, 26), (d.val, 20), (a.val, 14), (rmCode rm, 12), (elemCode t2, 8), (elemCode t, 4), (p.val, 0)]
  | .vpksx d a rm t2 t p => pack [(0x2C, 26), (d.val, 20), (a.val, 14), (rmCode rm, 12), (elemCode t2, 8), (elemCode t, 4), (p.val, 0)]
  | .vupsx d a rm t2 t p => pack [(0x2D, 26), (d.val, 20), (a.val, 14), (rmCode rm, 12), (elemCode t2, 8), (elemCode t, 4), (p.val, 0)]
  | .vqnt d a rm t2 t p => pack [(0x2E, 26), (d.val, 20), (a.val, 14), (rmCode rm, 12), (elemCode t2, 8), (qtyCode t, 4), (p.val, 0)]
  | .vdq d a rm t2 t p => pack [(0x2F, 26), (d.val, 20), (a.val, 14), (rmCode rm, 12), (qtyCode t2, 8), (elemCode t, 4), (p.val, 0)]
  | .vqch d a rm t2 t p => pack [(0x30, 26), (d.val, 20), (a.val, 14), (rmCode rm, 12), (elemCode t2, 8), (elemCode t, 4), (p.val, 0)]
  | .vqfit d a t2 t p => pack [(0x31, 26), (d.val, 20), (a.val, 14), (elemCode t2, 8), (qtyCode t, 4), (p.val, 0)]
  | .vbf2 d a b t p => pack [(0x32, 26), (d.val, 20), (a.val, 14), (b.val, 8), (elemCode t, 4), (p.val, 0)]
  | .vbf4 d a b t p => pack [(0x33, 26), (d.val, 20), (a.val, 14), (b.val, 8), (elemCode t, 4), (p.val, 0)]
  | .vcmul d a b t p => pack [(0x34, 26), (d.val, 20), (a.val, 14), (b.val, 8), (elemCode t, 4), (p.val, 0)]
  | .vconj d a t p => pack [(0x35, 26), (d.val, 20), (a.val, 14), (elemCode t, 4), (p.val, 0)]
  | .vtwid d a n t p => pack [(0x36, 26), (d.val, 20), (a.val, 14), (n.val, 8), (elemCode t, 4), (p.val, 0)]
  | .xop d a b n p => pack [(0x37, 26), (d.val, 20), (a.val, 14), (b.val, 8), (n.val, 4), (p.val, 0)]
  | _ => 0

/-- Words of the M slots. -/
def encodeM : Instr → Nat
  | .ld d base t rp off => pack [(0x01, 26), (d.val, 20), (base.val, 15), (memTyCode t, 11), (rp.val, 7), (off.toNat, 0)]
  | .st d base t off => pack [(0x02, 26), (d.val, 20), (base.val, 15), (memTyCode t, 11), (off.toNat, 0)]
  | .vld d base t rp off => pack [(0x03, 26), (d.val, 20), (base.val, 15), (elemCode t, 11), (rp.val, 7), (off.toNat, 0)]
  | .vlds d base t rp b => pack [(0x04, 26), (d.val, 20), (base.val, 15), (elemCode t, 11), (rp.val, 7), (b.val, 1)]
  | .vldb d base t rp off => pack [(0x05, 26), (d.val, 20), (base.val, 15), (elemCode t, 11), (rp.val, 7), (off.toNat, 0)]
  | .vgath d base t rp b => pack [(0x06, 26), (d.val, 20), (base.val, 15), (elemCode t, 11), (rp.val, 7), (b.val, 1)]
  | .vst d base t off => pack [(0x07, 26), (d.val, 20), (base.val, 15), (elemCode t, 11), (off.toNat, 0)]
  | .vsts d base t b => pack [(0x08, 26), (d.val, 20), (base.val, 15), (elemCode t, 11), (b.val, 1)]
  | .vscat d base t b => pack [(0x09, 26), (d.val, 20), (base.val, 15), (elemCode t, 11), (b.val, 1)]
  | .atom d base t o b sc => pack [(0x0A, 26), (d.val, 20), (base.val, 15), (elemCode t, 11), (aopCode o, 7), (b.val, 1), ((if sc then 1 else 0), 0)]
  | .atomn base t o b sc => pack [(0x0B, 26), (base.val, 15), (elemCode t, 11), (aopCode o, 7), (b.val, 1), ((if sc then 1 else 0), 0)]
  | .vatom d base t o b sc => pack [(0x0C, 26), (d.val, 20), (base.val, 15), (elemCode t, 11), (aopCode o, 7), (b.val, 1), ((if sc then 1 else 0), 0)]
  | .vatomn base t o b sc => pack [(0x0D, 26), (base.val, 15), (elemCode t, 11), (aopCode o, 7), (b.val, 1), ((if sc then 1 else 0), 0)]
  | .drain k => pack [(0x0E, 26), (pathCode k, 5)]
  | .fence s k => pack [(0x10, 26), (scopeCode s, 7), (fenceCode k, 5)]
  | .sbar m => pack [(0x11, 26), (m.toNat, 10)]
  | .ldacq d base t s off => pack [(0x12, 26), (d.val, 20), (base.val, 15), (memTyCode t, 11), (scopeCode s, 7), (off.toNat, 0)]
  | .strel d base t s off => pack [(0x13, 26), (d.val, 20), (base.val, 15), (memTyCode t, 11), (scopeCode s, 7), (off.toNat, 0)]
  | _ => 0

/-- Words of the B slot. -/
def encodeB : Instr → Nat
  | .br o => pack [(0x01, 26), (o.toNat, 0)]
  | .brc a c o => pack [(0x02, 26), (a.val, 21), (bcondCode c, 18), (o.toNat, 0)]
  | .brp p m o => pack [(0x03, 26), (p.val, 22), (brpModeCode m, 20), (o.toNat, 0)]
  | .bru p s o => pack [(0x04, 26), (p.val, 22), ((if s then 1 else 0), 21), (o.toNat, 0)]
  | .jmpi a => pack [(0x05, 26), (a.val, 16)]
  | .call o => pack [(0x06, 26), (o.toNat, 0)]
  | .ret => pack [(0x07, 26)]
  | .loop l a s e => pack [(0x08, 26), (l.val, 24), (a.val, 19), (s.toNat, 15), (e.toNat, 0)]
  | .loopi l n s e => pack [(0x09, 26), (l.val, 24), (n.toNat, 14), (s.toNat, 10), (e.toNat, 0)]
  | .lexit l => pack [(0x0A, 26), (l.val, 0)]
  | .bsel a => pack [(0x0B, 26), (a.val, 16)]
  | .phend p m => pack [(0x0C, 26), (p.val, 22), (phModeCode m, 20)]
  | .halt => pack [(0x0D, 26)]
  | .trap c => pack [(0x0E, 26), (c.toNat, 0)]
  | .waitarr d a => pack [(0x0F, 26), (d.val, 21), (a.val, 16)]
  | .array a b c => pack [(0x10, 26), (a.val, 16), (b.val, 11), (c.toNat, 0)]
  | .arwait => pack [(0x11, 26)]
  | .ftrecv d => pack [(0x38, 26), (d.val, 21)]
  | .repair a b => pack [(0x39, 26), (a.val, 16), (b.val, 11)]
  | .ctxsave a => pack [(0x3A, 26), (a.val, 16)]
  | .ctxload a => pack [(0x3B, 26), (a.val, 16)]
  | _ => 0

/-- Words of the X, E and K slots. -/
def encodeEng : Instr → Nat
  | .engineNop _ c => engWord 0 c []
  | .mcfg a c => engWord 0x01 c [(a.val, 24)]
  | .mldw k n c => engWord 0x02 c [(k.val, 24), (n.val, 19)]
  | .mldwSp k n s c => engWord 0x02 c [(k.val, 24), (n.val, 19), (1, 18), (s.val, 15)]
  | .mrun a r c => engWord 0x03 c [(a.val, 26), (r.val, 17)]
  | .mrunSpan a r c => engWord 0x03 c [(a.val, 26), (r.val, 17), (1, 16)]
  | .mzero a c => engWord 0x04 c [(a.val, 26)]
  | .mrd a r v n c => engWord 0x05 c [(a.val, 26), (r.val, 21), (v.val, 15), (n.val, 12)]
  | .mwait a c => engWord 0x06 c [(a.val, 26)]
  | .madd d a c => engWord 0x07 c [(d.val, 26), (a.val, 23)]
  | .mscl a c => engWord 0x01 c [(a.val, 24)]
  | .scopy d a l q c => engWord 0x01 c [(d.val, 24), (a.val, 19), (l.val, 14), (q.val, 0)]
  | .sfill a l f q c => engWord 0x02 c [(a.val, 24), (l.val, 19), ((if f then 1 else 0), 18), (q.val, 0)]
  | .ssend o a l q c => engWord 0x03 c [(o.val, 25), (a.val, 20), (l.val, 15), (q.val, 0)]
  | .sfree i a q c => engWord 0x04 c [(i.val, 25), (a.val, 20), (q.val, 0)]
  | .swake a v q c => engWord 0x05 c [(a.val, 24), (v.val, 19), (q.val, 0)]
  | .sclose q c => engWord 0x06 c [(q.val, 0)]
  | .spost d a l q c => engWord 0x07 c [(d.val, 24), (a.val, 19), (l.val, 14), (q.val, 0)]
  | .sget d a l q c => engWord 0x08 c [(d.val, 24), (a.val, 19), (l.val, 14), (q.val, 0)]
  | _ => 0

/-- Words of the block nodes. -/
def encodeNode : Instr → Nat
  | .steer n => encNode 0x01 n
  | .merge n => encNode 0x02 n
  | .cld n => encChain 0x05 n
  | .cst n => encChain 0x06 n
  | .catom n => encChain 0x07 n
  | .tsend n => encNode 0x08 n
  | .trecv n => encNode 0x09 n
  | .dadd n => encNode 0x20 n
  | .dsub n => encNode 0x21 n
  | .dmul n => encNode 0x22 n
  | .dfma n => encNode 0x23 n
  | .dmin n => encNode 0x24 n
  | .dmax n => encNode 0x25 n
  | .dand n => encNode 0x26 n
  | .dor n => encNode 0x27 n
  | .dxor n => encNode 0x28 n
  | .dshl n => encNode 0x29 n
  | .dshr n => encNode 0x2A n
  | .dsra n => encNode 0x2B n
  | .dcmp n => encNode 0x2C n
  | .dsel n => encNode 0x2D n
  | .dcvt n => encNode 0x2E n
  | .dmov n => encNode 0x2F n
  | .daddk n => encNode 0x30 n
  | .dshlk n => encNode 0x31 n
  | .dshrk n => encNode 0x32 n
  | .dandk n => encNode 0x33 n
  | _ => 0

/-- Which decoder reads an instruction's word: 0 S, 1 V, 2 M, 3 B, 4 X, 5 E, 6 K, 7 block node; none for an
event. -/
def slotClass : Instr → Option Nat
  | .nop => some 0
  | .add .. => some 0
  | .sub .. => some 0
  | .mul .. => some 0
  | .mulh .. => some 0
  | .mulhu .. => some 0
  | .div .. => some 0
  | .divu .. => some 0
  | .rem .. => some 0
  | .remu .. => some 0
  | .and .. => some 0
  | .or .. => some 0
  | .xor .. => some 0
  | .shl .. => some 0
  | .shr .. => some 0
  | .sra .. => some 0
  | .min .. => some 0
  | .max .. => some 0
  | .minu .. => some 0
  | .maxu .. => some 0
  | .slt .. => some 0
  | .sltu .. => some 0
  | .seq .. => some 0
  | .sel .. => some 0
  | .mov .. => some 0
  | .clz .. => some 0
  | .ctz .. => some 0
  | .popc .. => some 0
  | .bfx .. => some 0
  | .bfi .. => some 0
  | .addi .. => some 0
  | .andi .. => some 0
  | .ori .. => some 0
  | .xori .. => some 0
  | .shli .. => some 0
  | .shri .. => some 0
  | .srai .. => some 0
  | .li .. => some 0
  | .lui .. => some 0
  | .csrr .. => some 0
  | .csrw .. => some 0
  | .rdgts .. => some 0
  | .extq .. => some 0
  | .mapreq .. => some 0
  | .semsigImm .. => some 0
  | .semsigReg .. => some 0
  | .semwait .. => some 0
  | .semsetImm .. => some 0
  | .semsetReg .. => some 0
  | .semrd .. => some 0
  | .barinit .. => some 0
  | .bara .. => some 0
  | .barw .. => some 0
  | .xld .. => some 0
  | .xdrop .. => some 0
  | .xqry .. => some 0
  | .qpost .. => some 0
  | .sigadd .. => some 0
  | .vadd .. => some 1
  | .vsub .. => some 1
  | .vmul .. => some 1
  | .vmulh .. => some 1
  | .vfma .. => some 1
  | .vfms .. => some 1
  | .vfnma .. => some 1
  | .vmin .. => some 1
  | .vmax .. => some 1
  | .vabs .. => some 1
  | .vneg .. => some 1
  | .vand .. => some 1
  | .vor .. => some 1
  | .vxor .. => some 1
  | .vnot .. => some 1
  | .vshl .. => some 1
  | .vshr .. => some 1
  | .vsra .. => some 1
  | .vrcp .. => some 1
  | .vrsq .. => some 1
  | .vsqrt .. => some 1
  | .vexp2 .. => some 1
  | .vlog2 .. => some 1
  | .vcmp .. => some 1
  | .vsel .. => some 1
  | .vmov .. => some 1
  | .vbcst .. => some 1
  | .vext .. => some 1
  | .vins .. => some 1
  | .vperm .. => some 1
  | .vshuf .. => some 1
  | .vrot .. => some 1
  | .vrsum .. => some 1
  | .vrmax .. => some 1
  | .vrmin .. => some 1
  | .vramax .. => some 1
  | .pand .. => some 1
  | .por .. => some 1
  | .pxor .. => some 1
  | .pnot .. => some 1
  | .pset .. => some 1
  | .pcnt .. => some 1
  | .vcvt .. => some 1
  | .vpksx .. => some 1
  | .vupsx .. => some 1
  | .vqnt .. => some 1
  | .vdq .. => some 1
  | .vqch .. => some 1
  | .vqfit .. => some 1
  | .vbf2 .. => some 1
  | .vbf4 .. => some 1
  | .vcmul .. => some 1
  | .vconj .. => some 1
  | .vtwid .. => some 1
  | .xop .. => some 1
  | .ld .. => some 2
  | .st .. => some 2
  | .vld .. => some 2
  | .vlds .. => some 2
  | .vldb .. => some 2
  | .vgath .. => some 2
  | .vst .. => some 2
  | .vsts .. => some 2
  | .vscat .. => some 2
  | .atom .. => some 2
  | .atomn .. => some 2
  | .vatom .. => some 2
  | .vatomn .. => some 2
  | .drain .. => some 2
  | .fence .. => some 2
  | .sbar .. => some 2
  | .ldacq .. => some 2
  | .strel .. => some 2
  | .br .. => some 3
  | .brc .. => some 3
  | .brp .. => some 3
  | .bru .. => some 3
  | .jmpi .. => some 3
  | .call .. => some 3
  | .ret .. => some 3
  | .loop .. => some 3
  | .loopi .. => some 3
  | .lexit .. => some 3
  | .bsel .. => some 3
  | .phend .. => some 3
  | .halt .. => some 3
  | .trap .. => some 3
  | .waitarr .. => some 3
  | .array .. => some 3
  | .arwait .. => some 3
  | .ftrecv .. => some 3
  | .repair .. => some 3
  | .ctxsave .. => some 3
  | .ctxload .. => some 3
  | .engineNop s _ => some (match s with
    | .x => 4
    | .e => 5
    | .k => 6)
  | .mcfg .. => some 4
  | .mldw .. => some 4
  | .mldwSp .. => some 4
  | .mrun .. => some 4
  | .mrunSpan .. => some 4
  | .mzero .. => some 4
  | .mrd .. => some 4
  | .mwait .. => some 4
  | .madd .. => some 4
  | .mscl .. => some 6
  | .scopy .. => some 5
  | .sfill .. => some 5
  | .ssend .. => some 5
  | .sfree .. => some 5
  | .swake .. => some 5
  | .sclose .. => some 5
  | .spost .. => some 5
  | .sget .. => some 5
  | .steer .. => some 7
  | .merge .. => some 7
  | .cld .. => some 7
  | .cst .. => some 7
  | .catom .. => some 7
  | .tsend .. => some 7
  | .trecv .. => some 7
  | .dadd .. => some 7
  | .dsub .. => some 7
  | .dmul .. => some 7
  | .dfma .. => some 7
  | .dmin .. => some 7
  | .dmax .. => some 7
  | .dand .. => some 7
  | .dor .. => some 7
  | .dxor .. => some 7
  | .dshl .. => some 7
  | .dshr .. => some 7
  | .dsra .. => some 7
  | .dcmp .. => some 7
  | .dsel .. => some 7
  | .dcvt .. => some 7
  | .dmov .. => some 7
  | .daddk .. => some 7
  | .dshlk .. => some 7
  | .dshrk .. => some 7
  | .dandk .. => some 7
  | _ => none

/-- The word of an instruction that has one: NOP and the instructions of the S, V, M, B, X, E and K slots and
the block nodes; 0 for an event. -/
def encode (i : Instr) : Nat :=
  match slotClass i with
  | some 0 => encodeS i
  | some 1 => encodeV i
  | some 2 => encodeM i
  | some 3 => encodeB i
  | some 4 => encodeEng i
  | some 5 => encodeEng i
  | some 6 => encodeEng i
  | some 7 => encodeNode i
  | _ => 0

/-- The decoder of a slot class. -/
def decClass (k w : Nat) : Dec :=
  match k with
  | 0 => decS w
  | 1 => decV w
  | 2 => decM w
  | 3 => decB w
  | 4 => decX w
  | 5 => decE w
  | 6 => decK w
  | _ => decBlockNode w

end Sys2Proof
end

