-- ==== Sys2Proof/Machine/Bits.lean ====
section
/-! DEFINITION. Bit-field helpers: slices of natural numbers, two's complement, widths in bits, and the signed
and unsigned readings and the writing of 05 R112. -/

namespace Sys2Proof.Machine

/-- `x[lo + n - 1 : lo]` as a number. -/
def fld (x lo n : Nat) : Nat := x / 2 ^ lo % 2 ^ n

/-- Bit `k` of `x`. -/
def bitAt (x k : Nat) : Bool := x / 2 ^ k % 2 == 1

/-- The low `n` bits of `x` read as a signed number. -/
def sext (n x : Nat) : Int :=
  let y := x % 2 ^ n
  if y < 2 ^ (n - 1) then (y : Int) else (y : Int) - (2 ^ n : Nat)

/-- An integer modulo `2^n`, as a number. -/
def wrapNat (n : Nat) (i : Int) : Nat := (i % (2 ^ n : Nat)).toNat

/-- `x` with bits `[lo + n - 1 : lo]` replaced by the low `n` bits of `v`. -/
def setFld (x lo n v : Nat) : Nat :=
  x - fld x lo n * 2 ^ lo + v % 2 ^ n * 2 ^ lo

/-- Number of one bits among the low `n` bits of `x`. -/
def popBits : Nat → Nat → Nat
  | 0, _ => 0
  | n + 1, x => x % 2 + popBits n (x / 2)

/-- Leading zero bits of `x` within `n` bits (`n` when `x` is 0). -/
def leadZeros (n x : Nat) : Nat := if x = 0 then n else n - 1 - Nat.log2 x

/-- Trailing zero bits of `x` within `n` bits (`n` when `x` is 0). -/
def trailZeros : Nat → Nat → Nat
  | 0, _ => 0
  | n + 1, x => if x % 2 = 1 then 0 else trailZeros n (x / 2) + 1

/-- Scalar width in bits (05 R112). -/
def wbits : Width → Nat
  | .w8 => 8
  | .w16 => 16
  | .w32 => 32
  | .w64 => 64

/-- `sv(x)` of 05 R112. -/
def sv (w : Width) (x : DWord) : Int := sext (wbits w) x.toNat
/-- `uv(x)` of 05 R112. -/
def uv (w : Width) (x : DWord) : Nat := x.toNat % 2 ^ wbits w
/-- `put(y)` of 05 R112: modulo 2^W, read as signed, in all 64 bits. -/
def put (w : Width) (y : Int) : DWord := BitVec.ofInt 64 (sext (wbits w) (wrapNat (wbits w) y))

/-- Floor division of an integer by a power of two. -/
def floorShr (x : Int) (n : Nat) : Int := x / ((2 ^ n : Nat) : Int)

/-- The bytes of a number, least significant first (00 R1). -/
def toBytes : Nat → Nat → List Byte
  | 0, _ => []
  | n + 1, x => BitVec.ofNat 8 x :: toBytes n (x / 256)

/-- The number that bytes hold, least significant first (00 R1). -/
def ofBytes : List Byte → Nat
  | [] => 0
  | b :: bs => b.toNat + 256 * ofBytes bs

/-- `f lo, f (lo+1), …`, `n` values. -/
def tabulate {α : Type} (n : Nat) (f : Nat → α) : List α := (List.range n).map f

/-- The element at place `i` of a list, `d` past its end. -/
def nth {α : Type} (l : List α) (i : Nat) (d : α) : α := l.getD i d

/-- A list with place `i` replaced; unchanged past its end. -/
def setNth {α : Type} (l : List α) (i : Nat) (x : α) : List α := l.set i x

/-- Bitwise exclusive or of a shifted word, used by the hashes. -/
def xorShr (x n : Nat) : Nat := x ^^^ (x / 2 ^ n)

/-- CRC-32C of RFC 3720, one byte into the running remainder (03 R68). -/
def crcBits : Nat → Nat → Nat
  | 0, c => c
  | n + 1, c => crcBits n (if c % 2 = 1 then (c / 2) ^^^ 0x82F63B78 else c / 2)

/-- CRC-32C of a byte sequence: initial value and final exclusive-or 0xFFFF_FFFF (03 R68). -/
def crc32c (bs : List Byte) : Nat :=
  (bs.foldl (fun c b => crcBits 8 (c ^^^ b.toNat)) 0xFFFFFFFF) ^^^ 0xFFFFFFFF

end Sys2Proof.Machine
end

