-- ==== Sys2Proof/Machine/Num.lean ====
section
/-! DEFINITION. Number formats (chapter 06): floating-point patterns and exact values, rounding with its flags,
conversions, integer ranges, SX blocks. Values are exact: a sign, a magnitude `m` and a power of two. -/

namespace Sys2Proof.Machine

/-- Sticky flags as they stand in STATUS[11:0] (05 Table 5.3). -/
abbrev Flags := BitVec 12

def flNX : Flags := 0x001
def flUF : Flags := 0x002
def flOF : Flags := 0x004
def flDZ : Flags := 0x008
def flNV : Flags := 0x010
def flQSAT : Flags := 0x100
def flQREF : Flags := 0x200
def flNANQ : Flags := 0x400
def flSXE : Flags := 0x800

/-- A decoded value (06 R122, R135): a NaN (signalling or quiet), an infinity, or `(-1)^neg * m * 2^e`, where
`m = 0` is a signed zero. -/
inductive FVal where
  | nan (sig : Bool)
  | inf (neg : Bool)
  | fin (neg : Bool) (m : Nat) (e : Int)
deriving DecidableEq, Repr

/-- Fields of a floating-point format (06 Table 6.1). -/
structure Fmt where
  width : Nat
  fbits : Nat
  bias : Nat
  emax : Nat
deriving DecidableEq, Repr

def fmtF32 : Fmt := ⟨32, 23, 127, 255⟩
def fmtF16 : Fmt := ⟨16, 10, 15, 31⟩
def fmtBF16 : Fmt := ⟨16, 7, 127, 255⟩
def fmtE4M3 : Fmt := ⟨8, 3, 7, 15⟩
def fmtE5M2 : Fmt := ⟨8, 2, 15, 31⟩

/-- The format of a floating-point element type; FP32 for any other type, which no caller passes. -/
def fmtOf : ElemTy → Fmt
  | .f16 => fmtF16
  | .bf16 => fmtBF16
  | .e4m3 => fmtE4M3
  | .e5m2 => fmtE5M2
  | _ => fmtF32

/-- Is this a floating-point element type? -/
def isFloat : ElemTy → Bool
  | .f32 | .bf16 | .f16 | .e4m3 | .e5m2 => true
  | _ => false

/-- Is this a signed integer type? -/
def isSigned : ElemTy → Bool
  | .i32 | .i16 | .i8 => true
  | _ => false

/-- Element width in bits (06 Tables 6.1 and 6.3); SX types never name an element. -/
def ebits : ElemTy → Nat
  | .f32 | .i32 | .z32 => 32
  | .bf16 | .f16 | .i16 | .z16 => 16
  | .e4m3 | .e5m2 | .i8 | .z8 => 8
  | .sx3 | .sx5 | .sx8 => 32

/-- `fp_val(bits, fmt)` (06 R122, R123). -/
def fpDecode (f : Fmt) (bits : Nat) : FVal :=
  let neg := bitAt bits (f.width - 1)
  let ex := fld bits f.fbits (f.width - 1 - f.fbits)
  let fr := bits % 2 ^ f.fbits
  if f = fmtE4M3 then
    if ex = 15 ∧ fr = 7 then .nan false
    else if ex = 0 then .fin neg fr (1 - (f.bias : Int) - f.fbits)
    else .fin neg (2 ^ f.fbits + fr) ((ex : Int) - f.bias - f.fbits)
  else if ex = f.emax then
    if fr = 0 then .inf neg else .nan (!(bitAt fr (f.fbits - 1)))
  else if ex = 0 then .fin neg fr (1 - (f.bias : Int) - f.fbits)
  else .fin neg (2 ^ f.fbits + fr) ((ex : Int) - f.bias - f.fbits)

/-- `fp_val` of an element type. -/
def fpVal (t : ElemTy) (bits : Nat) : FVal := fpDecode (fmtOf t) bits

/-- The canonical NaN of a format (06 Table 6.2). -/
def canonNan (f : Fmt) : Nat :=
  if f = fmtE4M3 then 0x7F else f.emax * 2 ^ f.fbits + 2 ^ (f.fbits - 1)

/-- The pattern of the largest finite magnitude. -/
def maxPat (f : Fmt) : Nat := if f = fmtE4M3 then 0x7E else f.emax * 2 ^ f.fbits - 1

/-- The pattern of infinity; for E4M3, which has none, 0x7F (06 R128). -/
def infPat (f : Fmt) : Nat := if f = fmtE4M3 then 0x7F else f.emax * 2 ^ f.fbits

/-- The sign bit of a format. -/
def signPat (f : Fmt) (neg : Bool) : Nat := if neg then 2 ^ (f.width - 1) else 0

/-- The pattern of a signed infinity; E4M3's stand-in carries no sign (06 Table 6.4). -/
def infSigned (f : Fmt) (neg : Bool) : Nat :=
  if f = fmtE4M3 then 0x7F else signPat f neg + infPat f

/-- Does rounding the magnitude `n + r/d` (`0 <= r < d`) of sign `neg` go up in magnitude (06 R127)? -/
def roundsUp (rm : Rm) (neg : Bool) (n r d : Nat) : Bool :=
  match rm with
  | .rne => 2 * r > d || (2 * r == d && n % 2 == 1)
  | .rz => false
  | .rd => neg && r != 0
  | .ru => !neg && r != 0

/-- Floor of log2 of `num / den` (both positive). -/
def floorLog2 (num den : Nat) : Int :=
  let l : Int := (Nat.log2 num : Int) - Nat.log2 den
  let ge : Bool := if l ≥ 0 then num ≥ den * 2 ^ l.toNat else num * 2 ^ (-l).toNat ≥ den
  if ge then l else l - 1

/-- Quotient and remainder pieces of `num / den * 2^s`: floor, remainder, divisor. -/
def scaleDiv (num den : Nat) (s : Int) : Nat × Nat × Nat :=
  if s ≥ 0 then
    let n := num * 2 ^ s.toNat
    (n / den, n % den, den)
  else
    let d := den * 2 ^ (-s).toNat
    (num / d, num % d, d)

/-- Result pattern on overflow (06 Table 6.4). -/
def overflowPat (f : Fmt) (rm : Rm) (neg : Bool) : Nat :=
  match rm, neg with
  | .rne, _ => infSigned f neg
  | .rz, _ => signPat f neg + maxPat f
  | .rd, false => maxPat f
  | .rd, true => infSigned f true
  | .ru, false => infSigned f false
  | .ru, true => signPat f true + maxPat f

/-- Rounding of the exact non-zero magnitude `num / den * 2^e` of sign `neg` (06 R127, R128): pattern and flags.
`num` and `den` are positive. -/
def roundRatio (f : Fmt) (rm : Rm) (neg : Bool) (num den : Nat) (e : Int) : Nat × Flags :=
  let l := floorLog2 num den + e
  let emin : Int := 1 - (f.bias : Int)
  let qmin : Int := emin - f.fbits
  let q := max (l - f.fbits) qmin
  let (n, r, d) := scaleDiv num den (e - q)
  let n' := if roundsUp rm neg n r d then n + 1 else n
  let pat := (q - qmin).toNat * 2 ^ f.fbits + n'
  if pat > maxPat f then (overflowPat f rm neg, flOF ||| flNX)
  else
    (signPat f neg + pat,
      if r = 0 then 0 else if l < emin then flUF ||| flNX else flNX)

/-- `round_fp(x, fmt, rm)` of 06 R127 to R129, R135. A signalling NaN sets NV. -/
def roundFp (f : Fmt) (rm : Rm) : FVal → Nat × Flags
  | .nan sig => (canonNan f, if sig then flNV else 0)
  | .inf neg => (infSigned f neg, if f = fmtE4M3 then flNV else 0)
  | .fin neg m e => if m = 0 then (signPat f neg, 0) else roundRatio f rm neg m 1 e

/-- `round_rne(x, fmt)`. -/
def roundRne (f : Fmt) (x : FVal) : Nat × Flags := roundFp f .rne x

/-- `sat_fp(x, fmt, rm)` of a positive ratio `num / den * 2^e` (06 Table 6.7). -/
def satRatio (f : Fmt) (rm : Rm) (neg : Bool) (num den : Nat) (e : Int) : Nat × Flags :=
  let (p, fl) := roundRatio f rm neg num den e
  if fl &&& flOF = 0 then (p, fl) else (signPat f neg + maxPat f, fl)

/-- Sign and magnitude of a finite value as a signed integer times `2^e`. -/
def sgn (neg : Bool) (m : Nat) : Int := if neg then -(m : Int) else m

/-- Is the value a NaN? -/
def FVal.isNan : FVal → Bool
  | .nan _ => true
  | _ => false

/-- Is the value a signalling NaN? -/
def FVal.isSig : FVal → Bool
  | .nan s => s
  | _ => false

/-- Is the value a zero of either sign? -/
def FVal.isZero : FVal → Bool
  | .fin _ m _ => m == 0
  | _ => false

/-- NV where either operand is a signalling NaN (06 R124). -/
def sigFlags (x y : FVal) : Flags := if x.isSig || y.isSig then flNV else 0

/-- The value with its sign inverted. -/
def FVal.negate : FVal → FVal
  | .nan s => .nan s
  | .inf n => .inf (!n)
  | .fin n m e => .fin (!n) m e

/-- Exact sum of two finite values; `rd` gives -0 for an exact zero of opposite signs (06 R129). -/
def addFin (rm : Rm) (n1 : Bool) (m1 : Nat) (e1 : Int) (n2 : Bool) (m2 : Nat) (e2 : Int) : FVal :=
  let e := min e1 e2
  let v := sgn n1 (m1 * 2 ^ (e1 - e).toNat) + sgn n2 (m2 * 2 ^ (e2 - e).toNat)
  if v = 0 then
    if m1 = 0 ∧ m2 = 0 ∧ n1 = n2 then .fin n1 0 0 else .fin (rm == .rd) 0 0
  else .fin (v < 0) v.natAbs e

/-- Exact sum `x + y` with its flags (06 R124, R129). -/
def addF (rm : Rm) (x y : FVal) : FVal × Flags :=
  match x, y with
  | .nan _, _ => (.nan false, sigFlags x y)
  | _, .nan _ => (.nan false, sigFlags x y)
  | .inf a, .inf b => if a = b then (.inf a, 0) else (.nan false, flNV)
  | .inf a, .fin _ _ _ => (.inf a, 0)
  | .fin _ _ _, .inf b => (.inf b, 0)
  | .fin n1 m1 e1, .fin n2 m2 e2 => (addFin rm n1 m1 e1 n2 m2 e2, 0)

/-- Exact product `x * y` with its flags; zero times infinity is invalid. -/
def mulF (x y : FVal) : FVal × Flags :=
  match x, y with
  | .nan _, _ => (.nan false, sigFlags x y)
  | _, .nan _ => (.nan false, sigFlags x y)
  | .inf a, .inf b => (.inf (a != b), 0)
  | .inf a, .fin n m _ => if m = 0 then (.nan false, flNV) else (.inf (a != n), 0)
  | .fin n m _, .inf b => if m = 0 then (.nan false, flNV) else (.inf (n != b), 0)
  | .fin n1 m1 e1, .fin n2 m2 e2 => (.fin (n1 != n2) (m1 * m2) (e1 + e2), 0)

/-- `a * b + c`, the product exact (07 R145): zero times infinity is invalid even when `c` is a NaN. -/
def fmaF (rm : Rm) (negProd : Bool) (a b c : FVal) : FVal × Flags :=
  let (p, f1) := mulF a b
  let p := if negProd then p.negate else p
  let (r, f2) := addF rm p c
  (r, f1 ||| f2)

/-- Exact sum of a list of terms, each with flags of its own (08 R169): a sum that holds both infinities is
invalid, a NaN term gives a NaN, and an exact zero is -0 only when every term is -0. -/
def sumTerms (ts : List (FVal × Flags)) : FVal × Flags :=
  let fl := ts.foldl (fun f t => f ||| t.2 ||| (if t.1.isSig then flNV else 0)) (0 : Flags)
  let pos := ts.any (fun t => t.1 == .inf false)
  let neg := ts.any (fun t => t.1 == .inf true)
  if pos && neg then (.nan false, fl ||| flNV)
  else if ts.any (fun t => t.1.isNan) then (.nan false, fl)
  else if pos then (.inf false, fl)
  else if neg then (.inf true, fl)
  else
    match ts with
    | [] => (.fin false 0 0, fl)
    | t :: ts' => (ts'.foldl (fun a u => (addF .rne a u.1).1) t.1, fl)

/-- Comparison of two values that are not NaNs: the sign of `x - y`; zeros of either sign are equal. -/
def cmpF (x y : FVal) : Int :=
  match x, y with
  | .inf a, .inf b => if a = b then 0 else if a then -1 else 1
  | .inf a, _ => if a then -1 else 1
  | _, .inf b => if b then 1 else -1
  | .fin n1 m1 e1, .fin n2 m2 e2 =>
    let e := min e1 e2
    let v := sgn n1 (m1 * 2 ^ (e1 - e).toNat) - sgn n2 (m2 * 2 ^ (e2 - e).toNat)
    if v < 0 then -1 else if v = 0 then 0 else 1
  | _, _ => 0

/-- The sign bit of a value. -/
def FVal.negBit : FVal → Bool
  | .nan _ => false
  | .inf n => n
  | .fin n _ _ => n

/-- Is `x` below `y`, with -0 below +0 (07 R147)? -/
def belowF (x y : FVal) : Bool :=
  cmpF x y < 0 || (cmpF x y == 0 && x.negBit && !y.negBit)

/-- minimumNumber and maximumNumber on patterns (07 R147, 09 R193): the chosen pattern and NV for a signalling
operand. -/
def minMaxNum (f : Fmt) (wantMax : Bool) (a b : Nat) : Nat × Flags :=
  let x := fpDecode f a
  let y := fpDecode f b
  let fl := sigFlags x y
  if x.isNan then (if y.isNan then canonNan f else b, fl)
  else if y.isNan then (a, fl)
  else if wantMax then (if belowF x y then b else a, fl)
  else (if belowF y x then b else a, fl)

/-- `round_int(x, rm)` of a magnitude `num / den * 2^e` of sign `neg`; the second part says whether it differs
from the exact value. -/
def roundIntRatio (rm : Rm) (neg : Bool) (num den : Nat) (e : Int) : Int × Bool :=
  let (n, r, d) := scaleDiv num den e
  let n' := if roundsUp rm neg n r d then n + 1 else n
  (sgn neg n', r != 0)

/-- The range of an integer type (06 Table 6.3). -/
def intLo : ElemTy → Int
  | .i32 => -2147483648
  | .i16 => -32768
  | .i8 => -128
  | _ => 0
def intHi : ElemTy → Int
  | .i32 => 2147483647
  | .i16 => 32767
  | .i8 => 127
  | .z32 => 4294967295
  | .z16 => 65535
  | .z8 => 255
  | _ => 0

/-- `sat_int(y, fmt)`. -/
def satInt (t : ElemTy) (y : Int) : Int := max (intLo t) (min y (intHi t))

/-- `cvt_f2i(x, fmt, rm)` (06 R130). -/
def cvtF2I (t : ElemTy) (rm : Rm) : FVal → Int × Flags
  | .nan sig => (0, if sig then flNANQ ||| flNV else flNANQ)
  | .inf neg => (if neg then intLo t else intHi t, flNV)
  | .fin neg m e =>
    let (y, inexact) := roundIntRatio rm neg m 1 e
    if y < intLo t ∨ y > intHi t then (satInt t y, flNV)
    else (y, if inexact then flNX else 0)

/-- An integer as an exact value. -/
def intVal (i : Int) : FVal := .fin (i < 0) i.natAbs 0

/-- The integer an element pattern holds, under its type. -/
def intOf (t : ElemTy) (bits : Nat) : Int :=
  if isSigned t then sext (ebits t) bits else ((bits % 2 ^ ebits t : Nat) : Int)

/-- Reading an element: bits `[W-1:0]` of its lane (07 R140). -/
def rdElem (t : ElemTy) (lane : Word) : Nat := lane.toNat % 2 ^ ebits t

/-- Writing an element: the whole lane, sign-extended for signed integer types, zero-extended otherwise
(07 R140). -/
def wrElem (t : ElemTy) (bits : Nat) : Word :=
  if isSigned t then BitVec.ofInt 32 (sext (ebits t) bits) else BitVec.ofNat 32 (bits % 2 ^ ebits t)

/-! SX blocks (06 R131 to R133). -/

/-- F of an SX type. -/
def sxF : ElemTy → Nat
  | .sx3 => 2
  | .sx5 => 4
  | _ => 7

/-- `sx_decode(block, F, k)` (06 R132). -/
def sxDecode (block F k : Nat) : FVal :=
  let E := fld block 0 8
  let d := fld block (8 + 2 * (k / 4)) 2
  let code := fld block (16 + k * (1 + F)) (1 + F)
  let m := code % 2 ^ F
  if E = 0 ∨ E = 255 ∨ m = 0 then .fin false 0 0
  else .fin (bitAt code F) m ((E : Int) - 127 - F - d)

/-- Does a block carry E = 255 (06 R132)? -/
def sxBad (block : Nat) : Bool := fld block 0 8 == 255

/-- `q(v, E, u)` of 06 R133, as a sign and a magnitude, with its inexactness. -/
def sxQ (F : Nat) (rm : Rm) (neg : Bool) (m : Nat) (e : Int) (E u : Nat) : Nat × Bool :=
  let (y, inexact) := roundIntRatio rm neg m 1 (e - ((E : Int) - 127 - F - u))
  (y.natAbs, inexact)

/-- The largest shift at which four magnitudes fit (06 R133). -/
def sxShift (F : Nat) (rm : Rm) (E : Nat) (quad : List (Bool × Nat × Int)) : Nat → Nat
  | 0 => 0
  | u + 1 =>
    if quad.all (fun v => (sxQ F rm v.1 v.2.1 v.2.2 E (u + 1)).1 ≤ 2 ^ F - 1) then u + 1
    else sxShift F rm E quad u

/-- The encoder's treatment of NaNs and infinities (06 R133). -/
def sxInput (F : Nat) : FVal → (Bool × Nat × Int) × Flags
  | .nan sig => ((false, 0, 0), if sig then flNANQ ||| flNV else flNANQ)
  | .inf neg => ((neg, 2 ^ F - 1, 127 - (F : Int)), 0)
  | .fin neg m e => ((neg, m, e), 0)

/-- The larger of two magnitudes. -/
def magMax (a b : Nat × Int) : Nat × Int :=
  if cmpF (.fin false a.1 a.2) (.fin false b.1 b.2) < 0 then b else a

/-- `sx_encode(x[0..15], F, rm)` (06 R133): the block and its flags. -/
def sxEncode (F : Nat) (rm : Rm) (xs : List FVal) : Nat × Flags :=
  let ins := xs.map (sxInput F)
  let vs := ins.map (·.1)
  let fl0 := ins.foldl (fun f i => f ||| i.2) (0 : Flags)
  let A := vs.foldl (fun a v => magMax a (v.2.1, v.2.2)) (0, 0)
  if A.1 = 0 then (0, fl0)
  else
    let l := floorLog2 A.1 1 + A.2
    let E0 := (min (max (l + 128) 1) 254).toNat
    let E := if (sxQ F rm false A.1 A.2 E0 0).1 = 2 ^ F ∧ E0 < 254 then E0 + 1 else E0
    let d := tabulate 4 (fun j => sxShift F rm E ((vs.drop (4 * j)).take 4) 3)
    let codes := tabulate 16 (fun k =>
      let v := nth vs k (false, 0, 0)
      let (m, inexact) := sxQ F rm v.1 v.2.1 v.2.2 E (nth d (k / 4) 0)
      if m > 2 ^ F - 1 then (v.1, 2 ^ F - 1, flOF ||| flNX)
      else (v.1, m, if inexact then flNX else 0))
    let fl := codes.foldl (fun f c => f ||| c.2.2) fl0
    if codes.all (fun c => c.2.1 == 0) then (0, fl)
    else
      let body := (List.range 16).foldl (fun b k =>
        let c := nth codes k (false, 0, 0)
        b + (if c.2.1 = 0 then 0 else (if c.1 then 2 ^ F else 0) + c.2.1) * 2 ^ (16 + k * (1 + F))) 0
      let ds := (List.range 4).foldl (fun b j => b + nth d j 0 * 2 ^ (8 + 2 * j)) 0
      (E + ds + body, fl)

end Sys2Proof.Machine
end

