-- ==== Sys2Proof/Machine/Knots.lean ====
section
/-! DEFINITION. The noise generator (11 R223, R224): its knots, and the value of an index. -/

namespace Sys2Proof.Machine

/-- Row e of the knots: K(e,f) for f from 0 to 31 is the FP32 value nearest the inverse normal distribution function
at 1 - 2^(-e-2) (1 + f/32) (11 R224). The value printed there for K(0,31) differs from the definition; the definition
is followed (log 8). -/
def knotRow (e : Nat) : List Nat :=
  match e with
  | 0 => [0x3F2CAB5C, 0x3F266D38, 0x3F204806, 0x3F1A3A21, 0x3F144201, 0x3F0E5E3F, 0x3F088D8A, 0x3F02CEA8,
    0x3EFA40E7, 0x3EEF03B4, 0x3EE3E3B1, 0x3ED8DEF7, 0x3ECDF3B8, 0x3EC32041, 0x3EB862F2, 0x3EADBA40,
    0x3EA324B3, 0x3E98A0E1, 0x3E8E2D71, 0x3E83C916, 0x3E72E51C, 0x3E5E5149, 0x3E49D458, 0x3E356C01,
    0x3E21160D, 0x3E0CD050, 0x3DF13155, 0x3DC8DA0D, 0x3DA096B0, 0x3D70C660, 0x3D20771A, 0x3CA06F39]
  | 1 => [0x3F933EA6, 0x3F90D780, 0x3F8E7D26, 0x3F8C2EE1, 0x3F89EC08, 0x3F87B3FE, 0x3F858636, 0x3F836229,
    0x3F81475C, 0x3F7E6AB8, 0x3F7A577E, 0x3F765442, 0x3F72604A, 0x3F6E7AE7, 0x3F6AA375, 0x3F66D95C,
    0x3F631C09, 0x3F5F6AF7, 0x3F5BC5A3, 0x3F582B96, 0x3F549C5C, 0x3F51178A, 0x3F4D9CB8, 0x3F4A2B84,
    0x3F46C394, 0x3F43648D, 0x3F400E1D, 0x3F3CBFF4, 0x3F3979C6, 0x3F363B4A, 0x3F33043B, 0x3F2FD456]
  | 2 => [0x3FC45E10, 0x3FC25BE3, 0x3FC065AD, 0x3FBE7AC7, 0x3FBC9A96, 0x3FBAC48B, 0x3FB8F823, 0x3FB734E5,
    0x3FB57A60, 0x3FB3C82C, 0x3FB21DE7, 0x3FB07B36, 0x3FAEDFC4, 0x3FAD4B43, 0x3FABBD69, 0x3FAA35EF,
    0x3FA8B495, 0x3FA7391C, 0x3FA5C34B, 0x3FA452EC, 0x3FA2E7CA, 0x3FA181B5, 0x3FA0207F, 0x3F9EC3FC,
    0x3F9D6C03, 0x3F9C186C, 0x3F9AC912, 0x3F997DD2, 0x3F98368A, 0x3F96F318, 0x3F95B360, 0x3F947743]
  | 3 => [0x3FEE6DFF, 0x3FECAD19, 0x3FEAF749, 0x3FE94BF5, 0x3FE7AA8D, 0x3FE6128D, 0x3FE4837B, 0x3FE2FCE8,
    0x3FE17E6A, 0x3FE007A2, 0x3FDE9835, 0x3FDD2FCF, 0x3FDBCE22, 0x3FDA72E4, 0x3FD91DD2, 0x3FD7CEAA,
    0x3FD68531, 0x3FD5412E, 0x3FD4026C, 0x3FD2C8B7, 0x3FD193E1, 0x3FD063BC, 0x3FCF381F, 0x3FCE10E0,
    0x3FCCEDDA, 0x3FCBCEE9, 0x3FCAB3E9, 0x3FC99CBC, 0x3FC88940, 0x3FC7795A, 0x3FC66CEC, 0x3FC563DC]
  | 4 => [0x4009D915, 0x40090FCC, 0x40084BAB, 0x40078C6B, 0x4006D1C8, 0x40061B85, 0x40056969, 0x4004BB3F,
    0x400410D7, 0x40036A04, 0x4002C69B, 0x40022676, 0x40018970, 0x4000EF67, 0x4000583B, 0x3FFF879D,
    0x3FFE6409, 0x3FFD4587, 0x3FFC2BE4, 0x3FFB16F1, 0x3FFA0683, 0x3FF8FA6F, 0x3FF7F28E, 0x3FF6EEBB,
    0x3FF5EED2, 0x3FF4F2B2, 0x3FF3FA3A, 0x3FF3054D, 0x3FF213CD, 0x3FF1259F, 0x3FF03AA8, 0x3FEF52D0]
  | 5 => [0x401AB949, 0x401A0178, 0x40194E7B, 0x4018A00F, 0x4017F5F4, 0x40174FF1, 0x4016ADD1, 0x40160F61,
    0x40157475, 0x4014DCE2, 0x40144880, 0x4013B72B, 0x401328C0, 0x40129D20, 0x4012142D, 0x40118DC9,
    0x401109DC, 0x4010884C, 0x40100902, 0x400F8BE8, 0x400F10EA, 0x400E97F3, 0x400E20F1, 0x400DABD2,
    0x400D3887, 0x400CC6FF, 0x400C572C, 0x400BE8FF, 0x400B7C6A, 0x400B1161, 0x400AA7D8, 0x400A3FC2]
  | 6 => [0x402A3E8C, 0x40299478, 0x4028EEF2, 0x40284DB9, 0x4027B091, 0x40271744, 0x4026819E, 0x4025EF72,
    0x40256094, 0x4024D4DB, 0x40244C24, 0x4023C64A, 0x4023432F, 0x4022C2B3, 0x402244B9, 0x4021C929,
    0x40214FE9, 0x4020D8E0, 0x402063FB, 0x401FF123, 0x401F8045, 0x401F114F, 0x401EA42F, 0x401E38D5,
    0x401DCF31, 0x401D6734, 0x401D00D0, 0x401C9BF8, 0x401C38A0, 0x401BD6BA, 0x401B763B, 0x401B171A]
  | 7 => [0x4038AE3E, 0x40380F54, 0x403774BA, 0x4036DE32, 0x40364B84, 0x4035BC7C, 0x403530E9, 0x4034A8A0,
    0x40342378, 0x4033A14A, 0x403321F3, 0x4032A552, 0x40322B49, 0x4031B3BA, 0x40313E8B, 0x4030CBA3,
    0x40305AEA, 0x402FEC49, 0x402F7FAD, 0x402F1502, 0x402EAC34, 0x402E4532, 0x402DDFED, 0x402D7C53,
    0x402D1A57, 0x402CB9EA, 0x402C5B00, 0x402BFD8A, 0x402BA17E, 0x402B46CF, 0x402AED74, 0x402A9560]
  | 8 => [0x404639A8, 0x4045A407, 0x40451280, 0x404484DA, 0x4043FADD, 0x40437458, 0x4042F11E, 0x40427104,
    0x4041F3E3, 0x40417996, 0x404101FD, 0x40408CF7, 0x40401A67, 0x403FAA32, 0x403F3C3F, 0x403ED075,
    0x403E66BD, 0x403DFF04, 0x403D9934, 0x403D353C, 0x403CD309, 0x403C728A, 0x403C13B1, 0x403BB66E,
    0x403B5AB4, 0x403B0073, 0x403AA7A1, 0x403A5031, 0x4039FA17, 0x4039A549, 0x403951BC, 0x4038FF66]
  | 9 => [0x40530537, 0x40527776, 0x4051EDA1, 0x4051677F, 0x4050E4DD, 0x4050658C, 0x404FE95F, 0x404F702D,
    0x404EF9D3, 0x404E862C, 0x404E1518, 0x404DA67A, 0x404D3A35, 0x404CD02F, 0x404C6850, 0x404C0281,
    0x404B9EAC, 0x404B3CBD, 0x404ADCA1, 0x404A7E47, 0x404A219C, 0x4049C692, 0x40496D19, 0x40491523,
    0x4048BEA3, 0x4048698B, 0x404815D0, 0x4047C367, 0x40477243, 0x4047225B, 0x4046D3A5, 0x40468617]
  | 10 => [0x405F2CB7, 0x405EA5BE, 0x405E2288, 0x405DA2DF, 0x405D2691, 0x405CAD6F, 0x405C3750, 0x405BC40E,
    0x405B5383, 0x405AE58F, 0x405A7A13, 0x405A10F1, 0x4059AA10, 0x40594555, 0x4058E2A9, 0x405881F6,
    0x40582329, 0x4057C62C, 0x40576AEE, 0x4057115E, 0x4056B96C, 0x40566308, 0x40560E24, 0x4055BAB2,
    0x405568A5, 0x405517F1, 0x4054C88B, 0x40547A67, 0x40542D7B, 0x4053E1BC, 0x40539722, 0x40534DA3]
  | 11 => [0x406AC5E8, 0x406A44DB, 0x4069C76D, 0x40694D67, 0x4068D69C, 0x406862DE, 0x4067F205, 0x406783EC,
    0x40671870, 0x4066AF70, 0x406648CF, 0x4065E472, 0x4065823E, 0x4065221B, 0x4064C3F2, 0x406467AE,
    0x40640D3C, 0x4063B488, 0x40635D82, 0x40630818, 0x4062B43B, 0x406261DD, 0x406210EF, 0x4061C164,
    0x40617331, 0x40612648, 0x4060DA9F, 0x4060902B, 0x406046E3, 0x405FFEBC, 0x405FB7AD, 0x405F71AE]
  | 12 => [0x4075E231, 0x4075665E, 0x4074EE07, 0x407478FB, 0x4074070B, 0x4073980C, 0x40732BD8, 0x4072C24A,
    0x40725B40, 0x4071F69C, 0x40719441, 0x40713413, 0x4070D5FB, 0x407079E0, 0x40701FAD, 0x406FC74E,
    0x406F70AE, 0x406F1BBD, 0x406EC869, 0x406E76A2, 0x406E2659, 0x406DD781, 0x406D8A0B, 0x406D3DEB,
    0x406CF315, 0x406CA97D, 0x406C611A, 0x406C19E0, 0x406BD3C6, 0x406B8EC2, 0x406B4ACC, 0x406B07DB]
  | 13 => [0x408047DD, 0x40800C47, 0x407FA4C1, 0x407F3422, 0x407EC684, 0x407E5BBE, 0x407DF3AA, 0x407D8E25,
    0x407D2B0F, 0x407CCA49, 0x407C6BB9, 0x407C0F43, 0x407BB4D0, 0x407B5C49, 0x407B0599, 0x407AB0AC,
    0x407A5D70, 0x407A0BD3, 0x4079BBC5, 0x40796D36, 0x40792019, 0x4078D45E, 0x407889FA, 0x407840E0,
    0x4077F904, 0x4077B25B, 0x40776CDC, 0x4077287B, 0x4076E531, 0x4076A2F3, 0x407661B9, 0x4076217B]
  | 14 => [0x40856D1D, 0x4085339D, 0x4084FBBF, 0x4084C56C, 0x4084908D, 0x40845D0E, 0x40842ADE, 0x4083F9EA,
    0x4083CA24, 0x40839B7D, 0x40836DE8, 0x40834157, 0x408315BF, 0x4082EB15, 0x4082C14F, 0x40829863,
    0x40827049, 0x408248F7, 0x40822266, 0x4081FC8F, 0x4081D76B, 0x4081B2F2, 0x40818F1E, 0x40816BEA,
    0x40814950, 0x4081274B, 0x408105D5, 0x4080E4EA, 0x4080C486, 0x4080A4A3, 0x4080853E, 0x40806653]
  | 15 => [0x408A65BD, 0x408A2E20, 0x4089F81A, 0x4089C391, 0x40899072, 0x40895EA9, 0x40892E24, 0x4088FED3,
    0x4088D0A6, 0x4088A38F, 0x40887781, 0x40884C70, 0x40882250, 0x4087F918, 0x4087D0BC, 0x4087A934,
    0x40878276, 0x40875C7C, 0x4087373C, 0x408712B1, 0x4086EED2, 0x4086CB99, 0x4086A901, 0x40868704,
    0x4086659C, 0x408644C4, 0x40862477, 0x408604B0, 0x4085E56C, 0x4085C6A5, 0x4085A858, 0x40858A81]
  | 16 => [0x408F35E4, 0x408EFFFF, 0x408ECBA5, 0x408E98BE, 0x408E6736, 0x408E36FB, 0x408E07FA, 0x408DDA24,
    0x408DAD6A, 0x408D81BF, 0x408D5715, 0x408D2D60, 0x408D0496, 0x408CDCAC, 0x408CB599, 0x408C8F54,
    0x408C69D3, 0x408C450F, 0x408C2101, 0x408BFDA2, 0x408BDAEA, 0x408BB8D4, 0x408B975A, 0x408B7676,
    0x408B5623, 0x408B365B, 0x408B171A, 0x408AF85C, 0x408ADA1D, 0x408ABC57, 0x408A9F07, 0x408A822B]
  | 17 => [0x4093E120, 0x4093ACCD, 0x409379FA, 0x40934891, 0x4093187E, 0x4092E9AD, 0x4092BC10, 0x40928F94,
    0x4092642E, 0x409239CE, 0x40921069, 0x4091E7F2, 0x4091C060, 0x409199A8, 0x409173C0, 0x40914EA1,
    0x40912A41, 0x40910699, 0x4090E3A1, 0x4090C154, 0x40909FA9, 0x40907E9C, 0x40905E26, 0x40903E42,
    0x40901EEB, 0x4090001B, 0x408FE1CF, 0x408FC402, 0x408FA6B0, 0x408F89D4, 0x408F6D6B, 0x408F5172]
  | 18 => [0x40986A81, 0x409837A0, 0x40980635, 0x4097D62B, 0x4097A76D, 0x409779EA, 0x40974D92, 0x40972256,
    0x4096F826, 0x4096CEF7, 0x4096A6BB, 0x40967F69, 0x409658F5, 0x40963355, 0x40960E80, 0x4095EA6E,
    0x4095C717, 0x4095A473, 0x4095827A, 0x40956127, 0x40954073, 0x40952059, 0x409500D1, 0x4094E1D8,
    0x4094C367, 0x4094A57B, 0x4094880F, 0x40946B1E, 0x40944EA5, 0x409432A0, 0x4094170A, 0x4093FBE0]
  | 19 => [0x409CD4B3, 0x409CA327, 0x409C7308, 0x409C4441, 0x409C16BF, 0x409BEA70, 0x409BBF45, 0x409B952D,
    0x409B6C1D, 0x409B4406, 0x409B1CDE, 0x409AF698, 0x409AD12B, 0x409AAC8D, 0x409A88B6, 0x409A659C,
    0x409A4339, 0x409A2184, 0x409A0077, 0x4099E00B, 0x4099C03A, 0x4099A0FE, 0x40998252, 0x40996430,
    0x40994694, 0x40992979, 0x40990CDB, 0x4098F0B5, 0x4098D504, 0x4098B9C3, 0x40989EEF, 0x40988485]
  | 20 => [0x40A1220C, 0x40A0F1BC, 0x40A0C2D1, 0x40A09536, 0x40A068D8, 0x40A03DA6, 0x40A01390, 0x409FEA89,
    0x409FC282, 0x409F9B6F, 0x409F7545, 0x409F4FF8, 0x409F2B7F, 0x409F07D0, 0x409EE4E3, 0x409EC2AF,
    0x409EA12D, 0x409E8056, 0x409E6022, 0x409E408B, 0x409E218C, 0x409E031E, 0x409DE53D, 0x409DC7E3,
    0x409DAB0B, 0x409D8EB2, 0x409D72D1, 0x409D5767, 0x409D3C6E, 0x409D21E3, 0x409D07C2, 0x409CEE09]
  | 21 => [0x40A5549C, 0x40A52572, 0x40A4F7A5, 0x40A4CB20, 0x40A49FD2, 0x40A475A9, 0x40A44C97, 0x40A4248C,
    0x40A3FD7C, 0x40A3D75A, 0x40A3B21C, 0x40A38DB7, 0x40A36A20, 0x40A3474F, 0x40A3253B, 0x40A303DD,
    0x40A2E32C, 0x40A2C322, 0x40A2A3B7, 0x40A284E7, 0x40A266AA, 0x40A248FC, 0x40A22BD7, 0x40A20F36,
    0x40A1F314, 0x40A1D76D, 0x40A1BC3E, 0x40A1A181, 0x40A18733, 0x40A16D50, 0x40A153D6, 0x40A13AC0]
  | 22 => [0x40A96E37, 0x40A94020, 0x40A9135E, 0x40A8E7DD, 0x40A8BD8C, 0x40A8945B, 0x40A86C39, 0x40A8451A,
    0x40A81EF0, 0x40A7F9B0, 0x40A7D54D, 0x40A7B1BF, 0x40A78EFC, 0x40A76CF9, 0x40A74BB0, 0x40A72B19,
    0x40A70B2B, 0x40A6EBE0, 0x40A6CD31, 0x40A6AF19, 0x40A69192, 0x40A67496, 0x40A6581F, 0x40A63C2B,
    0x40A620B3, 0x40A605B3, 0x40A5EB27, 0x40A5D10C, 0x40A5B75D, 0x40A59E17, 0x40A58537, 0x40A56CBA]
  | 23 => [0x40AD7081, 0x40AD436A, 0x40AD17A2, 0x40ACED15, 0x40ACC3B1, 0x40AC9B66, 0x40AC7426, 0x40AC4DE3,
    0x40AC2891, 0x40AC0422, 0x40ABE08E, 0x40ABBDC9, 0x40AB9BCB, 0x40AB7A8A, 0x40AB59FE, 0x40AB3A20,
    0x40AB1AE8, 0x40AAFC50, 0x40AADE51, 0x40AAC0E5, 0x40AAA407, 0x40AA87B1, 0x40AA6BDF, 0x40AA508B,
    0x40AA35B1, 0x40AA1B4D, 0x40AA015A, 0x40A9E7D6, 0x40A9CEBC, 0x40A9B609, 0x40A99DB9, 0x40A985C9]
  | 24 => [0x40B15CEE, 0x40B130C9, 0x40B105EB, 0x40B0DC42, 0x40B0B3BC, 0x40B08C4B, 0x40B065DE, 0x40B0406A,
    0x40B01BE1, 0x40AFF838, 0x40AFD565, 0x40AFB35D, 0x40AF9217, 0x40AF718B, 0x40AF51B1, 0x40AF3281,
    0x40AF13F4, 0x40AEF603, 0x40AED8A8, 0x40AEBBDE, 0x40AE9F9F, 0x40AE83E5, 0x40AE68AB, 0x40AE4DEE,
    0x40AE33A8, 0x40AE19D6, 0x40AE0073, 0x40ADE77C, 0x40ADCEED, 0x40ADB6C3, 0x40AD9EFA, 0x40AD878F]
  | 25 => [0x40B534D2, 0x40B5098F, 0x40B4DF8E, 0x40B4B6BB, 0x40B48F07, 0x40B46861, 0x40B442BC, 0x40B41E0A,
    0x40B3FA3F, 0x40B3D74F, 0x40B3B531, 0x40B393DB, 0x40B37343, 0x40B35361, 0x40B3342E, 0x40B315A1,
    0x40B2F7B4, 0x40B2DA61, 0x40B2BDA1, 0x40B2A16E, 0x40B285C3, 0x40B26A9C, 0x40B24FF2, 0x40B235C2,
    0x40B21C08, 0x40B202BE, 0x40B1E9E2, 0x40B1D170, 0x40B1B963, 0x40B1A1BA, 0x40B18A70, 0x40B17382]
  | 26 => [0x40B8F95C, 0x40B8CEEF, 0x40B8A5BE, 0x40B87DB6, 0x40B856C7, 0x40B830E1, 0x40B80BF7, 0x40B7E7FC,
    0x40B7C4E4, 0x40B7A2A3, 0x40B78130, 0x40B76081, 0x40B7408D, 0x40B7214B, 0x40B702B5, 0x40B6E4C2,
    0x40B6C76C, 0x40B6AAAD, 0x40B68E7E, 0x40B672DB, 0x40B657BC, 0x40B63D1F, 0x40B622FD, 0x40B60952,
    0x40B5F01A, 0x40B5D752, 0x40B5BEF4, 0x40B5A6FF, 0x40B58F6D, 0x40B5783C, 0x40B5616A, 0x40B54AF2]
  | 27 => [0x40BCABA2, 0x40BC81FF, 0x40BC5992, 0x40BC324A, 0x40BC0C15, 0x40BBE6E5, 0x40BBC2AC, 0x40BB9F5E,
    0x40BB7CEF, 0x40BB5B53, 0x40BB3A81, 0x40BB1A70, 0x40BAFB16, 0x40BADC6C, 0x40BABE6A, 0x40BAA109,
    0x40BA8442, 0x40BA680E, 0x40BA4C69, 0x40BA314C, 0x40BA16B2, 0x40B9FC96, 0x40B9E2F4, 0x40B9C9C7,
    0x40B9B10B, 0x40B998BC, 0x40B980D6, 0x40B96956, 0x40B95239, 0x40B93B7A, 0x40B92518, 0x40B90F0F]
  | 28 => [0x40C04CA0, 0x40C023BD, 0x40BFFC0A, 0x40BFD576, 0x40BFAFF2, 0x40BF8B6E, 0x40BF67DD, 0x40BF4532,
    0x40BF2363, 0x40BF0263, 0x40BEE22A, 0x40BEC2AE, 0x40BEA3E7, 0x40BE85CC, 0x40BE6856, 0x40BE4B7F,
    0x40BE2F3E, 0x40BE138F, 0x40BDF86C, 0x40BDDDCE, 0x40BDC3B1, 0x40BDAA10, 0x40BD90E7, 0x40BD7831,
    0x40BD5FEA, 0x40BD480E, 0x40BD3099, 0x40BD1988, 0x40BD02D8, 0x40BCEC86, 0x40BCD68E, 0x40BCC0ED]
  | 29 => [0x40C3DD3C, 0x40C3B50F, 0x40C38E0C, 0x40C36825, 0x40C34347, 0x40C31F67, 0x40C2FC75, 0x40C2DA65,
    0x40C2B92D, 0x40C298C2, 0x40C2791A, 0x40C25A2C, 0x40C23BEF, 0x40C21E5C, 0x40C2016B, 0x40C1E516,
    0x40C1C955, 0x40C1AE23, 0x40C1937B, 0x40C17956, 0x40C15FB0, 0x40C14683, 0x40C12DCD, 0x40C11587,
    0x40C0FDAF, 0x40C0E63F, 0x40C0CF36, 0x40C0B88F, 0x40C0A247, 0x40C08C5A, 0x40C076C7, 0x40C0618A]
  | 30 => [0x40C75E4B, 0x40C736C9, 0x40C7106F, 0x40C6EB2A, 0x40C6C6EC, 0x40C6A3A6, 0x40C6814B, 0x40C65FCF,
    0x40C63F27, 0x40C61F49, 0x40C6002A, 0x40C5E1C3, 0x40C5C40A, 0x40C5A6F7, 0x40C58A85, 0x40C56EAB,
    0x40C55364, 0x40C538A9, 0x40C51E76, 0x40C504C3, 0x40C4EB8E, 0x40C4D2D0, 0x40C4BA86, 0x40C4A2AB,
    0x40C48B3C, 0x40C47434, 0x40C45D90, 0x40C4474D, 0x40C43168, 0x40C41BDC, 0x40C406A8, 0x40C3F1C9]
  | _ => [0x40CAD08D, 0x40CAA9B0, 0x40CA83F5, 0x40CA5F4C, 0x40CA3BA5, 0x40CA18F3, 0x40C9F727, 0x40C9D638,
    0x40C9B619, 0x40C996C0, 0x40C97824, 0x40C95A3D, 0x40C93D01, 0x40C92069, 0x40C9046F, 0x40C8E90B,
    0x40C8CE37, 0x40C8B3EE, 0x40C89A29, 0x40C880E4, 0x40C8681A, 0x40C84FC5, 0x40C837E3, 0x40C8206D,
    0x40C80962, 0x40C7F2BC, 0x40C7DC79, 0x40C7C695, 0x40C7B10D, 0x40C79BDE, 0x40C78705, 0x40C7727F]

/-- K(e,f) for f up to 32: K(e,32) is K(e-1,0), and K(0,32) is +0 (11 R224). -/
def knot (e f : Nat) : Nat :=
  if f = 32 then (if e = 0 then 0 else nth (knotRow (e - 1)) 0 0) else nth (knotRow e) f 0

/-- The hash of an index (11 R224), modulo 2^64. -/
def noiseHash (seed step i : Nat) : Nat :=
  let m := 2 ^ 64
  let x := seed ^^^ (step * 0x8F1BD35A6C27E4D9 % m) ^^^ (i * 0xB5E29A471D8C36F3 % m)
  let h := xorShr x 31 * 0xE7A35C19B2D48F6B % m
  let h := xorShr h 27 * 0x94C17E2D5B38A9C7 % m
  xorShr h 33

/-- The FP32 pattern a hash decodes to (11 R224). -/
def noiseZ (h : Nat) : Nat :=
  let w := fld h 24 39
  let e := min (leadZeros 39 w) 31
  let t := w * 2 ^ e % 2 ^ 39
  let f := if e = 31 then 0 else fld t 33 5
  let u := if e = 31 then 0 else fld t 23 10
  let lo := fpVal .f32 (knot e f)
  let d := (roundRne fmtF32 (addF .rne (fpVal .f32 (knot e (f + 1))) lo.negate).1).1
  let z := (roundRne fmtF32 (fmaF .rne false (fpVal .f32 d) (.fin false u (-10)) lo).1).1
  z % 2 ^ 31 + fld h 63 1 * 2 ^ 31

/-- noise(i, fmt) (11 R224): the pattern in the low bits. -/
def noise (seed step i : Nat) (t : ElemTy) : Nat :=
  let z := noiseZ (noiseHash seed step i)
  if t = .f32 then z else (roundRne (fmtOf t) (fpVal .f32 z)).1

end Sys2Proof.Machine
end

