-- ==== Sys2Proof/Machine/Transc.lean ====
section
/-! DEFINITION. The correctly rounded functions of 07 R150 and the twiddles of 08 R173: exact integer arithmetic
for roots and reciprocals, rigorous integer intervals for 2^x, log2, sine and cosine, narrowed until both ends
round alike. -/

namespace Sys2Proof.Machine

/-- Bitwise integer square root: the largest `r` built from bits below `2^n` above `r` with `r * r <= x`. -/
def isqrtGo : Nat → Nat → Nat → Nat
  | 0, r, _ => r
  | n + 1, r, x => if (r + 2 ^ n) * (r + 2 ^ n) ≤ x then isqrtGo n (r + 2 ^ n) x else isqrtGo n r x

/-- Floor of the square root. -/
def isqrt (x : Nat) : Nat := isqrtGo (Nat.log2 x / 2 + 1) 0 x

/-- `1 / A` (07 R150, Table 7.2). -/
def rcpF (f : Fmt) (rm : Rm) : FVal → Nat × Flags
  | .nan sig => (canonNan f, if sig then flNV else 0)
  | .inf neg => (signPat f neg, 0)
  | .fin neg m e => if m = 0 then (infSigned f neg, flDZ) else roundRatio f rm neg 1 m (-e)

/-- A finite magnitude as `m' * 2^(2h)`, its exponent made even: `(m', h)`. -/
def evenExp (m : Nat) (e : Int) : Nat × Int := if e % 2 = 0 then (m, e / 2) else (m * 2, (e - 1) / 2)

/-- Square root of `A` (07 R150, Table 7.2). -/
def sqrtF (f : Fmt) (rm : Rm) : FVal → Nat × Flags
  | .nan sig => (canonNan f, if sig then flNV else 0)
  | .inf neg => if neg then (canonNan f, flNV) else (infSigned f false, 0)
  | .fin neg m e =>
    if m = 0 then (signPat f neg, 0)
    else if neg then (canonNan f, flNV)
    else
      let (m', h) := evenExp m e
      let x := m' * 2 ^ 128
      let n := isqrt x
      roundRatio f rm false (2 * n + (if n * n = x then 0 else 1)) 1 (h - 65)

/-- One over the square root of `A` (07 R150, Table 7.2). -/
def rsqF (f : Fmt) (rm : Rm) : FVal → Nat × Flags
  | .nan sig => (canonNan f, if sig then flNV else 0)
  | .inf neg => if neg then (canonNan f, flNV) else (0, 0)
  | .fin neg m e =>
    if m = 0 then (infSigned f neg, flDZ)
    else if neg then (canonNan f, flNV)
    else
      let (m', h) := evenExp m e
      let n := isqrt (2 ^ 160 / m')
      roundRatio f rm false (2 * n + (if n * n * m' = 2 ^ 160 then 0 else 1)) 1 (-h - 81)

/-- Both ends of an interval `[lo, hi] * 2^e` rounded: the result when they agree. -/
def roundBoth (f : Fmt) (rm : Rm) (neg : Bool) (lo hi : Nat) (e : Int) : Option (Nat × Flags) :=
  if lo = 0 then none
  else
    let a := roundRatio f rm neg lo 1 e
    if a = roundRatio f rm neg hi 1 e then some a else none

/-- Sum of `x^(2j+1)/(2j+1)` for `x = 2^K / q` scaled (`alt` alternates the signs): the arctangents of 1/q. -/
def atanGo (alt : Bool) (q : Nat) : Nat → Nat → Nat → Int → Int
  | 0, _, _, acc => acc
  | n + 1, j, p, acc =>
    let t : Int := ((p / (2 * j + 1) : Nat) : Int)
    atanGo alt q n (j + 1) (p / (q * q)) (if alt && j % 2 == 1 then acc - t else acc + t)

/-- ln 2 scaled by `2^K`, within K units: 2 artanh(1/3). -/
def ln2Fix (K : Nat) : Nat := (2 * atanGo false 3 (K / 3 + 2) 0 (2 ^ K / 3) 0).toNat

/-- pi scaled by `2^K`, within 8K units: Machin's formula. -/
def piFix (K : Nat) : Nat :=
  (16 * atanGo true 5 (K / 4 + 2) 0 (2 ^ K / 5) 0 - 4 * atanGo true 239 (K / 4 + 2) 0 (2 ^ K / 239) 0).toNat

/-- Taylor terms of exp: sum of y^k/k! scaled by `2^K`. -/
def expGo (K y : Nat) : Nat → Nat → Nat → Nat → Nat
  | 0, _, _, acc => acc
  | n + 1, k, t, acc =>
    let t' := t * y / 2 ^ K / (k + 1)
    expGo K y n (k + 1) t' (acc + t')

/-- Half-width, in units, that covers every truncation of the series at `K` bits. -/
def slack (K : Nat) : Nat := 64 * K

/-- `2^A` for a non-integer `A = (-1)^neg m 2^e` of magnitude below 1,024, at `K` bits. -/
def exp2At (f : Fmt) (rm : Rm) (neg : Bool) (m : Nat) (e : Int) (K : Nat) : Option (Nat × Flags) :=
  let a : Int := sgn neg (if e ≥ 0 then m * 2 ^ (e + K).toNat else m * 2 ^ K / 2 ^ (-e).toNat)
  let i := a / ((2 ^ K : Nat) : Int)
  let fr := (a % ((2 ^ K : Nat) : Int)).toNat
  let y := fr * ln2Fix K / 2 ^ K
  let v := expGo K y (K / 3 + 2) 0 (2 ^ K) (2 ^ K)
  roundBoth f rm false (max (v - slack K) (2 ^ K + 1)) (min (v + slack K) (2 ^ (K + 1) - 1)) (i - K)

/-- The first precision at which an interval function decides; the last one's lower end if none does. -/
def tryBits (g : Nat → Option (Nat × Flags)) (dflt : Nat × Flags) : List Nat → Nat × Flags
  | [] => dflt
  | k :: ks => match g k with
    | some r => r
    | none => tryBits g dflt ks

/-- `2^A` (07 R150, Table 7.2). -/
def exp2F (f : Fmt) (rm : Rm) : FVal → Nat × Flags
  | .nan sig => (canonNan f, if sig then flNV else 0)
  | .inf neg => if neg then (0, 0) else (infSigned f false, 0)
  | .fin neg m e =>
    if m = 0 then roundRatio f rm false 1 1 0
    else if floorLog2 m 1 + e ≥ 10 then roundRatio f rm false 1 1 (if neg then -1024 else 1024)
    else if e ≥ 0 then roundRatio f rm false 1 1 (sgn neg (m * 2 ^ e.toNat))
    else if m % 2 ^ (-e).toNat = 0 then roundRatio f rm false 1 1 (sgn neg (m / 2 ^ (-e).toNat))
    else tryBits (exp2At f rm neg m e) (canonNan f, flNX) [224, 448, 896]

/-- `log2 A` for `A = m 2^e` not a power of two, at `K` bits. -/
def log2At (f : Fmt) (rm : Rm) (m : Nat) (e : Int) (K : Nat) : Option (Nat × Flags) :=
  let l := Nat.log2 m
  let num := m - 2 ^ l
  let den := m + 2 ^ l
  let z := num * 2 ^ K / den
  let rec go : Nat → Nat → Nat → Nat → Nat
    | 0, _, _, acc => acc
    | n + 1, j, p, acc => go n (j + 1) (p * z / 2 ^ K * z / 2 ^ K) (acc + p / (2 * j + 1))
  let ln := 2 * go (K / 3 + 2) 0 z 0
  let L := ln2Fix K
  let lo : Int := (l + e) * ((2 ^ K : Nat) : Int) + (((ln - slack K) * 2 ^ K / (L + slack K) : Nat) : Int)
  let hi : Int := (l + e) * ((2 ^ K : Nat) : Int) + (((ln + slack K) * 2 ^ K / (L - slack K) + 1 : Nat) : Int)
  if lo > 0 then roundBoth f rm false lo.toNat hi.toNat (-K)
  else if hi < 0 then roundBoth f rm true (-hi).toNat (-lo).toNat (-K)
  else none

/-- `log2 A` (07 R150, Table 7.2). -/
def log2F (f : Fmt) (rm : Rm) : FVal → Nat × Flags
  | .nan sig => (canonNan f, if sig then flNV else 0)
  | .inf neg => if neg then (canonNan f, flNV) else (infSigned f false, 0)
  | .fin neg m e =>
    if m = 0 then (infSigned f true, flDZ)
    else if neg then (canonNan f, flNV)
    else if m = 2 ^ Nat.log2 m then roundFp f rm (intVal (Nat.log2 m + e))
    else tryBits (log2At f rm m e) (canonNan f, flNX) [224, 448, 896]

/-- Taylor sums of cosine (`k` starts at 0) or sine (at 1): alternating terms, scaled by `2^K`. -/
def trigGo (K y : Nat) : Nat → Nat → Nat → Bool → Int → Int
  | 0, _, _, _, acc => acc
  | n + 1, k, t, neg, acc =>
    let t' := t * y / 2 ^ K * y / 2 ^ K / ((k + 1) * (k + 2))
    trigGo K y n (k + 2) t' (!neg) (if neg then acc - t else acc + t)

/-- Sine or cosine of `(pi / 2) * r / n`, `0 < r < n`, rounded with sign `neg`, at `K` bits. -/
def trigAt (f : Fmt) (cosine neg : Bool) (r n K : Nat) : Option (Nat × Flags) :=
  let y := piFix K * r / (2 * n)
  let v := if cosine then trigGo K y (K / 4 + 2) 0 (2 ^ K) false 0 else trigGo K y (K / 4 + 2) 1 y false 0
  roundBoth f .rne neg (v.toNat - slack K) (v.toNat + slack K) (-K)

/-- Sine or cosine of `(pi / 2) * r / n` in the first quadrant, `0 <= r < n`, with a sign. -/
def quarter (f : Fmt) (cosine neg : Bool) (r n : Nat) : Nat × Flags :=
  if r = 0 then
    if cosine then roundRatio f .rne neg 1 1 0 else (0, 0)
  else tryBits (trigAt f cosine neg r n) (canonNan f, flNX) [224, 448, 896]

/-- `cos(2 pi k / n)` and `-sin(2 pi k / n)`, rounded to nearest even; an exact zero is +0 (08 R173). -/
def twiddle (f : Fmt) (k n : Nat) : (Nat × Flags) × (Nat × Flags) :=
  let q := 4 * k / n % 4
  let r := 4 * k % n
  match q with
  | 0 => (quarter f true false r n, quarter f false true r n)
  | 1 => (quarter f false true r n, quarter f true true r n)
  | 2 => (quarter f true true r n, quarter f false false r n)
  | _ => (quarter f false false r n, quarter f true false r n)

end Sys2Proof.Machine
end

