-- ==== Sys2Proof/Machine/Flags.lean ====
section
/-! DEFINITION. What one vector lane computes, with the flags it sets: the element operations shared by the vector
slots (07 R145 to R151, 08 R160), the node forms of blocks (13 R252) and the custom graphs (15 R296). -/

namespace Sys2Proof.Machine

/-- A lane written with a rounded float result. -/
def putFloat (t : ElemTy) (rm : Rm) (x : FVal × Flags) : Word × Flags :=
  let (p, f) := roundFp (fmtOf t) rm x.1
  (wrElem t p, x.2 ||| f)

/-- A lane written with an integer modulo 2^W (07 R145). -/
def putInt (t : ElemTy) (x : Int) : Word × Flags := (wrElem t (wrapNat (ebits t) x), 0)

/-- The arithmetic forms. -/
inductive Arith where
  | add | sub | mul | fma | fms | fnma
deriving DecidableEq, Repr

/-- VADD to VFNMA on one lane (07 R145); `rm` is .rne but in node forms (13 R252). -/
def laneArith (op : Arith) (t : ElemTy) (rm : Rm) (a b c : Word) : Word × Flags :=
  if isFloat t then
    let x := fpVal t (rdElem t a)
    let y := fpVal t (rdElem t b)
    let z := fpVal t (rdElem t c)
    putFloat t rm (match op with
      | .add => addF rm x y
      | .sub => addF rm x y.negate
      | .mul => mulF x y
      | .fma => fmaF rm false x y z
      | .fms => fmaF rm false x y z.negate
      | .fnma => fmaF rm true x y z)
  else
    let x := intOf t (rdElem t a)
    let y := intOf t (rdElem t b)
    let z := intOf t (rdElem t c)
    putInt t (match op with
      | .add => x + y
      | .sub => x - y
      | .mul => x * y
      | .fma => x * y + z
      | .fms => x * y - z
      | .fnma => -(x * y) + z)

/-- VMULH on one lane (07 R146). -/
def laneMulh (t : ElemTy) (a b : Word) : Word × Flags :=
  putInt t (floorShr (intOf t (rdElem t a) * intOf t (rdElem t b)) (ebits t))

/-- VMIN and VMAX on one lane (07 R147). -/
def laneMinMax (wantMax : Bool) (t : ElemTy) (a b : Word) : Word × Flags :=
  if isFloat t then
    let (p, f) := minMaxNum (fmtOf t) wantMax (rdElem t a) (rdElem t b)
    (wrElem t p, f)
  else
    let x := intOf t (rdElem t a)
    let y := intOf t (rdElem t b)
    putInt t (if wantMax then max x y else min x y)

/-- VABS on one lane (07 R148). -/
def laneAbs (t : ElemTy) (a : Word) : Word :=
  if isFloat t then wrElem t (rdElem t a % 2 ^ (ebits t - 1))
  else (putInt t ((intOf t (rdElem t a)).natAbs : Int)).1

/-- VNEG on one lane (07 R148). -/
def laneNeg (t : ElemTy) (a : Word) : Word :=
  if isFloat t then wrElem t (rdElem t a ^^^ 2 ^ (ebits t - 1))
  else (putInt t (-(intOf t (rdElem t a)))).1

/-- The shifts. -/
inductive Shift where
  | shl | shr | sra
deriving DecidableEq, Repr

/-- VSHL, VSHR and VSRA on one lane by an unsigned count (07 R149). -/
def laneShift (op : Shift) (t : ElemTy) (a : Word) (n : Nat) : Word :=
  let w := ebits t
  let u := rdElem t a
  match op with
  | .shl => if n ≥ w then wrElem t 0 else wrElem t (u * 2 ^ n % 2 ^ w)
  | .shr => if n ≥ w then wrElem t 0 else wrElem t (u / 2 ^ n)
  | .sra => wrElem t (wrapNat w (floorShr (sext w u) (min n 64)))

/-- The correctly rounded functions. -/
inductive Func where
  | rcp | rsq | sqrt | exp2 | log2
deriving DecidableEq, Repr

/-- VRCP to VLOG2 on one lane (07 R150). -/
def laneFunc (op : Func) (t : ElemTy) (rm : Rm) (a : Word) : Word × Flags :=
  let x := fpVal t (rdElem t a)
  let f := fmtOf t
  let (p, fl) := match op with
    | .rcp => rcpF f rm x
    | .rsq => rsqF f rm x
    | .sqrt => sqrtF f rm x
    | .exp2 => exp2F f rm x
    | .log2 => log2F f rm x
  (wrElem t p, fl)

/-- VCMP on one lane (07 R151, Table 7.3): the condition and its flag. -/
def laneCmp (cc : VCond) (t : ElemTy) (a b : Word) : Bool × Flags :=
  let ua := rdElem t a
  let ub := rdElem t b
  match cc with
  | .tst => (ua &&& ub != 0, 0)
  | .sgn => (bitAt ua (ebits t - 1), 0)
  | _ =>
    if isFloat t then
      let x := fpVal t ua
      let y := fpVal t ub
      if x.isNan || y.isNan then
        match cc with
        | .ne | .un => (true, sigFlags x y)
        | .eq | .ord => (false, sigFlags x y)
        | _ => (false, flNV)
      else
        let c := cmpF x y
        (match cc with
          | .eq => c == 0
          | .ne => c != 0
          | .lt => c < 0
          | .le => c ≤ 0
          | .gt => c > 0
          | .ge => c ≥ 0
          | .ord => true
          | _ => false, 0)
    else
      let x := intOf t ua
      let y := intOf t ub
      (match cc with
        | .eq => x == y
        | .ne => x != y
        | .lt => x < y
        | .le => x ≤ y
        | .gt => x > y
        | .ge => x ≥ y
        | _ => false, 0)

/-- VCVT on one lane (08 R160). -/
def laneCvt (t2 t : ElemTy) (rm : Rm) (a : Word) : Word × Flags :=
  let u := rdElem t2 a
  if isFloat t2 then
    let x := fpVal t2 u
    if isFloat t then
      let (p, f) := roundFp (fmtOf t) rm x
      (wrElem t p, f)
    else
      let (y, f) := cvtF2I t rm x
      (wrElem t (wrapNat (ebits t) y), f)
  else
    let x := intOf t2 u
    if isFloat t then
      let (p, f) := roundFp (fmtOf t) rm (intVal x)
      (wrElem t p, f)
    else
      let y := satInt t x
      (wrElem t (wrapNat (ebits t) y), if y = x then 0 else flNV)

/-- The reductions (07 Table 7.5). -/
inductive Red where
  | sum | max | min | amax
deriving DecidableEq, Repr

/-- leaf(A) of a reduction. -/
def redLeaf (op : Red) (t : ElemTy) (a : Word) : Nat :=
  let u := rdElem t a
  match op with
  | .amax =>
    if isFloat t then u % 2 ^ (ebits t - 1) else wrapNat (ebits t) ((intOf t u).natAbs : Int)
  | _ => u

/-- ident of a reduction. -/
def redIdent (op : Red) (t : ElemTy) : Nat :=
  match op with
  | .sum => if isFloat t then 2 ^ (ebits t - 1) else 0
  | .max => if isFloat t then canonNan (fmtOf t) else wrapNat (ebits t) (intLo t)
  | .min => if isFloat t then canonNan (fmtOf t) else wrapNat (ebits t) (intHi t)
  | .amax => 0

/-- op of a reduction on two patterns. -/
def redOp (op : Red) (t : ElemTy) (x y : Nat × Flags) : Nat × Flags :=
  let r : Nat × Flags :=
    if isFloat t then
      match op with
      | .sum =>
        let (v, f) := addF .rne (fpVal t x.1) (fpVal t y.1)
        let (p, g) := roundFp (fmtOf t) .rne v
        (p, f ||| g)
      | .min => minMaxNum (fmtOf t) false x.1 y.1
      | _ => minMaxNum (fmtOf t) true x.1 y.1
    else
      match op with
      | .sum => ((x.1 + y.1) % 2 ^ ebits t, 0)
      | .max => (wrapNat (ebits t) (max (intOf t x.1) (intOf t y.1)), 0)
      | .min => (wrapNat (ebits t) (min (intOf t x.1) (intOf t y.1)), 0)
      | .amax => (max x.1 y.1, 0)
  (r.1, x.2 ||| y.2 ||| r.2)

/-- One level of the pairwise tree (07 R155): neighbours combined. -/
def redLevel (op : Red) (t : ElemTy) : List (Nat × Flags) → List (Nat × Flags)
  | x :: y :: r => redOp op t x y :: redLevel op t r
  | l => l

/-- The four levels of the tree, over 16 leaves. -/
def redTree (op : Red) (t : ElemTy) (l : List (Nat × Flags)) : Nat × Flags :=
  (redLevel op t (redLevel op t (redLevel op t (redLevel op t l)))).headD (0, 0)

/-- The value a reduction writes: VRAMAX of integers is unsigned and zero-extended (07 R155). -/
def redWrite (op : Red) (t : ElemTy) (p : Nat) : Word :=
  match op with
  | .amax => BitVec.ofNat 32 (p % 2 ^ ebits t)
  | _ => wrElem t p

end Sys2Proof.Machine
end

