-- ==== Sys2Proof/Machine/State.lean ====
section
/-! DEFINITION. The state of a chain of GI-4096 modules: plain data. Clusters, dies and modules are held in
sparse maps by number; an absent entry is one at its reset value. The cluster number of cluster (row, column)
of die `d` of module `m` is `4096 m + 1024 d + 32 row + column`, which is bits [44:22] of its physical
addresses (11 R206). -/

namespace Sys2Proof.Machine

/-- A sparse map: pairs of key and value, keys rising. -/
abbrev KMap (α : Type) := List (Nat × α)

/-- Why the machine stops. A spec fault of the GI-4096 is no `Fault`: it is taken (24 R383). -/
inductive Fault where
  /-- Raised by no meaning: the GI-4096 gives every instruction an effect. Safe: the machine would stop where the
  hardware goes on. -/
  | noEffect
deriving DecidableEq, Repr

/-- Why the model declines an instruction. -/
inductive Refusal where
  /-- Raised by an arm of `exec` that has no meaning yet. Safe: the model stops where the hardware goes on. -/
  | notModelled (mnemonic : String)
deriving DecidableEq, Repr

/-- A scalar register's content and its poison mark (05 R105, 09 R200). -/
structure SVal where
  val : DWord
  poison : Bool
deriving DecidableEq, Repr

/-- A vector lane and its poison mark (07 R140, 09 R200). -/
structure Lane where
  val : Word
  poison : Bool
deriving DecidableEq, Repr

/-- A vector register: 16 lanes. -/
abbrev VVal := Vector Lane 16

/-- An active hardware loop (04 R95). -/
structure Loop where
  lc : Fin 3
  remaining : Nat
  step : Int
  loopend : BitVec 22
  start : BitVec 22
deriving DecidableEq, Repr

/-- What a result in flight writes when it lands (04 R80). -/
inductive Dest where
  | sreg (r : SReg) (v : SVal)
  | vreg (r : VReg) (mask : Pred) (v : VVal)
  | preg (r : PReg) (mask : Pred) (v : Pred)
  | lcSet (i : Fin 3) (v : DWord)
  | lcStep (i : Fin 3) (step : Int)
  | flags (f : Flags)
  | csr (n : BitVec 12) (v : DWord)
  /-- VQNT's counts, its fitted scale if it refitted, its group sequence (08 R166). -/
  | quant (clips zeros : Nat) (scale : Option Word) (grp : Word)
  | semAdd (n : Fin 256) (inc : Int)
  /-- SEMSET: its value, and its place in the order of R226 (issue cycle and slot), by which the last one wins (16 R309). -/
  | semSet (n : Fin 256) (v : Int) (ord : Nat)
  /-- BARINIT's COUNT and SCOPE; ARR becomes 0 (16 R318). -/
  | barInit (n : Fin 16) (count : Nat) (rg : Bool)
deriving DecidableEq, Repr

/-- A result in flight: issue cycles left (at 0 it is written at the start of the next issue cycle), what it writes, the
remote answers it waits for as (message, lane), the type of an element read, and marks for a divide (05 R116), an XOP (15 R299)
and an MRD (its number and its tile, 14 Table 14.5). `owed` keeps the place, in commit order, of a value that XLD, XDROP or QPOST has still to give (05 R109);
`fresh` says that no counted cycle has passed since it was issued. -/
structure Pend where
  left : Nat
  dest : Dest
  waits : List (Nat × Nat)
  ty : ElemTy
  mty : Option MemTy
  div : Bool
  xop : Bool
  mrd : Option (Nat × Fin 8)
  owed : Bool
  fresh : Bool
deriving DecidableEq, Repr

/-- How a member ended its phase (04 R99). -/
inductive PhEnd where
  | phend (mode : BMode) (bit : Bool)
  | bsel (d : Nat)
  | halt
  /-- The launch is being ended by the lockhouse or the distributor (24 R394). -/
  | abort
deriving DecidableEq, Repr

/-- What a context is doing apart from issuing (04 R78). `run` covers ready, stalled and held, which are judged
anew each cycle. -/
inductive Park where
  | run
  /-- WAITARR: `since` counts the cycles of its module that have begun since the one after that in which a source became
  ready (18 R330). -/
  | waitarr (d : SReg) (mask : Nat) (since : Option Nat)
  | arwait
  | phase (e : PhEnd)
  /-- Waiting for a token (24 R391); a release is due within 64 cycles of `since`. -/
  | ftrecv (d : SReg) (since : Option Nat)
  | halted
  | trapped
deriving DecidableEq, Repr

/-- A fault of a context, as its token carries it (24 R383, R387). -/
structure FaultRec where
  code : Nat
  info : Word
  sw : BitVec 11
  slot : BitVec 4
  async : Bool
  hdr : Bool
  pc : BitVec 22
  va : Nat
  stroke : Nat
  ovf : Bool
deriving DecidableEq, Repr

/-- Where an outstanding fault's token is (24 R387 to R392). -/
inductive TokState where
  | travelling
  | queued (tag : Nat)
  | claimed (tag : Nat) (by_ : Nat)
  /-- Repaired: the context re-enters (R393). -/
  | answered
deriving DecidableEq, Repr

/-- What must have become of an operation (a message or an engine command, by its number) before something that waits
for it goes on (12 R225, R226). -/
inductive Dep where
  /-- Its loads and returning atomics have been performed. -/
  | loads (id : Nat)
  /-- Its writes within a scope have been performed and, if posted, acknowledged. -/
  | wr (sc : Scope) (id : Nat)
  /-- Every access of it has been performed. -/
  | perf (id : Nat)
  /-- Its accesses to a physical range have been performed: the address and the length (18 Table 18.4, SFREE). -/
  | touch (pa n id : Nat)
  /-- Its writes into memory on a path of DRAIN have completed (09 R198). -/
  | path (p : Path) (id : Nat)
deriving DecidableEq, Repr

/-- A fence that still holds accesses (12 R232): its kind, what it waits for before any access and what before a
write. -/
structure FenceRec where
  kind : FenceKind
  acc : List Dep
  writes : List Dep
  /-- Its slot, and the stroke starts it has waited for an acknowledgement (19 R354). -/
  slot : Nat
  strokes : Nat
deriving DecidableEq, Repr

/-- A DRAIN, or an SC atomic that returns nothing, that stalls its context and holds its stream (09 R198, 12 R234). -/
structure HoldRec where
  stream : Nat
  deps : List Dep
  slot : Nat
  strokes : Nat
deriving DecidableEq, Repr

/-- An SBAR that still holds (12 R235): the streams it names, what it waits for, the context and slot it came from. -/
structure SbarRec where
  mask : BitVec 16
  deps : List Dep
  fw : Bool
  slot : Nat
  strokes : Nat
deriving DecidableEq, Repr

/-- A custom graph's node (03 R73): cell, stage, type, consumers, input selectors, imm10, rounding. -/
structure GNode where
  op : Nat
  cell : Fin 16
  stage : Fin 8
  t : Fin 16
  d0 : NDest
  d1 : NDest
  sel : Fin 64
  imm : BitVec 10
  rm : Rm
deriving DecidableEq, Repr

/-- A resident custom graph (03 R72, 15 R294). -/
structure Graph where
  n : Fin 16
  latency : Nat
  srcs : Nat
  results : Nat
  cmask : BitVec 16
  addr : Nat
  nodes : List GNode
deriving DecidableEq, Repr

/-- What a context does after its bundle has committed, before it issues again (15 R299, R300, 24 R384). -/
inductive Post where
  /-- XLD: its register, its address, the accesses it waits for, the graph read and the cycles left to its end. -/
  | xld (d : SReg) (addr : Nat) (after : List Dep) (g : Option Graph) (left : Nat)
  | xdrop (d : SReg) (n : Fin 16)
  /-- QPOST (22 R379): its register, the queue's number, the read it waits for, the packet's bytes, the operations it
  waits for as a release at .sys, its slot. -/
  | qpost (d : SReg) (n : DWord) (rid : Option Nat) (bytes : List (Byte × Bool)) (after : List Dep) (slot : Nat)
  /-- MSCL whose table lies in another cluster (14 R275): its address, its clause, the read it waits for, the table. -/
  | mscl (va : Nat) (c : EClause) (rid : Option Nat) (bytes : List (Byte × Bool))
  /-- REPAIR (24 R392): the repair word, the value, the writes it waits for, its slot. -/
  | repair (w : DWord) (v : SVal) (after : List Dep) (slot : Nat)
deriving DecidableEq, Repr

/-- A CTXSAVE or CTXLOAD under way (25 R407): its area, its kind, its slot, and, once the area is written, the
operations it waits for as a release at .sys. -/
structure Swap where
  addr : Nat
  save : Bool
  slot : Nat
  ids : Option (List Dep)
deriving DecidableEq, Repr

/-- One issue context of a cluster: everything Table 5.1 marks per context, its place in the code, its results
in flight, its plane, its faults. -/
structure Ctx where
  s : Vector SVal 32
  v : Vector VVal 64
  p : Vector Pred 16
  lc : Vector DWord 3
  loops : List Loop
  pc : BitVec 22
  /-- Address of the word after the bundle being issued. -/
  seqPc : BitVec 22
  /-- Taken transfer of the bundle being issued. -/
  target : Option (BitVec 22)
  /-- Empty cycles of a folded run still to issue (03 R54). -/
  runLeft : Nat
  /-- First slot to issue of the bundle at `pc`, on a re-entry (24 R393); 14 where that bundle has committed and the
  context has still to pass to the next one. -/
  entry : Nat
  /-- The bundle is re-entered, so its stamp is ignored (04 R88). -/
  unstamped : Bool
  /-- Slots of the bundle that has issued which still wait to be performed, each with its word and its mark: an access
  that something to its left in its bundle orders, and the slots after it (12 R230 to R235). -/
  rest : List (Nat × Nat × Bool)
  /-- A stamp reached but not issued in its cycle raises STAMP_LATE (04 R88). -/
  park : Park
  pend : List Pend
  /-- What stalls the context until it is over: DRAINs and SC atomics without return (09 R198, 12 R234). -/
  holds : List HoldRec
  post : List Post
  fences : List FenceRec
  -- control registers (05 Tables 5.3 to 5.10)
  status : Flags
  code : BitVec 7
  info : Word
  swcode : BitVec 11
  slotres : BitVec 4
  nseed : DWord
  nstep : DWord
  qscale : Word
  qlimit : BitVec 16
  qrefit : Bool
  qclip : Word
  qzero : Word
  qlast : Word
  qrefits : Word
  /-- VQNT group sequence (08 R164). -/
  qseq : Word
  -- waits and faults
  /-- Stroke starts that each wait of the next bundle has passed unsatisfied, by slot (16 R315). -/
  strokes : KMap Nat
  barArr : BitVec 16
  fault : Option (FaultRec × TokState)
  /-- Register results that RESUME_VALUE gives, written from the cycle of re-entry (24 R392, R393). -/
  given : List Dest
  /-- Stroke starts that have passed since the outstanding fault was raised (24 R389, 26 R421). -/
  faultAge : Nat
  faultQ : List FaultRec
  faultOvf : Bool
  /-- Resident graphs of the context's plane, oldest last use first (15 R294). -/
  plane : List Graph
  /-- A CTXSAVE or CTXLOAD holds the (firmware) context here (25 R407). -/
  swap : Option Swap
deriving DecidableEq, Repr

/-- A register file at reset: zeros, unmarked (log 3). -/
def Ctx.reset : Ctx where
  s := Vector.replicate 32 ⟨0, false⟩
  v := Vector.replicate 64 (Vector.replicate 16 ⟨0, false⟩)
  p := Vector.replicate 16 0
  lc := Vector.replicate 3 0
  loops := []
  pc := 0
  seqPc := 0
  target := none
  runLeft := 0
  entry := 0
  unstamped := false
  rest := []
  park := .halted
  pend := []
  holds := []
  post := []
  fences := []
  status := 0
  code := 0
  info := 0
  swcode := 0
  slotres := 0
  nseed := 0
  nstep := 0
  qscale := 0x3F800000
  qlimit := 0
  qrefit := false
  qclip := 0
  qzero := 0
  qlast := 0
  qrefits := 0
  qseq := 0
  strokes := []
  barArr := 0
  fault := none
  given := []
  faultAge := 0
  faultQ := []
  faultOvf := false
  plane := []
  swap := none

/-- Residency states (11 Table 11.3). -/
inductive Res where
  | resident | migrating | absent
deriving DecidableEq, Repr

/-- Extent kinds (11 Table 11.3). -/
inductive EKind where
  | none | local | remote | noise
deriving DecidableEq, Repr

/-- An extent-table entry (11 Table 11.3). -/
structure Extent where
  v : Bool
  rel : Bool
  res : Res
  w : Bool
  r : Bool
  kind : EKind
  vbase : Nat
  len : Nat
  pbase : Nat
  fail : Bool
  pend : Bool
  epoch : Word
  /-- Units of 64 bytes that the residency service has still to copy before the range leaves MIGRATING (19 R353). -/
  left : Nat
  /-- How far the bytes of a MIGRATING range have been moved, for another cluster that maps it (11 R215). -/
  moved : Option Int := none
deriving DecidableEq, Repr

/-- A phase successor: a phase or the end of the launch (01 R16). -/
abbrev Succ := Option Nat

/-- A phase entry of the phase store (22 R377). -/
structure Phase where
  code : BitVec 22
  ext : List Extent
  det : Bool
  fmt : BitVec 12
  taken : Succ
  other : Succ
  /-- Bucket entries: size and phase (04 R99). -/
  buckets : List (Nat × Nat)
  /-- Custom-opcode table, 16 words (15 R297). -/
  cot : List Word
  /-- Initial scalar values: register and value. -/
  sinit : List (SReg × DWord)
  /-- Position register (16 R321): 0 none. -/
  posreg : SReg
deriving DecidableEq, Repr

/-- A barrier (16 R317). -/
structure Barrier where
  count : Nat
  arr : Nat
  rg : Bool
  ph : Bool
  rp : Bool
deriving DecidableEq, Repr

def Barrier.reset : Barrier := ⟨0, 0, false, false, false⟩

/-- Inbound channel state (18 Table 18.1), the tags of its slots oldest first (length, sequence number, poison), the physical
base of its ring, and the launch that bound it (`Launch.key`). -/
structure Ich where
  v : Bool
  ret : Bool
  slots : Nat
  sbytes : Nat
  rbase : Nat
  expseq : Word
  narr : Nat
  nheld : Nat
  head : Nat
  dup : Nat
  src : Nat
  tags : List (Nat × Word × Bool)
  phys : Nat
  own : Nat
deriving DecidableEq, Repr

def Ich.reset : Ich := ⟨false, false, 1, 32, 0, 0, 0, 0, 0, 0, 0, [], 0, 0⟩

/-- Outbound channel state (18 Table 18.2). -/
structure Och where
  v : Bool
  ret : Bool
  slots : Nat
  sbytes : Nat
  dest : Nat
  ich : Fin 16
  credit : Nat
  seq : Word
  ackseq : Word
  mirror : Nat
  /-- Its launch binds it: V is set once its receiver is bound too (18 R324). -/
  bound : Bool
  /-- Fixed route between modules (19 R349): the links it takes, each as 96 m + link. -/
  route : List Nat
  /-- Lengths of the packets in the mirror, by mirror slot. -/
  lens : KMap Nat
  /-- The launch that binds it (`Launch.key`). -/
  own : Nat
deriving DecidableEq, Repr

def Och.reset : Och := ⟨false, false, 1, 32, 0, 0, 0, 0, 0, 0, false, [], [], 0⟩

/-- A wake word: value, pending bit, write count (18 R329). -/
structure Wake where
  val : DWord
  pending : Bool
  count : Nat
deriving DecidableEq, Repr

/-- Stream commands (18 Table 18.3). -/
inductive SOp where
  | copy | fill (b : Bool) | send (och : Fin 16) | free (seq : Word) (src : Nat) | wake | close | post | get | nop
deriving DecidableEq, Repr

/-- A command in a stream's queue (18 R333). -/
structure SCmd where
  id : Nat
  op : SOp
  dst : DWord
  src : DWord
  len : Nat
  gsem : Fin 256
  ginc : Int
  fw : Bool
  /-- What must have happened before it makes an access (fences, SBAR, SC atomics; SFREE, 18 Table 18.4). -/
  after : List Dep
  started : Bool
  /-- Bytes moved so far. -/
  done : Nat
  /-- Its last access has been made. -/
  ended : Bool
  /-- Posted writes not yet acknowledged. -/
  outs : List Nat
  /-- The read sent for the unit in hand: message, bytes. -/
  reading : Option (Nat × Nat)
  /-- Bytes that have come back and are still to be moved on, a unit a cycle (01 Table 1.5). -/
  got : List (Byte × Bool)
  /-- Bytes of the packet being built (SSEND, or a copy to another module). -/
  buf : List (Byte × Bool)
  /-- It ended by a fault: no signal. -/
  bad : Bool
  /-- Its slot word, which a save area keeps (25 Table 25.2). -/
  word : DWord
deriving DecidableEq, Repr

/-- Matrix commands in the queue (14 Table 14.3), with their captured operands. -/
inductive MOp where
  | cfg (atype wtype : Fin 16) (padr : Bool)
  | ldw (k n nsel : Nat)
  | run (acc : Acc) (rows : Nat) (pad : Nat) (span : Bool) (M : Nat) (scale : List Nat)
  | zero (acc : Acc)
  | add (dst src : Acc)
  | nop
deriving DecidableEq, Repr

/-- A matrix command: its identity, cycles since its start, rows or columns popped, wait cycles. -/
structure MCmd where
  id : Nat
  op : MOp
  gsem : Fin 256
  ginc : Int
  fw : Bool
  after : List Dep
  age : Option Nat
  popped : Nat
  waited : Nat
  bad : Bool
  word : DWord
deriving DecidableEq, Repr

/-- A weight column of the stationary tile: its values by position, scale indices by 16-group, whether a byte of it
is poisoned, whether a block of it has E = 255, and the bytes it was read from. -/
structure WCol where
  w : List FVal
  idx : List Nat
  poison : Bool
  bad : Bool
  raw : List Lane
deriving DecidableEq, Repr

/-- The matrix engine (14 R269). -/
structure Mx where
  atype : Fin 16
  wtype : Fin 16
  padr : Bool
  fifoA : List Lane
  fifoB : List Lane
  wvalid : Bool
  k : Nat
  cols : List WCol
  /-- An MLDW since the last completed MCFG has loaded a tile (14 R284). -/
  loaded : Bool
  scale : List Nat
  /-- Tiles, sparse: key 1024 t + 32 row + column; absent is zero, unmarked. -/
  tiles : KMap Lane
  queue : List MCmd
  spans : Nat
  /-- Sparse layout of the stationary tile: nsel, 0 for a dense one. -/
  nsel : Nat
  /-- Span rows on their way in (14 R291): cycles left, span count, bytes. -/
  rowsIn : List (Nat × Nat × List Lane)
  /-- Bytes pushed into each FIFO whose SFILL waits for their popping: command id, stream, bytes left. -/
  fillsA : List (Nat × Nat)
  fillsB : List (Nat × Nat)
deriving DecidableEq, Repr

/-- The matrix engine at module reset. Its tiles and scale table are as R271 has them at a binding, which is the first rule to
give them (DESIGN CHOICE, log 3). -/
def Mx.reset : Mx where
  atype := 7
  wtype := 7
  padr := false
  fifoA := []
  fifoB := []
  wvalid := false
  k := 0
  cols := []
  loaded := false
  scale := List.replicate 16 0x3F80
  tiles := []
  queue := []
  spans := 0
  nsel := 0
  rowsIn := []
  fillsA := []
  fillsB := []

/-- Operations of block nodes (03 Table 3.18, 13 Tables 13.2 and 13.3). -/
inductive NOp where
  | steer | merge | const | iter | cld | cst | catom | tsend | trecv
  | dadd | dsub | dmul | dfma | dmin | dmax | dand | dor | dxor | dshl | dshr | dsra | dcmp | dsel | dcvt | dmov
  | daddk | dshlk | dshrk | dandk
deriving DecidableEq, Repr

/-- A node of a block: plain or chain-class. -/
inductive BNode where
  | plain (op : NOp) (n : Node)
  | chain (op : NOp) (n : ChainNode)
deriving DecidableEq, Repr

/-- A token (13 R246), and the cycle in which it reaches its port (13 R247). -/
structure Token where
  data : Word
  /-- Its iteration; the tag it carries is this number modulo 2^16. -/
  iter : Nat
  poison : Bool
  due : Nat
deriving DecidableEq, Repr

/-- An operation in the ordering buffer (13 R258 to R261). -/
structure ChainOp where
  node : ChainNode
  op : NOp
  iter : Nat
  addr : Word
  addrPoison : Bool
  data : Word
  new : Word
  poison : Bool
deriving DecidableEq, Repr

/-- A running dataflow block (13 R243 to R263). -/
structure Block where
  addr : Nat
  chain : BitVec 8
  trips : Nat
  S : Nat
  ii : Nat
  nodes : List BNode
  /-- Mode-10 CONST values read when ARRAY issued: element index and value. -/
  consts : List (Nat × SVal)
  cfgEnd : Nat
  nextK : Nat
  lastAdmit : Option Nat
  /-- Port queues, first to arrive first: key 512 stage + 64 y + 8 x + port. -/
  ports : KMap (List Token)
  /-- How often each node has fired, by its place in `nodes`. -/
  fired : KMap Nat
  buf : List ChainOp
  /-- Reserved numbers not yet released: the next number above ell up to the last admitted. -/
  reserved : Nat
  ell : Nat
  link : Option Nat
  gap : Nat
  stuck : Nat
  /-- Remote chain reads not yet answered: message, node, iteration. -/
  outs : List (Nat × ChainNode × Nat)
  after : List Dep
  /-- A node word was illegal: the block never starts, and this is the report (03 R71). -/
  blocked : Option Nat
deriving DecidableEq, Repr

/-- A line of the instruction buffer (04 R433): tag and 16 words with their poison marks. -/
structure ILine where
  tag : Nat
  words : List (Word × Bool)
deriving DecidableEq, Repr

/-- A dirty window (11 R219). -/
structure Window where
  low : Nat
  high : Nat
deriving DecidableEq, Repr

/-- What binds a cluster (22 R374, 16 R321): region origin and size, cox, member index, launch (`Launch.key`). -/
structure Binding where
  cox : Nat
  row0 : Nat
  col0 : Nat
  rows : Nat
  cols : Nat
  index : Nat
  key : Nat
deriving DecidableEq, Repr

/-- An outstanding MAPREQ (11 R217): its entry, of no phase once its launch has ended and another is bound; the semaphore
to signal, if any. -/
structure MapReq where
  phase : Nat
  ext : Nat
  sem : Option (Fin 256)
deriving DecidableEq, Repr

/-- One cluster. -/
structure Cluster where
  prog : Ctx
  fw : Ctx
  -- issue (04 Tables 4.3 to 4.5)
  det : Bool
  share : BitVec 6
  fwcnt : Nat
  phbase : Nat
  -- per-cluster control registers (05 Tables 5.8, 5.10)
  padm : Word
  fmtcfg : BitVec 12
  chainlim : BitVec 16
  waitlim : BitVec 16
  ckpt : BitVec 16
  -- semaphores and barriers (16)
  sem : Vector Int 256
  semLocal : BitVec 256
  /-- Changes that land in the present cycle (16 R309): sets, set-word writes, increments. -/
  semSets : List (Nat × Fin 256 × Int)
  semWords : List (Fin 256 × Int)
  semIncs : List (Fin 256 × Int)
  /-- Increments of the next cycle: the signals of engine NOPs and MWAITs that have issued (16 R311). -/
  semNext : List (Fin 256 × Int)
  /-- Sticky flags that units of the cluster have set in STATUS in the present cycle (05 R111). -/
  statusIn : Flags
  sync : BitVec 4
  lastSat : Fin 256
  bar : Vector Barrier 16
  -- binding and phases (22)
  bind : Option Binding
  phases : List Phase
  phase : Nat
  launch : Nat
  mapreqs : List MapReq
  /-- Slot-wheel positions allotted (12 R233). -/
  scPos : List Nat
  /-- The member has signalled done for its phase (04 R99). -/
  done : Bool
  -- SE status, dirty log (09 R197, 11 R219 to R222)
  sestat : KMap DWord
  windows : KMap Window
  /-- Records deposited in the present cycle: clock cycle, stream, STROKE, window. They take slots in ascending stream
  number (11 R221). -/
  drlNew : List (Nat × Nat × Nat × Window)
  drlHead : Nat
  drlTail : Nat
  drlOvf : Bool
  drlSeq : Word
  drl : KMap (Nat × Nat × Nat × Nat × Word)
  -- channels (18)
  ich : KMap Ich
  och : KMap Och
  wake : KMap Wake
  last : Nat
  streams : KMap (List SCmd)
  /-- SBARs still holding: the streams they name and the operations they wait for (12 R235). -/
  sbars : List SbarRec
  -- engines and array mode (13, 14)
  mx : Mx
  block : Option Block
  /-- Receive queues of the token channels (13 R254): tokens with their chain numbers. -/
  tch : KMap (List (Token × Nat))
  -- instruction buffer (04 R433)
  ibuf : KMap ILine
  /-- Lines that the buffer reads ahead: the ones after lines that bundles have issued from. -/
  wanted : List Nat
  -- lockhouse ports (24 R397), LHPOL (24 R435), access table (26 R422)
  fenced : Bool
  plAddr : Nat
  plBusy : Bool
  plFail : Bool
  plRepl : Bool
  plEvict : BitVec 16
  lhpol : KMap Nat
  acctab : BitVec 64
  /-- Structures lost to an uncorrectable error (24 R400). -/
  bad : List Nat
  /-- What the placement names for the cluster: its staging area (25 R412), a save area for each launch that may be pre-empted
  on it, by queue, and the buddy module (25 R413). -/
  staging : Nat
  savearea : KMap Nat
  buddy : Option Nat
  /-- A copy of the staging area is on its way to the buddy (25 R413). -/
  ckptOut : Bool
  /-- Next checkpoint's number and the stroke of the last one (25 R412). -/
  ckptSeq : Nat
  ckptAt : Nat
  /-- DRLCTL's sequence number at the last checkpoint. -/
  ckptDrl : Word
  /-- The program context is held at its WAITARR until what it started is over and the checkpoint is taken (25 R412). -/
  ckptHold : Bool
deriving DecidableEq, Repr

def Cluster.reset : Cluster where
  prog := Ctx.reset
  fw := Ctx.reset
  det := false
  share := 4
  fwcnt := 0
  phbase := 0
  padm := 0
  fmtcfg := 0x777
  chainlim := 0x0010
  waitlim := 0x0040
  ckpt := 0
  sem := Vector.replicate 256 0
  semLocal := 0
  semSets := []
  semWords := []
  semIncs := []
  semNext := []
  statusIn := 0
  sync := 0
  lastSat := 0
  bar := Vector.replicate 16 Barrier.reset
  bind := none
  phases := []
  phase := 0
  launch := 0
  mapreqs := []
  scPos := []
  done := false
  sestat := []
  windows := []
  drlNew := []
  drlHead := 0
  drlTail := 0
  drlOvf := false
  drlSeq := 0
  drl := []
  ich := []
  och := []
  wake := []
  last := 31
  streams := []
  sbars := []
  mx := Mx.reset
  block := none
  tch := []
  ibuf := []
  wanted := []
  fenced := false
  plAddr := 0
  plBusy := false
  plFail := false
  plRepl := false
  plEvict := 0
  lhpol := []
  acctab := 0x3FF000003FF
  bad := []
  staging := 0
  savearea := []
  buddy := none
  ckptOut := false
  ckptSeq := 0
  ckptAt := 0
  ckptDrl := 0
  ckptHold := false

/-- Who issued a message: a cluster's stream, an engine command, a chain operation, an MSCL or a queue
instruction of a context. -/
inductive Issuer where
  | slot (fw : Bool) (stream : Nat)
  | engine (q : Nat) (cmd : Nat)
  | chain
deriving DecidableEq, Repr

/-- What a message does where it arrives. -/
inductive MsgKind where
  /-- A posted write at a physical address: bytes with their poison marks. -/
  | write (pa : Nat) (bytes : List (Byte × Bool))
  /-- A read of `n` bytes. -/
  | read (pa n : Nat)
  /-- Stores of one vector instruction to one cluster (09 R189, R191): the bytes of each 8-byte word, word by word. -/
  | vwrite (parts : List (List (Nat × Byte × Bool)))
  /-- Loads of one vector instruction from one cluster: element size, the lanes still to read, word by word, each with
  its address, and what has been read, by lane. -/
  | vread (n : Nat) (parts : List (List (Nat × Nat))) (got : List (Nat × List (Byte × Bool)))
  /-- Lanes of one vector atomic in one cluster (09 R194): those still to perform, ascending, as (lane, address, operand,
  new value), and the old values. -/
  | vatom (aop : Aop) (ty : ElemTy) (ret : Bool) (todo : List (Nat × Nat × Nat × Nat)) (got : List (Nat × List (Byte × Bool)))
  /-- An atomic: operation, type, operand, new value, returning? -/
  | atom (pa : Nat) (aop : Aop) (ty : ElemTy) (x y : Nat) (ret : Bool)
  /-- An SC atomic, its lanes ascending: (address, operand, new value) (09 R195). -/
  | scAtom (lanes : List (Nat × Nat × Nat)) (aop : Aop) (ty : ElemTy) (ret : Bool)
  /-- A stream packet: channel, sequence number, bytes with marks, poison flag. -/
  | packet (ich : Fin 16) (seq : Word) (bytes : List (Byte × Bool)) (poison : Bool)
  /-- A free return of a sequence number, to an outbound channel. -/
  | freeRet (och : Fin 16) (seq : Word)
  /-- A SIGADD (22 R380). -/
  | sigadd (pa : Nat) (x : DWord)
  /-- `n` bytes of a checkpoint's copy for the buddy module (25 R412). -/
  | ckpt (n : Nat)
  /-- A piece of a weight image on the spanning tree of boot (19 R346, 26 R426). -/
  | flood (pa : Nat) (bytes : List Byte)
  /-- A module's report to the supervising firmware that one of its links has gone down (19 R357). -/
  | report (m link : Nat)
deriving DecidableEq, Repr

/-- Where a message is (12 R225, 19). -/
inductive MPhase where
  /-- Held in its stream until operations complete (STREL, accesses behind writes of their stream). -/
  | held
  /-- On its way to, or at, the destination. -/
  | out
  /-- Performed: the acknowledgement or the answer is on its way back; the answer's bytes with their marks, the
  first byte least significant. -/
  | back (bytes : List (Byte × Bool))
  /-- A posted write that has been discarded: it is never performed nor acknowledged (19 R358). -/
  | dead
deriving DecidableEq, Repr

/-- A message of the on-die networks and the links. -/
structure Msg where
  id : Nat
  src : Nat
  by_ : Issuer
  dst : Nat
  kind : MsgKind
  phase : MPhase
  /-- Virtual address of the access, for a fault. -/
  va : Nat
  /-- Module where it is now, links taken so far, the link chosen there and the flits still to send on it. -/
  loc : Nat
  hop : Nat
  via : Option Nat
  left : Nat
  /-- What must have happened before it leaves its stream. -/
  cond : List Dep
  /-- Messages of its stream to its cluster that must have been performed before it (12 R228). -/
  after : List Nat
  /-- Slot-wheel cycle granted to an SC atomic (12 R234). -/
  grant : Option Nat
  /-- The access table of the target denied it (26 R423). -/
  deny : Bool
  /-- Links still to take on a fixed route (19 R349). -/
  route : List Nat
  /-- The link it came by, as 96 m + link of the sending end: its flits stand in that link's buffer (19 R348). -/
  came : Option Nat
  /-- Slot of the instruction that sent it, and the stroke starts it has been held as a release (19 R354). -/
  slot : Nat
  strokes : Nat
  /-- A STREL, which holds its stream until its store is performed (12 R229). -/
  strel : Bool
deriving DecidableEq, Repr

/-- A translated launch descriptor (22 R376, R377): phases, slot-wheel positions, local semaphores, and channel
state of each member position. -/
structure Desc where
  phases : List Phase
  scpos : Nat
  localsem : BitVec 256
  chans : List (Nat × KMap Ich × KMap Och)
deriving DecidableEq, Repr

/-- What the distributor keeps of a launch that is pre-empted and saved: its members, the phase it was in, PADM and PHBASE of
each member, which a save area does not hold (25 R404, R405; log 20). -/
structure Saved where
  members : List Nat
  phase : Nat
  keep : List (Nat × Word × Nat)
deriving DecidableEq, Repr

/-- A launch: its packet, its claim as recorded at selection, its region, its translation (22 R366 to R377). -/
structure Launch where
  q : Nat
  idx : Nat
  prio : Nat
  pclass : Nat
  readyAt : Nat
  desc : Nat
  die : Nat
  row0 : Nat
  col0 : Nat
  rows : Nat
  cols : Nat
  oplist : Nat
  opmask : Nat
  tr : Option Desc
  /-- Pre-empted and saved (25 R404, R405). -/
  saved : Option Saved
  /-- Moved to a spare region of another module: its packet was the failed module's (25 R414). -/
  moved : Bool
deriving DecidableEq, Repr

/-- The launch's name on its module: queue and packet index. -/
def Launch.key (l : Launch) : Nat := l.q + 64 * l.idx

/-- What a cox is doing (22, 25 R404, R405). -/
inductive CoxMode where
  | run
  /-- Stopping its members for a pre-emption: those that have reported saved. -/
  | saving (reported : List Nat)
  /-- Waiting for its members to report loaded. -/
  | loading (reported : List Nat)
deriving DecidableEq, Repr

/-- A cox: its launch, its phase, its members, a failure already decided, cycle of the last done signal. -/
structure Cox where
  launch : Launch
  phase : Nat
  members : List Nat
  fail : Option Nat
  lastDone : Option Nat
  mode : CoxMode
deriving DecidableEq, Repr

/-- One die: coxes, selection slot, towpath queue (tag, cluster, context), black box. -/
structure Die where
  coxes : KMap Cox
  sel : Option Launch
  towq : List (Nat × Nat × Bool)
  nextTag : Nat
  /-- Cycle of the last token that entered the queue, and its place in the order of (ROW, COL, CTX) (24 R388). -/
  tokAt : Nat × Nat
  /-- Tokens whose faults count as answered but which are still under way or queued (24 R388, R394): cluster, context,
  record, TAG. -/
  ghosts : List (Nat × Bool × FaultRec × Option Nat)
  /-- Black-box entries by ring place (24 R401, R402). -/
  bb : KMap (DWord × DWord × DWord × DWord)
  bbHead : Nat
  bbTail : Nat
  bbOvf : Bool
  bbCount : Nat
  /-- GTS of the last entry, and the entries of that cycle: they stand in the order of (ROW, COL, CTX). -/
  bbRun : Nat × Nat
deriving DecidableEq, Repr

def Die.reset : Die where
  coxes := []
  sel := none
  towq := []
  nextTag := 0
  tokAt := (0, 0)
  ghosts := []
  bb := []
  bbHead := 0
  bbTail := 0
  bbOvf := false
  bbCount := 0
  bbRun := (0, 0)

/-- Where a fetched packet stands (22 R365, R368): `finished` has done its work, and its DONE is due. -/
inductive PSt where
  | pending | ready | busy | finished | done
deriving DecidableEq, Repr

/-- A fetched packet: ring index, its eight words, its standing, whether an examination is due. -/
structure Pkt where
  idx : Nat
  words : List DWord
  st : PSt
  exam : Bool
deriving DecidableEq, Repr

/-- A work queue (22 Tables 22.1, 22.2) with its window of fetched packets. -/
structure Queue where
  en : Bool
  dev : Bool
  pclass : Nat
  prio : Nat
  log2n : Nat
  base : Nat
  write : Nat
  read : Nat
  aborts : Nat
  eindex : Nat
  ecode : Nat
  window : List Pkt
deriving DecidableEq, Repr

def Queue.reset : Queue := ⟨false, false, 0, 0, 0, 0, 0, 0, 0, 0, 0, []⟩

/-- A link (19 Tables 19.2, 19.3): status, budgets and counts by virtual channel, the partner's hop count in its
last beacon, whether a beacon came in this stroke, replays of the present flit. -/
structure Link where
  up : Bool
  partner : Nat
  plink : Nat
  delay : Nat
  miss : Nat
  buderr : Bool
  replays : Nat
  crcerr : Nat
  bud : List Nat
  use : List Nat
  prev : List Nat
  hops : Nat
  heard : Bool
  tries : Nat
deriving DecidableEq, Repr

def Link.reset : Link := ⟨false, 0, 0, 0, 0, false, 0, 0, [0x500, 0x80, 0x40, 0x80, 0x10], [0, 0, 0, 0, 0], [0, 0, 0, 0, 0],
  0, false, 0⟩

/-- Supplies of a module (24 R401, 26 R429). -/
inductive Power where
  | on | logicLost | off
deriving DecidableEq, Repr

/-- A stage as the placement describes it (25 R414): its clusters, the spare clusters reserved for it. -/
structure Stage where
  home : List Nat
  spare : List Nat
deriving DecidableEq, Repr

/-- The provisioning record in a module's flash (26 R427): serial, helper data, the image signer's public key, the module's
attestation public key, and Lerlia's signature over these. -/
structure Record where
  serial : List Byte
  helper : List Byte
  signer : List Byte
  attest : List Byte
  sig : List Byte
deriving DecidableEq, Repr

/-- No record: the specification names none for reset, which keeps what the flash holds (DESIGN CHOICE, log 3). -/
def Record.reset : Record := ⟨[], [], [], [], []⟩

/-- What the signature of a record covers. -/
def Record.body (r : Record) : List Byte := r.serial ++ r.helper ++ r.signer ++ r.attest

/-- One module. -/
structure Module where
  gts : Nat
  /-- The module's own cycles: held ones are invisible to every count (19 R355). -/
  cycles : Nat
  /-- Started by a boot: its time origin has passed (19 R356). -/
  origin : Bool
  hold : Bool
  queues : KMap Queue
  ready : List Launch
  links : KMap Link
  /-- Route table: destination module, links one hop nearer (19 R348). -/
  routes : KMap (List Nat)
  rootHops : Nat
  failed : List Nat
  -- TALIGN (19 Table 19.4)
  holds : Nat
  lost : Bool
  root : Bool
  err : Int
  -- budgets (19 R353)
  migbud : Nat
  migUsed : Nat
  hpbudA : Nat
  hpbudB : Nat
  hpUsedA : Nat
  hpUsedB : Nat
  /-- Port that lost the last tie, and goes first at the next (26 R418). -/
  lastLoser : Nat
  -- HSEM (05 Table 5.9)
  lease : Word
  held : Bool
  owner : Nat
  -- firmware (25 Table 25.3)
  fwaddr : Nat
  fwBusy : Bool
  fwResult : Nat
  badLayout : Nat
  active : Nat
  /-- The image installed, whole: none before a boot. -/
  image : List Byte
  -- boot (26 Table 26.3)
  bootaddr : Nat
  bootlen : Nat
  bootBusy : Bool
  bootResult : Nat
  failmod : Nat
  nmod : Nat
  bootSince : Nat
  /-- The placement's weight images are still to be broadcast (26 R426). -/
  bcast : Bool
  qacc : KMap Nat
  peercls : KMap Nat
  stages : List Stage
  -- flash and supplies (26 R427, R428)
  record : Record
  counter : Nat
  /-- Attestation requests whose leaf index has been written back and which are still to be signed: index and nonce. -/
  attest : List (Nat × Nat)
  power : Power
deriving DecidableEq, Repr

def Module.reset : Module where
  gts := 0
  cycles := 0
  origin := false
  hold := false
  queues := []
  ready := []
  links := []
  routes := []
  rootHops := 0
  failed := []
  holds := 0
  lost := false
  root := false
  err := 0
  migbud := 0x800
  migUsed := 0
  hpbudA := 0
  hpbudB := 0
  hpUsedA := 0
  hpUsedB := 0
  lastLoser := 0
  lease := 0
  held := false
  owner := 0
  fwaddr := 0
  fwBusy := false
  fwResult := 0
  badLayout := 0
  active := 1
  image := []
  bootaddr := 0
  bootlen := 0
  bootBusy := false
  bootResult := 0
  failmod := 0
  nmod := 0
  bootSince := 0
  bcast := false
  qacc := []
  peercls := []
  stages := []
  record := Record.reset
  counter := 0
  attest := []
  power := .on

/-- What a module has answered to the outside world (26 R418, R428, R429). -/
inductive Output where
  | hostData (m port : Nat) (data : List Byte) (ep : Bool)
  | hostUnsupported (m port : Nat)
  | mgmtData (v : DWord)
  | mgmtDiscarded
  | blackBox (a b c d : DWord)
  /-- An attestation report (26 R428): nonce, digests of the active image and of the record, module, GTS, ACTIVE, and its
  signature with the leaf of an index. -/
  | report (nonce : Nat) (image record : List Byte) (m gts active index : Nat) (signature : List Byte)
  | exhausted (m : Nat)
  /-- What the supervising firmware has learned: a module reports that a link has gone down (19 R357). -/
  | linkReport (m link : Nat)
  /-- EXTENT_BAD (11 R211): queue and index of the packet, the phase and the entry. -/
  | extentBad (m q idx phase ext : Nat)
  | mctp (m : Nat) (reply : Nat)
deriving DecidableEq, Repr

/-- What a checkpoint holds of a cluster (25 R412, R413): the bytes of its save area, and the content of the stage's writable
LOCAL extents by offset, with the poisoned words. Beside them stand the cluster it was taken of, its launch, the buddy module
that holds it, and the units of 64 bytes still to copy to it (19 R353). -/
structure Image where
  area : List Byte
  mem : List Host.Cell
  pmem : List Nat
  ctx : Cluster
  launch : Launch
  holder : Nat
  left : Nat
deriving DecidableEq, Repr

/-- The state of a chain of modules, and what the model keeps to run it. -/
structure State where
  /-- Clock cycles since the start. -/
  now : Nat
  /-- Scratchpad of the whole chain: (address bits [44:0], byte), rising, no zero byte listed. -/
  mem : List Host.Cell
  /-- Poisoned 8-byte words, by address / 8, rising. -/
  pmem : List Nat
  cl : KMap Cluster
  die : KMap Die
  md : KMap Module
  /-- Messages in the networks and on the links, in order of issue. -/
  net : List Msg
  /-- Next message or command number. -/
  nextId : Nat
  /-- Wiring of the installation: 96 m + link to 96 m' + link' (19 R342). -/
  wires : KMap Nat
  /-- What save areas hold beside the bytes Table 25.2 lays out, by area address (25 R409, log 20). -/
  saves : KMap Cluster
  /-- Checkpoints on their way to the buddy, and committed images, by cluster (25 R412, R413). -/
  staged : KMap Image
  images : KMap Image
  -- focus: the context whose bundle is being issued
  cur : Nat
  curFw : Bool
  slot : Nat
  word : Word
  /-- The whole slot word. -/
  slotWord : DWord
  /-- A slot of the bundle being issued has faulted. -/
  stop : Bool
  /-- Clusters still to run in the present clock cycle. -/
  turn : List Nat
  /-- Modules whose clocks, fast of the time base, take one more cycle in the present one (19 R355). -/
  extra : List Nat
  /-- What the outside world does: cycle and event, in order. -/
  inputs : List (Nat × Instr)
  outputs : List Output
  /-- Counter of the free values: the model's own field (log 5). -/
  free : Nat
deriving DecidableEq, Repr

/-- The chain right after reset: every module at its reset values, no program placed. -/
def State.reset : State where
  now := 0
  mem := []
  pmem := []
  cl := []
  die := []
  md := []
  net := []
  nextId := 0
  wires := []
  saves := []
  staged := []
  images := []
  cur := 0
  curFw := false
  slot := 0
  word := 0
  slotWord := 0
  stop := false
  turn := []
  extra := []
  inputs := []
  outputs := []
  free := 0

end Sys2Proof.Machine
end

