-- ==== Sys2Proof/Machine/Ops.lean ====
section
/-! DEFINITION. The named operations over the state: sparse maps, memory, clusters, contexts, registers, results
in flight, and taking a fault (24 R383) with the return from it (24 R392, R393). -/

namespace Sys2Proof.Machine

/-! ### Sparse maps -/

/-- The entry at key `k`, `d` where there is none. -/
def kget {α : Type} (d : α) : KMap α → Nat → α
  | [], _ => d
  | (j, x) :: r, k => if j = k then x else kget d r k

/-- The map with the entry at key `k` replaced; keys stay rising. -/
def kset {α : Type} : KMap α → Nat → α → KMap α
  | [], k, x => [(k, x)]
  | (j, y) :: r, k, x => if k < j then (k, x) :: (j, y) :: r else if k = j then (k, x) :: r else (j, y) :: kset r k x

/-- The map without key `k`. -/
def kdel {α : Type} (m : KMap α) (k : Nat) : KMap α := m.filter (fun e => e.1 != k)

/-! ### Memory: one canonical list of cells, addresses rising, no zero byte listed (09 R182) -/

/-- What an unlisted address reads as: zero, as module reset leaves it (09 R182). -/
def memDefault : Byte := 0

/-- Reading one byte. -/
def memGet : List Host.Cell → Nat → Byte
  | [], _ => memDefault
  | (b, x) :: r, a => if b = a then x else memGet r a

/-- Insertion of a listed byte. -/
def memIns : List Host.Cell → Nat → Byte → List Host.Cell
  | [], a, v => [(a, v)]
  | (b, x) :: r, a, v =>
    if a < b then (a, v) :: (b, x) :: r else if a = b then (a, v) :: r else (b, x) :: memIns r a v

/-- Removal of an address. -/
def memDel : List Host.Cell → Nat → List Host.Cell
  | [], _ => []
  | (b, x) :: r, a => if a = b then r else if a < b then (b, x) :: r else (b, x) :: memDel r a

/-- Writing one byte: a byte equal to what an unlisted address reads as is not listed. -/
def memSet (m : List Host.Cell) (a : Nat) (v : Byte) : List Host.Cell :=
  if v = memDefault then memDel m a else memIns m a v

/-- Writing bytes from address `a` upwards. -/
def memSetBytes (m : List Host.Cell) (a : Nat) : List Byte → List Host.Cell
  | [] => m
  | b :: bs => memSetBytes (memSet m a b) (a + 1) bs

/-- Addresses rise and no listed byte is zero. -/
def memSorted : List Host.Cell → Bool
  | [] => true
  | [c] => c.2 != memDefault
  | c :: d :: r => c.2 != memDefault && decide (c.1 < d.1) && memSorted (d :: r)

/-- The canonical form of a memory. -/
def Memory.wf (m : List Host.Cell) : Bool := memSorted m

/-- Insertion in a rising list of numbers without repeats (poisoned words). -/
def setIns : List Nat → Nat → List Nat
  | [], a => [a]
  | b :: r, a => if a < b then a :: b :: r else if a = b then b :: r else b :: setIns r a

/-- Space-0 key of a physical address: bits [44:0] (11 R206). -/
def memKey (pa : Nat) : Nat := pa % 2 ^ 45

/-- `n` bytes of the chain's scratchpad at physical address `pa`. -/
def State.readBytes (s : State) (pa n : Nat) : List Byte := tabulate n (fun i => memGet s.mem (memKey (pa + i)))

/-- Writing bytes that carry their own marks, 8-byte word by word: a word with a marked byte takes the mark. -/
def State.writeMarked (s : State) (pa : Nat) (bs : List (Byte × Bool)) : State :=
  let a := memKey pa
  let words := (List.range ((a + bs.length - 1) / 8 - a / 8 + 1)).map (fun i => a / 8 + i)
  let marked := words.filter (fun w => (bs.drop (8 * w - a)).take (8 - (a - 8 * w)) |>.any (fun b => b.2))
  let whole := words.filter (fun w => !marked.contains w && decide (a ≤ 8 * w) && decide (8 * w + 8 ≤ a + bs.length))
  { s with mem := memSetBytes s.mem a (bs.map (fun b => b.1)),
           pmem := marked.foldl setIns (s.pmem.filter (fun w => !whole.contains w)) }

/-- Writing bytes of one 8-byte word, each at its own address, as one access: a marked byte marks the word; unmarked ones
that replace all 8 bytes clear its mark (09 R199, R201). -/
def State.writeCells (s : State) (cells : List (Nat × Byte × Bool)) : State :=
  let w := match cells with
    | x :: _ => memKey x.1 / 8
    | [] => 0
  let whole := (List.range 8).all (fun i => cells.any (fun x => memKey x.1 == 8 * w + i))
  { s with
    mem := cells.foldl (fun m x => memSet m (memKey x.1) x.2.1) s.mem
    pmem := if cells.any (fun x => x.2.2) then setIns s.pmem w else if whole then s.pmem.filter (fun y => y != w) else s.pmem }

/-- Bytes with their marks. -/
def State.readMarked (s : State) (pa n : Nat) : List (Byte × Bool) :=
  tabulate n (fun i => (memGet s.mem (memKey (pa + i)), s.pmem.contains (memKey (pa + i) / 8)))

/-- Do the words that hold these bytes carry the poison mark (09 R199)? -/
def State.poisoned (s : State) (pa n : Nat) : Bool := (s.readMarked pa n).any (fun b => b.2)

/-- Writing bytes: marked data carries the poison check code; unmarked data clears the mark of a word it covers
whole and leaves the mark of a word it covers in part (09 R201). -/
def State.writeBytes (s : State) (pa : Nat) (bs : List Byte) (poison : Bool) : State :=
  let a := memKey pa
  let words := (List.range ((a + bs.length - 1) / 8 - a / 8 + 1)).map (fun i => a / 8 + i)
  let pm :=
    if poison then words.foldl setIns s.pmem
    else s.pmem.filter (fun w => !(words.contains w && decide (a ≤ 8 * w) && decide (8 * w + 8 ≤ a + bs.length)))
  { s with mem := memSetBytes s.mem a bs, pmem := pm }

/-! ### Clusters and contexts -/

/-- Numbers of clusters, dies and modules (11 R206). -/
def clusterKey (m d row col : Nat) : Nat := 4096 * m + 1024 * d + 32 * row + col
def rowOf (k : Nat) : Nat := k / 32 % 32
def colOf (k : Nat) : Nat := k % 32
def dieOf (k : Nat) : Nat := k / 1024 % 4
def dieKey (k : Nat) : Nat := k / 1024
def modOf (k : Nat) : Nat := k / 4096
/-- The first byte of a cluster's scratchpad. -/
def clusterBase (k : Nat) : Nat := k * 2 ^ 22
/-- The cluster a physical address lies in. -/
def paCluster (pa : Nat) : Nat := memKey pa / 2 ^ 22
/-- The space of a physical address. -/
def paSpace (pa : Nat) : Nat := pa / 2 ^ 45 % 8
/-- Is the cluster one of its die's lockhouse (01 R9)? -/
def isLockhouse (k : Nat) : Bool := decide (30 ≤ rowOf k) && decide (30 ≤ colOf k)

/-- The cluster with number `k`. -/
def State.cluster (s : State) (k : Nat) : Cluster := kget Cluster.reset s.cl k
/-- Replacing a cluster. -/
def State.setCluster (s : State) (k : Nat) (c : Cluster) : State := { s with cl := kset s.cl k c }
/-- Changing a cluster. -/
def State.updCluster (s : State) (k : Nat) (f : Cluster → Cluster) : State := s.setCluster k (f (s.cluster k))

/-- A context of a cluster. -/
def Cluster.ctx (c : Cluster) (fw : Bool) : Ctx := if fw then c.fw else c.prog
/-- Replacing a context of a cluster. -/
def Cluster.setCtx (c : Cluster) (fw : Bool) (x : Ctx) : Cluster :=
  if fw then { c with fw := x } else { c with prog := x }

/-- A context of a cluster of the chain. -/
def State.ctxOf (s : State) (k : Nat) (fw : Bool) : Ctx := (s.cluster k).ctx fw
/-- Replacing a context of a cluster of the chain. -/
def State.setCtxOf (s : State) (k : Nat) (fw : Bool) (x : Ctx) : State :=
  s.setCluster k ((s.cluster k).setCtx fw x)
/-- The cluster whose bundle is being issued. -/
def State.me (s : State) : Cluster := s.cluster s.cur
/-- The context whose bundle is being issued. -/
def State.ctx (s : State) : Ctx := s.ctxOf s.cur s.curFw
/-- Changing the context whose bundle is being issued. -/
def State.updCtx (s : State) (f : Ctx → Ctx) : State := s.setCtxOf s.cur s.curFw (f s.ctx)
/-- Changing the cluster whose bundle is being issued. -/
def State.updMe (s : State) (f : Cluster → Cluster) : State := s.setCluster s.cur (f s.me)

/-- A die and a module. -/
def State.dieAt (s : State) (g : Nat) : Die := kget Die.reset s.die g
def State.updDie (s : State) (g : Nat) (f : Die → Die) : State := { s with die := kset s.die g (f (s.dieAt g)) }
def State.module (s : State) (m : Nat) : Module := kget { Module.reset with gts := s.now, cycles := s.now } s.md m
def State.updModule (s : State) (m : Nat) (f : Module → Module) : State :=
  { s with md := kset s.md m (f (s.module m)) }

/-! ### Registers (05 R105; 00 R5) -/

/-- s0 reads as zero. -/
def Ctx.rdS (c : Ctx) (r : SReg) : SVal := if r = 0 then ⟨0, false⟩ else c.s[r]
/-- A vector register. -/
def Ctx.rdV (c : Ctx) (r : VReg) : VVal := c.v[r]
/-- p0 reads as all ones. -/
def Ctx.rdP (c : Ctx) (r : PReg) : Pred := if r = 0 then 0xFFFF else c.p[r]
/-- Writes to s0 are discarded. -/
def Ctx.wrS (c : Ctx) (r : SReg) (x : SVal) : Ctx := if r = 0 then c else { c with s := c.s.set r x }
/-- Lanes under a mask (07 R141). -/
def mergeLanes (mask : Pred) (new old : VVal) : VVal :=
  Vector.ofFn (fun i => if mask.getLsb i then new[i] else old[i])
def Ctx.wrV (c : Ctx) (r : VReg) (mask : Pred) (x : VVal) : Ctx :=
  { c with v := c.v.set r (mergeLanes mask x c.v[r]) }
/-- Writes to p0 are discarded. -/
def Ctx.wrP (c : Ctx) (r : PReg) (mask x : Pred) : Ctx :=
  if r = 0 then c else { c with p := c.p.set r ((c.p[r] &&& ~~~mask) ||| (x &&& mask)) }

/-! ### Results in flight (04 R80) -/

/-- A result in flight of no special kind. -/
def mkPend (lat : Nat) (d : Dest) : Pend := ⟨lat, d, [], .z32, none, false, false, none, false, true⟩

/-- A result joins those in flight, in issue order. -/
def Ctx.push (c : Ctx) (p : Pend) : Ctx := { c with pend := c.pend ++ [p] }

/-- The place of a scalar result whose value comes after the bundle has committed (XLD, XDROP, QPOST); none for s0. -/
def Ctx.owe (c : Ctx) (r : SReg) : Ctx :=
  if r = 0 then c else c.push { mkPend 0 (.sreg r ⟨0, false⟩) with owed := true }

/-- The first owed result among those in flight takes its value, which lands with the next issue cycle. -/
def payFirst (v : SVal) : List Pend → List Pend
  | [] => []
  | p :: r => if p.owed then { p with owed := false, dest := (match p.dest with
      | .sreg x _ => .sreg x v
      | x => x) } :: r else p :: payFirst v r

/-- The owed result of register `r` is paid. -/
def Ctx.pay (c : Ctx) (r : SReg) (v : SVal) : Ctx := if r = 0 then c else { c with pend := payFirst v c.pend }

/-- The owed result of register `r` is never written: what owed it has faulted. -/
def Ctx.forgo (c : Ctx) (r : SReg) : Ctx := if r = 0 then c else { c with pend := c.pend.eraseP (fun p => p.owed) }

/-- An issue cycle of the context has passed: its results in flight are one cycle nearer (04 R80). -/
def Ctx.age (c : Ctx) : Ctx := { c with pend := c.pend.map (fun p => { p with left := p.left - 1, fresh := false }) }

/-- The same for a counted cycle that is not that of the bundle whose slots still wait (04 R89, log 59): its own results
keep their places. -/
def Ctx.ageOld (c : Ctx) : Ctx :=
  { c with pend := c.pend.map (fun p => if p.fresh then p else { p with left := p.left - 1 }) }

/-- The issuing context gains a result that lands at latency `lat`. -/
def State.push (s : State) (lat : Nat) (d : Dest) : State := s.updCtx (fun c => c.push (mkPend lat d))

/-- A scalar result: discarded for s0. -/
def State.pushS (s : State) (lat : Nat) (r : SReg) (v : DWord) (poison : Bool) : State :=
  if r = 0 then s else s.push lat (.sreg r ⟨v, poison⟩)

/-- Flags that land with a result; nothing lands for no flag. -/
def State.pushFlags (s : State) (lat : Nat) (f : Flags) : State := if f = 0 then s else s.push lat (.flags f)

/-- A predicate result: discarded for p0. -/
def State.pushP (s : State) (lat : Nat) (r : PReg) (mask v : Pred) : State :=
  if r = 0 then s else s.push lat (.preg r mask v)

/-- Sticky flags that a unit of the cluster sets in the program's STATUS (05 R111). -/
def Cluster.unitFlags (c : Cluster) (f : Flags) : Cluster := { c with
  prog := { c.prog with status := c.prog.status ||| f }, statusIn := c.statusIn ||| f }

/-! ### Time -/

/-- The cycles of a cluster's module: what counts of cycles on it go by. -/
def State.cyc (s : State) (k : Nat) : Nat := (s.module (modOf k)).cycles

/-- The GTS of a module, 64 bits (05 Table 5.10). -/
def State.gtsOf (s : State) (m : Nat) : Nat := (s.module m).gts
def State.strokeOf (s : State) (m : Nat) : Nat := s.gtsOf m / 4096
def State.cisOf (s : State) (m : Nat) : Nat := s.gtsOf m % 4096

/-! ### Taking a fault (24 R383) -/

/-- The context takes a fault: CAUSE and SLOTRES are written, the context is parked (trapped), and its token sets
out. SWCODE is cleared but for SOFT_TRAP. A resumption re-enters at the slot that SLOTRES names. -/
def Ctx.takeFault (c : Ctx) (f : FaultRec) : Ctx :=
  { c with
    code := BitVec.ofNat 7 f.code, info := f.info, swcode := f.sw, slotres := f.slot
    park := .trapped, fault := some ({ f with ovf := c.faultOvf }, .travelling), faultAge := 0, faultOvf := false
    target := if f.slot = 14 then c.target else none, entry := f.slot.toNat }

/-- The record of a precise fault of the bundle being issued. -/
def State.faultRec (s : State) (code : Nat) (info : Word) (sw : BitVec 11) (slot : Nat) (va : Nat) : FaultRec :=
  ⟨code, info, sw, BitVec.ofNat 4 slot, false, false, s.ctx.pc, va, s.strokeOf (modOf s.cur), false⟩

/-- A precise fault in the slot being committed: no slot from it onward commits (03 R75). -/
def State.raise (s : State) (code : Nat) (info : Word) (va : Nat := 0) : State :=
  { s.updCtx (fun c => c.takeFault (s.faultRec code info 0 s.slot va)) with stop := true }

/-- A fault raised once the whole bundle has committed: SLOTRES is 14 (24 R384). -/
def State.raiseAfter (s : State) (code : Nat) (info : Word) (sw : BitVec 11) : State :=
  s.updCtx (fun c => c.takeFault (s.faultRec code info sw 14 0))

/-- ILLEGAL_FIELD in the slot being committed (03 R74). -/
def State.illegalField (s : State) : State := s.raise 0x02 s.word
/-- ILLEGAL_OP in the slot being committed. -/
def State.illegalOp (s : State) : State := s.raise 0x01 s.word
/-- POISON_USE (09 R200): INFO is the virtual address where an address was used, else 0. -/
def State.poisonUse (s : State) (va : Nat := 0) : State := s.raise 0x26 (BitVec.ofNat 32 va) va

/-- An asynchronous fault of a context (24 R384): recorded; taken at the next issue cycle, or at once where the
context is parked. A fifth pending fault is dropped and OVF is set in the next token. -/
def Ctx.recordFault (c : Ctx) (f : FaultRec) : Ctx :=
  if c.faultQ.length < 4 then { c with faultQ := c.faultQ ++ [f] } else { c with faultOvf := true }

def State.asyncFault (s : State) (k : Nat) (fw : Bool) (code : Nat) (info : Word) (va : Nat := 0) : State :=
  let c := s.ctxOf k fw
  s.setCtxOf k fw (c.recordFault ⟨code, info, 0, 0, true, false, c.pc, va, s.strokeOf (modOf k), false⟩)

/-- Firmware bundles name only v0 to v15 (05 R106). -/
def State.fwBad (s : State) (rs : List VReg) : Bool := s.curFw && rs.any (fun r => decide (16 ≤ r.val))

end Sys2Proof.Machine
end

