-- ==== Sys2Proof/Machine/Operands.lean ====
section
/-! DEFINITION. Operand forms: the governed vector form (07 R141), register groups (08 R159), the addresses of
memory operands (09 R183, R188) and the registers a slot names (used by the interlocks of 05 R116). -/

namespace Sys2Proof.Machine

/-- A lane's result: its value, its flags, its poison mark. -/
abbrev LaneRes := Word × Flags × Bool

/-- OR of the flags of the active lanes. -/
def orFlags (m : Pred) (r : Vector LaneRes 16) : Flags :=
  (List.finRange 16).foldl (fun f i => if m.getLsb i then f ||| r[i].2.1 else f) 0

/-- A governed form: lane i of d is written with `f i` where bit i of the predicate is 1; an inactive lane
computes nothing and sets no flag (07 R141, R143). -/
def State.vlanes (s : State) (lat : Nat) (d : VReg) (m : Pred) (f : Fin 16 → LaneRes) : State :=
  let r := Vector.ofFn (fun i => if m.getLsb i then f i else ((0, 0, false) : LaneRes))
  (s.push lat (.vreg d m (Vector.ofFn (fun i => ⟨r[i].1, r[i].2.2⟩)))).pushFlags lat (orFlags m r)

/-- Three registers: d, a, b; `f` sees the elements A, B and Dold. -/
def State.vec3 (s : State) (lat : Nat) (d a b : VReg) (p : PReg) (useD : Bool)
    (f : Word → Word → Word → Word × Flags) : State :=
  if s.fwBad [d, a, b] then s.illegalField
  else
    let c := s.ctx
    let x := c.rdV a
    let y := c.rdV b
    let z := c.rdV d
    s.vlanes lat d (c.rdP p) (fun i =>
      let r := f x[i].val y[i].val z[i].val
      (r.1, r.2, x[i].poison || y[i].poison || (useD && z[i].poison)))

/-- Two registers: d, a. -/
def State.vec2 (s : State) (lat : Nat) (d a : VReg) (p : PReg) (f : Word → Word × Flags) : State :=
  if s.fwBad [d, a] then s.illegalField
  else
    let c := s.ctx
    let x := c.rdV a
    s.vlanes lat d (c.rdP p) (fun i =>
      let r := f x[i].val
      (r.1, r.2, x[i].poison))

/-- A permutation of the lanes of a and b: `g i` says which lane of which source reaches lane i. -/
def State.vperm (s : State) (d a b : VReg) (p : PReg) (g : Fin 16 → Bool × Fin 16) : State :=
  if s.fwBad [d, a, b] then s.illegalField
  else
    let c := s.ctx
    let x := c.rdV a
    let y := c.rdV b
    s.vlanes 2 d (c.rdP p) (fun i =>
      let l := if (g i).1 then y[(g i).2] else x[(g i).2]
      (l.val, 0, l.poison))

/-- Register `r + k` of a group. -/
def grp (r : VReg) (k : Nat) : VReg := Fin.ofNat 64 (r.val + k)

/-- Latency of a form by its type: integer or floating point. -/
def latOf (t : ElemTy) (li lf : Nat) : Nat := if isFloat t then lf else li

/-- Bytes of an element or of a scalar memory type. -/
def ebytes (t : ElemTy) : Nat := ebits t / 8
def mbytes : MemTy → Nat
  | .s8 | .z8 => 1
  | .s16 | .z16 => 2
  | .s32 | .z32 => 4
  | .s64 => 8

/-- A loaded scalar under its type (09 R189). -/
def mextend (t : MemTy) (v : Nat) : DWord :=
  match t with
  | .s8 => BitVec.ofInt 64 (sext 8 v)
  | .s16 => BitVec.ofInt 64 (sext 16 v)
  | .s32 => BitVec.ofInt 64 (sext 32 v)
  | .s64 => BitVec.ofNat 64 v
  | .z8 => BitVec.ofNat 64 (v % 2 ^ 8)
  | .z16 => BitVec.ofNat 64 (v % 2 ^ 16)
  | .z32 => BitVec.ofNat 64 (v % 2 ^ 32)

/-- ea = s[base] + sext(off7) * size, modulo 2^64 (09 R183). -/
def effAddr (base : DWord) (off : BitVec 7) (size : Nat) : Nat := wrapNat 64 (base.toNat + off.toInt * size)

/-- s[a] + i * s[b], modulo 2^64 (09 Table 9.1). -/
def strideAddr (base stride : DWord) (i : Nat) : Nat := (base.toNat + i * stride.toNat) % 2 ^ 64

/-- s[a] + sext(offset), modulo 2^64 (09 Table 9.1). -/
def indexAddr (base : DWord) (off : Word) : Nat := wrapNat 64 (base.toNat + off.toInt)

end Sys2Proof.Machine
end

