-- ==== Sys2Proof/Machine/Scalar.lean ====
section
/-! DEFINITION. The scalar instructions of the S slots (05 R112 to R121): operand forms, results, latencies. -/

namespace Sys2Proof.Machine

/-- The outcome of every meaning: the machine goes on (a fault of the spec is taken, not an outcome). -/
abbrev Out := Host.Outcome State Fault Refusal

/-- The state that a meaning leads to; every one gives a next state. -/
def State.run (s : State) (f : State → Out) : State :=
  match f s with
  | .next t => t
  | _ => s

/-- A three-register form: the result of `f` on s[a] and s[b] lands at `lat`. -/
def State.scalar2 (s : State) (lat : Nat) (d a b : SReg) (f : DWord → DWord → DWord) : State :=
  let x := s.ctx.rdS a
  let y := s.ctx.rdS b
  s.pushS lat d (f x.val y.val) (x.poison || y.poison)

/-- A two-register form. -/
def State.scalar1 (s : State) (lat : Nat) (d a : SReg) (f : DWord → DWord) : State :=
  let x := s.ctx.rdS a
  s.pushS lat d (f x.val) x.poison

/-- sext(imm14). -/
def imm14 (i : BitVec 14) : DWord := BitVec.ofInt 64 i.toInt

-- The operations on W-bit operands (05 R114).
def opAdd (w : Width) (x y : DWord) : DWord := put w (sv w x + sv w y)
def opSub (w : Width) (x y : DWord) : DWord := put w (sv w x - sv w y)
def opAnd (w : Width) (x y : DWord) : DWord := put w (((x &&& y).toNat : Nat) : Int)
def opOr (w : Width) (x y : DWord) : DWord := put w (((x ||| y).toNat : Nat) : Int)
def opXor (w : Width) (x y : DWord) : DWord := put w (((x ^^^ y).toNat : Nat) : Int)
def opMin (w : Width) (x y : DWord) : DWord := put w (min (sv w x) (sv w y))
def opMax (w : Width) (x y : DWord) : DWord := put w (max (sv w x) (sv w y))
def opMinu (w : Width) (x y : DWord) : DWord := put w ((min (uv w x) (uv w y) : Nat) : Int)
def opMaxu (w : Width) (x y : DWord) : DWord := put w ((max (uv w x) (uv w y) : Nat) : Int)
def opSlt (w : Width) (x y : DWord) : DWord := if sv w x < sv w y then 1 else 0
def opSltu (w : Width) (x y : DWord) : DWord := if uv w x < uv w y then 1 else 0
def opSeq (w : Width) (x y : DWord) : DWord := if uv w x = uv w y then 1 else 0
-- Multiplies (05 R115).
def opMul (w : Width) (x y : DWord) : DWord := put w (sv w x * sv w y)
def opMulh (w : Width) (x y : DWord) : DWord := put w (floorShr (sv w x * sv w y) (wbits w))
def opMulhu (w : Width) (x y : DWord) : DWord := put w ((uv w x * uv w y / 2 ^ wbits w : Nat) : Int)
-- Divides (05 R116).
def opDiv (w : Width) (x y : DWord) : DWord :=
  if uv w y = 0 then put w (-1) else put w (Int.tdiv (sv w x) (sv w y))
def opDivu (w : Width) (x y : DWord) : DWord :=
  if uv w y = 0 then put w ((2 ^ wbits w - 1 : Nat) : Int) else put w ((uv w x / uv w y : Nat) : Int)
def opRem (w : Width) (x y : DWord) : DWord :=
  if uv w y = 0 then put w (sv w x) else put w (sv w x - sv w y * Int.tdiv (sv w x) (sv w y))
def opRemu (w : Width) (x y : DWord) : DWord :=
  if uv w y = 0 then put w ((uv w x : Nat) : Int) else put w ((uv w x % uv w y : Nat) : Int)
/-- Divide latency (05 Table 5.12). -/
def divLat : Width → Nat
  | .w8 => 6
  | .w16 => 10
  | .w32 => 18
  | .w64 => 34
-- Shifts by a count of W or more are legal (05 R117).
def opShl (w : Width) (x : DWord) (n : Nat) : DWord :=
  if n ≥ wbits w then 0 else put w ((uv w x * 2 ^ n : Nat) : Int)
def opShr (w : Width) (x : DWord) (n : Nat) : DWord :=
  if n ≥ wbits w then 0 else put w ((uv w x / 2 ^ n : Nat) : Int)
def opSra (w : Width) (x : DWord) (n : Nat) : DWord := put w (floorShr (sv w x) (min n 64))
-- Counts (05 R118).
def opClz (w : Width) (x : DWord) : DWord := BitVec.ofNat 64 (leadZeros (wbits w) (uv w x))
def opCtz (w : Width) (x : DWord) : DWord := BitVec.ofNat 64 (trailZeros (wbits w) (uv w x))
def opPopc (w : Width) (x : DWord) : DWord := BitVec.ofNat 64 (popBits (wbits w) (uv w x))

def execAdd (d a b : SReg) (w : Width) (s : State) : Out := .next (s.scalar2 1 d a b (opAdd w))
def execSub (d a b : SReg) (w : Width) (s : State) : Out := .next (s.scalar2 1 d a b (opSub w))
def execAnd (d a b : SReg) (w : Width) (s : State) : Out := .next (s.scalar2 1 d a b (opAnd w))
def execOr (d a b : SReg) (w : Width) (s : State) : Out := .next (s.scalar2 1 d a b (opOr w))
def execXor (d a b : SReg) (w : Width) (s : State) : Out := .next (s.scalar2 1 d a b (opXor w))
def execMin (d a b : SReg) (w : Width) (s : State) : Out := .next (s.scalar2 1 d a b (opMin w))
def execMax (d a b : SReg) (w : Width) (s : State) : Out := .next (s.scalar2 1 d a b (opMax w))
def execMinu (d a b : SReg) (w : Width) (s : State) : Out := .next (s.scalar2 1 d a b (opMinu w))
def execMaxu (d a b : SReg) (w : Width) (s : State) : Out := .next (s.scalar2 1 d a b (opMaxu w))
def execSlt (d a b : SReg) (w : Width) (s : State) : Out := .next (s.scalar2 1 d a b (opSlt w))
def execSltu (d a b : SReg) (w : Width) (s : State) : Out := .next (s.scalar2 1 d a b (opSltu w))
def execSeq (d a b : SReg) (w : Width) (s : State) : Out := .next (s.scalar2 1 d a b (opSeq w))
/-- 05 R115: latency 4. -/
def execMul (d a b : SReg) (w : Width) (s : State) : Out := .next (s.scalar2 4 d a b (opMul w))
def execMulh (d a b : SReg) (w : Width) (s : State) : Out := .next (s.scalar2 4 d a b (opMulh w))
def execMulhu (d a b : SReg) (w : Width) (s : State) : Out := .next (s.scalar2 4 d a b (opMulhu w))

/-- A divide: accepted in S0 alone (05 R113); its result is in flight with the divider's mark (05 R116). A divide
to s0 still occupies the divider. In S1 a word that has a bad field too raises ILLEGAL_FIELD (DESIGN CHOICE, log 63). -/
def State.divide (s : State) (d a b : SReg) (w : Width) (f : DWord → DWord → DWord) : State :=
  if s.slot = 0 then
    let x := s.ctx.rdS a
    let y := s.ctx.rdS b
    s.updCtx (fun c => c.push
      { mkPend (divLat w) (.sreg d ⟨f x.val y.val, x.poison || y.poison⟩) with div := true })
  else s.illegalOp

def execDiv (d a b : SReg) (w : Width) (s : State) : Out := .next (s.divide d a b w (opDiv w))
def execDivu (d a b : SReg) (w : Width) (s : State) : Out := .next (s.divide d a b w (opDivu w))
def execRem (d a b : SReg) (w : Width) (s : State) : Out := .next (s.divide d a b w (opRem w))
def execRemu (d a b : SReg) (w : Width) (s : State) : Out := .next (s.divide d a b w (opRemu w))

/-- A shift by a register: the count is s[b] at width 64 (05 R117). A marked one raises POISON_USE (09 R200). -/
def State.shift (s : State) (d a b : SReg) (f : DWord → Nat → DWord) : State :=
  if (s.ctx.rdS b).poison then s.poisonUse else s.scalar2 1 d a b (fun x y => f x y.toNat)

def execShl (d a b : SReg) (w : Width) (s : State) : Out := .next (s.shift d a b (opShl w))
def execShr (d a b : SReg) (w : Width) (s : State) : Out := .next (s.shift d a b (opShr w))
def execSra (d a b : SReg) (w : Width) (s : State) : Out := .next (s.shift d a b (opSra w))

/-- SEL: all 64 bits; the mark follows every source read (09 R200). -/
def execSel (d a b c : SReg) (s : State) : Out :=
  let x := s.ctx.rdS a
  let y := s.ctx.rdS b
  let z := s.ctx.rdS c
  .next (s.pushS 1 d (if z.val ≠ 0 then x.val else y.val) (x.poison || y.poison || z.poison))
def execMov (d a : SReg) (s : State) : Out := .next (s.scalar1 1 d a (fun x => x))
def execClz (d a : SReg) (w : Width) (s : State) : Out := .next (s.scalar1 1 d a (opClz w))
def execCtz (d a : SReg) (w : Width) (s : State) : Out := .next (s.scalar1 1 d a (opCtz w))
def execPopc (d a : SReg) (w : Width) (s : State) : Out := .next (s.scalar1 1 d a (opPopc w))

/-- BFX (05 R119): s[a][pos + len - 1 : pos], zero-extended. -/
def execBfx (d a : SReg) (pos lenm1 : Fin 64) (s : State) : Out :=
  .next (s.scalar1 1 d a (fun x => BitVec.ofNat 64 (fld x.toNat pos.val (lenm1.val + 1))))
/-- BFI (05 R119): the field of s[d] replaced by the low bits of s[a]. -/
def execBfi (d a : SReg) (pos lenm1 : Fin 64) (s : State) : Out :=
  .next (s.scalar2 1 d d a (fun old x => BitVec.ofNat 64 (setFld old.toNat pos.val (lenm1.val + 1) x.toNat)))

def execAddi (d a : SReg) (w : Width) (i : BitVec 14) (s : State) : Out :=
  .next (s.scalar1 1 d a (fun x => opAdd w x (imm14 i)))
def execAndi (d a : SReg) (w : Width) (i : BitVec 14) (s : State) : Out :=
  .next (s.scalar1 1 d a (fun x => opAnd w x (imm14 i)))
def execOri (d a : SReg) (w : Width) (i : BitVec 14) (s : State) : Out :=
  .next (s.scalar1 1 d a (fun x => opOr w x (imm14 i)))
def execXori (d a : SReg) (w : Width) (i : BitVec 14) (s : State) : Out :=
  .next (s.scalar1 1 d a (fun x => opXor w x (imm14 i)))
def execShli (d a : SReg) (w : Width) (n : Fin 64) (s : State) : Out :=
  .next (s.scalar1 1 d a (fun x => opShl w x n.val))
def execShri (d a : SReg) (w : Width) (n : Fin 64) (s : State) : Out :=
  .next (s.scalar1 1 d a (fun x => opShr w x n.val))
def execSrai (d a : SReg) (w : Width) (n : Fin 64) (s : State) : Out :=
  .next (s.scalar1 1 d a (fun x => opSra w x n.val))

/-- LI (05 R120). -/
def execLi (d : SReg) (i : BitVec 21) (s : State) : Out := .next (s.pushS 1 d (BitVec.ofInt 64 i.toInt) false)
/-- LUI (05 R120): (s[d] * 2^21 + imm21) modulo 2^64. -/
def execLui (d : SReg) (i : BitVec 21) (s : State) : Out :=
  .next (s.scalar1 1 d d (fun x => BitVec.ofNat 64 (x.toNat * 2 ^ 21 + i.toNat)))

end Sys2Proof.Machine
end

