-- ==== Sys2Proof/Machine/Control.lean ====
section
/-! DEFINITION. The control instructions of the B slot (04 R90 to R104) and the passing of a context to its next
bundle (04 R96). A taken transfer is recorded in `target`; the passing is done once the bundle has committed. -/

namespace Sys2Proof.Machine

/-- The loop-end check of 04 R96 on the active loops, innermost first: the loops after it, the next address, and
the counter that steps. -/
def loopEnd (seq : BitVec 22) : List Loop → List Loop × BitVec 22 × Option (Fin 3 × Int)
  | [] => ([], seq, none)
  | l :: r =>
    if l.loopend = seq then
      if l.remaining > 1 then
        ({ l with remaining := l.remaining - 1 } :: r, l.start, some (l.lc, l.step))
      else loopEnd seq r
    else (l :: r, seq, none)

/-- The context passes to its next bundle: the taken transfer, or the next address after the loop-end check, whose
step lands `lat` issue cycles from here (04 R96). -/
def Ctx.advanceAt (c : Ctx) (lat : Nat) : Ctx :=
  match c.target with
  | some t => { c with pc := t, target := none, entry := 0, unstamped := false }
  | none =>
    let (ls, next, step) := loopEnd c.seqPc c.loops
    let c := { c with pc := next, loops := ls, entry := 0, unstamped := false }
    match step with
    | some (i, st) => c.push (mkPend lat (.lcStep i st))
    | none => c

/-- The bundle has committed and the context stays at it, for what the bundle left to do or a fault raised after it (24
R384): the loop-end check is made, its step landing `lat` issue cycles from here, and the next bundle is its transfer
(04 R96, 24 R393). -/
def Ctx.closeAt (c : Ctx) (lat : Nat) : Ctx :=
  let c := { c with entry := 14 }
  match c.target with
  | some _ => c
  | none =>
    let (ls, next, step) := loopEnd c.seqPc c.loops
    let c := { c with target := some next, loops := ls }
    match step with
    | some (i, st) => c.push (mkPend lat (.lcStep i st))
    | none => c

/-- The context passes on in the issue cycle of its bundle. -/
def Ctx.advance (c : Ctx) : Ctx := c.advanceAt 1

/-- A pc-relative target: header address plus 4 times the offset, modulo 2^22 (04 R90). -/
def pcRel (pc : BitVec 22) (off : Int) : BitVec 22 := BitVec.ofInt 22 (pc.toNat + 4 * off)

/-- A taken transfer of the issuing context. -/
def State.transfer (s : State) (t : BitVec 22) : State := s.updCtx (fun c => { c with target := some t })

/-- A transfer to an address in a register (03 R64, 04 R92). -/
def State.transferReg (s : State) (x : SVal) : State :=
  let t := BitVec.ofNat 22 x.val.toNat
  if x.poison then s.poisonUse x.val.toNat
  else if t.toNat % 4 ≠ 0 then s.raise 0x06 (BitVec.ofNat 32 t.toNat)
  else s.transfer t

def execBr (off : BitVec 26) (s : State) : Out := .next (s.transfer (pcRel s.ctx.pc off.toInt))

/-- BRC's condition on a signed value (03 R63). -/
def condHolds (cc : BCond) (x : Int) : Bool :=
  match cc with
  | .eq => x == 0
  | .ne => x != 0
  | .lt => x < 0
  | .ge => x ≥ 0
  | .gt => x > 0
  | .le => x ≤ 0

def execBrc (a : SReg) (cc : BCond) (off : BitVec 18) (s : State) : Out :=
  .next (
    let x := s.ctx.rdS a
    if x.poison then s.poisonUse
    else if condHolds cc x.val.toInt then s.transfer (pcRel s.ctx.pc off.toInt) else s)

/-- BRP's and PHEND's reading of a predicate (04 R94). -/
def predHolds (m : BMode) (x : Pred) : Bool :=
  match m with
  | .any => x != 0
  | .all => x == 0xFFFF
  | .none => x == 0

def execBrp (p : PReg) (m : BMode) (off : BitVec 20) (s : State) : Out :=
  .next (if predHolds m (s.ctx.rdP p) then s.transfer (pcRel s.ctx.pc off.toInt) else s)

/-- BRU (04 R94): a mixed predicate raises NONUNIFORM. -/
def execBru (p : PReg) (sense : Bool) (off : BitVec 20) (s : State) : Out :=
  .next (
    let x := s.ctx.rdP p
    if x ≠ 0 ∧ x ≠ 0xFFFF then s.raise 0x10 (BitVec.ofNat 32 x.toNat)
    else if x = (if sense then 0 else 0xFFFF) then s.transfer (pcRel s.ctx.pc off.toInt) else s)

def execJmpi (a : SReg) (s : State) : Out := .next (s.transferReg (s.ctx.rdS a))
/-- CALL (04 R92): s31 gets the address of the word after the bundle, at latency 1. -/
def execCall (off : BitVec 26) (s : State) : Out :=
  .next ((s.pushS 1 31 (BitVec.ofNat 64 s.ctx.seqPc.toNat) false).transfer (pcRel s.ctx.pc off.toInt))
def execRet (s : State) : Out := .next (s.transferReg (s.ctx.rdS 31))

/-- The loops outside loop lc and those started after it; none where lc is inactive (04 R95, R98). -/
def dropLoop (lc : Fin 3) : List Loop → Option (Loop × List Loop)
  | [] => none
  | l :: r => if l.lc = lc then some (l, r) else dropLoop lc r

/-- Words of the bundle being issued: header, stamp and slot words. -/
def Ctx.bundleWords (c : Ctx) : Nat := (c.seqPc - c.pc).toNat / 4

/-- The start of a loop with count `n` (04 R95). -/
def State.startLoop (s : State) (lc : Fin 3) (n : Nat) (step : Int) (fin : Nat) : State :=
  let c := s.ctx
  let loopend := pcRel c.pc fin
  if n = 0 then s.updCtx (fun c => { c with seqPc := loopend })
  else
    let outer := match dropLoop lc c.loops with
      | some (_, r) => r
      | none => c.loops
    let first : Int := if step > 0 then 0 else ((n - 1 : Nat) : Int) * (0 - step)
    (s.updCtx (fun c => { c with loops := ⟨lc, n, step, loopend, c.seqPc⟩ :: outer })).push 1
      (.lcSet lc (BitVec.ofInt 64 first))

def execLoop (lc : Fin 3) (a : SReg) (step : BitVec 4) (fin : BitVec 15) (s : State) : Out :=
  .next (
    let x := s.ctx.rdS a
    if step = 0 then s.raise 0x11 0
    else if fin.toNat ≤ s.ctx.bundleWords then s.illegalField
    else if x.poison then s.poisonUse
    else s.startLoop lc (x.val.toNat % 2 ^ 32) step.toInt fin.toNat)

def execLoopi (lc : Fin 3) (count : BitVec 10) (step : BitVec 4) (fin : BitVec 10) (s : State) : Out :=
  .next (
    if step = 0 then s.raise 0x11 0
    else if fin.toNat ≤ s.ctx.bundleWords then s.illegalField
    else s.startLoop lc count.toNat step.toInt fin.toNat)

/-- LEXIT (04 R98): no effect on an inactive counter. -/
def execLexit (lc : Fin 3) (s : State) : Out :=
  .next (
    match dropLoop lc s.ctx.loops with
    | some (l, r) => (s.updCtx (fun c => { c with loops := r })).transfer l.loopend
    | none => s)

/-- The phase entry that is current (11 R210); none of a phase store that is lost to an error (24 R400, log 64). -/
def Cluster.cur (c : Cluster) : Option Phase := if c.bad.contains 1 then none else c.phases[c.phase]?

/-- The context ends its phase: it parks, at slot B of its bundle (04 R99). In the firmware context, which belongs to no phase,
PHEND, BSEL and HALT park it until firmware is activated again (DESIGN CHOICE, log 63: R99 to R101 speak of members). -/
def State.endPhase (s : State) (e : PhEnd) : State :=
  s.updCtx (fun c => { c with park := .phase e, entry := 13 })

/-- BSEL (04 R99, R100). -/
def execBsel (a : SReg) (s : State) : Out :=
  .next (
    let x := s.ctx.rdS a
    let d := x.val.toNat % 2 ^ 32
    let buckets := match s.me.cur with
      | some p => p.buckets
      | none => []
    if x.poison then s.poisonUse
    else if buckets.all (fun b => decide (b.1 < d)) then s.raise 0x12 (BitVec.ofNat 32 d)
    else s.endPhase (.bsel d))

/-- PHEND (04 R99): the member contributes 1 if any bit of p is set. -/
def execPhend (p : PReg) (m : BMode) (s : State) : Out :=
  .next (s.endPhase (.phend m (s.ctx.rdP p != 0)))

def execHalt (s : State) : Out := .next (s.endPhase .halt)

/-- TRAP (04 R102): raised once the bundle has committed. -/
def execTrap (code : BitVec 11) (s : State) : Out := .next (s.raiseAfter 0x70 0 code)

/-- A present NOP does nothing (03 R76, 04 R103). -/
def execNop (s : State) : Out := .next s

/-- An empty bundle: one cycle in which the context issues nothing (03 R53). -/
def execEmptyBundle (s : State) : Out := .next s

/-- A header fault (03 R75): SLOTRES 0, nothing commits, HDR set in the token. -/
def State.headerFault (s : State) (code : Nat) (info : Word) : State :=
  { s.updCtx (fun c => c.takeFault { s.faultRec code info 0 0 0 with hdr := true }) with stop := true }

/-- A folded run (03 R54): the first of its `n` empty cycles; a count of 0 is ILLEGAL_FIELD in the header. -/
def execFoldedRun (n : BitVec 16) (s : State) : Out :=
  .next (
    if n = 0 then s.headerFault 0x02 s.word
    else s.updCtx (fun c => { c with runLeft := (if c.runLeft = 0 then n.toNat else c.runLeft) - 1 }))

/-- A header of kind 0x3 to 0xF reached by issue (03 R53, R72). -/
def execIllegalKindHeader (h : Word) (s : State) : Out := .next (s.headerFault 0x00 h)

/-- A slot word with an unassigned opcode, or one its slot does not accept (03 R58, R60, R62, R64, R67). -/
def execUnassignedOpcode (w : Word) (s : State) : Out := .next (s.raise 0x01 w)

/-- The cycle a stamp names: (PHBASE + stroke offset, cycle) as a GTS (04 R87). -/
def stampTime (c : Cluster) (st : Word) : Nat := (c.phbase + st.toNat / 4096) * 4096 + st.toNat % 4096

/-- A stamped bundle at issue (04 R88): late, it raises STAMP_LATE and no slot commits; in its cycle it issues;
before its cycle the context waits (nothing is changed: the cycle counts as an issue cycle). -/
def execStampedBundleIssue (st : Word) (s : State) : Out :=
  .next (
    let g := s.gtsOf (modOf s.cur)
    let t := stampTime s.me st
    if s.ctx.unstamped ∨ g ≤ t then s
    else { s.updCtx (fun c => c.takeFault (s.faultRec 0x71 (BitVec.ofNat 32 (min (g - t) 0xFFFFFFFF)) 0 0 0))
      with stop := true })

end Sys2Proof.Machine
end

