-- ==== Sys2Proof/Machine/Extent.lean ====
section
/-! DEFINITION. Extents (11 R205 to R218): the search of the current table, translation, EXTQ, MAPREQ and the
changes that residency may make. The service that makes them is in Residency. -/

namespace Sys2Proof.Machine

/-- The extent table of the phase that is current (11 R205); none that is lost to an error (24 R400, log 64). -/
def Cluster.table (c : Cluster) : List Extent :=
  match c.cur with
  | some p => if c.bad.contains 2 then [] else p.ext
  | none => []

/-- The entry covers all of the bytes [va, va + n). -/
def Extent.covers (e : Extent) (va n : Nat) : Bool := e.v && decide (e.vbase ≤ va) && decide (va + n ≤ e.vbase + e.len)
/-- The entry covers some of the bytes. -/
def Extent.meets (e : Extent) (va n : Nat) : Bool := e.v && decide (e.vbase < va + n) && decide (va < e.vbase + e.len)

/-- Entries of a table that cover all of the bytes, with their numbers. -/
def hitsOf (t : List Extent) (va n : Nat) : List (Nat × Extent) :=
  (t.zipIdx.filter (fun x => x.1.covers va n)).map (fun x => (x.2, x.1))

/-- The one entry that R209 finds for the bytes; none is ADDR_MISS. -/
def findExtent (t : List Extent) (va n : Nat) : Option (Nat × Extent) :=
  if va ≥ 2 ^ 48 then none
  else if t.any (fun e => e.meets va n && !e.covers va n) then none
  else match hitsOf t va n with
    | [x] => some x
    | _ => none

/-- Origin and size of the region a cluster is bound in; an unbound cluster is a region by itself. -/
def regionOf (k : Nat) (c : Cluster) : Nat × Nat × Nat × Nat :=
  match c.bind with
  | some b => (b.row0, b.col0, b.rows, b.cols)
  | none => (rowOf k, colOf k, 1, 1)

/-- Translation of an address in an entry (11 R209), for cluster `k`. -/
def Extent.physical (e : Extent) (k : Nat) (c : Cluster) (va : Nat) : Nat :=
  let off := va - e.vbase
  match e.kind with
  | .remote =>
    if e.rel then
      let (r0, c0, rows, cols) := regionOf k c
      let row := r0 + (rowOf k - r0 + fld e.pbase 27 5) % rows
      let col := c0 + (colOf k - c0 + fld e.pbase 22 5) % cols
      clusterBase (clusterKey (modOf k) (dieOf k) row col) + (e.pbase % 2 ^ 22 + off)
    else (e.pbase + off) % 2 ^ 48
  | _ => clusterBase k + (e.pbase % 2 ^ 22 + off)

/-- Does the PBASE of an entry lie where R211 lets it, with `nmod` modules numbered? -/
def Extent.pbaseOk (e : Extent) (nmod : Nat) : Bool :=
  let last := e.pbase + e.len - 1
  match e.kind with
  | .local => decide (e.pbase < 2 ^ 22) && decide (e.pbase + e.len ≤ 2 ^ 22)
  | .remote =>
    if e.rel then decide (e.pbase < 2 ^ 32) && decide (e.pbase % 2 ^ 22 + e.len ≤ 2 ^ 22)
    else decide (paSpace e.pbase ≤ 2) && last < 2 ^ 48 && paSpace e.pbase == paSpace last &&
      decide (modOf (paCluster e.pbase) < nmod) && decide (modOf (paCluster last) < nmod)
  | _ => e.pbase == 0

/-- The entry of cluster `k` with its PBASE such that its range begins at `pa`, if its kind can have it so. -/
def Extent.moveTo (e : Extent) (k : Nat) (c : Cluster) (pa : Nat) : Option Extent :=
  let t := paCluster pa
  match e.kind with
  | .local => if paSpace pa = 0 ∧ t = k then some { e with pbase := pa % 2 ^ 22 } else none
  | .remote =>
    if e.rel then
      let (r0, c0, rows, cols) := regionOf k c
      if paSpace pa = 0 ∧ dieKey t = dieKey k ∧ r0 ≤ rowOf t ∧ rowOf t < r0 + rows ∧ c0 ≤ colOf t ∧ colOf t < c0 + cols then
        some { e with pbase := (rowOf t + rows - rowOf k) % rows * 2 ^ 27 + (colOf t + cols - colOf k) % cols * 2 ^ 22 + pa % 2 ^ 22 }
      else none
    else some { e with pbase := pa }
  | _ => none

/-- What an access does to its bytes. -/
inductive Acc3 where
  /-- A load; `noisy`: its type may read a NOISE extent. -/
  | load (noisy : Bool)
  | store
  | atomic
deriving DecidableEq, Repr

/-- A fault of Table 9.4 for one element, by its place in the order of checks: (place, cause code). -/
def checkElem (t : List Extent) (a : Acc3) (rp : Bool) (va n : Nat) (align : Nat) : Option (Nat × Nat) :=
  if va % align ≠ 0 then some (2, 0x20)
  else match findExtent t va n with
    | none => some (3, 0x21)
    | some (_, e) =>
      if e.kind = .none then some (3, 0x21)
      else
        let permOk := match a with
          | .load noisy => e.r && (e.kind != .noise || noisy)
          | .store => e.w
          | .atomic => e.r && e.w
        let loads := match a with
          | .load _ => true
          | _ => false
        if !permOk then some (4, 0x22)
        else if e.kind = .noise ∧ !loads then some (5, 0x23)
        else if e.res ≠ .resident ∧ !(loads && rp) then some (6, 0x24)
        else none

/-- The first failing check of an access over its elements: the least place in the order of checks, the lowest
element among those (09 R183, R184): cause code and address. -/
def checkAll (t : List Extent) (a : Acc3) (rp : Bool) (n align : Nat) (vas : List Nat) : Option (Nat × Nat) :=
  let fs := vas.filterMap (fun va => (checkElem t a rp va n align).map (fun f => (f.1, f.2, va)))
  let best := fs.foldl (fun b f => match b with
    | none => some f
    | some g => if f.1 < g.1 then some f else some g) (none : Option (Nat × Nat × Nat))
  best.map (fun f => (f.2.1, f.2.2))

/-- Residency and kind codes (11 Table 11.3). -/
def resCode : Res → Nat
  | .resident => 0
  | .migrating => 1
  | .absent => 2
def kindCode : EKind → Nat
  | .none => 0
  | .local => 1
  | .remote => 2
  | .noise => 3
def bit (b : Bool) : Nat := if b then 1 else 0

/-- The value of EXTQ (11 Table 11.5). -/
def extqWord (t : List Extent) (va : Nat) : DWord :=
  if va ≥ 2 ^ 48 then 0
  else match hitsOf t va 1 with
    | [] => 0
    | [(i, e)] => BitVec.ofNat 64 (e.epoch.toNat * 2 ^ 32 + 2 ^ 16 + bit e.fail * 2 ^ 15 + bit e.pend * 2 ^ 14 +
        i * 2 ^ 8 + resCode e.res * 2 ^ 6 + kindCode e.kind * 2 ^ 4 + bit e.w * 2 ^ 3 + bit e.r * 2 ^ 2)
    | _ => 2

def execExtq (d a : SReg) (s : State) : Out :=
  .next (
    let x := s.ctx.rdS a
    if x.poison then s.poisonUse else s.pushS 1 d (extqWord s.me.table x.val.toNat) false)

/-- Semaphore numbers of the program context (16 R307). -/
def State.semNameBad (s : State) (n : Fin 256) : Bool := !s.curFw && decide (240 ≤ n.val)

/-- A SEMSIG, a SEMSET or another change of the firmware context that names a local-only semaphore (16 R314). -/
def State.semLocalBad (s : State) (n : Fin 256) : Bool := s.curFw && s.me.semLocal.getLsb n

/-- A phase with one entry of its table changed. -/
def Phase.updExt (p : Phase) (i : Nat) (f : Extent → Extent) : Phase := { p with ext := p.ext.modify i f }

/-- MAPREQ (11 R217): the result, whether the semaphore is signalled at once, the entry of a queued request. -/
def mapreqResult (c : Cluster) (va len : Nat) : Nat × Bool × Option Nat :=
  match (if len = 0 ∨ len > 2 ^ 40 then none else findExtent c.table va len) with
  | none => (2, false, none)
  | some (i, e) =>
    if e.kind ≠ .local ∧ e.kind ≠ .remote then (2, false, none)
    else if e.pend then (4, false, none)
    else if e.res = .resident then (1, true, none)
    else if c.mapreqs.length ≥ 8 then (3, false, none)
    else (0, false, some i)

/-- MAPREQ (11 R217). It names a semaphore as an instruction does: one of the firmware's in a program bundle is
ILLEGAL_FIELD (16 R307), and so is a local-only one in a firmware bundle (16 R314; DEDUCED, log 62). -/
def execMapreq (d a b c : SReg) (s : State) : Out :=
  .next (
    let x := s.ctx.rdS a
    let y := s.ctx.rdS b
    let z := s.ctx.rdS c
    let sem : Option (Fin 256) := if c = 0 then none else some (Fin.ofNat 256 z.val.toNat)
    if x.poison ∨ y.poison ∨ (c ≠ 0 ∧ z.poison) then s.poisonUse
    else if sem.any (fun n => s.semNameBad n || s.semLocalBad n) then s.illegalField
    else
      let r := mapreqResult s.me x.val.toNat y.val.toNat
      let s := s.pushS 1 d (BitVec.ofNat 64 r.1) false
      let s := match r.2.1, sem with
        | true, some n => s.push 1 (.semAdd n 1)
        | _, _ => s
      match r.2.2 with
      | none => s
      | some i => s.updMe (fun m =>
          { m with
            phases := m.phases.modify m.phase (fun p => p.updExt i (fun e => { e with pend := true, fail := false }))
            mapreqs := m.mapreqs ++ [⟨m.phase, i, sem⟩] }))

/-- The changes of residency that the service may make (11 Table 11.4). -/
def resMove (a b : Res) : Bool :=
  match a, b with
  | .resident, .migrating => true
  | .migrating, .resident => true
  | .migrating, .absent => true
  | .absent, .migrating => true
  | _, _ => false

def resOf (n : Nat) : Option Res :=
  match n with
  | 0 => some .resident
  | 1 => some .migrating
  | 2 => some .absent
  | _ => none

end Sys2Proof.Machine
end

