-- ==== Sys2Proof/Machine/Sync.lean ====
section
/-! DEFINITION. Semaphores and barriers (chapter 16). The changes of a cycle are gathered in the cluster and
applied in the order of R309; a wait is judged against a running count (R310). -/

namespace Sys2Proof.Machine

/-- sext16 of a 64-bit value. -/
def sv16 (x : DWord) : Int := sext 16 x.toNat

/-- A count read: sign-extended from 16 bits. -/
def semWord (x : Int) : DWord := BitVec.ofInt 64 (sext 16 (wrapNat 16 x))

/-- The last value given to semaphore n in a list of changes. -/
def lastFor (n : Fin 256) (l : List (Fin 256 × Int)) : Option Int := ((l.filter (fun x => x.1 == n)).getLast?).map (·.2)
/-- The sum of the increments of semaphore n. -/
def sumFor (n : Fin 256) (l : List (Fin 256 × Int)) : Int := ((l.filter (fun x => x.1 == n)).map (·.2)).sum

/-- The value of a semaphore after the changes of a cycle, before the clamp (16 R309). -/
def semAfter (c : Cluster) (n : Fin 256) : Int :=
  (match lastFor n c.semWords with
    | some v => v
    | none => match lastFor n (c.semSets.map (·.2)) with
      | some v => v
      | none => c.sem[n]) + sumFor n c.semIncs

/-- A count clamped to its 16 bits. -/
def clampCount (x : Int) : Int := max (-32768) (min x 32767)

/-- The count of a semaphore with the changes that have landed in the present cycle (16 R309, R310). -/
def Cluster.semCount (c : Cluster) (n : Fin 256) : Int := clampCount (semAfter c n)

/-- The changes gathered for the cycle are applied, and those of the next one are gathered; the clamp follows at the end of
the cycle. -/
def Cluster.flushSems (c : Cluster) : Cluster :=
  let touched := (c.semWords.map (·.1)) ++ (c.semSets.map (·.2.1)) ++ (c.semIncs.map (·.1))
  { c with sem := touched.foldl (fun (v : Vector Int 256) (n : Fin 256) => v.set n (semAfter c n)) c.sem, semSets := [], semWords := [], semIncs := c.semNext, semNext := [] }

/-- One semaphore clamped (16 R309): SATHI or SATLO is set and LASTSAT names it. -/
def Cluster.clampSem (c : Cluster) (n : Fin 256) : Cluster :=
  if c.sem[n] > 32767 then { c with sem := c.sem.set n 32767, sync := c.sync ||| 1, lastSat := n }
  else if c.sem[n] < -32768 then { c with sem := c.sem.set n (-32768), sync := c.sync ||| 2, lastSat := n }
  else c

/-- The clamp of every semaphore at the end of a cycle, in ascending number. -/
def Cluster.clampSems (c : Cluster) : Cluster :=
  if c.sem.toList.all (fun x => decide (-32768 ≤ x) && decide (x ≤ 32767)) then c
  else (List.finRange 256).foldl Cluster.clampSem c

/-- The increment of a signal or the value of a set operand: an immediate or a register. -/
def semImm (i : BitVec 8) : Int := i.toInt

def execSemsigImm (n : Fin 256) (imm : BitVec 8) (s : State) : Out :=
  .next (if s.semNameBad n || s.semLocalBad n then s.illegalField else s.push 1 (.semAdd n (semImm imm)))

def execSemsigReg (a : SReg) (n : Fin 256) (s : State) : Out :=
  .next (
    let x := s.ctx.rdS a
    if s.semNameBad n || s.semLocalBad n then s.illegalField
    else if x.poison then s.poisonUse
    else s.push 1 (.semAdd n (sv16 x.val)))

/-- The place of a slot of the bundle being issued in the order of R226: the cycle of its module, then the slot. -/
def State.issueOrd (s : State) : Nat := 16 * s.cyc s.cur + s.slot

def execSemsetImm (n : Fin 256) (imm : BitVec 8) (s : State) : Out :=
  .next (if s.semNameBad n || s.semLocalBad n then s.illegalField else s.push 1 (.semSet n (semImm imm) s.issueOrd))

def execSemsetReg (a : SReg) (n : Fin 256) (s : State) : Out :=
  .next (
    let x := s.ctx.rdS a
    if s.semNameBad n || s.semLocalBad n then s.illegalField
    else if x.poison then s.poisonUse
    else s.push 1 (.semSet n (sv16 x.val) s.issueOrd))

def execSemrd (d : SReg) (n : Fin 256) (s : State) : Out :=
  .next (if s.semNameBad n then s.illegalField else s.pushS 1 d (semWord (s.me.semCount n)) false)

/-- SEMWAIT at issue, its wait satisfied: the count seen, and the decrement, a negative increment of this cycle (16 R309,
R310). An unsatisfied wait changes nothing: the bundle is held. A decrement by the firmware context of a local-only
semaphore is ILLEGAL_FIELD, as R314 says of its SEMSIG and SEMSET (DEDUCED, log 62). -/
def execSemwait (d : SReg) (e : Bool) (n thr : Fin 256) (s : State) : Out :=
  .next (
    if s.semNameBad n || (e && s.semLocalBad n) then s.illegalField
    else
      let x := s.me.semCount n
      if x < (thr.val : Int) then s
      else
        let s := s.pushS 1 d (semWord x) false
        if e then s.updMe (fun c => { c with semIncs := c.semIncs ++ [(n, -(thr.val : Int))] }) else s)

/-- Positive increments of a semaphore that are pending (16 R314): SEMSIGs not landed, engine commands (NOPs and MWAITs
among them) that signal it, outstanding MAPREQs. -/
def Cluster.pendingIncs (c : Cluster) (n : Fin 256) : Int :=
  let ofPend (l : List Pend) : Int := (l.map (fun p => match p.dest with
    | .semAdd m i => if m = n ∧ i > 0 then i else 0
    | _ => 0)).sum
  let pos (m : Fin 256) (i : Int) : Int := if m = n ∧ i > 0 then i else 0
  ofPend c.prog.pend + ofPend c.fw.pend + (c.semNext.map (fun x => pos x.1 x.2)).sum +
    (c.streams.map (fun q => (q.2.map (fun m => if m.bad then 0 else pos m.gsem m.ginc)).sum)).sum +
    (c.mx.queue.map (fun m => if m.bad then 0 else pos m.gsem m.ginc)).sum +
    ((c.mapreqs.filter (fun q => q.sem == some n)).length : Int)

/-- The physical address of a semaphore's signal word (16 Table 16.1). -/
def signalPa (k : Nat) (n : Fin 256) : Nat := 2 * 2 ^ 45 + clusterBase k + 0x2000 + 8 * n.val

/-- Positive increments that stores of the program context of cluster `k` to the signal word carry, issued and not yet
performed: those held as releases (16 R314). -/
def State.pendingStores (s : State) (k : Nat) (n : Fin 256) : Int :=
  (s.net.map (fun m => match m.by_, m.kind, m.phase with
    | _, _, .back _ => (0 : Int)
    | .slot false _, .write pa bs, _ =>
      if m.src = k ∧ pa = signalPa k n ∧ bs.length = 4 then max 0 (sext 16 (ofBytes (bs.map (·.1)))) else 0
    | _, _, _ => 0)).sum

/-- DEADWAIT (16 R314): a program-context wait on a local-only semaphore that no pending increment can satisfy. -/
def State.deadWait (s : State) (n : Fin 256) (thr count : Int) : Bool :=
  !s.curFw && s.me.semLocal.getLsb n && decide (count + s.me.pendingIncs n + s.pendingStores s.cur n < thr)

/-! ### Writes to the semaphore words (16 R312) -/

/-- May a write reach a semaphore word? A local-only semaphore takes writes of its own program context alone; any
other is discarded and sets LOCALHIT (16 R314). -/
def Cluster.semWordOk (c : Cluster) (own : Bool) (n : Fin 256) : Bool := own || !c.semLocal.getLsb n

/-- The signal word: sext(bits [15:0]) joins the increments of the cycle of arrival. -/
def Cluster.signalWord (c : Cluster) (own : Bool) (n : Fin 256) (v : Word) : Cluster :=
  if c.semWordOk own n then { c with semIncs := c.semIncs ++ [(n, sext 16 v.toNat)] } else { c with sync := c.sync ||| 4 }
/-- The set word. -/
def Cluster.setWord (c : Cluster) (own : Bool) (n : Fin 256) (v : Word) : Cluster :=
  if c.semWordOk own n then { c with semWords := c.semWords ++ [(n, sext 16 v.toNat)] } else { c with sync := c.sync ||| 4 }

def execSemSignalWordWrite (k : Nat) (n : Fin 256) (v : Word) (s : State) : Out :=
  .next (s.updCluster k (fun c => c.signalWord false n v))
def execSemSetWordWrite (k : Nat) (n : Fin 256) (v : Word) (s : State) : Out :=
  .next (s.updCluster k (fun c => c.setWord false n v))

/-! ### Barriers -/

/-- BAR_BAD (16 Table 16.5). -/
def State.barBad (s : State) (n : Fin 16) : State := s.raise 0x42 (BitVec.ofNat 32 (2 * 2 ^ 12 + n.val))

/-- BARINIT (16 R318): COUNT, ARR and SCOPE are written at latency 1; PH and RP stay. -/
def execBarinit (sc : Scope) (n : Fin 16) (count : Fin 256) (s : State) : Out :=
  .next (
    let b := s.me.bar[n]
    if count.val = 0 ∨ (sc ≠ .cl ∧ sc ≠ .rg) ∨ b.rp then s.barBad n
    else s.push 1 (.barInit n count.val (sc == .rg)))

/-- BARA's arrival (16 R319), its waits over: the phase recorded, ARR advanced, the barrier completed. -/
def execBara (d : SReg) (sc : Scope) (n : Fin 16) (s : State) : Out :=
  .next (
    let b := s.me.bar[n]
    if b.count = 0 ∨ sc ≠ (if b.rg then .rg else .cl) ∨ (s.curFw ∧ sc = .rg) then s.barBad n
    else if b.rp then s
    else
      let s := s.pushS 1 d (if b.ph then 1 else 0) false
      let m : BitVec 16 := 1 <<< n.val
      let s := s.updCtx (fun c => { c with barArr := if b.ph then c.barArr ||| m else c.barArr &&& ~~~m })
      let arr := b.arr + 1
      let b := if arr = b.count then
          if b.rg then { b with arr := 0, rp := true } else { b with arr := 0, ph := !b.ph }
        else { b with arr := arr }
      s.updMe (fun c => { c with bar := c.bar.set n b }))

/-- BARW issues once the phase has flipped (16 R320): it writes nothing. -/
def execBarw (_n : Fin 16) (s : State) : Out := .next s

/-- The members of the region cluster `k` is bound in (16 R321): row order, holes left out. -/
def State.membersOf (s : State) (k : Nat) : List Nat :=
  let (r0, c0, rows, cols) := regionOf k (s.cluster k)
  let all := (List.range rows).flatMap (fun i => (List.range cols).map (fun j =>
    clusterKey (modOf k) (dieOf k) (r0 + i) (c0 + j)))
  all.filter (fun x => !isLockhouse x)

/-- The flip of a region barrier (16 R319): once every member has sent local completion, all flip in one cycle. -/
def execBarrierRegionFlip (k : Nat) (n : Fin 16) (s : State) : Out :=
  .next (
    let ms := s.membersOf k
    if !ms.isEmpty && ms.all (fun x => (s.cluster x).bar[n].rp) then
      ms.foldl (fun s x => s.updCluster x (fun c =>
        let b := c.bar[n]
        { c with bar := c.bar.set n { b with ph := !b.ph, rp := false } })) s
    else s)

end Sys2Proof.Machine
end

