-- ==== Sys2Proof/Machine/Ctl.lean ====
section
/-! DEFINITION. Spaces 1 and 2 (11 R206, R207): wake words, and the registers of the control blocks, each read and
written as its chapter states; the access tables (26 R422); HSEM (26 R419, R420). -/

namespace Sys2Proof.Machine

/-! ### Masters (26 R422) -/

def mHostA : Nat := 0
def mHostB : Nat := 1
def mMgmt : Nat := 2
def mFw : Nat := 3
def mLock : Nat := 4
/-- A peer module of class c is master 5 + c. -/
def mPeer (c : Nat) : Nat := 5 + c
/-- A program context of the module itself: governed by its extents, not by access tables. -/
def mProg : Nat := 9

/-- Firmware contexts of the module, those of its lockhouses among them, and the management port. -/
def isFw (m : Nat) : Bool := m == mFw || m == mLock
def fwOrMgmt (m : Nat) : Bool := isFw m || m == mMgmt
def isHost (m : Nat) : Bool := m == mHostA || m == mHostB

/-- Class of module `peer` in module `m`'s PEERCLS (26 Table 26.2): 32 modules to an 8-byte register. -/
def State.peerClass (s : State) (m peer : Nat) : Nat := fld (kget 0 (s.module m).peercls (peer / 32)) (2 * (peer % 32)) 2

/-- The master that an access of a context of cluster `k` is at a target of module `m`. -/
def State.masterOf (s : State) (k : Nat) (fw : Bool) (m : Nat) : Nat :=
  if modOf k ≠ m then mPeer (s.peerClass m (modOf k))
  else if fw then (if isLockhouse k then mLock else mFw) else mProg

/-- What a table permits a master: bit 2m reads, bit 2m + 1 writes and atomics. -/
def tableAllows (tab master : Nat) (write : Bool) : Bool := master ≥ 9 || bitAt tab (2 * master + (if write then 1 else 0))

/-- The queue whose registers a control-block offset lies in, on cluster (0, 0) of die 0. -/
def queueOf (k off : Nat) : Option Nat :=
  if k % 4096 = 0 ∧ 0x5000 ≤ off ∧ off < 0x6000 then some ((off - 0x5000) / 64) else none

/-- The access table of a physical address (26 R422): memory window, control block and wake words, or a queue's
registers. -/
def State.accTable (s : State) (pa : Nat) : Nat :=
  let k := paCluster pa
  let off := pa % 2 ^ 22
  if paSpace pa = 0 then (s.cluster k).acctab.toNat % 2 ^ 18
  else match (if paSpace pa = 2 then queueOf k off else none) with
    | some q => kget 0x3FF (s.module (modOf k)).qacc q
    | none => fld (s.cluster k).acctab.toNat 32 18

/-- Does the access table of its target permit an access? -/
def State.accOk (s : State) (master pa : Nat) (write : Bool) : Bool := tableAllows (s.accTable pa) master write

/-! ### HSEM -/

/-- The lease has lapsed (26 R419). -/
def State.leaseLapsed (s : State) (m : Nat) : Bool :=
  decide ((s.strokeOf m + 2 ^ 32 - (s.module m).lease.toNat) % 2 ^ 32 < 2 ^ 31)

/-- Identity of a host port (26 R420). -/
def hostId (master : Nat) : Nat := master + 1

/-- Does host `master` hold HSEM? -/
def State.holdsHsem (s : State) (m master : Nat) : Bool :=
  isHost master && (s.module m).held && (s.module m).owner == hostId master && !s.leaseLapsed m

/-- May an agent write the registers of R419? -/
def State.hsemOk (s : State) (m master : Nat) : Bool := master == mMgmt || s.holdsHsem m master

/-- A take (26 R420): granted when free, lapsed, or the taker's own. -/
def State.hsemTake (s : State) (m owner len : Nat) : State :=
  let md := s.module m
  if len = 0 ∨ len ≥ 2 ^ 24 then s
  else if !md.held || s.leaseLapsed m || md.owner == owner then
    s.updModule m (fun d => { d with held := true, owner := owner, lease := BitVec.ofNat 32 (s.strokeOf m + len) })
  else s

/-- A release (26 R420): by the owner alone. -/
def State.hsemRelease (s : State) (m owner : Nat) : State :=
  if (s.module m).held && (s.module m).owner == owner then s.updModule m (fun d => { d with held := false }) else s

/-! ### Register values -/

def ofBool (b : Bool) : Nat := if b then 1 else 0

/-- SYNCSTAT (16 Table 16.2). -/
def syncstat (c : Cluster) : Nat := c.lastSat.val * 2 ^ 32 + c.sync.toNat
/-- A barrier's state (16 Table 16.3). -/
def barWord (b : Barrier) : Nat :=
  b.count * 2 ^ 24 + b.arr * 2 ^ 16 + ofBool b.rp * 2 ^ 4 + ofBool b.rg * 2 ^ 1 + ofBool b.ph

/-- Does a queued matrix command name tile t (14 R281)? -/
def MOp.names (o : MOp) (t : Acc) : Bool :=
  match o with
  | .run a .. => a == t
  | .zero a => a == t
  | .add d a => d == t || a == t
  | _ => false
/-- A tile is busy while a queued command names it. -/
def Mx.busy (x : Mx) (t : Acc) : Bool := x.queue.any (fun m => m.op.names t)

/-- MXSTAT (14 Table 14.1). -/
def mxstat (x : Mx) : Nat :=
  ((List.finRange 8).map (fun t => ofBool (x.busy t) * 2 ^ t.val)).sum * 2 ^ 48 + x.fifoA.length * 2 ^ 35 +
    x.fifoB.length * 2 ^ 22 + x.queue.length * 2 ^ 18 + ofBool x.wvalid * 2 ^ 17 + ofBool x.padr * 2 ^ 8 +
    x.wtype.val * 2 ^ 4 + x.atype.val

/-- ICHST words (18 Table 18.1). -/
def ichWord (x : Ich) (i : Nat) : Nat :=
  match i with
  | 0 => ofBool x.v * 2 ^ 63 + ofBool x.ret * 2 ^ 62 + (x.slots - 1) * 2 ^ 56 + (x.sbytes / 32 - 1) * 2 ^ 49 + x.rbase
  | 1 => x.expseq.toNat * 2 ^ 32 + x.narr * 2 ^ 16 + x.nheld * 2 ^ 8 + x.head
  | 2 => x.dup * 2 ^ 48 + x.src
  | _ => 0
/-- OCHST words (18 Table 18.2). -/
def ochWord (x : Och) (i : Nat) : Nat :=
  match i with
  | 0 => ofBool x.v * 2 ^ 63 + ofBool x.ret * 2 ^ 62 + (x.slots - 1) * 2 ^ 56 + (x.sbytes / 32 - 1) * 2 ^ 49 + x.dest
  | 1 => x.ich.val * 2 ^ 60 + x.credit * 2 ^ 32 + x.seq.toNat
  | 2 => x.ackseq.toNat
  | _ => x.mirror
/-- The state an ICHST word gives: the whole word replaced. -/
def ichSet (x : Ich) (i v : Nat) : Ich :=
  match i with
  | 0 => { x with v := bitAt v 63, ret := bitAt v 62, slots := fld v 56 6 + 1, sbytes := (fld v 49 7 + 1) * 32, rbase := fld v 0 48 }
  | 1 => { x with expseq := BitVec.ofNat 32 (fld v 32 32), narr := fld v 16 8, nheld := fld v 8 8, head := fld v 0 6 }
  | 2 => { x with dup := fld v 48 16, src := fld v 0 48 }
  | _ => x
def ochSet (x : Och) (i v : Nat) : Och :=
  match i with
  | 0 => { x with v := bitAt v 63, ret := bitAt v 62, slots := fld v 56 6 + 1, sbytes := (fld v 49 7 + 1) * 32, dest := fld v 0 48 }
  | 1 => { x with ich := Fin.ofNat 16 (fld v 60 4), credit := fld v 32 7, seq := BitVec.ofNat 32 v }
  | 2 => { x with ackseq := BitVec.ofNat 32 v }
  | _ => { x with mirror := fld v 0 22 }

/-! ### Dirty windows (11 R220, R221) -/

/-- A record joins the log: a deposit into a full ring overwrites the slot at TAIL. -/
def Cluster.deposit (c : Cluster) (q : Nat) (w : Window) (stroke : Nat) : Cluster :=
  let full := (c.drlHead + 128 - c.drlTail) % 128 = 64
  { c with
    drl := kset c.drl (c.drlHead % 64) (q, w.low, w.high, stroke, c.drlSeq)
    drlHead := (c.drlHead + 1) % 128
    drlSeq := c.drlSeq + 1
    drlTail := if full then (c.drlTail + 1) % 128 else c.drlTail
    drlOvf := c.drlOvf || full }

/-- A record among those of a cycle: by the cycle of its deposit, then by stream (11 R221). -/
def insRecord (x : Nat × Nat × Nat × Window) : List (Nat × Nat × Nat × Window) → List (Nat × Nat × Nat × Window)
  | [] => [x]
  | y :: r => if x.1 < y.1 ∨ (x.1 = y.1 ∧ x.2.1 < y.2.1) then x :: y :: r else y :: insRecord x r

/-- The window of stream `q` closes: its record is deposited in clock cycle `at_`, of stroke `stroke`. -/
def Cluster.closeWindow (c : Cluster) (q at_ stroke : Nat) : Cluster :=
  match c.windows.find? (fun w => w.1 == q) with
  | none => c
  | some (_, w) => { c with windows := kdel c.windows q, drlNew := insRecord (at_, q, stroke, w) c.drlNew }

/-- The records deposited before clock cycle `now` have their slots. Those of a cycle take them once the next one is over, in
which a write may still deposit a record of the cycle before it (11 R220, R221). -/
def Cluster.flushRecords (c : Cluster) (now : Nat) : Cluster :=
  (c.drlNew.filter (fun x => decide (x.1 < now))).foldl (fun c x => c.deposit x.2.1 x.2.2.2 x.2.2.1)
    { c with drlNew := c.drlNew.filter (fun x => !decide (x.1 < now)) }

/-- All open windows are deposited (11 R220). -/
def Cluster.depositAll (c : Cluster) (at_ stroke : Nat) : Cluster :=
  c.windows.foldl (fun c w => c.closeWindow w.1 at_ stroke) c

/-- DRLCTL (11 Table 11.7). -/
def drlctl (c : Cluster) : Nat := ofBool c.drlOvf * 2 ^ 32 + c.drlTail * 2 ^ 8 + c.drlHead
/-- A dirty-range record's words (11 Table 11.6). -/
def drlWord (r : Nat × Nat × Nat × Nat × Word) (i : Nat) : Nat :=
  match i with
  | 0 => r.1 * 2 ^ 48 + r.2.1
  | 1 => r.2.2.1
  | 2 => r.2.2.2.1
  | _ => r.2.2.2.2.toNat

/-- Graphs resident in the program plane, as PLSTAT.RESID shows them (24 Table 24.5). -/
def resid (c : Ctx) : Nat := ((List.finRange 16).map (fun n => if c.plane.any (fun g => g.n == n) then 2 ^ n.val else 0)).sum
def plstat (c : Cluster) : Nat :=
  ofBool c.plBusy * 2 ^ 63 + ofBool c.plFail * 2 ^ 62 + resid c.prog * 2 ^ 32 + ofBool c.plRepl * 2 ^ 16 + c.plEvict.toNat
/-- COTAB n (24 Table 24.5). -/
def cotab (c : Cluster) (n : Nat) : Nat :=
  match c.cur with
  | some p => (nth p.cot n 0).toNat
  | none => 0

/-- LNKSTAT, LNKBUD and LNKUSE (19 Tables 19.2, 19.3). -/
def lnkstat (l : Link) : Nat :=
  ofBool l.up * 2 ^ 63 + l.partner * 2 ^ 52 + l.plink * 2 ^ 45 + l.delay * 2 ^ 36 + l.miss * 2 ^ 34 +
    ofBool l.buderr * 2 ^ 33 + l.replays * 2 ^ 16 + l.crcerr
def vcPack (b : List Nat) : Nat := nth b 0 0 + nth b 1 0 * 2 ^ 11 + nth b 2 0 * 2 ^ 22 + nth b 3 0 * 2 ^ 33 + nth b 4 0 * 2 ^ 44
def vcUnpack (v : Nat) : List Nat := [fld v 0 11, fld v 11 11, fld v 22 11, fld v 33 11, fld v 44 11]

/-- TALIGN (19 Table 19.4). -/
def talign (m : Module) : Nat :=
  m.holds * 2 ^ 32 + ofBool m.lost * 2 ^ 17 + ofBool m.root * 2 ^ 16 + wrapNat 8 m.err
/-- HSEM (05 Table 5.9). -/
def hsemWord (m : Module) : Nat := m.lease.toNat * 2 ^ 32 + ofBool m.held * 2 ^ 8 + m.owner
/-- FWACT (25 Table 25.3) and BOOTCTL (26 Table 26.3). -/
def fwact (m : Module) : Nat := ofBool m.fwBusy * 2 ^ 62 + m.fwResult * 2 ^ 58 + m.badLayout * 2 ^ 16 + m.active
def bootctl (m : Module) : Nat := ofBool m.bootBusy * 2 ^ 62 + m.bootResult * 2 ^ 58 + m.failmod * 2 ^ 37 + m.nmod

/-- Queue registers (22 Tables 22.1, 22.2). -/
def queueWord (q : Queue) (i : Nat) : Nat :=
  match i with
  | 0 => ofBool q.en * 2 ^ 63 + ofBool q.dev * 2 ^ 62 + q.pclass * 2 ^ 55 + q.prio * 2 ^ 52 + q.log2n * 2 ^ 48 + q.base
  | 1 => q.write
  | 2 => q.read
  | 3 => q.aborts * 2 ^ 32 + q.eindex * 2 ^ 16 + q.ecode
  | _ => 0

/-- BBCTL (24 Table 24.6) and a word of a black-box entry. -/
def bbctl (d : Die) : Nat := ofBool d.bbOvf * 2 ^ 40 + d.bbHead * 2 ^ 16 + d.bbTail
def bbWord (e : DWord × DWord × DWord × DWord) (i : Nat) : Nat :=
  match i with
  | 0 => e.1.toNat
  | 1 => e.2.1.toNat
  | 2 => e.2.2.1.toNat
  | _ => e.2.2.2.toNat

/-- A tile element's place in the window: key of its map (14 Table 14.2). -/
def tileKey (off : Nat) : Nat := (off - 0x8000) / 4

/-- The 8 bytes of a cluster's control block at offset `off`, a multiple of 8; an offset no chapter assigns reads
as zero (11 R207). -/
def State.ctlWord (s : State) (k off : Nat) : Nat :=
  let c := (s.cluster k).flushRecords (s.cyc k)
  let m := s.module (modOf k)
  let d := s.dieAt (dieKey k)
  let i := off / 8
  if 0x200 ≤ off ∧ off < 0x300 then (kget 0 c.sestat (i - 0x40)).toNat
  else if off = 0x300 then ofBool c.fenced
  else if off = 0x400 then mxstat c.mx
  else if 0x420 ≤ off ∧ off < 0x440 then
    let j := (off - 0x420) / 2
    nth c.mx.scale j 0 + nth c.mx.scale (j + 1) 0 * 2 ^ 16 + nth c.mx.scale (j + 2) 0 * 2 ^ 32 + nth c.mx.scale (j + 3) 0 * 2 ^ 48
  else if off = 0x688 then plstat c
  else if 0x700 ≤ off ∧ off < 0x740 then cotab c ((off - 0x700) / 4) + cotab c ((off - 0x700) / 4 + 1) * 2 ^ 32
  else if off = 0x800 then c.acctab.toNat
  else if off = 0xF00 then drlctl c
  else if 0x1000 ≤ off ∧ off < 0x1800 then drlWord (kget (0, 0, 0, 0, 0) c.drl ((off - 0x1000) / 32)) (i % 4)
  else if 0x2000 ≤ off ∧ off < 0x2800 then
    let w := wrapNat 32 (c.semCount (Fin.ofNat 256 ((off - 0x2000) / 8)))
    w + w * 2 ^ 32
  else if off = 0x2800 then syncstat c
  else if 0x2810 ≤ off ∧ off < 0x2890 then barWord (nth c.bar.toList ((off - 0x2810) / 8) Barrier.reset)
  else if 0x3000 ≤ off ∧ off < 0x3200 then ichWord (kget Ich.reset c.ich ((off - 0x3000) / 32)) (i % 4)
  else if 0x3200 ≤ off ∧ off < 0x3400 then ochWord (kget Och.reset c.och ((off - 0x3200) / 32)) (i % 4)
  else if 0x8000 ≤ off ∧ off < 0x10000 then
    (kget ⟨0, false⟩ c.mx.tiles (tileKey off)).val.toNat + (kget ⟨0, false⟩ c.mx.tiles (tileKey off + 1)).val.toNat * 2 ^ 32
  else if k % 1024 = 0 ∧ 0x4000 ≤ off ∧ off < 0x4300 then
    let l := kget Link.reset m.links (24 * dieOf k + (off - 0x4000) / 32)
    match i % 4 with
    | 0 => lnkstat l
    | 1 => vcPack l.bud
    | 2 => vcPack l.prev
    | _ => 0
  else if k % 1024 = 990 ∧ off = 0x6000 then bbctl d
  else if k % 1024 = 990 ∧ 0x6400 ≤ off ∧ off < 0x6800 then kget 4 c.lhpol ((off - 0x6400) / 8)
  else if k % 1024 = 990 ∧ 0x10000 ≤ off ∧ off < 0x14000 then bbWord (kget (0, 0, 0, 0) d.bb ((off - 0x10000) / 32)) (i % 4)
  else if k % 4096 ≠ 0 then 0
  else if off = 0x4400 then m.migbud
  else if off = 0x4408 then m.hpbudA + m.hpbudB * 2 ^ 32
  else if off = 0x4410 then talign m
  else if off = 0x4800 then fwact m
  else if off = 0x4808 then m.fwaddr
  else if off = 0x4900 then hsemWord m
  else if off = 0x4A00 then bootctl m
  else if off = 0x4A08 then m.bootaddr
  else if off = 0x4A10 then m.bootlen
  else if 0x4C00 ≤ off ∧ off < 0x4E00 then kget 0x3FF m.qacc ((off - 0x4C00) / 8)
  else if 0x4E00 ≤ off ∧ off < 0x5000 then kget 0 m.peercls ((off - 0x4E00) / 8)
  else if 0x5000 ≤ off ∧ off < 0x6000 then queueWord (kget Queue.reset m.queues ((off - 0x5000) / 64)) (i % 8)
  else 0

/-- A byte of a control block. -/
def State.ctlByte (s : State) (k off : Nat) : Nat := s.ctlWord k (off - off % 8) / 2 ^ (8 * (off % 8)) % 256

/-- Is the byte part of a marked tile element (14 R288)? -/
def State.ctlPoison (s : State) (k off : Nat) : Bool :=
  decide (0x8000 ≤ off) && decide (off < 0x10000) && (kget ⟨0, false⟩ (s.cluster k).mx.tiles (tileKey off)).poison

/-! ### Register writes -/

/-- A write to QCFG (22 R363): with EN set only EN, PRIO and PCLASS change; PCLASS 3, LOG2N above 12 or a
BASE outside space 0 of this module discards it (the last is the model's reading, log 56); BASE [5:0] is zero. -/
def qcfgSet (m : Nat) (q : Queue) (v : Nat) : Queue :=
  if fld v 55 2 = 3 ∨ fld v 48 4 > 12 ∨ (q.en = false ∧ (fld v 45 3 ≠ 0 ∨ fld v 34 11 ≠ m)) then q
  else
    let q := { q with pclass := fld v 55 2, prio := fld v 52 3 }
    let q := if q.en then q else { q with dev := bitAt v 62, log2n := fld v 48 4, base := fld v 6 42 * 64 }
    { q with en := bitAt v 63 }

/-- A write to QWRITE (22 R364): accepted within the ring, else OVERRUN. A device queue discards it. -/
def qwriteSet (q : Queue) (v : Nat) : Queue :=
  let v := v % 2 ^ 32
  if q.dev then q
  else if (v + 2 ^ 32 - q.write) % 2 ^ 32 ≤ 2 ^ q.log2n ∧ (v + 2 ^ 32 - q.read) % 2 ^ 32 ≤ 2 ^ q.log2n then { q with write := v }
  else { q with ecode := 0x0C }

/-- Changing a queue of a module. -/
def State.updQueue (s : State) (m n : Nat) (f : Queue → Queue) : State :=
  s.updModule m (fun d => { d with queues := kset d.queues n (f (kget Queue.reset d.queues n)) })
def State.queue (s : State) (m n : Nat) : Queue := kget Queue.reset (s.module m).queues n

/-- A write to a queue's registers by an agent that may make it: to QCFG and QWRITE also firmware, as 22 R363 says and 26 R419
does not (log 56). -/
def State.queueWrite (s : State) (m n i master : Nat) (v : Nat) : State :=
  let may := isFw master || s.hsemOk m master
  match i with
  | 0 => if may then s.updQueue m n (fun q => qcfgSet m q v) else s
  | 1 => if may then s.updQueue m n (fun q => qwriteSet q v) else s
  | 3 => if fwOrMgmt master then
      s.updQueue m n (fun q => { q with aborts := fld v 32 32, eindex := fld v 16 16, ecode := fld v 0 8 }) else s
  | _ => s

/-- A write to LNKBUD (19 R352): discarded, with BUDERR, where the sum exceeds 1,616 or VC1, VC2 or VC3 is below 16. -/
def lnkbudSet (l : Link) (v : Nat) : Link :=
  let b := vcUnpack v
  if b.sum > 1616 ∨ nth b 1 0 < 16 ∨ nth b 2 0 < 16 ∨ nth b 3 0 < 16 then { l with buderr := true } else { l with bud := b }

def State.updLink (s : State) (m l : Nat) (f : Link → Link) : State :=
  s.updModule m (fun d => { d with links := kset d.links l (f (kget Link.reset d.links l)) })
def State.link (s : State) (m l : Nat) : Link := kget Link.reset (s.module m).links l

/-- A write to PLREQ (24 R397): an install begins, unless one runs. ADDR's bits [5:0] are zero; reserved bits are ignored. -/
def Cluster.plreq (c : Cluster) (v : Nat) : Cluster :=
  if c.plBusy then c else { c with plBusy := true, plAddr := v % 2 ^ 22 / 64 * 64 }

/-- A write to HSCMD by host `master` (26 Table 26.1). -/
def State.hscmd (s : State) (m master v : Nat) : State :=
  if !isHost master ∨ fld v 24 38 ≠ 0 then s
  else if fld v 62 2 = 1 then s.hsemTake m (hostId master) (fld v 0 24)
  else if fld v 62 2 = 2 then s.hsemRelease m (hostId master)
  else s

/-- LHPOL (24 R435): kinds 0, 1, 4, 5, and never 0 or 1 for STATE_ERR. -/
def lhpolOk (n v : Nat) : Bool := (v == 0 || v == 1 || v == 4 || v == 5) && !(n == 0x73 && decide (v ≤ 1))

/-- An aligned 8-byte write to a register of a control block (11 R432) by an agent: it takes effect where the
register's chapter permits that agent, and is discarded otherwise. -/
def State.ctlWrite (s : State) (k off master : Nat) (dv : DWord) : State :=
  let v := dv.toNat
  let m := modOf k
  let fm := fwOrMgmt master
  if 0x200 ≤ off ∧ off < 0x300 then
    let x : DWord := BitVec.ofNat 64 (fld v 32 32 * 2 ^ 32 + (v % 32 - fld v 3 1 * 8))
    if fm then s.updCluster k (fun c => { c with sestat := kset c.sestat ((off - 0x200) / 8) x }) else s
  else if off = 0x300 then if fm then s.updCluster k (fun c => { c with fenced := bitAt v 0 }) else s
  else if off = 0x680 then if master = mLock then s.updCluster k (fun c => c.plreq v) else s
  else if off = 0x800 then
    if fm then s.updCluster k (fun c => { c with acctab := BitVec.ofNat 64 (fld v 0 18 + fld v 32 18 * 2 ^ 32) }) else s
  else if off = 0xF00 then
    if fm then s.updCluster k (fun c => { c.flushRecords (s.cyc k) with drlTail := fld v 8 7, drlOvf := bitAt v 32 }) else s
  else if off = 0x2800 then if fm then s.updCluster k (fun c => { c with sync := BitVec.ofNat 4 v }) else s
  else if 0x3000 ≤ off ∧ off < 0x3200 then
    if fm then s.updCluster k (fun c =>
      let n := (off - 0x3000) / 32
      { c with ich := kset c.ich n (ichSet (kget Ich.reset c.ich n) (off / 8 % 4) v) }) else s
  else if 0x3200 ≤ off ∧ off < 0x3400 then
    if fm then s.updCluster k (fun c =>
      let n := (off - 0x3200) / 32
      { c with och := kset c.och n (ochSet (kget Och.reset c.och n) (off / 8 % 4) v) }) else s
  else if k % 1024 = 0 ∧ 0x4000 ≤ off ∧ off < 0x4300 then
    if !fm then s
    else
      let n := 24 * dieOf k + (off - 0x4000) / 32
      match off / 8 % 4 with
      | 0 => s.updLink m n (fun l => { l with buderr := bitAt v 33, replays := fld v 16 16, crcerr := fld v 0 16 })
      | 1 => s.updLink m n (fun l => lnkbudSet l v)
      | _ => s
  else if k % 1024 = 990 ∧ off = 0x6000 then
    if master = mMgmt then s.updDie (dieKey k) (fun d => { d with bbOvf := bitAt v 40, bbTail := fld v 0 10 }) else s
  else if k % 1024 = 990 ∧ 0x6400 ≤ off ∧ off < 0x6800 then
    let n := (off - 0x6400) / 8
    if fm && lhpolOk n (v % 8) then s.updCluster k (fun c => { c with lhpol := kset c.lhpol n (v % 8) }) else s
  else if k % 4096 ≠ 0 then s
  else if off = 0x4400 then if fm then s.updModule m (fun d => { d with migbud := fld v 0 32 }) else s
  else if off = 0x4408 then if fm then s.updModule m (fun d => { d with hpbudA := fld v 0 32, hpbudB := fld v 32 32 }) else s
  else if off = 0x4410 then if fm then s.updModule m (fun d => { d with lost := bitAt v 17 }) else s
  else if off = 0x4800 then
    if s.hsemOk m master && bitAt v 63 && !(s.module m).fwBusy then s.updModule m (fun d => { d with fwBusy := true }) else s
  else if off = 0x4808 then if s.hsemOk m master then s.updModule m (fun d => { d with fwaddr := fld v 0 48 }) else s
  else if off = 0x4908 then s.hscmd m master v
  else if off = 0x4A00 then
    if s.hsemOk m master && bitAt v 63 && !(s.module m).bootBusy then
      s.updModule m (fun d => { d with bootBusy := true, root := true, bootSince := s.strokeOf m }) else s
  else if off = 0x4A08 then
    if s.hsemOk m master && fld v 0 6 == 0 then s.updModule m (fun d => { d with bootaddr := fld v 0 48 }) else s
  else if off = 0x4A10 then if s.hsemOk m master then s.updModule m (fun d => { d with bootlen := fld v 0 32 }) else s
  else if 0x4C00 ≤ off ∧ off < 0x4E00 then
    if fm then s.updModule m (fun d => { d with qacc := kset d.qacc ((off - 0x4C00) / 8) (fld v 0 18) }) else s
  else if 0x4E00 ≤ off ∧ off < 0x5000 then
    if fm then s.updModule m (fun d => { d with peercls := kset d.peercls ((off - 0x4E00) / 8) v }) else s
  else if 0x5000 ≤ off ∧ off < 0x6000 then s.queueWrite m ((off - 0x5000) / 64) (off / 8 % 8) master v
  else s

/-! ### Any access to any space -/

/-- Does a physical address lie in the tile window (14 Table 14.2)? -/
def inTiles (pa : Nat) : Bool := paSpace pa == 2 && decide (0x8000 ≤ pa % 2 ^ 22) && decide (pa % 2 ^ 22 < 0x10000)

/-- Does a physical address lie in the window of a busy tile (14 R288)? -/
def State.tileBusy (s : State) (pa : Nat) : Bool :=
  inTiles pa && (s.cluster (paCluster pa)).mx.busy (Fin.ofNat 8 ((pa % 2 ^ 22 - 0x8000) / 0x1000))

/-- Is an access of cluster `k` made through a message: to another cluster, or to a tile of its own that is busy or
for which such messages wait (14 R288)? -/
def State.byMessage (s : State) (k pa : Nat) : Bool :=
  paCluster pa != k || s.tileBusy pa ||
    (inTiles pa && s.net.any (fun m => m.src == k && m.dst == k && (match m.phase with
      | .back _ => false
      | _ => true)))

/-- Writing tile elements through the window: aligned to 4 bytes within one tile, marks carried (14 R288). -/
def Cluster.tileWrite (c : Cluster) (off : Nat) (bs : List (Byte × Bool)) : Cluster :=
  let words := (List.range (bs.length / 4)).map (fun i => (tileKey off + i, (bs.drop (4 * i)).take 4))
  let put1 (t : KMap Lane) (w : Nat × List (Byte × Bool)) : KMap Lane :=
    kset t w.1 ⟨BitVec.ofNat 32 (ofBytes (w.2.map (·.1))), w.2.any (·.2)⟩
  { c with mx := { c.mx with tiles := words.foldl put1 c.mx.tiles } }

/-- A wake word's write (18 R329): value, pending bit, write count up to 255. -/
def Cluster.wakeWrite (c : Cluster) (n : Nat) (v : DWord) : Cluster :=
  { c with wake := kset c.wake n ⟨v, true, min 255 ((kget ⟨0, false, 0⟩ c.wake n).count + 1)⟩ }

def execWakeWordWrite (k : Nat) (n : Fin 16) (v : DWord) (s : State) : Out :=
  .next (s.updCluster k (fun c => c.wakeWrite n.val v))

/-- A write of bytes at a physical address, performed for an agent; `own` marks the program context of the target
cluster itself (16 R314). Writes that their register does not take are discarded (11 R432). -/
def State.performWrite (s : State) (master : Nat) (own : Bool) (pa : Nat) (bs : List (Byte × Bool)) : State :=
  let k := paCluster pa
  let off := pa % 2 ^ 22
  let v := ofBytes (bs.map (·.1))
  if paSpace pa = 0 then s.writeMarked pa bs
  else if paSpace pa = 1 then
    if off < 0x80 ∧ off % 8 = 0 ∧ (bs.length = 8 ∨ bs.length = 4) then
      s.updCluster k (fun c => c.wakeWrite (off / 8) (BitVec.ofNat 64 v)) else s
  else if paSpace pa = 2 then
    if 0x2000 ≤ off ∧ off < 0x2800 then
      if bs.length ≠ 4 then s.updCluster k (fun c => { c with sync := c.sync ||| 8 })
      else if off % 8 = 0 then s.updCluster k (fun c => c.signalWord own (Fin.ofNat 256 ((off - 0x2000) / 8)) (BitVec.ofNat 32 v))
      else if off % 8 = 4 then s.updCluster k (fun c => c.setWord own (Fin.ofNat 256 ((off - 0x2000) / 8)) (BitVec.ofNat 32 v))
      else s
    else if 0x8000 ≤ off ∧ off < 0x10000 then
      if off % 4 = 0 ∧ bs.length % 4 = 0 ∧ off % 0x1000 + bs.length ≤ 0x1000 then s.updCluster k (fun c => c.tileWrite off bs) else s
    else if bs.length = 8 ∧ off % 8 = 0 then s.ctlWrite k off master (BitVec.ofNat 64 v)
    else s
  else s

/-- A read of bytes at a physical address, with their poison marks. -/
def State.performRead (s : State) (pa n : Nat) : List (Byte × Bool) :=
  let k := paCluster pa
  let off := pa % 2 ^ 22
  if paSpace pa = 0 then s.readMarked pa n
  else if paSpace pa = 1 then
    tabulate n (fun i => (if off + i < 0x80 then
      BitVec.ofNat 8 ((kget ⟨0, false, 0⟩ (s.cluster k).wake ((off + i) / 8)).val.toNat / 2 ^ (8 * ((off + i) % 8))) else 0, false))
  else if paSpace pa = 2 then
    tabulate n (fun i => (BitVec.ofNat 8 (s.ctlByte k (off + i)), s.ctlPoison k (off + i)))
  else tabulate n (fun _ => (0, false))

/-! ### Accesses from outside, and of firmware, by register -/

/-- A request from outside that is held stays first among the inputs (14 R288, 26 R418). -/
def State.holdInput (s : State) (i : Instr) : State := { s with inputs := (s.now, i) :: s.inputs }

/-- Physical address of an offset in the control block of cluster `k`. -/
def ctlPa (k off : Nat) : Nat := 2 * 2 ^ 45 + clusterBase k + off % 2 ^ 22

/-- Does an access of `n` bytes touch the window of a busy tile? -/
def State.tilesBusy (s : State) (pa n : Nat) : Bool := s.tileBusy pa || s.tileBusy (pa + n - 1)

/-- An 8-byte write in space 2 by an agent of the module itself, while its logic is supplied and where the access table of
the target permits it (26 R422, R429). -/
def State.agentWrite (s : State) (master pa : Nat) (v : DWord) : State :=
  if (s.module (modOf (paCluster pa))).power = .on ∧ s.accOk master pa true then
    s.performWrite master false pa ((toBytes 8 v.toNat).map (fun b => (b, false))) else s

/-- Management writes QCFG of queue `q`, or, at an offset within its registers, another of them. -/
def execQcfgWrite (m q off : Nat) (v : DWord) (s : State) : Out :=
  .next (if q < 64 then s.agentWrite mMgmt (ctlPa (4096 * m) (0x5000 + 64 * q + off % 64)) v else s)

/-- Management writes QWRITE of queue `q`. -/
def execQwriteWrite (m q : Nat) (v : DWord) (s : State) : Out :=
  .next (if q < 64 then s.agentWrite mMgmt (ctlPa (4096 * m) (0x5008 + 64 * q)) v else s)

/-- Management writes LNKBUD of a link, which stands in the control block of cluster (0, 0) of its die (19 R352). -/
def execLnkbudWrite (m link : Nat) (v : DWord) (s : State) : Out :=
  .next (if link < 96 then s.agentWrite mMgmt (ctlPa (4096 * m + 1024 * (link / 24)) (0x4008 + 32 * (link % 24))) v else s)

/-- A lockhouse writes PLREQ of a cluster (24 R397). -/
def execPlreqWrite (k : Nat) (v : DWord) (s : State) : Out := .next (s.agentWrite mLock (ctlPa k 0x680) v)

/-- A register write of the management port (26 R429) by physical address in space 2; one to a busy tile is held. -/
def execRegisterWrite (pa : Nat) (v : DWord) (s : State) : Out :=
  .next (if paSpace pa ≠ 2 then s
    else if s.tilesBusy pa 8 then s.holdInput (.registerWrite pa v)
    else s.agentWrite mMgmt pa v)

end Sys2Proof.Machine
end

