-- ==== Sys2Proof/Machine/Order.lean ====
section
/-! DEFINITION. Ordering (chapter 12): the operations of a cluster that are outstanding, scopes, the sending of
messages, FENCE, SBAR and DRAIN. An operation is outstanding while its message is in the network or its command in
a queue. -/

namespace Sys2Proof.Machine

/-! ### What is outstanding -/

def isWriteKind : MsgKind → Bool
  | .write .. => true
  | .vwrite .. => true
  | .atom .. => true
  | .vatom .. => true
  | .scAtom .. => true
  | .packet .. => true
  | .sigadd .. => true
  | .ckpt _ => true
  | _ => false
/-- A load or a returning atomic. -/
def isReadKind : MsgKind → Bool
  | .read .. => true
  | .vread .. => true
  | .atom _ _ _ _ _ ret => ret
  | .vatom _ _ ret _ _ => ret
  | .scAtom _ _ _ ret => ret
  | .sigadd .. => true
  | _ => false
def isScKind : MsgKind → Bool
  | .scAtom .. => true
  | _ => false

def MPhase.performed : MPhase → Bool
  | .back _ => true
  | _ => false

/-- Is operation `id` complete: no message, no stream command, no matrix command carries it? -/
def State.complete (s : State) (k id : Nat) : Bool :=
  s.net.all (fun m => m.id != id) &&
    (s.cluster k).streams.all (fun q => q.2.all (fun c => c.id != id)) &&
    (s.cluster k).mx.queue.all (fun c => c.id != id)
/-- Has message `id` been performed? -/
def State.performed (s : State) (id : Nat) : Bool := s.net.all (fun m => m.id != id || m.phase.performed)

/-- Does cluster `dst` lie in scope `sc` of cluster `k` (12 R227)? -/
def State.inScope (s : State) (k : Nat) (sc : Scope) (dst : Nat) : Bool :=
  match sc with
  | .cl => dst == k
  | .rg => dst == k || (s.membersOf k).contains dst
  | .die => dieKey dst == dieKey k
  | .mod => modOf dst == modOf k
  | .sys => true

/-- Does cluster `dst` lie on a path of DRAIN (09 R198)? -/
def onPath (p : Path) (k dst : Nat) : Bool :=
  match p with
  | .local => dst == k
  | .die => dst != k && dieKey dst == dieKey k
  | .module => dieKey dst != dieKey k && modOf dst == modOf k
  | .link => modOf dst != modOf k

/-- The clusters that hold the bytes a message reads or writes. -/
def Msg.targets (m : Msg) : List Nat :=
  match m.kind with
  | .scAtom lanes .. => lanes.map (fun l => paCluster l.1)
  | _ => [m.dst]

/-- The physical ranges that virtual bytes of the current table map to: start and length, entry by entry. -/
def Cluster.pieces (cl : Cluster) (k va n : Nat) : List (Nat × Nat) :=
  cl.table.filterMap (fun e =>
    if e.meets va n ∧ (e.kind = .local ∨ e.kind = .remote) then
      let lo := max va e.vbase
      some (e.physical k cl lo, min (va + n) (e.vbase + e.len) - lo)
    else none)

/-- The clusters of a physical range (a REMOTE extent may run over several, 11 R209). -/
def clustersIn (x : Nat × Nat) : List Nat :=
  if x.2 = 0 then []
  else (List.range (paCluster (x.1 + (x.2 - 1)) - paCluster x.1 + 1)).map (fun i => paCluster x.1 + i)

/-- Does a stream command read memory through its stream? -/
def SOp.reads : SOp → Bool
  | .copy => true
  | .fill _ => true
  | .send _ => true
  | .post => true
  | .get => true
  | _ => false

/-- Clusters that a stream command has still to write. -/
def State.cmdTargets (s : State) (k : Nat) (c : SCmd) : List Nat :=
  let cl := s.cluster k
  let left : List Nat := (cl.pieces k (c.dst.toNat + c.done - c.buf.length) (c.len + c.buf.length - c.done)).flatMap clustersIn
  if c.ended then []
  else match c.op with
    | .copy => left
    | .post => left
    | .get => left
    | .wake => (cl.pieces k c.dst.toNat 8).flatMap clustersIn
    | .send o => [paCluster (kget Och.reset cl.och o.val).dest]
    | _ => []

/-- Have all loads of a stream command been performed? -/
def State.cmdLoaded (s : State) (c : SCmd) : Bool :=
  let coming := match c.reading with
    | some (id, n) => if s.performed id then n else 0
    | none => 0
  let held := match c.op with
    | .fill _ => c.buf.length
    | _ => 0
  !c.op.reads || c.bad || decide (c.len ≤ c.done + held + c.got.length + coming)

/-- Have its writes to the clusters that `f` names been made, performed and acknowledged? -/
def State.cmdWritten (s : State) (k : Nat) (c : SCmd) (f : Nat → Bool) : Bool :=
  !(s.cmdTargets k c).any f && c.outs.all (fun i => s.net.all (fun m => m.id != i || !m.targets.any f))

/-- Has it made every access, and has each been performed? An SFILL's accesses are its reads (12 R235). -/
def State.cmdPerformed (s : State) (c : SCmd) : Bool :=
  s.cmdLoaded c && ((match c.op with
    | .fill _ => true
    | _ => c.ended)) && c.outs.all s.performed

/-- The bytes that a message reads or writes. -/
def MsgKind.ranges : MsgKind → List (Nat × Nat)
  | .write pa bs => [(pa, bs.length)]
  | .read pa n => [(pa, n)]
  | .vwrite parts => parts.flatten.map (fun x => (x.1, 1))
  | .vread n parts _ => parts.flatten.map (fun x => (x.2, n))
  | .vatom _ ty _ todo _ => todo.map (fun x => (x.2.1, ebits ty / 8))
  | .atom pa _ ty _ _ _ => [(pa, ebits ty / 8)]
  | .scAtom ls _ ty _ => ls.map (fun x => (x.1, ebits ty / 8))
  | .packet .. => []
  | .freeRet .. => []
  | .sigadd pa _ => [(pa, 8)]
  | .ckpt _ => []
  | .flood .. => []
  | .report .. => []

/-- Do two ranges of bytes meet? -/
def rangesMeet (a b : Nat × Nat) : Bool := decide (a.1 < b.1 + b.2) && decide (b.1 < a.1 + a.2)

/-- The physical ranges that a stream command has still to read or write, through the current table. -/
def State.cmdPieces (s : State) (k : Nat) (c : SCmd) : List (Nat × Nat) :=
  let cl := s.cluster k
  let src := cl.pieces k (c.src.toNat + c.done) (c.len - c.done)
  let dst := cl.pieces k (c.dst.toNat + c.done - c.buf.length) (c.len + c.buf.length - c.done)
  if c.ended then []
  else match c.op with
    | .copy => src ++ dst
    | .post => src ++ dst
    | .get => src ++ dst
    | .fill _ => src
    | .send _ => src
    | .wake => cl.pieces k c.dst.toNat 8
    | _ => []

/-- Has what a `Dep` names come about, for an operation of cluster `k`? -/
def State.met (s : State) (k : Nat) (d : Dep) : Bool :=
  let msgs (id : Nat) (f : Msg → Bool) : Bool := s.net.all (fun m => m.id != id || f m)
  let cmds (id : Nat) (f : SCmd → Bool) : Bool := (s.cluster k).streams.all (fun q => q.2.all (fun c => c.id != id || f c))
  match d with
  | .loads id => msgs id (fun m => !isReadKind m.kind || m.phase.performed) && cmds id s.cmdLoaded
  | .wr sc id => msgs id (fun m => !isWriteKind m.kind || !m.targets.any (s.inScope k sc)) &&
      cmds id (fun c => s.cmdWritten k c (s.inScope k sc))
  | .perf id => s.performed id && cmds id s.cmdPerformed
  | .touch pa n id =>
    let far (m : Msg) : Bool := m.phase.performed || m.phase == .dead || !m.kind.ranges.any (rangesMeet (pa, n))
    msgs id far && cmds id (fun c => !(s.cmdPieces k c).any (rangesMeet (pa, n)) &&
      s.net.all (fun m => (match m.by_ with
        | .engine _ j => m.src != k || j != id
        | _ => true) || far m))
  | .path p id => msgs id (fun m => !isWriteKind m.kind || !m.targets.any (fun t => t != k && onPath p k t)) &&
      cmds id (fun c => s.cmdWritten k c (onPath p k))
def State.allMet (s : State) (k : Nat) (ds : List Dep) : Bool := ds.all (s.met k)

/-- The operation whose writes a `Dep` may wait for. -/
def Dep.writer : Dep → Option Nat
  | .loads _ => none
  | .wr _ id => some id
  | .perf id => some id
  | .touch .. => none
  | .path _ id => some id

/-- Does one of these dependencies wait for the acknowledgement of a posted write to another module (19 R354)? -/
def State.ackWait (s : State) (k : Nat) (ds : List Dep) : Bool :=
  ds.any (fun d => !s.met k d && (match d.writer with
    | none => false
    | some id => s.net.any (fun m => m.src == k && isWriteKind m.kind && !isReadKind m.kind && modOf m.dst != modOf k &&
        (m.id == id || (match m.by_ with
          | .engine _ c => c == id
          | _ => false)))))

/-- Is it a part of a checkpoint's copy? -/
def MsgKind.isCopy : MsgKind → Bool
  | .ckpt _ => true
  | _ => false

/-- Messages of the services of a module, for which no context waits: a checkpoint's copy, weight images, reports. -/
def MsgKind.isService : MsgKind → Bool
  | .ckpt _ => true
  | .flood .. => true
  | .report .. => true
  | _ => false

/-- The operations of cluster `k` under way, in the order of R226 of their kind: messages, then stream commands. -/
def State.underWay (s : State) (k : Nat) : List Nat :=
  (s.net.filter (fun m => m.src == k && !m.kind.isService)).map (·.id) ++ (s.cluster k).streams.flatMap (fun q => q.2.map (·.id))

/-- The dependencies of a list that are not yet met. -/
def State.unmet (s : State) (k : Nat) (ds : List Dep) : List Dep := ds.filter (fun d => !s.met k d)

/-- What a release of cluster `k` at scope `sc` waits for (12 R229): every earlier load, and the writes in the scope. -/
def State.releaseDeps (s : State) (k : Nat) (sc : Scope) : List Dep :=
  s.unmet k ((s.underWay k).flatMap (fun i => [.loads i, .wr sc i]))

/-- Operations of one context: its M-slot accesses and its engine commands. -/
def State.underWayOf (s : State) (k : Nat) (fw : Bool) : List Nat :=
  (s.net.filter (fun m => m.src == k && !m.kind.isService && (match m.by_ with
    | .slot f _ => f == fw
    | _ => false))).map (·.id) ++ (s.cluster k).streams.flatMap (fun q => (q.2.filter (fun c => c.fw == fw)).map (·.id))

/-- The loads and returning atomics that an acquire fence of a context waits for (12 R232). -/
def State.acquireDeps (s : State) (k : Nat) (fw : Bool) : List Dep := s.unmet k ((s.underWayOf k fw).map .loads)

/-- Does the context stand at a bundle boundary, or at the B slot of its bundle? Re-entered at another slot it completes its
bundle first: a bundle never splits (25 R404). -/
def Ctx.atBoundary (c : Ctx) : Bool := c.entry == 0 || c.entry == 13 || c.entry == 14

/-- Is the program context of cluster `k` being stopped or held for a pre-emption, by its cox or by a CTXSAVE or
CTXLOAD of its own cluster (25 R404, R405, R407), or for a checkpoint (25 R412)? -/
def State.stopping (s : State) (k : Nat) : Bool :=
  let c := s.cluster k
  c.ckptHold || c.fw.swap.isSome || (match c.bind with
    | none => false
    | some b => (s.dieAt (dieKey k)).coxes.any (fun x => x.1 == b.cox && x.2.mode != .run))

/-! ### Sending -/

/-- Does the message belong to core stream `q` of its cluster? -/
def Msg.inStream (m : Msg) (q : Nat) : Bool :=
  match m.by_ with
  | .slot _ p => p == q
  | .engine p _ => p == q
  | .chain => false

/-- Does the message belong to core stream `q`, as an access of an instruction? -/
def Msg.ofSlot (m : Msg) (q : Nat) : Bool :=
  match m.by_ with
  | .slot _ p => p == q
  | _ => false

/-- Is stream `q` of cluster `k` held: by a remote load or returning atomic until its data return (09 R186), by an SC
atomic (12 R234) or a STREL (12 R229) until it is performed, by a DRAIN (09 R198)? -/
def State.streamBusy (s : State) (k q : Nat) : Bool :=
  s.net.any (fun m => m.src == k && m.ofSlot q && (isReadKind m.kind || ((isScKind m.kind || m.strel) && !m.phase.performed))) ||
    [false, true].any (fun fw => (s.ctxOf k fw).holds.any (fun h => h.stream == q && !s.allMet k h.deps))

/-- Messages of one stream to one cluster that an access must follow (12 R228): on one module, until performed; a
load behind writes to another module, until acknowledged. -/
def State.streamOrder (s : State) (k q dst : Nat) (isRead : Bool) : List Dep × List Nat :=
  let ms := (s.net.filter (fun m => m.src == k && m.dst == dst && m.inStream q && isWriteKind m.kind)).map (·.id)
  if modOf dst = modOf k then ([], ms) else if isRead then (ms.map (.wr .sys), []) else ([], [])

/-! ### Dirty windows (11 R219, R220) -/

/-- Stream `q` of cluster `k` writes `n` bytes at physical address `pa` in space 0. A window that holds another cluster
is deposited in the cycle before (11 R220). -/
def State.noteWrite (s : State) (k q pa n : Nat) : State :=
  if paSpace pa ≠ 0 ∨ n = 0 then s
  else s.updCluster k (fun c =>
    let fresh : Window := ⟨pa, pa + n - 1⟩
    match c.windows.find? (fun w => w.1 == q) with
    | none => { c with windows := kset c.windows q fresh }
    | some (_, w) =>
      if paCluster w.low = paCluster pa then
        { c with windows := kset c.windows q ⟨min w.low pa, max w.high (pa + n - 1)⟩ }
      else
        let c := c.closeWindow q (s.cyc k - 1) ((s.gtsOf (modOf k) - 1) / 4096)
        { c with windows := kset c.windows q fresh })

/-- Bytes that a message writes when it is performed enter the window of its stream: atomics that return (11 R219). -/
def State.notePerf (s : State) (m : Msg) (pa n : Nat) : State :=
  match m.by_ with
  | .slot _ q => s.noteWrite m.src q pa n
  | _ => s

/-- What a posted write writes enters the window of its stream in the cycle in which it leaves the stream (11 R219). Packets
and chain accesses enter none; atomics that return enter when they are performed. -/
def State.noteMsg (s : State) (k : Nat) (by_ : Issuer) (kind : MsgKind) : State :=
  let q := match by_ with
    | .slot _ q => some q
    | .engine q _ => some q
    | .chain => none
  match q, kind with
  | some q, .write pa bs => s.noteWrite k q pa bs.length
  | some q, .vwrite parts => parts.flatten.foldl (fun s x => s.noteWrite k q x.1 1) s
  | some q, .vatom _ ty false todo _ => todo.foldl (fun s x => s.noteWrite k q x.2.1 (ebits ty / 8)) s
  | _, _ => s

/-! ### Sending -/

/-- A message joins the networks, with the next number. -/
def State.sendAs (s : State) (by_ : Issuer) (src dst va : Nat) (kind : MsgKind) (phase : MPhase) (cond : List Dep) (after : List Nat)
    (strel : Bool) : State :=
  { s with
    net := s.net ++ [⟨s.nextId, src, by_, dst, kind, phase, va, modOf src, 0, none, 0, cond, after, none, false, [], none, s.slot, 0, strel⟩]
    nextId := s.nextId + 1 }

/-- A message sets out, or is held in its stream until what it waits for has come about. -/
def State.send (s : State) (by_ : Issuer) (src dst va : Nat) (kind : MsgKind) (cond : List Dep) (after : List Nat) : State :=
  if (s.unmet src cond).isEmpty then (s.noteMsg src by_ kind).sendAs by_ src dst va kind .out [] after false
  else s.sendAs by_ src dst va kind .held cond after false

/-- A message of the issuing context in stream `q`. -/
def State.sendSlot (s : State) (q dst va : Nat) (kind : MsgKind) : State :=
  let o := s.streamOrder s.cur q dst (isReadKind kind)
  s.send (.slot s.curFw q) s.cur dst va kind o.1 o.2

/-- The messages of cluster `k` that were held leave their streams once they may. -/
def State.leaveStreams (s : State) (k : Nat) : State :=
  (s.net.filter (fun m => m.src == k && m.phase == .held && !isScKind m.kind && s.allMet k m.cond)).foldl (fun s m =>
    let s := s.noteMsg k m.by_ m.kind
    { s with net := s.net.map (fun x => if x.id = m.id then { x with phase := .out } else x) }) s

/-! ### Routes between modules (19 R348, R349) -/

/-- Links of module m one hop nearer to module d. -/
def State.maskTo (s : State) (m d : Nat) : List Nat := kget [] (s.module m).routes d

/-- The partner of link l of module m, as 96 m' + l' (19 R342). -/
def State.partner (s : State) (m l : Nat) : Option Nat := (s.wires.find? (fun w => w.1 == 96 * m + l)).map (·.2)

/-- Links of a mask that are up. -/
def State.upTo (s : State) (m d : Nat) : List Nat := (s.maskTo m d).filter (fun l => (s.link m l).up)

/-- The fixed route from module m to module d: the lowest-numbered up link of the mask at each module. -/
def State.fixedRoute (s : State) (d : Nat) : Nat → Nat → List Nat
  | 0, _ => []
  | n + 1, m =>
    if m = d then []
    else match (s.upTo m d).head? with
      | none => []
      | some l => (96 * m + l) :: (match s.partner m l with
        | some p => s.fixedRoute d n (p / 96)
        | none => [])

/-- A link of a fixed route that has gone down: what is bound to the route holds there until it is bound anew, though the link
trains again (19 R349). -/
def brokenBit : Nat := 2 ^ 20
def breakLink (x l : Nat) : Nat := if x = l then x + brokenBit else x

/-- The same route in reverse, for free returns. -/
def State.reverseRoute (s : State) (r : List Nat) : List Nat :=
  (r.filterMap (fun x => (s.partner (x % brokenBit / 96) (x % brokenBit % 96)).map (· + x / brokenBit * brokenBit))).reverse

/-- A message that follows a fixed route: the last one sent takes it. -/
def State.routeLast (s : State) (id : Nat) (r : List Nat) : State :=
  { s with net := s.net.map (fun m => if m.id = id then { m with route := r } else m) }

/-! ### FENCE, SBAR, DRAIN -/

/-- What a fence of the context in focus holds of the accesses after it (12 R232). -/
def State.fenceRecord (s : State) (kind : FenceKind) (sc : Scope) : FenceRec :=
  let acq := s.acquireDeps s.cur s.curFw
  let rel := s.releaseDeps s.cur sc
  match kind with
  | .acquire => ⟨.acquire, acq, [], s.slot, 0⟩
  | .release => ⟨.release, [], rel, s.slot, 0⟩
  | .full => ⟨.full, acq ++ s.unmet s.cur ((s.underWay s.cur).map (.wr sc)), rel, s.slot, 0⟩

/-- FENCE (12 R232): with nothing outstanding it holds nothing. -/
def execFence (sc : Scope) (kind : FenceKind) (s : State) : Out :=
  .next (
    let f := s.fenceRecord kind sc
    if f.acc.isEmpty && f.writes.isEmpty then s else s.updCtx (fun c => { c with fences := c.fences ++ [f] }))

/-- What an SBAR waits for (12 R235): every access of the named streams performed, posted writes acknowledged. -/
def State.sbarDeps (s : State) (mask : BitVec 16) : List Dep :=
  let ids := (s.net.filter (fun m => m.src == s.cur && (List.range 16).any (fun q => mask.getLsbD q && m.inStream q))).map (·.id) ++
    (s.me.streams.filter (fun q => mask.getLsbD q.1)).flatMap (fun q => q.2.map (·.id))
  s.unmet s.cur (ids.flatMap (fun i => [.perf i, .wr .sys i]))

def execSbar (mask : BitVec 16) (s : State) : Out :=
  .next (
    let ds := s.sbarDeps mask
    if ds.isEmpty then s else s.updMe (fun c => { c with sbars := c.sbars ++ [⟨mask, ds, s.curFw, s.slot, 0⟩] }))

/-- Copies, and remote stores and atomics, into memory on a path, not yet complete. -/
def State.drainDeps (s : State) (p : Path) : List Dep := s.unmet s.cur ((s.underWay s.cur).map (.path p))

/-- DRAIN (09 R198): the context stalls, and its stream is held, until they have completed. -/
def execDrain (path : Path) (s : State) : Out :=
  .next (
    let ds := s.drainDeps path
    if ds.isEmpty then s else s.updCtx (fun c => { c with holds := c.holds ++ [⟨s.slot - 6, ds, s.slot, 0⟩] }))

/-- A fence whose operations have completed holds nothing more. -/
def FenceRec.over (f : FenceRec) (s : State) (k : Nat) : Bool := s.allMet k f.acc && s.allMet k f.writes

/-- SC atomics of the context in focus that are not yet performed: no later access is performed before them (R234). -/
def State.scOut (s : State) : List Dep :=
  (s.net.filter (fun m => m.src == s.cur && !m.phase.performed && isScKind m.kind && (match m.by_ with
    | .slot f _ => f == s.curFw
    | _ => false))).map (fun m => .perf m.id)

/-- Does a stream command write through its stream? -/
def SOp.writes : SOp → Bool
  | .copy => true
  | .send _ => true
  | .post => true
  | .get => true
  | .wake => true
  | _ => false

/-- What an engine command issued now must wait for: SC atomics and fences of the context, SBARs that name its stream. One
that performs no access waits for none of them (18 R338), and a release fence holds only writes (12 R232). -/
def State.engineAfter (s : State) (q : Nat) (op : SOp) : List Dep :=
  if !op.reads && !op.writes then []
  else
    s.scOut ++ s.ctx.fences.flatMap (fun f => f.acc ++ if op.writes then f.writes else []) ++
      (s.me.sbars.filter (fun b => b.mask.getLsbD q)).flatMap (·.deps)

end Sys2Proof.Machine
end

