-- ==== Sys2Proof/Machine/Mem.lean ====
section
/-! DEFINITION. Loads, stores and bank atomics (chapter 09), LDACQ and STREL (12 R229, R230): the checks of every
element first (R183), then the accesses: at once in the issuing cluster, by a message elsewhere. -/

namespace Sys2Proof.Machine

/-- Stream of the M slot being committed: Mk issues to qk (09 R191). Slots M0 to M3 are numbers 6 to 9; other slots
use q0 (14 R275, 22 R379). -/
def State.stream (s : State) : Nat := if 6 ≤ s.slot ∧ s.slot ≤ 9 then s.slot - 6 else 0

/-- May the issuing context reach this address of its own module? Firmware contexts are masters of the access
tables; program contexts are governed by their extents (26 R422). -/
def State.reach (s : State) (pa : Nat) (write : Bool) : Bool :=
  s.accOk (s.masterOf s.cur s.curFw (modOf (paCluster pa))) pa write

/-- A write of the issuing context to its own cluster, performed; denied by a table, the context takes ADDR_PERM as
an asynchronous fault (26 R423). -/
def State.ownWrite (s : State) (va pa : Nat) (bs : List (Byte × Bool)) : State :=
  if s.reach pa true then
    (s.noteWrite s.cur s.stream pa bs.length).performWrite (s.masterOf s.cur s.curFw (modOf s.cur)) (!s.curFw) pa bs
  else s.asyncFault s.cur s.curFw 0x22 (BitVec.ofNat 32 va) va

/-- A store of bytes at a checked address: performed here, or posted (09 R186). -/
def State.storeBytes (s : State) (va : Nat) (bs : List (Byte × Bool)) : State :=
  match findExtent s.me.table va bs.length with
  | none => s
  | some (_, e) =>
    let pa := e.physical s.cur s.me va
    if paCluster pa = s.cur then s.ownWrite va pa bs else s.sendSlot s.stream (paCluster pa) va (.write pa bs)

/-- Bytes at their addresses. -/
def cellsAt (pa : Nat) (bs : List (Byte × Bool)) : List (Nat × Byte × Bool) := bs.zipIdx.map (fun x => (pa + x.2, x.1.1, x.1.2))

/-- One element joins the accesses of a vector store: those of one 8-byte word of scratchpad are one access, which is
single-copy atomic (09 R191); later lanes come last. -/
def joinWord (parts : List (List (Nat × Byte × Bool))) (cells : List (Nat × Byte × Bool)) : List (List (Nat × Byte × Bool)) :=
  match cells with
  | [] => parts
  | x :: _ =>
    let same (p : List (Nat × Byte × Bool)) : Bool := paSpace x.1 == 0 && (p.head?.map (fun y => y.1 / 8)) == some (x.1 / 8)
    if parts.any same then parts.map (fun p => if same p then p ++ cells else p) else parts ++ [cells]

/-- The accesses of one element: in scratchpad one for each 8-byte word that it meets. -/
def elemCells (pa : Nat) (bs : List (Byte × Bool)) : List (List (Nat × Byte × Bool)) :=
  let c := cellsAt pa bs
  if paSpace pa = 0 then [c.take (8 - pa % 8), c.drop (8 - pa % 8)] else [c]

/-- The accesses of elements that are stored one after another (09 R189, R191). -/
def wordsOf (ls : List (Nat × List (Byte × Bool))) : List (List (Nat × Byte × Bool)) :=
  (ls.flatMap (fun x => elemCells x.1 x.2)).foldl joinWord []

/-- One access of a vector store, performed for an agent. -/
def State.performCells (s : State) (master : Nat) (own : Bool) (cells : List (Nat × Byte × Bool)) : State :=
  match cells with
  | [] => s
  | x :: _ => if paSpace x.1 = 0 then s.writeCells cells else s.performWrite master own x.1 (cells.map (·.2))

/-- The distinct numbers of a list, in the order in which they come. -/
def firsts (l : List Nat) : List Nat := l.foldl (fun r x => if r.contains x then r else r ++ [x]) []

/-- The bytes of a value with one mark. -/
def marked (n v : Nat) (poison : Bool) : List (Byte × Bool) := (toBytes n v).map (fun b => (b, poison))

/-- What a load of one element finds: a value with its mark at once, nothing for a range that is not resident, or an
address in another cluster (09 R185 to R187). -/
inductive Found where
  | here (v : Nat) (poison : Bool)
  | absent
  | far (pa : Nat)
deriving DecidableEq, Repr

/-- A checked load of `n` bytes at `va` under type `t`. -/
def State.find (s : State) (t : ElemTy) (va n : Nat) : Found :=
  match findExtent s.me.table va n with
  | none => .absent
  | some (_, e) =>
    if e.kind = .noise then .here (noise s.ctx.nseed.toNat s.ctx.nstep.toNat ((va - e.vbase) / n) t) false
    else if e.res ≠ .resident then .absent
    else
      let pa := e.physical s.cur s.me va
      if paCluster pa ≠ s.cur then .far pa
      else if !s.reach pa false then .here 0 false
      else
        let b := s.performRead pa n
        .here (ofBytes (b.map (·.1))) (b.any (·.2))

/-- A load of the issuing cluster that a table denies: the context takes ADDR_PERM as an asynchronous fault. -/
def State.denied (s : State) (va n : Nat) : State :=
  match findExtent s.me.table va n with
  | none => s
  | some (_, e) =>
    let pa := e.physical s.cur s.me va
    if (e.kind = .local ∨ e.kind = .remote) ∧ e.res = .resident ∧ paCluster pa = s.cur ∧ !s.reach pa false then
      s.asyncFault s.cur s.curFw 0x22 (BitVec.ofNat 32 va) va
    else s

/-- Is the type one that may read a NOISE extent (09 R187)? -/
def noisy : ElemTy → Bool
  | .f32 | .bf16 | .f16 => true
  | _ => false

/-- A result that waits for answers. -/
def waitPend (lat : Nat) (d : Dest) (waits : List (Nat × Nat)) (ty : ElemTy) (mty : Option MemTy) : Pend :=
  ⟨lat, d, waits, ty, mty, false, false, none, false, true⟩

/-- A scalar load: LD and LDACQ. -/
def State.scalarLoad (s : State) (d base : SReg) (ty : MemTy) (rp : PReg) (off : BitVec 7) : State :=
  let x := s.ctx.rdS base
  let n := mbytes ty
  let va := effAddr x.val off n
  if x.poison then s.poisonUse va
  else match checkAll s.me.table (.load false) (rp != 0) n n [va] with
    | some (code, a) => s.raise code (BitVec.ofNat 32 a) a
    | none =>
      let s := s.denied va n
      match s.find .z32 va n with
      | .here v p => s.pushS 5 d (mextend ty v) p
      | .absent => (s.pushS 5 d 0 false).pushP 5 rp 0xFFFF 0
      | .far pa =>
        let id := s.nextId
        (s.sendSlot s.stream (paCluster pa) va (.read pa n)).updCtx (fun c =>
          c.push (waitPend 5 (.sreg d ⟨0, false⟩) [(id, 0)] .z32 (some ty)))

def execLd (d base : SReg) (ty : MemTy) (rp : PReg) (off : BitVec 7) (s : State) : Out :=
  .next (s.scalarLoad d base ty rp off)

/-- LDACQ (12 R230): it holds the context's later accesses, those of its own bundle too, until it has been performed. -/
def execLdacq (d base : SReg) (ty : MemTy) (_sc : Scope) (off : BitVec 7) (s : State) : Out :=
  .next (
    let t := s.scalarLoad d base ty 0 off
    if t.nextId = s.nextId then t
    else t.updCtx (fun c => { c with fences := c.fences ++ [⟨.acquire, [.perf s.nextId], [], s.slot, 0⟩] }))

/-- Lanes to read, word by word. -/
def joinLanes (ls : List (Nat × Nat)) : List (List (Nat × Nat)) :=
  (firsts (ls.map (fun x => x.2 / 8))).map (fun w => ls.filter (fun x => x.2 / 8 == w))

/-- A vector load of 16 elements at the given addresses: lanes read here land at once with their marks; lanes
elsewhere wait for the answers of their clusters; lanes not resident read zero and clear their bits of rp (09 R185). -/
def State.vectorLoad (s : State) (d : VReg) (ty : ElemTy) (rp : PReg) (all : Bool) (va : Fin 16 → Nat) : State :=
  let n := ebytes ty
  match checkAll s.me.table (.load (noisy ty)) (rp != 0) n n ((List.finRange 16).map va) with
  | some (code, a) => s.raise code (BitVec.ofNat 32 a) a
  | none =>
    let s := (List.finRange 16).foldl (fun s i => s.denied (va i) n) s
    let f : Vector Found 16 := Vector.ofFn (fun i => s.find ty (va i) n)
    let far : List (Nat × Nat) := (List.finRange 16).filterMap (fun i => match f[i] with
      | .far pa => some (i.val, pa)
      | _ => none)
    let groups := (firsts (far.map (fun x => paCluster x.2))).map (fun k => far.filter (fun x => paCluster x.2 == k))
    let waits := groups.zipIdx.flatMap (fun g => g.1.map (fun x => (s.nextId + g.2, x.1)))
    let gone : BitVec 16 := (List.finRange 16).foldl (fun m i => if f[i] = .absent then m ||| (1 <<< i.val) else m) 0
    let lanes : VVal := Vector.ofFn (fun i => match f[i] with
      | .here v p => ⟨wrElem ty v, p⟩
      | _ => ⟨0, false⟩)
    let s := groups.foldl (fun s g =>
      let x := nth g 0 (0, 0)
      s.sendSlot s.stream (paCluster x.2) (va (Fin.ofNat 16 x.1)) (.vread n (joinLanes g) [])) s
    let s := s.updCtx (fun c => c.push (waitPend 5 (.vreg d 0xFFFF lanes) waits ty none))
    if gone = 0 then s else s.pushP 5 rp (if all then 0xFFFF else gone) 0

/-- A vector load behind the checks of its registers. -/
def State.vload (s : State) (d : VReg) (base : SReg) (ty : ElemTy) (rp : PReg) (all : Bool) (regs : List VReg)
    (bad : Bool) (va : DWord → Fin 16 → Nat) : State :=
  let x := s.ctx.rdS base
  if s.fwBad (d :: regs) then s.illegalField
  else if x.poison || bad then s.poisonUse (va x.val 0)
  else s.vectorLoad d ty rp all (va x.val)

def execVld (d : VReg) (base : SReg) (ty : ElemTy) (rp : PReg) (off : BitVec 7) (s : State) : Out :=
  .next (s.vload d base ty rp false [] false
    (fun b i => (effAddr b off (16 * ebytes ty) + i.val * ebytes ty) % 2 ^ 64))

def execVldb (d : VReg) (base : SReg) (ty : ElemTy) (rp : PReg) (off : BitVec 7) (s : State) : Out :=
  .next (s.vload d base ty rp true [] false (fun b _ => effAddr b off (ebytes ty)))

def execVlds (d : VReg) (base : SReg) (ty : ElemTy) (rp : PReg) (b : SReg) (s : State) : Out :=
  .next (
    let st := s.ctx.rdS b
    s.vload d base ty rp (st.val == 0) [] st.poison (fun x i => strideAddr x st.val i.val))

/-- Does any lane of a register carry a mark? -/
def anyPoison (v : VVal) : Bool := v.toList.any (fun l => l.poison)

def execVgath (d : VReg) (base : SReg) (ty : ElemTy) (rp : PReg) (b : VReg) (s : State) : Out :=
  .next (
    let o := s.ctx.rdV b
    s.vload d base ty rp false [b] (anyPoison o) (fun x i => indexAddr x o[i].val))

/-! ### Stores -/

/-- A checked store of one scalar. -/
def State.scalarStore (s : State) (d base : SReg) (ty : MemTy) (off : BitVec 7) (go : State → Nat → List (Byte × Bool) → State) :
    State :=
  let x := s.ctx.rdS base
  let y := s.ctx.rdS d
  let n := mbytes ty
  let va := effAddr x.val off n
  if x.poison then s.poisonUse va
  else match checkAll s.me.table .store false n n [va] with
    | some (code, a) => s.raise code (BitVec.ofNat 32 a) a
    | none => go s va (marked n y.val.toNat y.poison)

def execSt (d base : SReg) (ty : MemTy) (off : BitVec 7) (s : State) : Out :=
  .next (s.scalarStore d base ty off State.storeBytes)

/-- A release: a store held in its stream until what R229 names has come about; it holds its stream until it is performed
(12 R229). With nothing outstanding, in the issuing cluster, it is performed at once. -/
def State.releaseBytes (s : State) (sc : Scope) (va : Nat) (bs : List (Byte × Bool)) : State :=
  match findExtent s.me.table va bs.length with
  | none => s
  | some (_, e) =>
    let pa := e.physical s.cur s.me va
    let ds := s.releaseDeps s.cur sc
    let o := s.streamOrder s.cur s.stream (paCluster pa) false
    if !ds.isEmpty then s.sendAs (.slot s.curFw s.stream) s.cur (paCluster pa) va (.write pa bs) .held ds o.2 true
    else if paCluster pa = s.cur then s.ownWrite va pa bs
    else (s.noteMsg s.cur (.slot s.curFw s.stream) (.write pa bs)).sendAs (.slot s.curFw s.stream) s.cur (paCluster pa) va
      (.write pa bs) .out [] o.2 true

def execStrel (d base : SReg) (ty : MemTy) (sc : Scope) (off : BitVec 7) (s : State) : Out :=
  .next (s.scalarStore d base ty off (fun s => s.releaseBytes sc))

/-- The accesses of a vector store (09 R189, R191): its lanes, ascending, word by word; those of this cluster are performed
at once, those of each other cluster make up one posted message. -/
def State.storeLanes (s : State) (ls : List (Nat × List (Byte × Bool))) : State :=
  let at_ : List (Nat × Nat × List (Byte × Bool)) := ls.filterMap (fun x => match findExtent s.me.table x.1 x.2.length with
    | some (_, e) => some (x.1, e.physical s.cur s.me x.1, x.2)
    | none => none)
  (firsts (at_.map (fun x => paCluster x.2.1))).foldl (fun s k =>
    let mine := at_.filter (fun x => paCluster x.2.1 == k)
    if k = s.cur then
      let ok := mine.filter (fun x => s.reach x.2.1 true)
      let parts := wordsOf (ok.map (fun x => (x.2.1, x.2.2)))
      let s := ok.foldl (fun s x => s.noteWrite s.cur s.stream x.2.1 x.2.2.length) s
      let s := parts.foldl (fun s p => s.performCells (s.masterOf s.cur s.curFw (modOf s.cur)) (!s.curFw) p) s
      (mine.filter (fun x => !s.reach x.2.1 true)).foldl (fun s x => s.asyncFault s.cur s.curFw 0x22 (BitVec.ofNat 32 x.1) x.1) s
    else s.sendSlot s.stream k (nth (mine.map (·.1)) 0 0)
      (.vwrite (wordsOf (mine.map (fun x => (x.2.1, x.2.2)))))) s

/-- A vector store behind its checks (09 R189). -/
def State.vstore (s : State) (d : VReg) (base : SReg) (ty : ElemTy) (regs : List VReg) (bad : Bool)
    (va : DWord → Fin 16 → Nat) : State :=
  let x := s.ctx.rdS base
  let v := s.ctx.rdV d
  let n := ebytes ty
  if s.fwBad (d :: regs) then s.illegalField
  else if x.poison || bad then s.poisonUse (va x.val 0)
  else match checkAll s.me.table .store false n n ((List.finRange 16).map (va x.val)) with
    | some (code, a) => s.raise code (BitVec.ofNat 32 a) a
    | none => s.storeLanes ((List.finRange 16).map (fun i => (va x.val i, marked n v[i].val.toNat v[i].poison)))

def execVst (d : VReg) (base : SReg) (ty : ElemTy) (off : BitVec 7) (s : State) : Out :=
  .next (s.vstore d base ty [] false (fun b i => (effAddr b off (16 * ebytes ty) + i.val * ebytes ty) % 2 ^ 64))

def execVsts (d : VReg) (base : SReg) (ty : ElemTy) (b : SReg) (s : State) : Out :=
  .next (
    let st := s.ctx.rdS b
    s.vstore d base ty [] st.poison (fun x i => strideAddr x st.val i.val))

def execVscat (d : VReg) (base : SReg) (ty : ElemTy) (b : VReg) (s : State) : Out :=
  .next (
    let o := s.ctx.rdV b
    s.vstore d base ty [b] (anyPoison o) (fun x i => indexAddr x o[i].val))

/-! ### Atomics (09 R192 to R196) -/

/-- One read-modify-write (09 R193): the new memory value and the flags for SESTAT. `x` is the operand, or the
compare value of cas, whose new value is `y`. -/
def atomOp (o : Aop) (ty : ElemTy) (m x y : Nat) : Nat × Flags :=
  let w := 8 * ebytes ty
  let x := x % 2 ^ w
  let r (i : Int) : Nat × Flags := (wrapNat w i, 0)
  match o with
  | .add => r ((m : Int) + x)
  | .sub => r ((m : Int) - x)
  | .and => (m &&& x, 0)
  | .or => (m ||| x, 0)
  | .xor => (m ^^^ x, 0)
  | .min => r (min (sext w m) (sext w x))
  | .max => r (max (sext w m) (sext w x))
  | .minu => (min m x, 0)
  | .maxu => (max m x, 0)
  | .fadd =>
    let q := addF .rne (fpVal ty m) (fpVal ty x)
    let z := roundRne (fmtOf ty) q.1
    (z.1, q.2 ||| z.2)
  | .fmin => minMaxNum (fmtOf ty) false m x
  | .fmax => minMaxNum (fmtOf ty) true m x
  | .xchg => (x, 0)
  | .cas => (if m = x then y % 2 ^ w else m, 0)

/-- The flags of an atomic join the SESTAT of the SE that holds the word (09 R193, R197): NV, OF, UF, NX. -/
def State.seFlags (s : State) (pa : Nat) (f : Flags) : State :=
  if f &&& 0x17 = 0 then s
  else s.updCluster (paCluster pa) (fun c =>
    let n := fld pa 17 5
    { c with sestat := kset c.sestat n (kget 0 c.sestat n ||| (f &&& 0x17).setWidth 64) })

/-- An atomic performed at its bank: the old value. A poisoned word stops it (09 R196). -/
def State.performAtom (s : State) (pa : Nat) (o : Aop) (ty : ElemTy) (x y : Nat) : State × Nat × Bool :=
  let n := ebytes ty
  let b := s.readMarked pa n
  let m := ofBytes (b.map (·.1))
  if b.any (·.2) then (s, m, true)
  else
    let r := atomOp o ty m x y
    ((s.writeMarked pa (marked n r.1 false)).seFlags pa r.2, m, false)

/-- A returned old value in a scalar register (09 R192). -/
def atomExt (ty : ElemTy) (v : Nat) : DWord :=
  if ty = .i32 then BitVec.ofInt 64 (sext 32 v) else BitVec.ofNat 64 v

/-- One lane of an atomic: address, operand, new value, mark of its operands. -/
structure AtomLane where
  va : Nat
  x : Nat
  y : Nat
  poison : Bool
deriving DecidableEq, Repr

/-- Where a lane's word lies. -/
def State.atomPa (s : State) (va n : Nat) : Nat :=
  match findExtent s.me.table va n with
  | some (_, e) => e.physical s.cur s.me va
  | none => 0

/-- The fault of an atomic beyond the common checks: atomics reach space 0 alone (16 R312, 18 R329, 14 R288); SC
atomics need an allotted position and words of their module; no operand or word is poisoned. -/
def State.atomFault (s : State) (ls : List AtomLane) (ty : ElemTy) (sc : Bool) : Option (Nat × Nat) :=
  let n := ebytes ty
  match checkAll s.me.table .atomic false n n (ls.map (·.va)) with
  | some f => some f
  | none =>
    let at_ (f : AtomLane → Bool) (code : Nat) : Option (Nat × Nat) := (ls.find? f).map (fun l => (code, l.va))
    match at_ (fun l => paSpace (s.atomPa l.va n) != 0) 0x22 with
    | some f => some f
    | none =>
      match (if sc && s.me.scPos.isEmpty then at_ (fun _ => true) 0x34 else none) with
      | some f => some f
      | none =>
        match (if sc then at_ (fun l => modOf (paCluster (s.atomPa l.va n)) != modOf s.cur) 0x35 else none) with
        | some f => some f
        | none => at_ (fun l => l.poison || s.poisoned (s.atomPa l.va n) n) 0x25

/-- The lanes of a stream-class atomic, ascending (09 R194): those of this cluster performed here, those of each other
cluster sent as one message; old values of those performed and the waits for the others. -/
def State.runAtom (s : State) (o : Aop) (ty : ElemTy) (ret : Bool) (ls : List (AtomLane × Nat)) :
    State × List (Nat × Nat) × List (Nat × Nat) :=
  let n := ebytes ty
  let at_ : List (AtomLane × Nat × Nat) := ls.map (fun l => (l.1, l.2, s.atomPa l.1.va n))
  (firsts (at_.map (fun l => paCluster l.2.2))).foldl (fun (r : State × List (Nat × Nat) × List (Nat × Nat)) k =>
    let mine := at_.filter (fun l => paCluster l.2.2 == k)
    if k = s.cur then
      mine.foldl (fun r l =>
        let s := r.1
        if s.reach l.2.2 true then
          let q := (s.noteWrite s.cur s.stream l.2.2 n).performAtom l.2.2 o ty l.1.x l.1.y
          (q.1, r.2.1 ++ [(l.2.1, q.2.1)], r.2.2)
        else (s.asyncFault s.cur s.curFw 0x22 (BitVec.ofNat 32 l.1.va) l.1.va, r.2.1, r.2.2)) r
    else
      let s := r.1
      (s.sendSlot s.stream k (nth (mine.map (fun l => l.1.va)) 0 0)
          (.vatom o ty ret (mine.map (fun l => (l.2.1, l.2.2, l.1.x, l.1.y))) []), r.2.1,
        if ret then r.2.2 ++ mine.map (fun l => (s.nextId, l.2.1)) else r.2.2)) (s, [], [])

/-- What an SC atomic waits for: every earlier access of the cluster performed, its writes within the module
acknowledged; the SC atomics of its own bundle take successive positions (12 R234). -/
def State.scDeps (s : State) : List Dep :=
  let own := (s.net.filter (fun m => m.src == s.cur && isScKind m.kind && (match m.by_ with
    | .slot f _ => f == s.curFw
    | _ => false))).map (·.id)
  s.unmet s.cur (((s.underWay s.cur).filter (fun i => !own.contains i)).flatMap (fun i => [.perf i, .wr .mod i]))

/-- The shared part of the four atomics: checks, then the SC message or the lanes. `dest` builds what a returning
form writes from the old values by lane. -/
def State.atomic (s : State) (o : Aop) (ty : ElemTy) (sc ret : Bool) (ls : List AtomLane) (dest : (Nat → Nat) → Dest) :
    State :=
  match s.atomFault ls ty sc with
  | some (code, a) => s.raise code (BitVec.ofNat 32 a) a
  | none =>
    if sc then
      let id := s.nextId
      let n := ebytes ty
      let s1 := s.sendAs (.slot s.curFw s.stream) s.cur s.cur (nth (ls.map (·.va)) 0 0)
        (.scAtom (ls.map (fun l => (s.atomPa l.va n, l.x, l.y))) o ty ret) .held s.scDeps [] false
      if ret then s1.updCtx (fun c => c.push (waitPend 5 (dest (fun _ => 0)) (ls.zipIdx.map (fun x => (id, x.2))) ty none))
      else s1.updCtx (fun c => { c with holds := c.holds ++ [⟨s.stream, [.perf id], s.slot, 0⟩] })
    else
      let r := s.runAtom o ty ret ls.zipIdx
      if ret then
        let v (i : Nat) : Nat := kget 0 r.2.1 i
        r.1.updCtx (fun c => c.push (waitPend 5 (dest v) r.2.2 ty none))
      else r.1

/-- ATOM and ATOMN: one lane; cas takes s[b] and s[b + 1]. -/
def State.atomScalar (s : State) (base : SReg) (ty : ElemTy) (o : Aop) (b : SReg) (sc ret : Bool) (dest : (Nat → Nat) → Dest) :
    State :=
  let x := s.ctx.rdS base
  let u := s.ctx.rdS b
  let w := s.ctx.rdS (Fin.ofNat 32 (b.val + 1))
  if x.poison then s.poisonUse x.val.toNat
  else s.atomic o ty sc ret [⟨x.val.toNat, u.val.toNat, w.val.toNat, u.poison || (o == .cas && w.poison)⟩] dest

def execAtom (d base : SReg) (ty : ElemTy) (aop : Aop) (b : SReg) (sc : Bool) (s : State) : Out :=
  .next (s.atomScalar base ty aop b sc true (fun v => .sreg d ⟨atomExt ty (v 0), false⟩))
def execAtomn (base : SReg) (ty : ElemTy) (aop : Aop) (b : SReg) (sc : Bool) (s : State) : Out :=
  .next (s.atomScalar base ty aop b sc false (fun _ => .flags 0))

/-- VATOM and VATOMN: the register group at b (09 R192). -/
def State.atomVector (s : State) (base : SReg) (ty : ElemTy) (o : Aop) (b : VReg) (sc ret : Bool) (regs : List VReg)
    (dest : (Nat → Nat) → Dest) : State :=
  let x := s.ctx.rdS base
  let k := if o = .cas then 2 else 1
  let u := s.ctx.rdV b
  let w := s.ctx.rdV (grp b 1)
  let f := s.ctx.rdV (grp b k)
  if s.fwBad (regs ++ [b, grp b k]) then s.illegalField
  else if x.poison || anyPoison f then s.poisonUse (indexAddr x.val f[(0 : Fin 16)].val)
  else s.atomic o ty sc ret ((List.finRange 16).map (fun i =>
    ⟨indexAddr x.val f[i].val, u[i].val.toNat, w[i].val.toNat, u[i].poison || (o == .cas && w[i].poison)⟩)) dest

def execVatom (d : VReg) (base : SReg) (ty : ElemTy) (aop : Aop) (b : VReg) (sc : Bool) (s : State) : Out :=
  .next (s.atomVector base ty aop b sc true [d]
    (fun v => .vreg d 0xFFFF (Vector.ofFn (fun i => ⟨wrElem ty (v i.val), false⟩))))
def execVatomn (base : SReg) (ty : ElemTy) (aop : Aop) (b : VReg) (sc : Bool) (s : State) : Out :=
  .next (s.atomVector base ty aop b sc false [] (fun _ => .flags 0))

/-- The slot-wheel grants of cluster `k` in the present cycle (12 R234): the first SC atomic not yet granted whose
earlier operations have completed takes the position, if it is one of the cluster's. -/
def State.wheelGrant (s : State) (k : Nat) : State :=
  let g := s.gtsOf (modOf k)
  if !(s.cluster k).scPos.contains (g % 256) then s
  else match s.net.find? (fun m => m.src == k && m.grant.isNone && s.allMet k m.cond && isScKind m.kind) with
    | none => s
    | some m => { s with net := s.net.map (fun x => if x.id = m.id then { x with grant := some g } else x) }

end Sys2Proof.Machine
end

