-- ==== Sys2Proof/Machine/Csr.lean ====
section
/-! DEFINITION. Control registers (05 R110, R111, R121; 04 Tables 4.3 to 4.5) and the landing of results in flight
(04 R80, 05 R109). -/

namespace Sys2Proof.Machine

/-- The value CSRR reads; none for an unassigned number (05 Table 5.2). -/
def State.csrRead (s : State) (k : Nat) (fw : Bool) (n : Nat) : Option DWord :=
  let cl := s.cluster k
  let c := cl.ctx fw
  let m := modOf k
  let w (x : Nat) : Option DWord := some (BitVec.ofNat 64 x)
  match n with
  | 0x000 => w (c.status.toNat + ofBool fw * 2 ^ 15)
  | 0x001 => w (c.info.toNat * 2 ^ 32 + c.swcode.toNat * 2 ^ 8 + c.code.toNat)
  | 0x002 => w c.slotres.toNat
  | 0x008 => w (ofBool cl.det * 2 ^ 15 + cl.share.toNat * 2 ^ 8)
  | 0x009 => w cl.fwcnt
  | 0x00A => w cl.phbase
  | 0x010 => w (s.gtsOf m % 2 ^ 64 / 4096)
  | 0x011 => w (s.gtsOf m % 4096)
  | 0x012 => w (s.gtsOf m)
  | 0x020 => some c.nseed
  | 0x021 => some c.nstep
  | 0x030 => w c.qscale.toNat
  | 0x031 => w (c.qlimit.toNat * 2 ^ 8 + ofBool c.qrefit)
  | 0x032 => w c.qclip.toNat
  | 0x033 => w c.qzero.toNat
  | 0x034 => w (c.qlast.toNat * 2 ^ 32 + c.qrefits.toNat)
  | 0x040 => w cl.padm.toNat
  | 0x041 => w cl.fmtcfg.toNat
  | 0x050 => w cl.chainlim.toNat
  | 0x051 => w cl.waitlim.toNat
  | 0x060 => w cl.ckpt.toNat
  | 0x061 => w (hsemWord (s.module m))
  | 0x070 => some c.lc[(0 : Fin 3)]
  | 0x071 => some c.lc[(1 : Fin 3)]
  | 0x072 => some c.lc[(2 : Fin 3)]
  | _ => none

/-- May a context write a control register (05 Table 5.2)? -/
def csrWritable (fw : Bool) (n : Nat) : Bool :=
  match n with
  | 0x000 => true
  | 0x001 => fw
  | 0x002 => fw
  | 0x008 => fw
  | 0x020 => true
  | 0x021 => true
  | 0x030 => true
  | 0x031 => true
  | 0x032 => true
  | 0x033 => true
  | 0x034 => true
  | 0x050 => fw
  | 0x051 => fw
  | 0x060 => fw
  | 0x070 => true
  | 0x071 => true
  | 0x072 => true
  | _ => false

/-- A CSRW landing in the registers of its context: only RW fields change (05 R110). -/
def Ctx.csrSet (c : Ctx) (n : Nat) (v : DWord) : Ctx :=
  let x := v.toNat
  match n with
  | 0x000 => { c with status := BitVec.ofNat 12 x &&& 0xF1F }
  | 0x001 => { c with info := BitVec.ofNat 32 (fld x 32 32), swcode := BitVec.ofNat 11 (fld x 8 11), code := BitVec.ofNat 7 x }
  | 0x002 => { c with slotres := BitVec.ofNat 4 x }
  | 0x020 => { c with nseed := v }
  | 0x021 => { c with nstep := v }
  | 0x030 => { c with qscale := BitVec.ofNat 32 x }
  | 0x031 => { c with qlimit := BitVec.ofNat 16 (fld x 8 16), qrefit := bitAt x 0 }
  | 0x032 => { c with qclip := BitVec.ofNat 32 x }
  | 0x033 => { c with qzero := BitVec.ofNat 32 x }
  | 0x034 => { c with qlast := BitVec.ofNat 32 (fld x 32 32), qrefits := BitVec.ofNat 32 x }
  | 0x070 => { c with lc := c.lc.set 0 v }
  | 0x071 => { c with lc := c.lc.set 1 v }
  | 0x072 => { c with lc := c.lc.set 2 v }
  | _ => c

/-- A CSRW landing in the registers of its cluster. -/
def Cluster.csrSet (c : Cluster) (n : Nat) (v : DWord) : Cluster :=
  let x := v.toNat
  match n with
  | 0x008 => { c with share := BitVec.ofNat 6 (fld x 8 6) }
  | 0x050 => { c with chainlim := BitVec.ofNat 16 x }
  | 0x051 => { c with waitlim := BitVec.ofNat 16 x }
  | 0x060 => { c with ckpt := BitVec.ofNat 16 x }
  | _ => c

def execCsrr (d : SReg) (c : BitVec 12) (s : State) : Out :=
  .next (match s.csrRead s.cur s.curFw c.toNat with
    | none => s.illegalField
    | some v => s.pushS 1 d v false)

/-- CSRW (05 R121): the old value to d, the new value to the register, both at latency 1. A marked value raises
POISON_USE (09 R200), once the number and the access have been found good (DEDUCED, log 6: no order is given). -/
def execCsrw (d a : SReg) (c : BitVec 12) (s : State) : Out :=
  .next (match s.csrRead s.cur s.curFw c.toNat with
    | none => s.illegalField
    | some v =>
      let x := s.ctx.rdS a
      if !csrWritable s.curFw c.toNat then s.illegalField
      else if x.poison then s.poisonUse
      else (s.pushS 1 d v false).push 1 (.csr c x.val))

/-- RDGTS (05 R121): GTS in the cycle of issue. -/
def execRdgts (d : SReg) (s : State) : Out := .next (s.pushS 1 d (BitVec.ofNat 64 (s.gtsOf (modOf s.cur))) false)

/-! ### Landing -/

/-- A counter of 32 bits that stops at its top. -/
def capAdd (x : Word) (n : Nat) : Word := BitVec.ofNat 32 (min (x.toNat + n) 0xFFFFFFFF)

/-- SEMSETs of a cycle in the order of R226: the rising order of the issue cycle and slot of each. -/
def insSet (x : Nat × Fin 256 × Int) : List (Nat × Fin 256 × Int) → List (Nat × Fin 256 × Int)
  | [] => [x]
  | y :: r => if x.1 < y.1 then x :: y :: r else y :: insSet x r

/-- A result written (04 R80). A CSRW of STATUS is taken before the flags that units have set in the same cycle (05 R111). -/
def landDest (fw : Bool) (c : Cluster) (d : Dest) : Cluster :=
  let x := c.ctx fw
  let put1 (y : Ctx) : Cluster := c.setCtx fw y
  match d with
  | .sreg r v => put1 (x.wrS r v)
  | .vreg r m v => put1 (x.wrV r m v)
  | .preg r m v => put1 (x.wrP r m v)
  | .lcSet i v => put1 { x with lc := x.lc.set i v }
  | .lcStep i st => put1 { x with lc := x.lc.set i (x.lc[i] + BitVec.ofInt 64 st) }
  | .flags f => put1 { x with status := x.status ||| f }
  | .csr n v =>
    let y := x.csrSet n.toNat v
    (put1 (if n = 0 ∧ !fw then { y with status := y.status ||| c.statusIn } else y)).csrSet n.toNat v
  | .quant nc nz sc grp => put1 { x with
      qclip := capAdd x.qclip nc
      qzero := capAdd x.qzero nz
      qscale := sc.getD x.qscale
      qrefits := capAdd x.qrefits (if sc.isSome then 1 else 0)
      qlast := if sc.isSome then grp else x.qlast }
  | .semAdd n i => { c with semIncs := c.semIncs ++ [(n, i)] }
  | .semSet n v o => { c with semSets := insSet (o, n, v) c.semSets }
  | .barInit n count rg => { c with bar := c.bar.set n { c.bar[n] with count := count, arr := 0, rg := rg } }

def Dest.isCsr : Dest → Bool
  | .csr .. => true
  | _ => false

/-- Is a result due: its latency has elapsed and what it waits for has come? -/
def Pend.due (p : Pend) : Bool := p.left == 0 && p.waits.isEmpty && !p.owed

/-- An issue cycle of a context starts (04 R80): the results whose latency is its index are written, the CSRWs first
(05 R111), then in issue order (05 R109). -/
def Cluster.landAll (c : Cluster) (fw : Bool) : Cluster :=
  let x := c.ctx fw
  let due := x.pend.filter Pend.due
  let c := c.setCtx fw { x with pend := x.pend.filter (fun p => !p.due) }
  let c := (due.filter (fun p => p.dest.isCsr)).foldl (fun c p => landDest fw c p.dest) c
  (due.filter (fun p => !p.dest.isCsr)).foldl (fun c p => landDest fw c p.dest) c

/-- An issue cycle of the context in focus starts: its due results are written, and the bundle of the cycle reads them. -/
def execLatencyResultWrite (s : State) : Out := .next (s.updMe (fun c => c.landAll s.curFw))

end Sys2Proof.Machine
end

