-- ==== Sys2Proof/Machine/Nodes.lean ====
section
/-! DEFINITION. Nodes of dataflow blocks and custom graphs (13 Tables 13.2 and 13.3, 03 R73): their operations,
ports and latencies, and what a node form computes for one token. -/

namespace Sys2Proof.Machine

/-- The operation a node opcode names (03 Table 3.18). -/
def nopOf (n : Nat) : Option NOp :=
  match n with
  | 0x01 => some .steer
  | 0x02 => some .merge
  | 0x03 => some .const
  | 0x04 => some .iter
  | 0x05 => some .cld
  | 0x06 => some .cst
  | 0x07 => some .catom
  | 0x08 => some .tsend
  | 0x09 => some .trecv
  | 0x20 => some .dadd
  | 0x21 => some .dsub
  | 0x22 => some .dmul
  | 0x23 => some .dfma
  | 0x24 => some .dmin
  | 0x25 => some .dmax
  | 0x26 => some .dand
  | 0x27 => some .dor
  | 0x28 => some .dxor
  | 0x29 => some .dshl
  | 0x2A => some .dshr
  | 0x2B => some .dsra
  | 0x2C => some .dcmp
  | 0x2D => some .dsel
  | 0x2E => some .dcvt
  | 0x2F => some .dmov
  | 0x30 => some .daddk
  | 0x31 => some .dshlk
  | 0x32 => some .dshrk
  | 0x33 => some .dandk
  | _ => none

/-- Ports a node consumes: a is 1, b is 2, c is 3. MERGE's second port depends on its control (13 R246). -/
def nopPorts (op : NOp) (cas : Bool) : List Nat :=
  match op with
  | .steer => [1, 2]
  | .merge => [1, 2, 3]
  | .const => []
  | .iter => []
  | .cld => [1]
  | .cst => [1, 2]
  | .catom => if cas then [1, 2, 3] else [1, 2]
  | .tsend => [1]
  | .trecv => []
  | .dfma => [1, 2, 3]
  | .dsel => [1, 2, 3]
  | .dcvt => [1]
  | .dmov => [1]
  | .daddk => [1]
  | .dshlk => [1]
  | .dshrk => [1]
  | .dandk => [1]
  | _ => [1, 2]

/-- The element type a node names; .i32 where it names none. -/
def nodeTy (t : Fin 16) : ElemTy := (elemOf t.val).getD .i32

/-- Latency of a node in cycles (13 Tables 13.2 and 13.3). -/
def nopLat (op : NOp) (t : Fin 16) : Nat :=
  match op with
  | .dadd => latOf (nodeTy t) 1 3
  | .dsub => latOf (nodeTy t) 1 3
  | .dmul => latOf (nodeTy t) 1 3
  | .dfma => latOf (nodeTy t) 1 3
  | .dcvt => 2
  | _ => 1

/-- The condition codes of DCMP (07 Table 7.3). -/
def vcondAt (n : Nat) : VCond := (vcondOf n).getD .eq

/-- What a node form computes (13 R252): `simm` and `uimm` are its immediate, signed and unsigned. -/
def nodeForm (op : NOp) (t : ElemTy) (rm : Rm) (simm : Int) (uimm : Nat) (a b c : Word) : Word × Flags :=
  match op with
  | .dadd => laneArith .add t rm a b c
  | .dsub => laneArith .sub t rm a b c
  | .dmul => laneArith .mul t rm a b c
  | .dfma => laneArith .fma t rm a b c
  | .dmin => laneMinMax false t a b
  | .dmax => laneMinMax true t a b
  | .dand => (a &&& b, 0)
  | .dor => (a ||| b, 0)
  | .dxor => (a ^^^ b, 0)
  | .dshl => (laneShift .shl t a b.toNat, 0)
  | .dshr => (laneShift .shr t a b.toNat, 0)
  | .dsra => (laneShift .sra t a b.toNat, 0)
  | .dcmp =>
    let r := laneCmp (vcondAt uimm) t a b
    (if r.1 then 1 else 0, r.2)
  | .dsel => (if c = 0 then b else a, 0)
  | .dcvt => laneCvt ((elemOf uimm).getD .i32) t rm a
  | .daddk => laneArith .add t rm a (BitVec.ofInt 32 simm) c
  | .dshlk => (laneShift .shl t a uimm, 0)
  | .dshrk => (laneShift .shr t a uimm, 0)
  | .dandk => (a &&& BitVec.ofNat 32 uimm, 0)
  | _ => (a, 0)

/-- Types a node form may name (13 R252): those its vector instruction lists, or none. -/
def nopTy (op : NOp) (t : Fin 16) : Bool :=
  match op with
  | .dadd => tyIs t ElemTy.isArith
  | .dsub => tyIs t ElemTy.isArith
  | .dmul => tyIs t ElemTy.isArith
  | .dfma => tyIs t ElemTy.isArith
  | .dmin => tyIs t ElemTy.isArith
  | .dmax => tyIs t ElemTy.isArith
  | .dshl => tyIs t ElemTy.isInt
  | .dshr => tyIs t ElemTy.isInt
  | .dsra => tyIs t ElemTy.isInt
  | .dcmp => tyIs t ElemTy.isArith
  | .dcvt => tyIs t ElemTy.isElem
  | .daddk => tyIs t ElemTy.isInt
  | .dshlk => tyIs t ElemTy.isInt
  | .dshrk => tyIs t ElemTy.isInt
  | _ => t == 0

/-- Does a form round, so that its rm field has a meaning (13 R252)? -/
def nopRounds (op : NOp) : Bool :=
  match op with
  | .dadd => true
  | .dsub => true
  | .dmul => true
  | .dfma => true
  | .dcvt => true
  | _ => false

end Sys2Proof.Machine
end

