-- ==== Sys2Proof/Machine/Custom.lean ====
section
/-! DEFINITION. Custom opcodes (chapter 15): graphs read and checked (03 R72, R73; 15 R296), planes, and the four
instructions XLD, XDROP, XQRY and XOP. -/

namespace Sys2Proof.Machine

/-! ### Code words -/

/-- A 32-bit word of code at address `a` of cluster `k`, with its poison mark. -/
def State.codeWord (s : State) (k a : Nat) : Word × Bool :=
  let b := s.readMarked (clusterBase k + a % 2 ^ 22) 4
  (BitVec.ofNat 32 (ofBytes (b.map (·.1))), b.any (·.2))

/-- `n` code words from address `a` upwards. -/
def State.codeWords (s : State) (k a n : Nat) : List (Word × Bool) := tabulate n (fun i => s.codeWord k (a + 4 * i))

/-- A line's number in the instruction buffer and its tag (04 R433). -/
def lineIdx (a : Nat) : Nat := a / 64 % 256
def lineTag (a : Nat) : Nat := a % 2 ^ 22 / 2 ^ 14

/-- The word at code address `a`, if its line is present in the instruction buffer. -/
def Cluster.ibufWord (c : Cluster) (a : Nat) : Option (Word × Bool) :=
  match c.ibuf.find? (fun x => x.1 == lineIdx a) with
  | some (_, l) => if l.tag = lineTag a then some (nth l.words (a % 64 / 4) (0, false)) else none
  | none => none

/-- `n` words of a bundle as cluster `k` issues it: from its instruction buffer, from the scratchpad where a line is absent. -/
def State.bundleWords (s : State) (k a n : Nat) : List (Word × Bool) :=
  tabulate n (fun i => ((s.cluster k).ibufWord ((a + 4 * i) % 2 ^ 22)).getD (s.codeWord k (a + 4 * i)))

/-- The check word of a header of which word `at_` holds it (03 R68, R72). -/
def checkWord (ws : List Word) (at_ : Nat) : Nat :=
  crc32c ((ws.set at_ 0).flatMap (fun w => toBytes 4 w.toNat))

/-- The present slots of a mask, S0 (slot 0) first, each with its word; X, E and K words are two code words, the
first the low half (03 R53, R56). -/
def slotsFrom (mask : Nat) : Nat → Nat → List Word → List (Nat × Nat)
  | 0, _, _ => []
  | fuel + 1, n, ws =>
    if n ≥ 14 then []
    else if !bitAt mask (13 - n) then slotsFrom mask fuel (n + 1) ws
    else if 10 ≤ n ∧ n ≤ 12 then
      (n, (nth ws 0 0).toNat + (nth ws 1 0).toNat * 2 ^ 32) :: slotsFrom mask fuel (n + 1) (ws.drop 2)
    else (n, (nth ws 0 0).toNat) :: slotsFrom mask fuel (n + 1) (ws.drop 1)

def slotsOf (mask : Nat) (ws : List Word) : List (Nat × Nat) := slotsFrom mask 14 0 ws

/-- The slots of the bundle at code address `pc` of a cluster, with their words. -/
def State.slotsAt (s : State) (k pc : Nat) : List (Nat × Nat) :=
  match s.bundleWords k pc 1 with
  | h :: _ =>
    (match decHeader h.1.toNat with
      | .bundle mask st n => slotsOf mask ((s.bundleWords k (pc + (if st then 8 else 4)) n).map (·.1))
      | _ => [])
  | [] => []

/-- The graphs that XOPs of the bundle at `a` name in the slots from `from_` onward. -/
def State.xopsAt (s : State) (k a from_ : Nat) : List (Fin 16) :=
  (s.slotsAt k a).filterMap (fun x =>
    if x.1 < from_ ∨ x.1 < 2 ∨ 6 ≤ x.1 then none
    else match decV x.2 with
      | .ok (.xop _ _ _ n _) => some n
      | _ => none)

/-! ### Graphs -/

/-- A graph node word (03 R73): its fields, if its reserved bits are zero. -/
def gnodeOf (w : Nat) : Option GNode :=
  let d (lo : Nat) : NDest := decDest w lo
  let ok (x : NDest) : Bool := x.x.val % 4 == 0 && x.wf
  if fld w 52 2 ≠ 0 ∨ fld w 0 5 ≠ 0 ∨ !ok (d 34) ∨ !ok (d 23) then none
  else some ⟨fld w 58 6, Fin.ofNat 16 (fld w 54 4), Fin.ofNat 8 (fld w 49 3), Fin.ofNat 16 (fld w 45 4), d 34, d 23,
    Fin.ofNat 64 (fld w 17 6), BitVec.ofNat 10 (fld w 7 10), rmOf (fld w 5 2)⟩

/-- The cell of a consumer field (03 R73). -/
def destCell (d : NDest) : Nat := d.y.val * 2 + d.x.val / 4
/-- Does a consumer field name result `r`? -/
def destResult (d : NDest) (r : Nat) : Bool := destCell d == 15 && d.stage.val == 7 && d.port.val == r + 1
/-- The operation of a graph node. -/
def GNode.nop (g : GNode) : NOp := (nopOf g.op).getD .iter
/-- Ports a graph node consumes. -/
def GNode.ports (g : GNode) : List Nat := nopPorts g.nop false
/-- Input selector of port p: a high, c low. -/
def GNode.selOf (g : GNode) (p : Nat) : Nat := fld g.sel.val (2 * (3 - p)) 2
/-- Does a node send to port `p` of node `h`? -/
def GNode.feeds (g h : GNode) (p : Nat) : Bool :=
  let hit (d : NDest) : Bool := d.port.val == p && destCell d == h.cell.val && d.stage == h.stage
  p != 0 && (hit g.d0 || hit g.d1)
/-- How often a node sends to port `p` of node `h`. -/
def GNode.feedCount (g h : GNode) (p : Nat) : Nat :=
  let hit (d : NDest) : Nat := if d.port.val == p && destCell d == h.cell.val && d.stage == h.stage then 1 else 0
  hit g.d0 + hit g.d1

/-- A node's own fields (03 R73, 13 R251, R252). An input selector of a port that the node's form does not consume must be
zero, or the graph is bad (DESIGN CHOICE, log 63: R73 does not say what such a selector does). -/
def GNode.fieldsOk (g : GNode) (srcs : Nat) : Bool :=
  let i := g.imm.toNat
  let form : Bool := decide (0x20 ≤ g.op) && (nopOf g.op).isSome
  let immOk : Bool := match g.nop with
    | .const => true
    | .daddk => true
    | .dshlk => true
    | .dshrk => true
    | .dandk => true
    | .dcmp => decide (i < 10) && (!(i == 6 || i == 7) || tyIs g.t ElemTy.isF3)
    | .dcvt => decide (i < 11)
    | _ => i == 0
  let rmOk : Bool := nopRounds g.nop || g.rm == .rne || (g.op == 0x03 && g.rm == .rz)
  let selOk : Bool := [1, 2, 3].all (fun p =>
    if g.ports.contains p then decide (g.selOf p ≤ srcs) else g.selOf p == 0)
  (form || g.op == 0x03) && decide (g.stage.val < 6) && nopTy g.nop g.t && immOk && rmOk && selOk

/-- A consumer field of a graph: empty, a declared result, or a port that a node of the graph consumes. One that names a place
where no node stands, or a port that the node there does not consume, makes the graph bad (DESIGN CHOICE, log 63: R73 lists
neither). -/
def destOk (nodes : List GNode) (results : Nat) (d : NDest) : Bool :=
  d.port == 0 ||
    (if d.stage.val == 7 then destCell d == 15 && decide (d.port.val ≤ results)
      else nodes.any (fun h => destCell d == h.cell.val && d.stage == h.stage && h.ports.contains d.port.val))

/-- Producers of each port and of each result (15 R296). -/
def producersOk (nodes : List GNode) (results : Nat) : Bool :=
  let count (h : GNode) (p : Nat) : Nat := (nodes.map (fun g => g.feedCount h p)).sum
  let res (r : Nat) : Nat := (nodes.map (fun g => (if destResult g.d0 r then 1 else 0) + (if destResult g.d1 r then 1 else 0))).sum
  nodes.all (fun h => h.ports.all (fun p => count h p == (if h.selOf p == 0 then 1 else 0))) &&
    res 0 == 1 && res 1 == (if results == 2 then 1 else 0)

/-- One round of path times: the time at which each node's token is ready; a node whose producers are not all known
stays unknown. -/
def timeRound (nodes : List GNode) (ts : List (Option Nat)) : List (Option Nat) :=
  nodes.map (fun h =>
    let ins := h.ports.filter (fun p => h.selOf p == 0)
    let one (p : Nat) : Option Nat :=
      match (nodes.zip ts).find? (fun x => x.1.feeds h p) with
      | some (g, some t) => some (t + (if g.cell = h.cell then 0 else 1))
      | _ => none
    let at_ := ins.map one
    if at_.all Option.isSome then
      some ((at_.foldl (fun m x => max m (x.getD 0)) 0) + (if h.op = 0x03 then 0 else nopLat h.nop h.t)) else none)

/-- `n` rounds. -/
def timeRounds (nodes : List GNode) : Nat → List (Option Nat)
  | 0 => nodes.map (fun _ => none)
  | n + 1 => timeRound nodes (timeRounds nodes n)

/-- Nodes that reach a result, in `n` rounds. -/
def reachRounds (nodes : List GNode) : Nat → List Bool
  | 0 => nodes.map (fun g => destResult g.d0 0 || destResult g.d0 1 || destResult g.d1 0 || destResult g.d1 1)
  | n + 1 =>
    let r := reachRounds nodes n
    (nodes.zip r).map (fun x => x.2 || (nodes.zip r).any (fun y => y.2 && [1, 2, 3].any (fun p => x.1.feeds y.1 p)))

/-- The rules on the nodes together (03 R73, 15 R296): places, cells, consumers, producers, no cycle, every node
reaches a result, no result later than the declared latency. -/
def nodesOk (nodes : List GNode) (srcs results latency cmask : Nat) : Bool :=
  let cells := nodes.foldl (fun m g => m ||| 2 ^ g.cell.val) 0
  let places : List (Fin 16 × Fin 8) := nodes.map (fun g => (g.cell, g.stage))
  let times := timeRounds nodes nodes.length
  let isResult (g : GNode) : Bool := destResult g.d0 0 || destResult g.d0 1 || destResult g.d1 0 || destResult g.d1 1
  decide places.Nodup && cells == cmask && nodes.all (fun g => g.fieldsOk srcs) &&
    nodes.all (fun g => destOk nodes results g.d0 && destOk nodes results g.d1) && producersOk nodes results &&
    times.all Option.isSome && (reachRounds nodes nodes.length).all id &&
    (nodes.zip times).all (fun x => !isResult x.1 || decide (x.2.getD 0 ≤ latency))

/-- The graph at code address `addr` of cluster `k` (03 R72, R73, 15 R296, R299 step 3); none is GRAPH_BAD. -/
def State.readGraph (s : State) (k addr : Nat) : Option Graph :=
  let hd := s.codeWords k addr 16
  let w0 := (s.codeWord k addr).1.toNat
  let count := fld w0 11 5
  let nw := s.codeWords k (addr + 64) (2 * count)
  let ws : List Word := (hd ++ nw).map (·.1)
  let latency := fld w0 20 4
  let srcs := fld w0 18 2
  let results := fld w0 16 2
  let w1 := (nth ws 1 0).toNat
  let nodes := tabulate count (fun i => gnodeOf ((nth ws (16 + 2 * i) 0).toNat + (nth ws (17 + 2 * i) 0).toNat * 2 ^ 32))
  if fld w0 28 4 ≠ 15 ∨ fld w0 0 11 ≠ 0 ∨ latency < 1 ∨ latency > 12 ∨ srcs < 1 ∨ results < 1 ∨ results > 2 ∨ count < 1 ∨
      count > 16 ∨ w1 ≥ 2 ^ 16 ∨ (hd ++ nw).any (·.2) ∨ ((ws.take 15).drop 2).any (fun w => w != 0) ∨
      checkWord ws 15 ≠ (nth ws 15 0).toNat ∨ nodes.any Option.isNone then none
  else
    let ns := nodes.filterMap id
    if nodesOk ns srcs results latency w1 then
      some ⟨Fin.ofNat 16 (fld w0 24 4), latency, srcs, results, BitVec.ofNat 16 w1, addr, ns⟩
    else none

/-! ### Evaluation (15 R296) -/

/-- A node's token: data, flags, poison mark, and whether a marked token stood as the control of a DSEL. -/
structure GTok where
  val : Word
  fl : Flags
  poison : Bool
  used : Bool
deriving DecidableEq, Repr

/-- What a graph node sends for its three inputs. -/
def GNode.fire (g : GNode) (a b c : GTok) : GTok :=
  let ins := g.ports.map (fun p => if p = 1 then a else if p = 2 then b else c)
  let i := g.imm.toNat
  let r : Word × Flags := match g.nop with
    | .const => (if g.rm = .rne then BitVec.ofInt 32 (sext 10 i) else BitVec.ofNat 32 (i * 2 ^ 22), 0)
    | op => nodeForm op (nodeTy g.t) g.rm (sext 10 i) i a.val b.val c.val
  ⟨r.1, r.2, ins.any (·.poison), g.nop == .dsel && c.poison⟩

/-- One round of evaluation on the sources `x`. -/
def evalRound (nodes : List GNode) (x : Nat → GTok) (ts : List (Option GTok)) : List (Option GTok) :=
  (nodes.zip ts).map (fun h =>
    match h.2 with
    | some t => some t
    | none =>
      let inp (p : Nat) : Option GTok :=
        if !h.1.ports.contains p then some ⟨0, 0, false, false⟩
        else if h.1.selOf p ≠ 0 then some (x (h.1.selOf p - 1))
        else match (nodes.zip ts).find? (fun y => y.1.feeds h.1 p) with
          | some (_, t) => t
          | none => none
      match inp 1, inp 2, inp 3 with
      | some a, some b, some c => some (h.1.fire a b c)
      | _, _, _ => none)

def evalRounds (nodes : List GNode) (x : Nat → GTok) : Nat → List (Option GTok)
  | 0 => nodes.map (fun _ => none)
  | n + 1 => evalRound nodes x (evalRounds nodes x n)

/-- A graph on one lane: its results, the flags of every node, whether a marked token was used as a control. -/
def Graph.eval (g : Graph) (x : Nat → Lane) : Lane × Lane × Flags × Bool :=
  let ts := (evalRounds g.nodes (fun i => ⟨(x i).val, 0, (x i).poison, false⟩) g.nodes.length).map
    (fun t => t.getD ⟨0, 0, false, false⟩)
  let res (r : Nat) : Lane := match (g.nodes.zip ts).find? (fun y => destResult y.1.d0 r || destResult y.1.d1 r) with
    | some (_, t) => ⟨t.val, t.poison⟩
    | none => ⟨0, false⟩
  (res 0, res 1, ts.foldl (fun f t => f ||| t.fl) 0, ts.any (·.used))

/-! ### Planes (15 R294, R299) -/

/-- Cells a graph uses. -/
def Graph.cells (g : Graph) : Nat := popBits 16 g.cmask.toNat
def cellsUsed (pl : List Graph) : Nat := (pl.map Graph.cells).sum

/-- Least recently used graphs leave, none of those protected, until at most 3 others remain and `need` cells are
free; the graphs evicted, and the plane left, if that can be reached. -/
def evict (keep : List (Fin 16)) (need : Nat) : Nat → List Graph → List (Fin 16) → Option (List Graph × List (Fin 16))
  | 0, _, _ => none
  | fuel + 1, pl, out =>
    if pl.length ≤ 3 ∧ cellsUsed pl + need ≤ 16 then some (pl, out)
    else match pl.find? (fun g => !keep.contains g.n) with
      | some g => evict keep need fuel (pl.filter (fun h => h.n != g.n)) (out ++ [g.n])
      | none => none

/-- The plane with graph `g` installed as the most recently used, the graphs evicted, and whether it replaced one. -/
def install (keep : List (Fin 16)) (pl : List Graph) (g : Graph) : Option (List Graph × List (Fin 16) × Bool) :=
  let rest := pl.filter (fun h => h.n != g.n)
  (evict keep g.cells 17 rest []).map (fun r => (r.1 ++ [g], r.2, pl.any (fun h => h.n == g.n)))

/-- The value XLD writes (15 R299). -/
def xldWord (out : List (Fin 16)) (replaced : Bool) : DWord :=
  BitVec.ofNat 64 (out.foldl (fun m n => m ||| 2 ^ n.val) 0 + (if replaced then 2 ^ 16 else 0))

/-- Accesses of streams q0 to q3 of the cluster not yet performed. -/
def State.coreOps (s : State) (k : Nat) : List Dep :=
  (s.net.filter (fun m => m.src == k && [0, 1, 2, 3].any m.inStream && !m.phase.performed)).map (fun m => .perf m.id)

def execXld (d a : SReg) (s : State) : Out :=
  .next (
    let x := s.ctx.rdS a
    let addr := x.val.toNat % 2 ^ 22
    if x.poison then s.poisonUse x.val.toNat
    else if addr % 64 ≠ 0 then s.raise 0x06 (BitVec.ofNat 32 addr)
    else
      let ids := s.coreOps s.cur
      s.updCtx (fun c => { c.owe d with post := c.post ++ [.xld d addr ids none 0] }))

def execXdrop (d : SReg) (n : Fin 16) (s : State) : Out :=
  .next (s.updCtx (fun c => { c.owe d with post := c.post ++ [.xdrop d n] }))

/-- Is the plane of a context lost to an error (24 R400)? -/
def Cluster.planeLost (c : Cluster) (fw : Bool) : Bool := c.bad.contains (if fw then 260 else 3)

/-- The resident graphs that the context in focus may use: none of a plane that is lost (24 R400). -/
def State.usablePlane (s : State) : List Graph := if s.me.planeLost s.curFw then [] else s.ctx.plane

/-- XQRY (15 R301). -/
def xqryWord (pl : List Graph) : DWord :=
  BitVec.ofNat 64 (pl.foldl (fun m g => m ||| 2 ^ g.n.val) 0 + pl.length * 2 ^ 16 + (16 - cellsUsed pl) * 2 ^ 20)

def execXqry (d : SReg) (s : State) : Out := .next (s.pushS 1 d (xqryWord s.usablePlane) false)

/-- Is an XOP of the context in flight? -/
def Ctx.xopBusy (c : Ctx) : Bool := c.pend.any (fun p => p.xop)

/-- One cycle of what follows the bundle of an XLD or XDROP (15 R299, R300) in context `fw` of cluster `k`, once its
bundle has committed whole: drain, read, install. On a plane that is lost it ends without effect or result (24 R400, log 64). -/
def State.postStep (s : State) (k : Nat) (fw : Bool) : State :=
  let c := s.ctxOf k fw
  let upd (s : State) (f : Ctx → Ctx) : State := s.setCtxOf k fw (f (s.ctxOf k fw))
  let lost := (s.cluster k).planeLost fw
  match c.post with
  | [] => s
  | p :: rest =>
    if c.xopBusy || !c.rest.isEmpty then s
    else match p with
      | .qpost .. => s
      | .mscl .. => s
      | .repair .. => s
      | .xdrop d n =>
        if lost then upd s (fun c => { c.forgo d with post := rest }) else
        let had := c.plane.any (fun g => g.n == n)
        upd s (fun c => { c.pay d ⟨if had then 1 else 0, false⟩ with post := rest, plane := c.plane.filter (fun g => g.n != n) })
      | .xld d addr ids none _ =>
        if lost then upd s (fun c => { c.forgo d with post := rest })
        else if !(s.allMet k ids) then s
        else match s.readGraph k addr with
          | none =>
            let f : FaultRec := ⟨0x69, BitVec.ofNat 32 addr, 0, 14, false, false, c.pc, 0, s.strokeOf (modOf k), false⟩
            upd s (fun c =>
              let c : Ctx := { c.forgo d with post := rest }
              if c.fault.isSome then c.recordFault f else c.takeFault f)
          | some g => upd s (fun c => { c with post := .xld d addr [] (some g) (4 + g.nodes.length) :: rest })
      | .xld d addr _ (some g) left =>
        if lost then upd s (fun c => { c.forgo d with post := rest })
        else if left > 1 then upd s (fun c => { c with post := .xld d addr [] (some g) (left - 1) :: rest })
        else match install [] c.plane g with
          | none => upd s (fun c => { c.forgo d with post := rest })
          | some (pl, out, rep) => upd s (fun c => { c.pay d ⟨xldWord out rep, false⟩ with post := rest, plane := pl })

/-- XOP (15 R302). -/
def execXop (d a b : VReg) (n : Fin 16) (p : PReg) (s : State) : Out :=
  .next (
    let c := s.ctx
    match s.usablePlane.find? (fun g => g.n == n) with
    | none => s.raise 0x68 (BitVec.ofNat 32 n.val)
    | some g =>
      let group := [d, a] ++ (if g.srcs ≥ 2 then [b] else []) ++ (if g.results = 2 then [grp d 1] else [])
      if (g.srcs = 1 ∧ b ≠ 0) ∨ (g.results = 2 ∧ d = 63) ∨ s.fwBad group then s.illegalField
      else
        let m := c.rdP p
        let x := c.rdV a
        let y := c.rdV b
        let z := c.rdV d
        let r : Vector (Lane × Lane × Flags × Bool) 16 := Vector.ofFn (fun i =>
          if m.getLsb i then g.eval (fun j => if j = 0 then x[i] else if j = 1 then y[i] else z[i])
          else (⟨0, false⟩, ⟨0, false⟩, 0, false))
        if r.toList.any (fun l => l.2.2.2) then s.poisonUse
        else
          let fl := r.toList.foldl (fun f l => f ||| l.2.2.1) (0 : Flags)
          let s := s.updCtx (fun c => { c with plane := c.plane.filter (fun h => h.n != n) ++ [g] })
          let put (s : State) (v : VReg) (l : VVal) : State := s.updCtx (fun c =>
            c.push { mkPend g.latency (.vreg v m l) with xop := true })
          let s := put s d (Vector.ofFn (fun i => r[i].1))
          let s := if g.results = 2 then put s (grp d 1) (Vector.ofFn (fun i => r[i].2.1)) else s
          s.pushFlags g.latency fl)

/-! ### The lockhouse loader's load, and reloads (15 R304, R305; 24 R397) -/

/-- Graph at `addr` loaded into the plane of context `fw` of cluster `k` as XLD would, sparing the graphs `keep`:
the graphs evicted and whether it replaced one; none where it fails its checks or cannot fit, or the plane is lost. -/
def State.loadGraph (s : State) (k : Nat) (fw : Bool) (addr : Nat) (keep : List (Fin 16)) :
    Option (State × List (Fin 16) × Bool) :=
  match s.readGraph k addr with
  | none => none
  | some g => if (s.cluster k).planeLost fw then none else (install keep (s.ctxOf k fw).plane g).map (fun r =>
      (s.setCtxOf k fw { s.ctxOf k fw with plane := r.1 }, r.2.1, r.2.2))

/-- The address word n of the current custom-opcode table names, if valid (15 R297). -/
def Cluster.cotAddr (c : Cluster) (n : Fin 16) : Option Nat :=
  match c.cur with
  | none => none
  | some p =>
    let w := (nth p.cot n.val 0).toNat
    if bitAt w 31 then some (w % 2 ^ 22) else none

/-- At a phase start the cox drops graphs the new phase's table does not name at their address (15 R295). -/
def Cluster.dropGraphs (c : Cluster) : Cluster :=
  { c with prog := { c.prog with plane := c.prog.plane.filter (fun g => c.cotAddr g.n == some g.addr) } }

/-- Graphs an outstanding fault of the program context keeps resident: those of its bundle from SLOTRES on (15 R304,
24 R397). -/
def State.sparedXops (s : State) (k : Nat) : List (Fin 16) :=
  match (s.ctxOf k false).fault with
  | some (f, _) => s.xopsAt k f.pc.toNat f.slot.toNat
  | none => []

/-- An install by PLREQ into the program plane of cluster `k` (24 R397): FAIL is set where it is refused, else REPL says whether
it replaced a graph and EVICT names those evicted; whether it succeeded. -/
def State.plInstall (s : State) (k addr : Nat) (keep : List (Fin 16)) : State × Bool :=
  match s.loadGraph k false addr keep with
  | some (t, out, rep) =>
    (t.updCluster k (fun c => { c with
      plFail := false, plRepl := rep, plEvict := BitVec.ofNat 16 (out.foldl (fun m n => m ||| 2 ^ n.val) 0) }), true)
  | none => (s.updCluster k (fun c => { c with plFail := true, plRepl := false, plEvict := 0 }), false)

/-- The end of the install that PLREQ began, which reads as XLD does once the accesses of q0 to q3 have been performed
(24 R397, 15 R299): the graph is in the program plane, or FAIL is set. -/
def execPlreqInstallEnd (k res : Nat) (s : State) : Out :=
  .next (
    let c := s.cluster k
    if !c.plBusy ∨ !(s.coreOps k).isEmpty then s
    else
      let t := s.updCluster k (fun c => { c with plBusy := false })
      if res = 0 then (t.plInstall k c.plAddr (s.sparedXops k)).1
      else t.updCluster k (fun c => { c with plFail := true, plRepl := false, plEvict := 0 }))

end Sys2Proof.Machine
end

