-- ==== Sys2Proof/Machine/Array.lean ====
section
/-! DEFINITION. Array mode (chapter 13): ARRAY and ARWAIT, the firing of nodes, admission, the ordering buffer of
chain-class operations, and the end of a block. Instructions and events of array mode act on the block of the
cluster in focus, or of the cluster they name. -/

namespace Sys2Proof.Machine

/-! ### Block nodes -/

/-- Place, type and consumers of a node. -/
def BNode.y (n : BNode) : Fin 8 := match n with
  | .plain _ m => m.y
  | .chain _ m => m.y
def BNode.x (n : BNode) : Fin 8 := match n with
  | .plain _ m => m.x
  | .chain _ m => m.x
def BNode.stage (n : BNode) : Fin 8 := match n with
  | .plain _ m => m.stage
  | .chain _ m => m.stage
def BNode.t (n : BNode) : Fin 16 := match n with
  | .plain _ m => m.t
  | .chain _ m => m.t
def BNode.op (n : BNode) : NOp := match n with
  | .plain o _ => o
  | .chain o _ => o
def BNode.dests (n : BNode) : List NDest := match n with
  | .plain _ m => [m.d0, m.d1]
  | .chain _ m => [m.d0, m.d1]
/-- Element number 8 y + x. -/
def BNode.element (n : BNode) : Nat := 8 * n.y.val + n.x.val
def destElement (d : NDest) : Nat := 8 * d.y.val + d.x.val

/-- CONST's and ITER's words (13 Tables 13.2, 13.4). -/
def sourceOk (op : NOp) (n : Node) : Bool :=
  n.place && n.t == 0 && (match op with
    | .iter => n.imm == 0 && n.rm == .rne
    | _ => n.rm != .ru && (n.rm != .rd || decide (n.imm.toNat < 32)))

/-- A node word of a block; none is an illegal configuration word by itself (03 R71). -/
def bnodeOf (w : Nat) : Option BNode :=
  match nopOf (fld w 58 6) with
  | none => none
  | some .const => if fld w 0 5 = 0 ∧ sourceOk .const (decNode w) then some (.plain .const (decNode w)) else none
  | some .iter => if fld w 0 5 = 0 ∧ sourceOk .iter (decNode w) then some (.plain .iter (decNode w)) else none
  | some op =>
    match decBlockNode w with
    | .ok (.cld n) => some (.chain op n)
    | .ok (.cst n) => some (.chain op n)
    | .ok (.catom n) => some (.chain op n)
    | .ok _ => some (.plain op (decNode w))
    | _ => none

/-- The instruction that a node's firing is; CONST and ITER fire with their iteration's admission (13 R245). -/
def BNode.instr (n : BNode) : Option Instr :=
  match n with
  | .plain op m =>
    match op with
    | .steer => some (.steer m)
    | .merge => some (.merge m)
    | .tsend => some (.tsend m)
    | .trecv => some (.trecv m)
    | .dadd => some (.dadd m)
    | .dsub => some (.dsub m)
    | .dmul => some (.dmul m)
    | .dfma => some (.dfma m)
    | .dmin => some (.dmin m)
    | .dmax => some (.dmax m)
    | .dand => some (.dand m)
    | .dor => some (.dor m)
    | .dxor => some (.dxor m)
    | .dshl => some (.dshl m)
    | .dshr => some (.dshr m)
    | .dsra => some (.dsra m)
    | .dcmp => some (.dcmp m)
    | .dsel => some (.dsel m)
    | .dcvt => some (.dcvt m)
    | .dmov => some (.dmov m)
    | .daddk => some (.daddk m)
    | .dshlk => some (.dshlk m)
    | .dshrk => some (.dshrk m)
    | .dandk => some (.dandk m)
    | _ => none
  | .chain op m =>
    match op with
    | .cld => some (.cld m)
    | .cst => some (.cst m)
    | .catom => some (.catom m)
    | _ => none

/-! ### Token channels (01 R14) -/

/-- Step in rows and columns of token channel n. -/
def tchStep (n : Nat) : Int × Int :=
  match n % 8 with
  | 0 => (-1, 0)
  | 1 => (-1, 1)
  | 2 => (0, 1)
  | 3 => (1, 1)
  | 4 => (1, 0)
  | 5 => (1, -1)
  | 6 => (0, -1)
  | _ => (-1, -1)

/-- The cluster at the other end of channel n, if connected: a member of the region. -/
def State.neighbour (s : State) (k n : Nat) : Option Nat :=
  let r : Int := (rowOf k : Int) + (tchStep n).1
  let c : Int := (colOf k : Int) + (tchStep n).2
  if r < 0 ∨ c < 0 then none
  else
    let j := clusterKey (modOf k) (dieOf k) r.toNat c.toNat
    if r.toNat < 32 ∧ c.toNat < 32 ∧ (s.membersOf k).contains j then some j else none

/-! ### ARRAY (13 R242, 03 R70, R71) -/

/-- A block's header and node words. -/
structure BlockWords where
  n : Nat
  S : Nat
  ii : Nat
  emask : Nat
  words : List Nat
deriving DecidableEq, Repr

/-- The header check of R70: none is BLOCK_BAD. A word with a poison mark fails it (log 24). -/
def State.readBlock (s : State) (k addr : Nat) : Option BlockWords :=
  let w (i : Nat) : Nat := (s.codeWord k (addr + 4 * i)).1.toNat
  let n := fld (w 0) 21 7 + 1
  let S := fld (w 0) 14 7
  let all := s.codeWords k addr (4 + 2 * n)
  let emask := w 1 + w 2 * 2 ^ 32
  let words := tabulate n (fun i => w (4 + 2 * i) + w (5 + 2 * i) * 2 ^ 32)
  let named := words.foldl (fun m x => m ||| 2 ^ fld x 52 6) 0
  if fld (w 0) 28 4 ≠ 3 ∨ S > 64 ∨ fld (w 0) 0 8 ≠ 0 ∨ all.any (·.2) ∨ checkWord (all.map (·.1)) 3 ≠ w 3 ∨ named ≠ emask then
    none
  else some ⟨n, S, fld (w 0) 8 6 + 1, emask, words⟩

/-- Is node `n` of the block legal beside the nodes before it (03 R71, 13 R253)? -/
def State.nodeLegal (s : State) (k : Nat) (b : BlockWords) (before : List BNode) (n : BNode) : Bool :=
  let inMask (d : NDest) : Bool := d.port == 0 || bitAt b.emask (destElement d)
  let place (m : BNode) : Bool := m.y == n.y && m.x == n.x && m.stage == n.stage
  n.dests.all inMask && !before.any place &&
    (match n with
      | .chain _ m =>
        decide (m.s.val < b.S) && !before.any (fun o => match o with
          | .chain _ q => q.s == m.s
          | _ => false) && (m.pred == 127 || decide (m.pred.val < b.S)) && (m.succ == 127 || decide (m.succ.val < b.S))
      | .plain op m =>
        if op = .tsend ∨ op = .trecv then
          (s.neighbour k m.imm.toNat).isSome && !before.any (fun o => match o with
            | .plain p q => p == op && q.imm == m.imm
            | _ => false)
        else true)

/-- The nodes of a block in word order, or the number of the first illegal word. -/
def State.readNodes (s : State) (k : Nat) (b : BlockWords) : List Nat → List BNode → List BNode ⊕ Nat
  | [], acc => .inl acc
  | w :: r, acc =>
    match bnodeOf w with
    | none => .inr w
    | some n => if s.nodeLegal k b acc n then s.readNodes k b r (acc ++ [n]) else .inr w

/-- The report of a blocked element (03 R71). -/
def blockedReport (k w : Nat) : Nat := dieOf k * 2 ^ 16 + rowOf k * 2 ^ 11 + colOf k * 2 ^ 6 + fld w 52 6

/-- The cox of the launch that binds cluster `k` learns of a failure (22 Table 22.8); the first one stands. -/
def State.failCox (s : State) (k code : Nat) : State :=
  match (s.cluster k).bind with
  | none => s
  | some b => s.updDie (dieKey k) (fun d =>
      match d.coxes.find? (fun x => x.1 == b.cox) with
      | some (_, c) => if c.fail.isSome then d else { d with coxes := kset d.coxes b.cox { c with fail := some code } }
      | none => d)

/-- A block as its header configures it at `now`: nothing admitted, the ordering buffer as R261 says. -/
def BlockWords.block (b : BlockWords) (addr : Nat) (chain : BitVec 8) (trips now : Nat) (c : Ctx) (after : List Dep)
    (nodes : List BNode) (bad : Option Nat) : Block :=
  { addr := addr, chain := chain, trips := trips, S := b.S, ii := b.ii, nodes := nodes
    consts := nodes.zipIdx.filterMap (fun x => match x.1 with
      | .plain .const m => if m.rm = .rd then some (x.2, c.rdS (Fin.ofNat 32 m.imm.toNat)) else none
      | _ => none)
    cfgEnd := now + 4 + b.n, nextK := 0, lastAdmit := none, ports := [], fired := [], buf := [], reserved := 0
    ell := 2 ^ 24 - 1, link := none, gap := 0, stuck := 0, outs := [], after := after, blocked := bad }

/-- A block is set up. -/
def State.startBlock (s : State) (k addr chain trips : Nat) (b : BlockWords) : State :=
  let mk (nodes : List BNode) (bad : Option Nat) : Block :=
    b.block addr (BitVec.ofNat 8 chain) trips (s.cyc k) (s.ctxOf k false) (s.coreOps k) nodes bad
  if trips = 0 then s.updCluster k (fun c => { c with block := some (mk [] none) })
  else match s.readNodes k b b.words [] with
    | .inl ns => s.updCluster k (fun c => { c with block := some (mk ns none) })
    | .inr w => (s.updCluster k (fun c => { c with block := some (mk [] (some (blockedReport k w))) })).failCox k 0x08

def execArray (a b : SReg) (chain : BitVec 8) (s : State) : Out :=
  .next (
    let x := s.ctx.rdS a
    let y := s.ctx.rdS b
    let addr := x.val.toNat % 2 ^ 22
    if s.curFw then s.illegalOp
    else if s.me.block.isSome then s
    else if x.poison then s.poisonUse x.val.toNat
    else if y.poison then s.poisonUse
    else if addr % 16 ≠ 0 then s.raise 0x06 (BitVec.ofNat 32 addr)
    else match s.readBlock s.cur addr with
      | none => s.raise 0x05 (BitVec.ofNat 32 addr)
      | some w => s.startBlock s.cur addr chain.toNat (y.val.toNat % 2 ^ 32) w)

/-- ARWAIT (13 R243): it parks while a block runs. -/
def execArwait (s : State) : Out :=
  .next (
    if s.curFw then s.illegalOp
    else if s.me.block.isSome then s.updCtx (fun c => { c with park := .arwait, entry := 13 }) else s)

/-- A parked ARWAIT whose block has ended passes on (13 R243), once every result in flight has landed (04 R81); a step of
the loop-end check has landed by its next bundle. -/
def Cluster.arwaitRelease (c : Cluster) : Cluster :=
  if c.prog.park = .arwait ∧ c.block.isNone ∧ c.prog.pend.isEmpty then { c with prog := ({ c.prog with park := .run } : Ctx).advanceAt 0 }
  else c

/-! ### Ports -/

def portKey (stage y x port : Nat) : Nat := 512 * stage + 64 * y + 8 * x + port
def destKey (d : NDest) : Nat := portKey d.stage.val d.y.val d.x.val d.port.val
def BNode.portKey (n : BNode) (p : Nat) : Nat := Sys2Proof.Machine.portKey n.stage.val n.y.val n.x.val p

def Block.setPort (b : Block) (key : Nat) (l : List Token) : Block :=
  { b with ports := if l.isEmpty then kdel b.ports key else kset b.ports key l }

/-- A token takes its place in a port by its iteration, behind those of the same iteration: a node fires for its
iterations in ascending order, whatever the times of arrival (13 R246, R247). -/
def insertToken (t : Token) : List Token → List Token
  | [] => [t]
  | u :: r => if t.iter < u.iter then t :: u :: r else u :: insertToken t r

/-- Does a consumer field name this port? -/
def destIs (d : NDest) (key : Nat) : Bool := d.port != 0 && destKey d == key

/-- How many of these consumer fields name a port. -/
def namings (ds : List NDest) (key : Nat) : Nat := (ds.filter (fun d => destIs d key)).length

/-- Tokens in a port or on their way to it, results of chain operations among them. -/
def Block.load (b : Block) (key : Nat) : Nat :=
  (kget [] b.ports key).length + (b.buf.map (fun o => namings [o.node.d0, o.node.d1] key)).sum +
    (b.outs.map (fun o => namings [o.2.1.d0, o.2.1.d1] key)).sum

/-- Is there room for a result in the ports of these consumers (13 R247)? -/
def Block.room (b : Block) (ds : List NDest) : Bool :=
  ds.all (fun d => d.port == 0 || decide (b.load (destKey d) + namings ds (destKey d) ≤ 4))

/-! ### What a port may still be given (13 R246, R262) -/

/-- Number of operation `s` of iteration `k`, before it is taken modulo 2^24. -/
def Block.numberOf (b : Block) (k s : Nat) : Nat := k * b.S + s

/-- May port `key` still be given a token of iteration `j` by a node of `can`? An operation numbered from `top` on gives
its result only after the operation that waits is sent. -/
def Block.mayGive (b : Block) (can : List Nat) (j top key : Nat) : Bool :=
  b.nodes.zipIdx.any (fun x => x.1.dests.any (fun d => destIs d key) && can.contains x.2 &&
    (match x.1 with
      | .chain _ m => decide (b.numberOf j m.s.val < top)
      | _ => true))

/-- Does port `key` hold, or may it still be given, a token of iteration `j`? -/
def Block.mayHold (b : Block) (can : List Nat) (j top key : Nat) : Bool :=
  (kget [] b.ports key).any (fun t => t.iter == j) ||
    b.outs.any (fun o => o.2.2 == j && (destIs o.2.1.d0 key || destIs o.2.1.d1 key)) ||
    b.buf.any (fun o => o.iter == j && decide (b.numberOf j o.node.s.val < top) && (destIs o.node.d0 key || destIs o.node.d1 key)) ||
    b.mayGive can j top key

/-- May node `n`, the `i`th, still fire for iteration `j`, given the nodes `can` that may? -/
def Block.mayFire (b : Block) (can : List Nat) (j top i : Nat) (n : BNode) : Bool :=
  let port (p : Nat) : Bool := b.mayHold can j top (n.portKey p)
  let due := decide (kget 0 b.fired i ≤ j) && decide (j < b.nextK)
  match n with
  | .plain .const _ => due
  | .plain .iter _ => due
  | .plain .trecv _ => due
  | .plain .merge _ => port 3 && (port 1 || port 2)
  | .plain op _ => (nopPorts op false).all port
  | .chain op m => (nopPorts op (op == .catom && m.aop.val == 13)).all port

/-- The nodes that may still fire for iteration `j`: the least such set, grown one round of the nodes at a time. -/
def Block.mayNodes (b : Block) (j top : Nat) : Nat → List Nat
  | 0 => []
  | f + 1 =>
    let can := b.mayNodes j top f
    (b.nodes.zipIdx.filter (fun x => b.mayFire can j top x.2 x.1)).map (·.2)

/-- The oldest iteration of which something is left to do. -/
def Block.oldest (b : Block) : Nat :=
  ((b.ports.flatMap (fun q => q.2.map (fun t => t.iter))) ++ b.buf.map (·.iter) ++ b.outs.map (·.2.2) ++
    (b.nodes.zipIdx.filter (fun x => match x.1.op with
      | .const => true
      | .iter => true
      | .trecv => true
      | _ => false)).map (fun x => kget 0 b.fired x.2)).foldl min b.nextK

/-- Does port `key` still await a token of an iteration before `j`: the result of a chain operation, or what one of
several producers may yet send? -/
def Block.awaitsEarlier (b : Block) (key j : Nat) : Bool :=
  b.buf.any (fun o => decide (o.iter < j) && (destIs o.node.d0 key || destIs o.node.d1 key)) ||
    b.outs.any (fun o => decide (o.2.2 < j) && (destIs o.2.1.d0 key || destIs o.2.1.d1 key)) ||
    (decide (1 < (b.nodes.filter (fun n => n.dests.any (fun d => destIs d key))).length) &&
      (List.range (j - b.oldest)).any (fun i =>
        let i := b.oldest + i
        let top := b.numberOf (i + 1) 0
        b.mayGive (b.mayNodes i top b.nodes.length) i top key))

/-- The token at the head of a port, once it has arrived and no token of an earlier iteration is to come. -/
def Block.head (b : Block) (now key : Nat) : Option Token :=
  match kget [] b.ports key with
  | t :: _ => if t.due ≤ now ∧ !b.awaitsEarlier key (t.iter) then some t else none
  | [] => none

/-- Steps between two elements. -/
def hops (y x : Fin 8) (d : NDest) : Nat := (max y.val d.y.val - min y.val d.y.val) + (max x.val d.x.val - min x.val d.x.val)

/-- A result sets out for its consumers (13 R247); an empty field discards it. -/
def Block.emit (b : Block) (y x : Fin 8) (ds : List NDest) (at_ : Nat) (v : Word) (iter : Nat) (poison : Bool) : Block :=
  ds.foldl (fun b d =>
    if d.port = 0 then b
    else
      let t : Token := ⟨v, iter, poison, at_ + hops y x d⟩
      b.setPort (destKey d) (insertToken t (kget [] b.ports (destKey d)))) b

/-- Head tokens leave their ports. -/
def Block.take (b : Block) (n : BNode) (ps : List Nat) : Block :=
  ps.foldl (fun b p => b.setPort (n.portKey p) ((kget [] b.ports (n.portKey p)).drop 1)) b

def Block.count (b : Block) (i : Nat) : Block := { b with fired := kset b.fired i (kget 0 b.fired i + 1), stuck := 0 }

/-! ### Aborting (13 R266) -/

/-- A fault in a block aborts it; the program context takes the fault asynchronously (R266). -/
def State.abortBlock (s : State) (k code : Nat) (info : Word) (va : Nat := 0) : State :=
  (s.updCluster k (fun c => { c with block := none })).asyncFault k false code info va

/-- TOKEN_SKEW and TOKEN_CHAIN's report. -/
def skewInfo (chain element stage : Nat) : Word := BitVec.ofNat 32 (chain * 2 ^ 24 + element * 2 ^ 8 + stage)

/-! ### Firing (13 R246 to R256) -/

/-- Ports that node `n` consumes now, where all their tokens have arrived: MERGE's second port follows its
control. -/
def Block.ready (b : Block) (now : Nat) (n : BNode) : Option (List (Nat × Token)) :=
  let cas := match n with
    | .chain .catom m => m.aop.val == 13
    | _ => false
  let ps : List Nat := match n.op with
    | .merge => (match b.head now (n.portKey 3) with
      | some c => [3, if c.data = 0 then 2 else 1]
      | none => [3])
    | op => nopPorts op cas
  let ts := ps.map (fun p => (b.head now (n.portKey p)).map (fun t => (p, t)))
  if ts.all Option.isSome && (n.op != .merge || ps.length == 2) then some (ts.filterMap id) else none

/-- Ports of a firing by number. -/
def portTok (ts : List (Nat × Token)) (p : Nat) : Token := ((ts.find? (fun x => x.1 == p)).map (·.2)).getD ⟨0, 0, false, 0⟩

/-- Does a span row take token channel n to neighbour `j` in this cycle (14 R291)? A TSEND waits for it (13 R256). A row
takes the channel from the cycle in which it sets out to the one before it arrives. -/
def State.spanTakes (s : State) (j n : Nat) : Bool :=
  n % 8 == 2 && (s.cluster j).mx.rowsIn.any (fun r => decide (1 < r.1))

/-- A TSEND on the channel that span rows take fires after the matrix engine has gone on (13 R256). -/
def BNode.onSpan (n : BNode) : Bool :=
  match n with
  | .plain .tsend m => m.imm.toNat % 8 == 2
  | _ => false

/-- A TSEND's token reaches the queue of the neighbour (13 R254): its channel there is the opposite one. -/
def State.sendToken (s : State) (j n : Nat) (t : Token) (chain : Nat) : State :=
  let q := (n + 4) % 8
  s.updCluster j (fun c => { c with tch := kset c.tch q (kget [] c.tch q ++ [(t, chain)]) })

/-- TRECV fires (13 R255): the head of its channel, with the tag of its next iteration. -/
def State.fireRecv (s : State) (k i : Nat) (b : Block) (n : Node) : State :=
  let q := n.imm.toNat
  let f := kget 0 b.fired i
  match kget [] (s.cluster k).tch q with
  | [] => s
  | (t, ch) :: r =>
    if t.due > s.cyc k ∨ f ≥ b.nextK ∨ !b.room [n.d0, n.d1] then s
    else if ch ≠ b.chain.toNat then s.abortBlock k 0x33 (skewInfo ch (8 * n.y.val + n.x.val) n.stage.val)
    else
      let b1 := (b.emit n.y n.x [n.d0, n.d1] (s.cyc k + 1) t.data f t.poison).count i
      s.updCluster k (fun c => { c with tch := kset c.tch q r, block := some b1 })

/-- A node of the block of the cluster in focus fires, if it can (13 R246): its tokens leave their ports, its result
sets out. -/
def State.fire (s : State) (n : BNode) : State :=
  let k := s.cur
  match s.me.block with
  | none => s
  | some b =>
    match b.nodes.zipIdx.find? (fun x => x.1 == n) with
    | none => s
    | some (_, i) =>
      if b.blocked.isSome ∨ s.cyc k < b.cfgEnd then s
      else match n with
        | .plain .trecv m => s.fireRecv k i b m
        | _ =>
        match b.ready (s.cyc k) n with
        | none => s
        | some [] => s
        | some (t0 :: ts) =>
          let all := t0 :: ts
          let tag := t0.2.iter
          let tok := portTok all
          let poison := all.any (fun x => x.2.poison)
          let skew := all.any (fun x => x.2.iter % 2 ^ 16 != tag % 2 ^ 16)
          let skewed := s.abortBlock k 0x32 (skewInfo b.chain.toNat n.element n.stage.val)
          let b1 := (b.take n (all.map (·.1))).count i
          let put (b : Block) : State := s.updCluster k (fun c => { c with block := some b })
          let emitTo (m : Node) (ds : List NDest) (v : Word) (f : Flags) : State :=
            (put (b1.emit m.y m.x ds (s.cyc k + nopLat n.op m.t) v tag poison)).updCluster k (fun c => c.unitFlags f)
          match n with
          | .chain op m =>
            let o : ChainOp := ⟨m, op, tag, (tok 1).data, (tok 1).poison, (tok 2).data, (tok 3).data,
              (tok 2).poison || (tok 3).poison⟩
            if skew then skewed
            else if !b.room [m.d0, m.d1] then s
            else put { b1 with buf := b1.buf ++ [o] }
          | .plain op m =>
            let ds : List NDest := match op with
              | .steer => [if (tok 2).data = 0 then m.d1 else m.d0]
              | _ => [m.d0, m.d1]
            let control := match op with
              | .steer => (tok 2).poison
              | .merge => (tok 3).poison
              | .dsel => (tok 3).poison
              | _ => false
            if skew then skewed
            else if control then s.abortBlock k 0x26 0
            else match op with
              | .tsend =>
                match s.neighbour k m.imm.toNat with
                | none => s
                | some j =>
                  if s.spanTakes j m.imm.toNat || decide (4 ≤ (kget [] (s.cluster j).tch ((m.imm.toNat + 4) % 8)).length) then s
                  else (put b1).sendToken j m.imm.toNat ⟨(tok 1).data, tag, poison, s.cyc k + 2⟩ b.chain.toNat
              | .steer => if b.room ds then emitTo m ds (tok 1).data 0 else s
              | .merge => if b.room ds then emitTo m ds (if (tok 3).data = 0 then (tok 2).data else (tok 1).data) 0 else s
              | _ =>
                if !b.room ds then s
                else
                  let r := nodeForm op (nodeTy m.t) m.rm m.imm.toInt m.imm.toNat (tok 1).data (tok 2).data (tok 3).data
                  emitTo m ds r.1 r.2

/-- A CONST or ITER that has not fired for every admitted iteration fires, if its consumers have room (13 R245, R251). -/
def State.fireSource (s : State) (k i : Nat) : State :=
  match (s.cluster k).block with
  | none => s
  | some b =>
    match b.nodes[i]? with
    | some (.plain op m) =>
      let f := kget 0 b.fired i
      if (op ≠ .const ∧ op ≠ .iter) ∨ f ≥ b.nextK ∨ !b.room [m.d0, m.d1] then s
      else
        let v : SVal :=
          if op = .iter then ⟨BitVec.ofNat 64 f, false⟩
          else match m.rm with
            | .rne => ⟨BitVec.ofInt 64 m.imm.toInt, false⟩
            | .rz => ⟨BitVec.ofNat 64 (m.imm.toNat * 2 ^ 16), false⟩
            | _ => ((b.consts.find? (fun x => x.1 == i)).map (·.2)).getD ⟨0, false⟩
        let b1 := (b.emit m.y m.x [m.d0, m.d1] (s.cyc k + 1) (v.val.setWidth 32) f v.poison).count i
        s.updCluster k (fun c => { c with block := some b1 })
    | _ => s

def State.fireSources (s : State) (k : Nat) : State :=
  match (s.cluster k).block with
  | none => s
  | some b => (List.range b.nodes.length).foldl (fun s i => s.fireSource k i) s

def execSteer (n : Node) (s : State) : Out := .next (s.fire (.plain .steer n))
def execMerge (n : Node) (s : State) : Out := .next (s.fire (.plain .merge n))
def execTsend (n : Node) (s : State) : Out := .next (s.fire (.plain .tsend n))
def execTrecv (n : Node) (s : State) : Out := .next (s.fire (.plain .trecv n))
def execDadd (n : Node) (s : State) : Out := .next (s.fire (.plain .dadd n))
def execDsub (n : Node) (s : State) : Out := .next (s.fire (.plain .dsub n))
def execDmul (n : Node) (s : State) : Out := .next (s.fire (.plain .dmul n))
def execDfma (n : Node) (s : State) : Out := .next (s.fire (.plain .dfma n))
def execDmin (n : Node) (s : State) : Out := .next (s.fire (.plain .dmin n))
def execDmax (n : Node) (s : State) : Out := .next (s.fire (.plain .dmax n))
def execDand (n : Node) (s : State) : Out := .next (s.fire (.plain .dand n))
def execDor (n : Node) (s : State) : Out := .next (s.fire (.plain .dor n))
def execDxor (n : Node) (s : State) : Out := .next (s.fire (.plain .dxor n))
def execDshl (n : Node) (s : State) : Out := .next (s.fire (.plain .dshl n))
def execDshr (n : Node) (s : State) : Out := .next (s.fire (.plain .dshr n))
def execDsra (n : Node) (s : State) : Out := .next (s.fire (.plain .dsra n))
def execDcmp (n : Node) (s : State) : Out := .next (s.fire (.plain .dcmp n))
def execDsel (n : Node) (s : State) : Out := .next (s.fire (.plain .dsel n))
def execDcvt (n : Node) (s : State) : Out := .next (s.fire (.plain .dcvt n))
def execDmov (n : Node) (s : State) : Out := .next (s.fire (.plain .dmov n))
def execDaddk (n : Node) (s : State) : Out := .next (s.fire (.plain .daddk n))
def execDshlk (n : Node) (s : State) : Out := .next (s.fire (.plain .dshlk n))
def execDshrk (n : Node) (s : State) : Out := .next (s.fire (.plain .dshrk n))
def execDandk (n : Node) (s : State) : Out := .next (s.fire (.plain .dandk n))
def execCld (n : ChainNode) (s : State) : Out := .next (s.fire (.chain .cld n))
def execCst (n : ChainNode) (s : State) : Out := .next (s.fire (.chain .cst n))
def execCatom (n : ChainNode) (s : State) : Out := .next (s.fire (.chain .catom n))

/-! ### Admission (13 R245, R262) -/

/-- May the next iteration be admitted in this cycle? -/
def State.mayAdmit (s : State) (k : Nat) (b : Block) : Bool :=
  b.blocked.isNone && decide (s.cyc k ≥ b.cfgEnd) && s.allMet k b.after && decide (b.nextK < b.trips) &&
    (match b.lastAdmit with
      | some t => decide (t + b.ii ≤ s.cyc k)
      | none => true) && decide (b.reserved + b.S ≤ 64)

def execIterationAdmit (k : Nat) (s : State) : Out :=
  .next (
    match (s.cluster k).block with
    | none => s
    | some b =>
      if s.mayAdmit k b ∧ !s.stopping k then
        let b1 : Block := { b with nextK := b.nextK + 1, lastAdmit := some (s.cyc k), reserved := b.reserved + b.S }
        (s.updCluster k (fun c => { c with block := some b1 })).fireSources k
      else s)

/-! ### The ordering buffer (13 R258 to R265) -/

/-- own of an operation. -/
def Block.own (b : Block) (o : ChainOp) : Nat := (o.iter * b.S + o.node.s.val) % 2 ^ 24
/-- The number its definite pred names. -/
def Block.predOf (b : Block) (o : ChainOp) : Option Nat :=
  let p := o.node.pred.val
  if p = 127 then none
  else if p < o.node.s.val then some ((o.iter * b.S + p) % 2 ^ 24)
  else some ((o.iter * b.S + p + 2 ^ 24 - b.S) % 2 ^ 24)
/-- The number its definite succ names. -/
def Block.succOf (b : Block) (o : ChainOp) : Option Nat :=
  let q := o.node.succ.val
  if q = 127 then none
  else if q > o.node.s.val then some ((o.iter * b.S + q) % 2 ^ 24)
  else some (((o.iter + 1) * b.S + q) % 2 ^ 24)

/-- R261's eligibility. -/
def Block.eligible (b : Block) (o : ChainOp) : Bool :=
  match b.link with
  | some l => b.own o == l
  | none => b.own o == (b.ell + 1) % 2 ^ 24 || b.predOf o == some b.ell

/-- Distance of an operation from ℓ. -/
def Block.dist (b : Block) (o : ChainOp) : Nat := (b.own o + 2 ^ 24 - b.ell) % 2 ^ 24

/-- The operation to send: the nearest eligible one. -/
def Block.choice (b : Block) : Option ChainOp :=
  (b.buf.filter b.eligible).foldl (fun m o => match m with
    | none => some o
    | some p => if b.dist o < b.dist p then some o else some p) none

/-- What an access of the block waits for before it leaves, and the messages it is performed after: those of one cluster
of the module in sending order; at another module a load or CATOM (`isRead`), with or without a result, waits for the acknowledgement of earlier writes, and what
follows a load is performed after it (13 R264, 12 R228). -/
def State.chainOrder (s : State) (k dst : Nat) (isRead : Bool) : List Dep × List Nat :=
  let ms := s.net.filter (fun m => m.src == k && m.dst == dst && m.by_ == .chain)
  if modOf dst = modOf k then ([], ms.map (·.id))
  else (if isRead then (ms.filter (fun m => isWriteKind m.kind)).map (fun m => .wr .sys m.id) else [],
    (ms.filter (fun m => isReadKind m.kind)).map (·.id))

/-- The result of a chain operation reaches its consumers' ports (13 R265). -/
def State.chainResult (s : State) (k : Nat) (n : ChainNode) (iter at_ : Nat) (v : Word) (poison : Bool) : State :=
  s.updCluster k (fun c => { c with block := c.block.map (fun b =>
    b.emit n.y n.x [n.d0, n.d1] at_ v iter poison) })

/-- The access of a chain operation whose checks have passed (13 R260, R264). -/
def State.chainAccess (s : State) (k : Nat) (o : ChainOp) (e : Extent) (t : ElemTy) : State :=
  let c := s.cluster k
  let va := o.addr.toNat
  let n := ebytes t
  let wr (v : Nat) : Word := wrElem t v
  let wait (s : State) (pa : Nat) (kind : MsgKind) (back : Bool) : State :=
    let ord := s.chainOrder k (paCluster pa) (o.op != .cst)
    let id := s.nextId
    let s1 := s.send .chain k (paCluster pa) va kind ord.1 ord.2
    if back then s1.updCluster k (fun c => { c with block := c.block.map (fun b =>
      { b with outs := b.outs ++ [(id, o.node, o.iter)] }) }) else s1
  if e.kind = .noise then
    s.chainResult k o.node o.iter (s.cyc k + 5)
      (wr (noise c.prog.nseed.toNat c.prog.nstep.toNat ((va - e.vbase) / n) t)) false
  else
    let pa := e.physical k c va
    let here := !s.byMessage k pa
    match o.op with
    | .cst =>
      let bs := marked n o.data.toNat o.poison
      if here then s.performWrite mProg true pa bs else wait s pa (.write pa bs) false
    | .catom =>
      let ao := (aopOf o.node.aop.val).getD .add
      let ret := o.node.d0.port != 0
      let x := o.data.toNat % 2 ^ (8 * n)
      if here then
        let r := s.performAtom pa ao t x o.new.toNat
        r.1.chainResult k o.node o.iter (s.cyc k + 5) (wr r.2.1) false
      else wait s pa (.atom pa ao t x o.new.toNat ret) ret
    | _ =>
      if here then
        let b := s.performRead pa n
        s.chainResult k o.node o.iter (s.cyc k + 5) (wr (ofBytes (b.map (·.1)))) (b.any (·.2))
      else wait s pa (.read pa n) true

/-- The checks of a chain operation, in the order of Table 9.4, when it is sent: cause code, if any. -/
def State.chainFault (s : State) (k : Nat) (o : ChainOp) (t : ElemTy) : Option Nat :=
  let c := s.cluster k
  let va := o.addr.toNat
  let n := ebytes t
  let kind : Acc3 := match o.op with
    | .cst => .store
    | .catom => .atomic
    | _ => .load (noisy t)
  if o.addrPoison then some 0x26
  else match checkElem c.table kind false va n n with
    | some (_, code) => some code
    | none =>
      match o.op, findExtent c.table va n with
      | .catom, some (_, e) =>
        let pa := e.physical k c va
        if paSpace pa ≠ 0 then some 0x22 else if o.poison || s.poisoned pa n then some 0x25 else none
      | _, _ => none

/-! ### What can still move (13 R249, R261, R263) -/

/-- Can node i fire now, or later without an outside event? -/
def State.nodeLive (s : State) (k : Nat) (b : Block) (n : BNode) (i : Nat) : Bool :=
  match n with
  | .plain .const m => decide (kget 0 b.fired i < b.nextK) && b.room [m.d0, m.d1]
  | .plain .iter m => decide (kget 0 b.fired i < b.nextK) && b.room [m.d0, m.d1]
  | .plain .trecv m => decide (kget 0 b.fired i < b.nextK) && b.room [m.d0, m.d1] && !(kget [] (s.cluster k).tch m.imm.toNat).isEmpty
  | .plain .tsend m => (b.ready (s.cyc k) n).isSome &&
      (match s.neighbour k m.imm.toNat with
        | some j => decide ((kget [] (s.cluster j).tch ((m.imm.toNat + 4) % 8)).length < 4)
        | none => false)
  | .plain .steer m => (match b.ready (s.cyc k) n with
      | some ts => b.room [if (portTok ts 2).data = 0 then m.d1 else m.d0]
      | none => false)
  | .plain _ m => (b.ready (s.cyc k) n).isSome && b.room [m.d0, m.d1]
  | .chain _ m => (b.ready (s.cyc k) n).isSome && b.room [m.d0, m.d1]

/-- Nothing of the block is under way: no node can fire, no token and no answer is on its way. -/
def State.quiet (s : State) (k : Nat) (b : Block) : Bool :=
  decide (s.cyc k ≥ b.cfgEnd) && b.outs.isEmpty && b.ports.all (fun q => q.2.all (fun t => decide (t.due ≤ s.cyc k))) &&
    b.nodes.zipIdx.all (fun x => !s.nodeLive k b x.1 x.2)

/-- Would sending `o` pass over a number whose operation may still fire (13 R262)? -/
def Block.passes (b : Block) (o : ChainOp) : Bool :=
  let top := b.numberOf o.iter o.node.s.val
  (List.range (b.dist o)).any (fun i =>
    let v := top - i
    i != 0 && decide (i ≤ top) &&
      !b.buf.any (fun q => b.numberOf q.iter q.node.s.val == v) &&
      b.nodes.zipIdx.any (fun x => match x.1 with
        | .chain _ m => m.s.val == v % b.S && (b.mayNodes (v / b.S) top b.nodes.length).contains x.2
        | _ => false))

/-- A TRECV of the block waits for its token: its next iteration has been admitted and its channel is empty (13 R257). -/
def Block.recvWait (b : Block) (tch : KMap (List (Token × Nat))) : Bool :=
  b.nodes.zipIdx.any (fun x => match x.1 with
    | .plain .trecv m => decide (kget 0 b.fired x.2 < b.nextK) && (kget [] tch m.imm.toNat).isEmpty
    | _ => false)
/-- The clusters for whose room TSENDs of the block wait (13 R254). -/
def State.sendWaits (s : State) (k : Nat) (b : Block) : List Nat :=
  b.nodes.zipIdx.filterMap (fun x => match x.1 with
    | .plain .tsend m => if (b.ready (s.cyc k) x.1).isSome && !s.nodeLive k b x.1 x.2 then s.neighbour k m.imm.toNat else none
    | _ => none)
/-- A node waits for the world outside its cluster: a TRECV for a token, a TSEND for room (13 R254, R257). -/
def State.outsideWait (s : State) (k : Nat) (b : Block) : Bool :=
  b.recvWait (s.cluster k).tch || !(s.sendWaits k b).isEmpty

/-- An operation that only its pred makes eligible waits while one that it would pass over may still fire and
something of the block moves, or waits for the world outside (DEDUCED, log 55): a number passed over is one that never fires (13 R262), and timing
decides no value (13 R247). -/
def State.chainHeld (s : State) (k : Nat) (b : Block) (o : ChainOp) : Bool :=
  b.link.isNone && decide (1 < b.dist o) && (!s.quiet k b || s.outsideWait k b) && b.passes o

/-- The ordering buffer's cycle (13 R261): it sends the nearest eligible operation, or gap-stalls; an operation that
`chainHeld` holds back stays. -/
def execChainOpSend (k : Nat) (s : State) : Out :=
  .next (
    match (s.cluster k).block with
    | none => s
    | some b =>
      match b.choice with
      | none => s
      | some o =>
        let t := nodeTy o.node.t
        if s.chainHeld k b o then s
        else match s.chainFault k o t with
        | some code => s.abortBlock k code o.addr o.addr.toNat
        | none =>
          let b1 : Block := { b with buf := b.buf.erase o, reserved := b.reserved - b.dist o, ell := b.own o, link := b.succOf o, gap := 0, stuck := 0 }
          let s := s.updCluster k (fun c => { c with block := some b1 })
          match findExtent (s.cluster k).table o.addr.toNat (ebytes t) with
          | some (_, e) => s.chainAccess k o e t
          | none => s)

/-! ### Ends (13 R249, R257, R263) -/

/-- Of the clusters `l`, those that drain no token channel unless one of the others does: no block runs there and the program
has ended its phase, or the block never starts, or all it can do is wait for room at clusters of `l`. -/
def State.stuckRound (s : State) (l : List Nat) : List Nat :=
  l.filter (fun k => match (s.cluster k).block, (s.cluster k).prog.park with
    | none, .phase _ => true
    | none, .halted => true
    | none, _ => false
    | some b, _ =>
      let w := s.sendWaits k b
      b.blocked.isSome || (s.quiet k b && !b.recvWait (s.cluster k).tch && !w.isEmpty && w.all l.contains))

/-- Can the block of cluster `k` make no progress because the room that its TSENDs wait for will never be there? -/
def State.sendsDead (s : State) (k : Nat) : Bool :=
  let ms := s.membersOf k
  (ms.foldl (fun l _ => s.stuckRound l) ms).contains k

/-- Have the admitted iterations of a block completed: every source and TRECV has fired for them, no operation and no
message is left, and nothing waits (13 R267)? -/
def State.admittedDone (s : State) (k : Nat) (b : Block) : Bool :=
  b.buf.isEmpty && s.quiet k b && !s.outsideWait k b && b.nodes.zipIdx.all (fun x => match x.1.op with
    | .const => decide (b.nextK ≤ kget 0 b.fired x.2)
    | .iter => decide (b.nextK ≤ kget 0 b.fired x.2)
    | .trecv => decide (b.nextK ≤ kget 0 b.fired x.2)
    | _ => true)

/-- Does the buffer gap-stall with an operation held (13 R263)? -/
def Block.gapped (b : Block) : Bool := !b.buf.isEmpty && b.choice.isNone

/-- CHAIN_GAP's report: chain number and ℓ + 1. -/
def Block.gapInfo (b : Block) : Word := BitVec.ofNat 32 (b.chain.toNat * 2 ^ 24 + (b.ell + 1) % 2 ^ 24)

/-- Is CHAIN_OVERFLOW due (13 R263)? -/
def State.overflow (s : State) (k : Nat) (b : Block) : Bool :=
  b.blocked.isNone && decide (0 < b.S) && decide (b.nextK < b.trips) && decide (b.reserved + b.S > 64) && b.choice.isNone && s.quiet k b &&
    !s.outsideWait k b

/-- The chain faults (13 R263): CHAIN_GAP once the stroke starts of a gap exceed CHAINLIM, CHAIN_OVERFLOW at once. -/
def execChainGap (k : Nat) (s : State) : Out :=
  .next (
    match (s.cluster k).block with
    | none => s
    | some b =>
      if b.gapped ∧ b.gap > (s.cluster k).chainlim.toNat then s.abortBlock k 0x30 b.gapInfo
      else if s.overflow k b then s.abortBlock k 0x31 b.gapInfo
      else s)

/-- The end of a block (13 R249), or TOKEN_SKEW where it can go no further: a wait for a token is none of those ends, nor is
one for room while the cluster that would make it may still do so (log 30). -/
def execBlockEnd (k : Nat) (s : State) : Out :=
  .next (
    match (s.cluster k).block with
    | none => s
    | some b =>
      if b.blocked.isSome then s
      else if b.trips = 0 then s.updCluster k (fun c => { c with block := none })
      else if !s.quiet k b then s
      else
        let waits := s.outsideWait k b
        let dead := waits && (decide (b.trips ≤ b.nextK) || decide (64 < b.reserved + b.S)) && s.sendsDead k &&
          (match b.choice with
            | none => b.buf.isEmpty
            | some o => s.chainHeld k b o)
        if !dead && (waits || decide (b.nextK < b.trips) || !b.buf.isEmpty) then s
      else match b.ports with
        | [] => s.updCluster k (fun c => { c with block := none })
        | (key, _) :: _ => s.abortBlock k 0x32 (skewInfo b.chain.toNat (key / 8 % 64) (key / 512)))

/-- A stroke start passes (13 R257, R263). -/
def Block.stroke (b : Block) (tch : KMap (List (Token × Nat))) : Block :=
  { b with gap := if b.gapped then b.gap + 1 else b.gap, stuck := if b.recvWait tch then b.stuck + 1 else b.stuck }

/-- Has a TRECV of the block of cluster `k` waited for longer than WAITLIM (13 R257)? -/
def State.blockLate (s : State) (k : Nat) : Bool :=
  match (s.cluster k).block with
  | none => false
  | some b => decide (b.stuck > (s.cluster k).waitlim.toNat) && b.recvWait (s.cluster k).tch

/-- WAIT_TIMEOUT of the block of cluster `k`. -/
def State.blockTimeout (s : State) (k : Nat) : State :=
  match (s.cluster k).block with
  | none => s
  | some b => s.abortBlock k 0x41 (BitVec.ofNat 32 (b.chain.toNat * 2 ^ 24))

end Sys2Proof.Machine
end

