-- ==== Sys2Proof/Config.lean ====
section
/-! DEFINITION. What the specification leaves open, as constants without a body: nothing in Lean can evaluate one or
prove a value of it. A claim that holds of this model holds whatever they are. -/

namespace Sys2Proof

/-- Which of the events that may happen now happens next, by the counter of free values (log 5): networks, engines
and firmware fix no time for them. -/
opaque Config.pick : Nat → Nat

/-- How much faster than the time base a module's clock runs (19 R355): 10 parts in a million and this many more. -/
opaque Config.drift : Nat → Fin 41

/-- One-way flit time of a link in cycles, measured at training (19 R350): by 96 m + link. -/
opaque Config.delay : Nat → Fin 512

/-- Lerlia's public XMSS key, under which provisioning records are signed (26 R427). -/
opaque Config.lerliaKey : List Byte

/-- The response of a die's physically unclonable circuit, corrected with helper data (26 R427): by the module's serial, its
helper data and the die. -/
opaque Config.response : List Byte → List Byte → Nat → List Byte

/-- The placement's weight images, each by its address and its bytes (26 R426): by the counter of free values. -/
opaque Config.weights : Nat → List (Nat × List Byte)

/-- How many flits a link's receiver buffer holds beyond the longest packet, by 96 m + link, virtual channel and hop class (19
R346 gives no size; log 26). With 5 and 6 in the place of a virtual channel: how many VC3 entries, and flits of response space, module
m has beyond the least. -/
opaque Config.buffer : Nat → Nat → Nat → Nat

/-- What an image's conversion routine makes of a save area: nothing where it faults or finds no room (25 R411). By the image's
bytes, the layout and the area's bytes. -/
opaque Config.convert : List Byte → Nat → List Byte → Option (List Byte)

/-- Where a firmware context starts under an image (25 R411): by the image's bytes and the cluster. -/
opaque Config.fwEntry : List Byte → Nat → BitVec 22

/-- The XMSS signature of an attestation report under the key derived from an identity seed (26 R427, R428): by the seed, the
leaf index and the report's bytes. -/
opaque Config.sign : List Byte → Nat → List Byte → List Byte

/-- The answer to an MCTP control message (26 R429; DSP0236 defines it): by the module and the message. -/
opaque Config.mctpReply : Nat → Nat → Nat

end Sys2Proof
end

