-- ==== Sys2Proof/Machine/Stream.lean ====
section
/-! DEFINITION. Stream channels and the stream engine (chapter 18): the E slot's commands, their start and
completion, WAITARR and its release, arrivals and free returns. -/

namespace Sys2Proof.Machine

/-! ### Engine clauses -/

/-- An engine word of the program context names no firmware semaphore (16 R307); one of the firmware context
signals no local-only semaphore (16 R314). -/
def State.clauseBad (s : State) (c : EClause) : Bool :=
  (c.wv && s.semNameBad c.wsem) || (c.ginc != 0 && (s.semNameBad c.gsem || s.semLocalBad c.gsem))

/-- The signal of a completed command joins the increments of the cycle (16 R311). -/
def Cluster.signal (c : Cluster) (n : Fin 256) (inc : Int) : Cluster :=
  if inc = 0 then c else { c with semIncs := c.semIncs ++ [(n, inc)] }

/-- The signal of an engine NOP or an MWAIT joins the increments of the cycle after the one in which it issues (16 R311). -/
def Cluster.signalNext (c : Cluster) (n : Fin 256) (inc : Int) : Cluster :=
  if inc = 0 then c else { c with semNext := c.semNext ++ [(n, inc)] }

/-- An engine NOP (03 R66): its signal is applied in the cycle after it issues. -/
def execEngineNop (_slot : EngSlot) (c : EClause) (s : State) : Out :=
  .next (if s.clauseBad c then s.illegalField
    else s.updMe (fun k => k.signalNext c.gsem c.ginc.toInt))

/-! ### Issue (18 R332 to R334) -/

/-- The commands of a stream. -/
def Cluster.stream (c : Cluster) (q : Nat) : List SCmd := kget [] c.streams q
def Cluster.setStream (c : Cluster) (q : Nat) (l : List SCmd) : Cluster :=
  { c with streams := if l.isEmpty then kdel c.streams q else kset c.streams q l }

/-- A command joins its stream. -/
def State.enqueue (s : State) (q : Fin 16) (c : EClause) (op : SOp) (dst src : DWord) (len : Nat) (after : List Dep) : State :=
  let cmd : SCmd := ⟨s.nextId, op, dst, src, len, c.gsem, c.ginc.toInt, s.curFw, s.engineAfter q.val op ++ after, false, 0, false,
    [], none, [], [], false, s.slotWord⟩
  { s.updMe (fun k => k.setStream q.val (k.stream q.val ++ [cmd])) with nextId := s.nextId + 1 }

/-- A copy form: SCOPY, SPOST, SGET. -/
def State.copyCmd (s : State) (op : SOp) (overlap : Bool) (dst src len : SReg) (q : Fin 16) (c : EClause) : State :=
  let d := s.ctx.rdS dst
  let a := s.ctx.rdS src
  let l := s.ctx.rdS len
  let n := l.val.toNat % 2 ^ 32
  if s.clauseBad c then s.illegalField
  else if d.poison || a.poison || l.poison then s.poisonUse
  else if overlap && decide (n > 0) && decide (d.val.toNat < a.val.toNat + n) && decide (a.val.toNat < d.val.toNat + n) then
    s.raise 0x52 (BitVec.ofNat 32 a.val.toNat) a.val.toNat
  else s.enqueue q c op d.val a.val n []

def execScopy (dst src len : SReg) (q : Fin 16) (c : EClause) (s : State) : Out := .next (s.copyCmd .copy true dst src len q c)
def execSpost (dst src len : SReg) (q : Fin 16) (c : EClause) (s : State) : Out := .next (s.copyCmd .post false dst src len q c)
def execSget (dst src len : SReg) (q : Fin 16) (c : EClause) (s : State) : Out := .next (s.copyCmd .get false dst src len q c)

def execSfill (src len : SReg) (fifo : Bool) (q : Fin 16) (c : EClause) (s : State) : Out :=
  .next (
    let a := s.ctx.rdS src
    let l := s.ctx.rdS len
    if s.curFw then s.illegalOp
    else if s.clauseBad c then s.illegalField
    else if a.poison || l.poison then s.poisonUse
    else s.enqueue q c (.fill fifo) 0 a.val (l.val.toNat % 2 ^ 32) [])

/-- Inbound and outbound channel `n` as the cluster uses them: channel state that is lost to an error is used no more, so that
the channel is as an unbound one (24 R400, log 64). -/
def Cluster.ichOf (c : Cluster) (n : Nat) : Ich := if c.bad.contains 5 then Ich.reset else kget Ich.reset c.ich n
def Cluster.ochOf (c : Cluster) (n : Nat) : Och := if c.bad.contains 5 then Och.reset else kget Och.reset c.och n

/-- First physical byte a virtual address translates to in the current table. -/
def State.paOf (s : State) (k va : Nat) : Option Nat :=
  let cl := s.cluster k
  (findExtent cl.table va 1).map (fun x => x.2.physical k cl va)

/-- What an SFREE waits for: the accesses of the program context, its block's among them, to the slot's physical bytes
(18 Table 18.4). -/
def State.slotDeps (s : State) (pa n : Nat) : List Dep :=
  let chain := (s.net.filter (fun m => m.src == s.cur && m.by_ == .chain)).map (·.id)
  s.unmet s.cur ((s.underWayOf s.cur false ++ chain).map (.touch pa n))

def execSsend (och : Fin 16) (src len : SReg) (q : Fin 16) (c : EClause) (s : State) : Out :=
  .next (
    let a := s.ctx.rdS src
    let l := s.ctx.rdS len
    let n := l.val.toNat % 2 ^ 32
    let o := s.me.ochOf och.val
    if s.curFw then s.illegalOp
    else if s.clauseBad c then s.illegalField
    else if a.poison || l.poison then s.poisonUse
    else if !o.v then s.raise 0x50 (BitVec.ofNat 32 och.val)
    else if a.val.toNat % 32 ≠ 0 ∨ n % 32 ≠ 0 ∨ n < 32 ∨ n > o.sbytes then s.raise 0x52 (BitVec.ofNat 32 a.val.toNat) a.val.toNat
    else s.enqueue q c (.send och) 0 a.val n [])

def execSfree (ich : Fin 16) (slot : SReg) (q : Fin 16) (c : EClause) (s : State) : Out :=
  .next (
    let a := s.ctx.rdS slot
    let x := s.me.ichOf ich.val
    if s.curFw then s.illegalOp
    else if s.clauseBad c then s.illegalField
    else if a.poison then s.poisonUse
    else if !x.v then s.raise 0x50 (BitVec.ofNat 32 ich.val)
    else if x.nheld = 0 ∨ a.val.toNat ≠ x.rbase + x.head * x.sbytes then s.raise 0x51 (BitVec.ofNat 32 a.val.toNat)
    else
      let seq := match x.tags with
        | t :: _ => t.2.1
        | [] => 0
      let after := s.slotDeps (x.phys + x.head * x.sbytes) x.sbytes
      let y : Ich := { x with head := (x.head + 1) % x.slots, nheld := x.nheld - 1, tags := x.tags.drop 1 }
      let s := s.updMe (fun k => { k with ich := kset k.ich ich.val y })
      s.enqueue q c (.free seq x.src) 0 a.val 0 after)

def execSwake (addr val : SReg) (q : Fin 16) (c : EClause) (s : State) : Out :=
  .next (
    let a := s.ctx.rdS addr
    let v := s.ctx.rdS val
    if s.clauseBad c then s.illegalField
    else if a.poison || v.poison then s.poisonUse
    else s.enqueue q c .wake a.val v.val 8 [])

def execSclose (q : Fin 16) (c : EClause) (s : State) : Out :=
  .next (if s.clauseBad c then s.illegalField else s.enqueue q c .close 0 0 0 [])

/-! ### Running a command (18 R333 to R338) -/

/-- Changing command `id` of stream `q` of cluster `k`. -/
def State.updCmd (s : State) (k q id : Nat) (f : SCmd → SCmd) : State :=
  s.updCluster k (fun c => c.setStream q ((c.stream q).map (fun x => if x.id = id then f x else x)))

/-- The first `n` bytes of the packet that a copy to another module is building set out for `pa` (19 R347). -/
def State.postPacket (s : State) (k q : Nat) (c : SCmd) (pa n : Nat) : State :=
  if n = 0 then s
  else
    let o := s.streamOrder k q (paCluster pa) false
    let id := s.nextId
    (s.send (.engine q c.id) k (paCluster pa) (c.dst.toNat + c.done - c.buf.length) (.write pa (c.buf.take n)) o.1 o.2).updCmd k q c.id
      (fun x => { x with buf := x.buf.drop n, outs := x.outs ++ [id] })

/-- What a copy to another module has moved into a packet sets out. -/
def State.postRest (s : State) (k q : Nat) (c : SCmd) : State :=
  let va := c.dst.toNat + c.done - c.buf.length
  match c.op, findExtent (s.cluster k).table va 1 with
  | .post, some (_, e) => s.postPacket k q c (e.physical k (s.cluster k) va) c.buf.length
  | _, _ => s

/-- A fault found while a command runs (18 R334): the command ends without its signal; the fault is asynchronous. What
it has posted before is on its way. -/
def State.cmdFault (s : State) (k q : Nat) (c : SCmd) (code va : Nat) : State :=
  ((s.postRest k q c).updCmd k q c.id (fun x => { x with ended := true, bad := true, got := [] })).asyncFault k c.fw code (BitVec.ofNat 32 va) va

/-- May an end of a copy have an extent of this kind at this address (18 R335)? -/
def kindOk (op : SOp) (source : Bool) (k : Nat) (e : Extent) (pa : Nat) : Bool :=
  let local_ := e.kind == .local
  let remoteHere := e.kind == .remote && modOf (paCluster pa) == modOf k
  match op, source with
  | .post, true => local_
  | .post, false => e.kind == .remote
  | .get, true => e.kind == .remote
  | .get, false => local_
  | _, _ => local_ || remoteHere

/-- Physical place of virtual byte `va` in the current table of cluster `k` for a load of a command, if its checks pass. -/
def State.sourceByte (s : State) (k : Nat) (op : SOp) (va : Nat) : Option Nat :=
  let cl := s.cluster k
  match checkElem cl.table (.load true) false va 1 1, findExtent cl.table va 1 with
  | none, some (_, e) => let pa := e.physical k cl va; if kindOk op true k e pa then some pa else none
  | _, _ => none

/-- How many of `n` virtual bytes from `va` on may be read and lie side by side from `pa` on, whichever extents map them. -/
def State.runLen (s : State) (k : Nat) (op : SOp) (va pa n : Nat) : Nat :=
  ((List.range n).takeWhile (fun i => s.sourceByte k op (va + i) == some (pa + i))).length

/-- How many of `n` bytes from virtual `va` on one entry maps, within one cluster: what one write can take of them. -/
def State.spanLen (s : State) (k va n : Nat) : Nat :=
  let cl := s.cluster k
  let at_ (i : Nat) : Option (Nat × Nat) := (findExtent cl.table (va + i) 1).map (fun x => (x.1, paCluster (x.2.physical k cl (va + i))))
  ((List.range n).takeWhile (fun i => at_ i == at_ 0)).length

/-- FIFO room in bytes (14 R278). -/
def fifoRoom (x : Mx) (b : Bool) : Nat := 4096 - (if b then x.fifoB.length else x.fifoA.length)

/-- A byte in a FIFO, with its mark. -/
def fifoByte (b : Byte × Bool) : Lane := ⟨b.1.setWidth 32, b.2⟩

/-- Bytes enter a FIFO; the command waits for their popping. -/
def Mx.push (x : Mx) (b : Bool) (id q : Nat) (bs : List (Byte × Bool)) : Mx :=
  let l := bs.map fifoByte
  if b then { x with fifoB := x.fifoB ++ l, fillsB := x.fillsB ++ bs.map (fun _ => (id, q)) }
  else { x with fifoA := x.fifoA ++ l, fillsA := x.fillsA ++ bs.map (fun _ => (id, q)) }

/-- Bytes of a unit that have been moved on: those that came back from another cluster leave `got`. -/
def SCmd.moved (x : SCmd) (n : Nat) (out : List Nat) : SCmd :=
  { x with done := x.done + n, ended := decide (x.done + n ≥ x.len), outs := x.outs ++ out, got := x.got.drop n }

/-- Bytes of a copy reach their destination, which one entry maps within one cluster: memory here or a posted write. A copy to
another module gathers them into packets of up to 256 bytes. -/
def State.place1 (s : State) (k q : Nat) (c : SCmd) (bs : List (Byte × Bool)) : State :=
    let n := bs.length
    let va := c.dst.toNat + c.done
    let cl := s.cluster k
    match checkElem cl.table .store false va n 1, findExtent cl.table va n with
    | some (_, code), _ => s.cmdFault k q c (if code = 0x23 then 0x52 else code) va
    | none, none => s.cmdFault k q c 0x21 va
    | none, some (_, e) =>
      let pa := e.physical k cl va
      if !kindOk c.op false k e pa then s.cmdFault k q c 0x52 va
      else if !s.byMessage k pa then
        let mst := s.masterOf k c.fw (modOf k)
        if s.accOk mst pa true then
          ((s.noteWrite k q pa n).performWrite mst (!c.fw) pa bs).updCmd k q c.id (fun x => x.moved n [])
        else s.cmdFault k q c 0x22 va
      else if c.op = .post ∧ modOf (paCluster pa) ≠ modOf k then
        let m := c.buf.length
        let cut := 256 - (pa - m) % 256
        let c1 := { c with buf := c.buf ++ bs, done := c.done + n }
        let s := s.updCmd k q c.id (fun x => { x.moved n [] with buf := c1.buf })
        let first := if m + n < cut then 0 else cut
        let s := s.postPacket k q c1 (pa - m) first
        let c2 := { c1 with buf := c1.buf.drop first }
        if c1.done ≥ c.len ∨ (findExtent cl.table (va + n) 1).map (·.1) ≠ (findExtent cl.table va n).map (·.1) then
          s.postPacket k q c2 (pa - m + first) c2.buf.length
        else s
      else
        let o := s.streamOrder k q (paCluster pa) false
        let id := s.nextId
        (s.send (.engine q c.id) k (paCluster pa) va (.write pa bs) o.1 o.2).updCmd k q c.id (fun x => x.moved n [id])

/-- The bytes of a unit reach their destination: memory here, posted writes, a FIFO, the packet. A copy's are cut where its
destination leaves an entry or a cluster; what lies beyond a byte that faults is not moved. -/
def State.deliver (s : State) (k q : Nat) (c : SCmd) (bs : List (Byte × Bool)) : State :=
  let n := bs.length
  match c.op with
  | .fill b =>
    let all := c.buf ++ bs
    let now := all.take (fifoRoom (s.cluster k).mx b)
    (s.updCluster k (fun cl => { cl with mx := cl.mx.push b c.id q now })).updCmd k q c.id (fun x =>
      { x with done := x.done + now.length, ended := decide (x.done + now.length ≥ x.len), buf := all.drop now.length, got := x.got.drop n })
  | .send _ => s.updCmd k q c.id (fun x => { x with done := x.done + n, buf := x.buf ++ bs, got := x.got.drop n })
  | _ =>
    ((List.range n).foldl (fun (r : State × List (Byte × Bool)) _ =>
      match r.2, ((r.1.cluster k).stream q).find? (fun x => x.id == c.id) with
      | [], _ => r
      | _, none => r
      | l, some x =>
        if x.bad then r
        else
          let m := max 1 (r.1.spanLen k (x.dst.toNat + x.done) l.length)
          (r.1.place1 k q x (l.take m), l.drop m)) (s, bs)).1

/-- The source of a command's next unit. -/
inductive Source where
  /-- Nothing can be moved in this cycle: an answer or FIFO room is waited for. -/
  | wait
  /-- Bytes that have come back, or that the FIFO had no room for: how many of `got` move on. -/
  | kept (n : Nat)
  /-- `n` bytes of this cluster at a physical address. -/
  | near (pa n : Nat)
  /-- A read of `n` bytes through a message. -/
  | far (pa n : Nat)
  | fault (code : Nat)
deriving DecidableEq, Repr

/-- What the next unit of a command that moves bytes is: the bytes of one 64-byte physical unit of the source (14 R289, 18 R335),
as far as they may be read and lie side by side there, in one access; from another module, those up to a 256-byte boundary
of the destination (19 R347). An SFILL that waits for room in its FIFO waits without limit: WAIT_TIMEOUT is for waits of
commands for rows (DESIGN CHOICE, log 63). -/
def State.source (s : State) (k : Nat) (c : SCmd) : Source :=
  let cl := s.cluster k
  let va := c.src.toNat + c.done
  let dst := c.dst.toNat + c.done
  let left := c.len - c.done
  let room := match c.op with
    | .fill b => decide (0 < fifoRoom cl.mx b)
    | _ => true
  let held := match c.op with
    | .fill _ => !c.buf.isEmpty
    | _ => false
  let ps := (s.paOf k va).getD va
  let unit := min left (64 - ps % 64)
  if c.reading.isSome ∨ !room then .wait
  else if held then .kept 0
  else if !c.got.isEmpty then .kept (min unit c.got.length)
  else match checkElem cl.table (.load true) false va 1 1, findExtent cl.table va 1 with
    | some (_, code), _ => .fault code
    | none, none => .fault 0x21
    | none, some (_, e) =>
      let pa := e.physical k cl va
      let far := c.op == .get && modOf (paCluster pa) != modOf k
      let n := if far then min left (min (256 - (s.paOf k dst).getD dst % 256) (2 ^ 22 - pa % 2 ^ 22)) else unit
      let n := max 1 (s.runLen k c.op va pa n)
      if !kindOk c.op true k e pa then .fault 0x52
      else if s.byMessage k pa then .far pa n
      else if s.accOk (s.masterOf k c.fw (modOf k)) pa false then .near pa n
      else .fault 0x22

/-- One unit of a command that moves bytes: it is moved on, or its read is sent. -/
def State.unit (s : State) (k q : Nat) (c : SCmd) : State :=
  let va := c.src.toNat + c.done
  match s.source k c with
  | .wait => s
  | .kept n => s.deliver k q c (c.got.take n)
  | .near pa n => s.deliver k q c (s.performRead pa n)
  | .far pa n =>
    let o := s.streamOrder k q (paCluster pa) true
    let id := s.nextId
    (s.send (.engine q c.id) k (paCluster pa) va (.read pa n) o.1 o.2).updCmd k q c.id (fun x => { x with reading := some (id, n) })
  | .fault code => s.cmdFault k q c code va

/-- Packets of one channel that are on their way: a later one arrives after them (18 R323, 19 R349). -/
def State.channelOut (s : State) (k dst : Nat) (ich : Fin 16) : List Nat :=
  (s.net.filter (fun m => m.src == k && m.dst == dst && (match m.kind with
    | .packet i .. => i == ich
    | _ => false))).map (·.id)
/-- Free returns of one channel that are on their way. -/
def State.freesOut (s : State) (k dst : Nat) (och : Fin 16) : List Nat :=
  (s.net.filter (fun m => m.src == k && m.dst == dst && (match m.kind with
    | .freeRet o _ => o == och
    | _ => false))).map (·.id)

/-- The packet of an SSEND whose bytes are all read: it sets out with its sequence number; a retained channel's
mirror takes a copy (18 R336). -/
def State.sendPacket (s : State) (k q : Nat) (c : SCmd) (o : Fin 16) : State :=
  let h := kget Och.reset (s.cluster k).och o.val
  let seq : Word := BitVec.ofNat 32 c.dst.toNat
  let s := if h.ret then
      (s.performWrite mProg true (clusterBase k + h.mirror + seq.toNat % h.slots * h.sbytes) c.buf).updCluster k (fun cl =>
        let g := kget Och.reset cl.och o.val
        { cl with och := kset cl.och o.val { g with lens := kset g.lens (seq.toNat % h.slots) c.buf.length } }) else s
  let id := s.nextId
  ((s.send (.engine q c.id) k (paCluster h.dest) 0 (.packet h.ich seq c.buf (c.buf.any (·.2))) []
    (s.channelOut k (paCluster h.dest) h.ich)).routeLast id
    h.route).updCmd k q c.id (fun x => { x with ended := true, outs := x.outs ++ [id] })

/-- Where the address of an OCHST word lies: its channel. -/
def ochOf (a : Nat) : Fin 16 := Fin.ofNat 16 ((a % 2 ^ 22 - 0x3200) / 32)

/-- Would a command use channel state that is lost? It ends without an access and without its signal (24 R400, log 64). -/
def State.chanLost (s : State) (k : Nat) (op : SOp) : Bool :=
  (s.cluster k).bad.contains 5 && (match op with
    | .send _ => true
    | .free .. => true
    | _ => false)

/-- A started command goes on by one unit, or makes its one access. -/
def State.runCmd (s : State) (k q : Nat) (c : SCmd) : State :=
  let fin (s : State) (out : List Nat) : State := s.updCmd k q c.id (fun x => { x with ended := true, outs := x.outs ++ out })
  if s.chanLost k c.op then s.updCmd k q c.id (fun x => { x with ended := true, bad := true })
  else match c.op with
  | .send o => if c.done ≥ c.len then s.sendPacket k q c o else s.unit k q c
  | .copy => s.unit k q c
  | .fill _ => s.unit k q c
  | .post => s.unit k q c
  | .get => s.unit k q c
  | .free seq src =>
    let r := s.reverseRoute (kget Och.reset (s.cluster (paCluster src)).och (ochOf src).val).route
    fin ((s.send (.engine q c.id) k (paCluster src) 0 (.freeRet (ochOf src) seq) []
      (s.freesOut k (paCluster src) (ochOf src))).routeLast s.nextId r) []
  | .wake =>
    let cl := s.cluster k
    let va := c.dst.toNat
    match checkElem cl.table .store false va 8 8, findExtent cl.table va 8 with
    | some (2, code), _ => s.cmdFault k q c code va
    | some (3, code), _ => s.cmdFault k q c code va
    | _, none => s.cmdFault k q c 0x21 va
    | f, some (_, e) =>
      let pa := e.physical k cl va
      let bs := marked 8 c.src.toNat false
      if paSpace e.pbase ≠ 1 then s.cmdFault k q c 0x22 va
      else if f.isSome then s.cmdFault k q c ((f.map (·.2)).getD 0) va
      else if paCluster pa = k then
        let mst := s.masterOf k c.fw (modOf k)
        if s.accOk mst pa true then fin (s.performWrite mst (!c.fw) pa bs) [] else s.cmdFault k q c 0x22 va
      else
        let o := s.streamOrder k q (paCluster pa) false
        fin (s.send (.engine q c.id) k (paCluster pa) va (.write pa bs) o.1 o.2) [s.nextId]
  | .close => fin (s.updCluster k (fun cl => cl.closeWindow q (s.cyc k) (s.strokeOf (modOf k)))) []
  | .nop => fin s []

/-- The command of stream `q` that may start or go on: the oldest that has not made its last access. -/
def Cluster.headCmd (c : Cluster) (q : Nat) : Option SCmd := (c.stream q).find? (fun x => !x.ended)

/-- May it start (18 Table 18.4, 12 R232, R235)? -/
def State.cmdReady (s : State) (k : Nat) (c : SCmd) : Bool :=
  let cl := s.cluster k
  c.started || (!(s.stopping k && !c.fw) && s.allMet k c.after &&
    (match c.op with
      | .send o => s.chanLost k c.op || decide ((kget Och.reset cl.och o.val).credit ≥ 1)
      | _ => true))

/-- A command of length 0 performs no access (18 R333). -/
def SCmd.hollow (c : SCmd) : Bool := c.len == 0 && c.op.reads

/-- A command starts: SSEND takes one credit and the sequence number in its start cycle (18 R326). -/
def State.startCmd (s : State) (k q : Nat) (c : SCmd) : State :=
  if s.chanLost k c.op then s.updCmd k q c.id (fun x => { x with started := true })
  else match c.op with
  | .send o =>
    let h := kget Och.reset (s.cluster k).och o.val
    let y : Och := { h with credit := h.credit - 1, seq := h.seq + 1 }
    (s.updCluster k (fun cl => { cl with och := kset cl.och o.val y })).updCmd k q c.id
      (fun x => { x with started := true, dst := h.seq.setWidth 64 })
  | _ => s.updCmd k q c.id (fun x => { x with started := true, ended := c.hollow })

/-- A stream command starts or goes on, by one unit of at most 64 bytes (01 Table 1.5), where no answer or FIFO room is
waited for. -/
def execStreamCmdStart (k : Nat) (q : Fin 16) (s : State) : Out :=
  .next (
    match (s.cluster k).headCmd q.val with
    | none => s
    | some c =>
      if !s.cmdReady k c then s
      else
        let s := if c.started then s else s.startCmd k q.val c
        match (s.cluster k).headCmd q.val with
        | some d => if d.id = c.id then s.runCmd k q.val d else s
        | none => s)

/-- Has stream `q` a unit to move in this cycle? At most four streams of a cluster do (01 Table 1.5). -/
def State.movesUnit (s : State) (k q : Nat) : Bool :=
  match (s.cluster k).headCmd q with
  | none => false
  | some c => s.cmdReady k c && c.op.reads && decide (c.done < c.len) && (match s.source k c with
    | .near .. => true
    | .kept _ => true
    | _ => false)

/-- Has the oldest command of a stream completed (18 Table 18.4)? An SFILL completes when its last byte is popped. -/
def Cluster.cmdDone (c : Cluster) (x : SCmd) : Bool :=
  x.ended && x.outs.isEmpty && (match x.op with
    | .fill b => (if b then c.mx.fillsB else c.mx.fillsA).all (fun y => y.1 != x.id)
    | _ => true)

/-- The oldest command of a stream completes: its signal is applied, unless it faulted (16 R311). -/
def execStreamCmdComplete (k : Nat) (q : Fin 16) (s : State) : Out :=
  .next (
    let cl := s.cluster k
    match cl.stream q.val with
    | [] => s
    | c :: r =>
      if cl.cmdDone c then
        s.setCluster k ((cl.setStream q.val r).signal c.gsem (if c.bad then 0 else c.ginc))
      else s)

/-! ### Arrivals and free returns -/

/-- A packet reaches an inbound channel (18 R328): accepted in its sequence, else discarded. -/
def State.arrive (s : State) (k : Nat) (ich : Fin 16) (seq : Word) (bs : List (Byte × Bool)) (poison : Bool) : State :=
  let x := (s.cluster k).ichOf ich.val
  if !x.v then s
  else if seq = x.expseq then
    let slot := (x.head + x.nheld + x.narr) % x.slots
    let s := s.writeMarked (x.phys + slot * x.sbytes) bs
    let y : Ich := { x with narr := x.narr + 1, expseq := x.expseq + 1, tags := x.tags ++ [(bs.length, seq, poison)] }
    s.updCluster k (fun c => { c with ich := kset c.ich ich.val y })
  else if 1 ≤ (x.expseq - seq).toNat ∧ (x.expseq - seq).toNat ≤ 2 ^ 31 then
    let y : Ich := { x with dup := min 0xFFFF (x.dup + 1) }
    s.updCluster k (fun c => { c with ich := kset c.ich ich.val y })
  else s.asyncFault k true 0x55 seq ich.val

/-- A free return reaches the sender (18 R326, R339): one credit more; a retained channel's ACKSEQ passes it. -/
def State.freeReturn (s : State) (k : Nat) (o : Fin 16) (seq : Word) : State :=
  s.updCluster k (fun c =>
    if c.bad.contains 5 then c
    else
      let h := kget Och.reset c.och o.val
      let y : Och := { h with credit := h.credit + 1, ackseq := seq + 1 }
      { c with och := kset c.och o.val y })

/-! ### WAITARR (18 R330) -/

/-- Is source `j` of a mask ready? -/
def Cluster.sourceReady (c : Cluster) (mask j : Nat) : Bool :=
  bitAt mask j && (if j < 16 then decide ((c.ichOf j).narr > 0) else (kget ⟨0, false, 0⟩ c.wake (j - 16)).pending)

/-- The first ready source in the rotation after LAST. -/
def Cluster.pickSource (c : Cluster) (mask : Nat) : Option Nat :=
  (tabulate 32 (fun i => (c.last + 1 + i) % 32)).find? (fun j => c.sourceReady mask j)

/-- The claim of source `j`: the values of s[d] and s[d + 1], and the sequence number of a packet that bears the
poison flag. -/
def Cluster.claim (c : Cluster) (j : Nat) : Cluster × DWord × DWord × Option Word :=
  if j < 16 then
    let x := kget Ich.reset c.ich j
    let slot := (x.head + x.nheld) % x.slots
    let t := nth x.tags x.nheld (0, 0, false)
    ({ c with last := j, ich := kset c.ich j { x with narr := x.narr - 1, nheld := x.nheld + 1 } },
      BitVec.ofNat 64 (t.2.1.toNat * 2 ^ 32 + t.1 * 2 ^ 16 + j), BitVec.ofNat 64 (x.rbase + slot * x.sbytes),
      if t.2.2 then some t.2.1 else none)
  else
    let w := kget ⟨0, false, 0⟩ c.wake (j - 16)
    ({ c with last := j, wake := kset c.wake (j - 16) { w with pending := false, count := 0 } },
      BitVec.ofNat 64 (w.count * 2 ^ 8 + j), w.val, none)

/-- The claim with its results: at latency 1 where WAITARR did not park, at once in the release cycle. A packet that
bears the poison flag raises POISON_RECV once all is done (18 R340). -/
def State.claimFor (s : State) (d : SReg) (j : Nat) (parked : Bool) : State :=
  let r := s.me.claim j
  let d1 : SReg := Fin.ofNat 32 (d.val + 1)
  let s := s.updMe (fun _ => r.1)
  let s := if parked then s.updCtx (fun c => (c.wrS d ⟨r.2.1, false⟩).wrS d1 ⟨r.2.2.1, false⟩)
    else (s.pushS 1 d r.2.1 false).pushS 1 d1 r.2.2.1 false
  match r.2.2.2 with
  | some q => s.raiseAfter 0x53 q 0
  | none => s

def execWaitarr (d a : SReg) (s : State) : Out :=
  .next (
    let x := s.ctx.rdS a
    let mask := x.val.toNat % 2 ^ 32
    if s.curFw then s.illegalOp
    else if d.val = 0 ∨ d.val = 31 then s.illegalField
    else if x.poison then s.poisonUse
    else if mask = 0 then s.raise 0x54 0
    else match (List.range 16).find? (fun j => bitAt mask j && !(s.me.ichOf j).v) with
      | some j => s.raise 0x50 (BitVec.ofNat 32 j)
      | none =>
        match s.me.pickSource mask with
        | some j => s.claimFor d j false
        | none => s.updCtx (fun c => { c with park := .waitarr d mask none, entry := 13 }))

/-- The release of a parked WAITARR (18 R330), in the fourth cycle of its module after the cycle in which a source became
ready, once every result in flight has landed (04 R81). -/
def execWaitarrRelease (k : Nat) (s : State) : Out :=
  .next (
    let s := { s with cur := k, curFw := false, slot := 13 }
    match s.ctx.park with
    | .waitarr d mask (some n) =>
      if n < 3 ∨ !s.ctx.pend.isEmpty ∨ s.stopping k then s
      else match s.me.pickSource mask with
        | none => s
        | some j => (s.updCtx (fun c => ({ c with park := .run } : Ctx).closeAt 0)).claimFor d j true
    | _ => s)

/-- A cycle of the module begins: a parked WAITARR notes that a source has become ready in the cycle before, or counts
the cycles since. -/
def Cluster.countReady (c : Cluster) : Cluster :=
  match c.prog.park with
  | .waitarr d mask (some n) => { c with prog := { c.prog with park := .waitarr d mask (some (n + 1)) } }
  | .waitarr d mask none => if (c.pickSource mask).isSome then { c with prog := { c.prog with park := .waitarr d mask (some 0) } } else c
  | _ => c

end Sys2Proof.Machine
end

