-- ==== Sys2Proof/Machine/Matrix.lean ====
section
/-! DEFINITION. The matrix engine (chapter 14): its commands at issue, operand rows, the sums of 06 R136 to R138,
the start, the progress and the completion of queued commands, spans. -/

namespace Sys2Proof.Machine

/-! ### Formats and rows -/

/-- Format pairs (14 Table 14.4): rows per cycle, or none. -/
def mxRate (a w : Fin 16) : Option Nat :=
  let int (x : Fin 16) : Bool := x == 7 || x == 10 || x == 14
  let fp8 (x : Fin 16) : Bool := x == 3 || x == 4
  if int a && int w then some 1
  else if a = w ∧ (a = 1 ∨ a = 2 ∨ a = 13) then some 1
  else if fp8 a && fp8 w then some 2
  else if a = 12 ∧ w = 12 then some 2
  else if a = 11 ∧ w = 11 then some 4
  else none

/-- Are both formats integer (06 R138)? -/
def mxInt (a : Fin 16) : Bool := a == 7 || a == 10 || a == 14
/-- F of an SX format code; 0 for any other. -/
def mxSx (t : Fin 16) : Nat := if t = 11 then 2 else if t = 12 then 4 else if t = 13 then 7 else 0

/-- Bytes per row or column of Kp elements (14 Table 14.6). -/
def rowBytes (t : Fin 16) (kp : Nat) : Nat :=
  if t = 14 then kp / 2
  else if t = 1 ∨ t = 2 then 2 * kp
  else if mxSx t ≠ 0 then 1 + kp / 16 * (2 + 2 * (1 + mxSx t))
  else kp

/-- Kp (14 R276). -/
def kpOf (k : Nat) : Nat := 16 * ((k + 15) / 16)

/-- A number from FIFO bytes. -/
def laneNat : List Lane → Nat
  | [] => 0
  | b :: bs => b.val.toNat % 256 + 256 * laneNat bs

/-- Element `i` of a packed row (06 R126). -/
def rowElem (t : Fin 16) (bs : List Lane) (i : Nat) : FVal :=
  let byte (j : Nat) : Nat := (nth bs j ⟨0, false⟩).val.toNat % 256
  let half (j : Nat) : Nat := byte (2 * j) + 256 * byte (2 * j + 1)
  if t = 14 then intVal (sext 4 (byte (i / 2) / (if i % 2 = 0 then 1 else 16)))
  else if t = 7 then intVal (sext 8 (byte i))
  else if t = 10 then intVal (byte i)
  else if t = 1 then fpVal .bf16 (half i)
  else if t = 2 then fpVal .f16 (half i)
  else if t = 3 then fpVal .e4m3 (byte i)
  else if t = 4 then fpVal .e5m2 (byte i)
  else
    let f := mxSx t
    let n := 2 + 2 * (1 + f)
    sxDecode (laneNat ((bs.drop (n * (i / 16))).take n)) f (i % 16)

/-- A row or column decoded: `kp` values, scale indices by 16-group, marks. -/
def rowDecode (t : Fin 16) (kp : Nat) (bs : List Lane) : WCol :=
  let f := mxSx t
  let pre := if f = 0 then 0 else (nth bs 0 ⟨0, false⟩).val.toNat % 256
  let body := if f = 0 then bs else bs.drop 1
  let n := 2 + 2 * (1 + f)
  { w := tabulate kp (rowElem t body)
    idx := tabulate (kp / 16) (fun g => if g = 1 ∧ kp ≠ 128 then pre / 16 else pre % 16)
    poison := bs.any (·.poison)
    raw := bs
    bad := f != 0 && (List.range (kp / 16)).any (fun b => sxBad (laneNat ((body.drop (n * b)).take n))) }

/-- A sparse column (14 R277): the mask's positions take the kept weights in order, the others exact zeros; none
where the mask does not keep 16 nsel positions. -/
def sparseCol (t : Fin 16) (nsel : Nat) (bs : List Lane) : Option WCol :=
  let mask := laneNat (bs.take 16)
  let c := rowDecode t (16 * nsel) (bs.drop 16)
  if popBits 128 mask ≠ 16 * nsel then none
  else some { w := tabulate 128 (fun j => if bitAt mask j then nth c.w (popBits j mask) (.fin false 0 0) else .fin false 0 0)
              idx := tabulate 8 (fun _ => nth c.idx 0 0), poison := bs.any (·.poison), bad := c.bad, raw := bs }

/-! ### Sums (06 R136 to R138) -/

/-- prod(x, y): an exact zero where either factor is a zero. -/
def mxProd (x y : FVal) : FVal × Flags := if x.isZero || y.isZero then (.fin false 0 0, 0) else mulF x y

/-- group_sum16: the exact sum of a 16-group; positions from k on contribute zero; an exact zero sum is +0. -/
def groupSum (a w : List FVal) (k g : Nat) : FVal × Flags :=
  let ts := tabulate 16 (fun i => if 16 * g + i < k then mxProd (nth a (16 * g + i) (.fin false 0 0)) (nth w (16 * g + i) (.fin false 0 0))
    else (.fin false 0 0, 0))
  let r := sumTerms ts
  (if r.1.isZero then .fin false 0 0 else r.1, r.2)

/-- A scale-table entry's value; 1 without SX. -/
def scaleOf (sx : Bool) (tab : List Nat) (i : Nat) : FVal := if sx then fpVal .bf16 (nth tab i 0x3F80) else .fin false 1 0

/-- mat_acc_f (06 R136): one rounding per 16-group, groups ascending. -/
def matAccF (tab : List Nat) (sx : Bool) (k : Nat) (a w : WCol) (acc : Nat) : Nat × Flags :=
  (List.range ((k + 15) / 16)).foldl (fun r g =>
    let p := groupSum a.w w.w k g
    let t1 := mulF p.1 (scaleOf sx tab (nth a.idx g 0))
    let t2 := mulF t1.1 (scaleOf sx tab (nth w.idx g 0))
    let gr := roundRne fmtF32 t2.1
    let s := addF .rne (fpVal .f32 r.1) (fpVal .f32 gr.1)
    let z := roundRne fmtF32 s.1
    (z.1, r.2 ||| p.2 ||| gr.2 ||| s.2 ||| z.2)) (acc, 0)

/-- An integer value. -/
def intPart : FVal → Int
  | .fin neg m _ => sgn neg m
  | _ => 0

/-- mat_acc_i (06 R138): a 40-bit running sum, clamped group by group. -/
def matAccI (k : Nat) (a w : WCol) (acc : Nat) : Nat :=
  let t := (List.range ((k + 15) / 16)).foldl (fun (t : Int) g =>
    let p := (tabulate 16 (fun i => if 16 * g + i < k then
      intPart (nth a.w (16 * g + i) (.fin false 0 0)) * intPart (nth w.w (16 * g + i) (.fin false 0 0)) else 0)).sum
    min (max (t + p) (-(2 ^ 39 : Nat))) ((2 ^ 39 - 1 : Nat) : Int)) (sext 32 acc)
  wrapNat 32 (satInt .i32 t)

/-! ### Tiles -/

/-- Place of an element of a tile. -/
def tkey (t : Acc) (row col : Nat) : Nat := 1024 * t.val + 32 * row + col
def Mx.elem (x : Mx) (t : Acc) (row col : Nat) : Lane := kget ⟨0, false⟩ x.tiles (tkey t row col)

/-- A tile row after an activation row (14 R284): columns below N. Answers the engine and the flags. -/
def Mx.runRow (x : Mx) (tab : List Nat) (t : Acc) (row : Nat) (a : WCol) : Mx × Flags :=
  let sx := mxSx x.atype != 0
  x.cols.zipIdx.foldl (fun (r : Mx × Flags) wn =>
    let w := wn.1
    let old := r.1.elem t row wn.2
    let v : Nat × Flags :=
      if mxInt x.atype then (matAccI x.k a w old.val.toNat, 0) else matAccF tab sx x.k a w old.val.toNat
    let l : Lane := ⟨BitVec.ofNat 32 v.1, a.poison || w.poison⟩
    let sxe : Flags := if a.bad || w.bad then flSXE else 0
    ({ r.1 with tiles := kset r.1.tiles (tkey t row wn.2) l }, r.2 ||| v.2 ||| sxe)) (x, 0)

/-! ### Issue (14 R273, R274)

A firmware bundle may hold MRD, MWAIT and engine NOPs only; any other command is ILLEGAL_OP there (R270). -/

/-- The window of tile `t` of cluster `k` (14 Table 14.2). -/
def tileWindow (k : Nat) (t : Acc) : Nat × Nat := (2 * 2 ^ 45 + clusterBase k + 0x8000 + 0x1000 * t.val, 0x1000)

/-- Earlier accesses from q0 to q3 to the windows of these tiles, not yet performed (14 R280). -/
def State.windowDeps (s : State) (tiles : List Acc) : List Dep :=
  (s.net.filter (fun m => m.src == s.cur && !m.phase.performed && [0, 1, 2, 3].any m.ofSlot &&
    m.kind.ranges.any (fun r => tiles.any (fun t => rangesMeet r (tileWindow s.cur t))))).map (fun m => .perf m.id)

/-- A command joins the engine's queue, which holds at most 8. -/
def State.mxEnqueue (s : State) (c : EClause) (op : MOp) : State :=
  let cmd : MCmd := ⟨s.nextId, op, c.gsem, c.ginc.toInt, s.curFw, s.windowDeps ((List.finRange 8).filter op.names), none, 0, 0, false, s.slotWord⟩
  { s.updMe (fun k => { k with mx := { k.mx with queue := k.mx.queue ++ [cmd] } }) with nextId := s.nextId + 1 }

def execMcfg (cfg : SReg) (c : EClause) (s : State) : Out :=
  .next (
    let x := s.ctx.rdS cfg
    let v := x.val.toNat
    let f := s.me.fmtcfg.toNat
    let a : Fin 16 := Fin.ofNat 16 (if v % 16 = 15 then f else v)
    let w : Fin 16 := Fin.ofNat 16 (if v / 16 % 16 = 15 then f / 16 else v / 16)
    if s.curFw then s.illegalOp
    else if s.clauseBad c then s.illegalField
    else if x.poison then s.poisonUse
    else if v ≥ 512 ∨ (mxRate a w).isNone then s.raise 0x61 (BitVec.ofNat 32 v)
    else s.mxEnqueue c (.cfg a w (bitAt v 8)))

def State.issueLoad (s : State) (k n nsel : Nat) (c : EClause) : State :=
  if s.curFw then s.illegalOp
  else if s.clauseBad c then s.illegalField
  else s.mxEnqueue c (.ldw k n nsel)

def execMldw (km1 nm1 : Fin 32) (c : EClause) (s : State) : Out := .next (s.issueLoad (km1.val + 1) (nm1.val + 1) 0 c)
def execMldwSp (_km1 nm1 : Fin 32) (nsel : Fin 8) (c : EClause) (s : State) : Out :=
  .next (s.issueLoad 128 (nm1.val + 1) nsel.val c)

/-- Whether an MLDW since the last MCFG has loaded, or will load, a tile, after the commands `q` (14 R284): `b`
says it of those before them. -/
def loadsAfter (b : Bool) : List MCmd → Bool
  | [] => b
  | m :: q =>
    match m.op with
    | .cfg .. => loadsAfter false q
    | .ldw .. => loadsAfter (b || !m.bad) q
    | _ => loadsAfter b q

def Mx.hasLoad (x : Mx) : Bool := loadsAfter x.loaded x.queue

/-- MRUN and MRUN.span at issue (14 R284, R290). -/
def State.issueRun (s : State) (acc : Acc) (rows : Nat) (span : Bool) (c : EClause) : State :=
  let k := s.me
  let (_, _, nr, nc) := regionOf s.cur k
  if s.curFw then s.illegalOp
  else if s.clauseBad c then s.illegalField
  else if !k.mx.hasLoad then s.raise 0x64 0
  else if span && (decide (nr > 16) || decide (nc > 24) || decide (rows > 32 * nr)) then s.raise 0x65 (BitVec.ofNat 32 rows)
  else
    let (r0, _, _, _) := regionOf s.cur k
    let m := if span then min 32 (rows - 32 * (rowOf s.cur - r0)) else rows
    let s := if span then s.updMe (fun k => { k with mx := { k.mx with spans := k.mx.spans + 1 } }) else s
    s.mxEnqueue c (.run acc m k.padm.toNat span rows k.mx.scale)

def execMrun (acc : Acc) (rowsm1 : Fin 512) (c : EClause) (s : State) : Out := .next (s.issueRun acc (rowsm1.val + 1) false c)
def execMrunSpan (acc : Acc) (rowsm1 : Fin 512) (c : EClause) (s : State) : Out := .next (s.issueRun acc (rowsm1.val + 1) true c)

def execMzero (acc : Acc) (c : EClause) (s : State) : Out :=
  .next (if s.curFw then s.illegalOp else if s.clauseBad c then s.illegalField else s.mxEnqueue c (.zero acc))
def execMadd (dst src : Acc) (c : EClause) (s : State) : Out :=
  .next (if s.curFw then s.illegalOp else if s.clauseBad c then s.illegalField else s.mxEnqueue c (.add dst src))

/-- A tile row in two vector registers (14 R286): columns 0 to 15, or 16 to 31. -/
def Mx.rowHalf (x : Mx) (t : Acc) (row half : Nat) : VVal := Vector.ofFn (fun i => x.elem t row (16 * half + i.val))

/-- MRD (14 R281, R286): never queued; its registers land at latency 4 and its signal with them. -/
def execMrd (acc : Acc) (row0 : Fin 32) (vd : VReg) (rowsm1 : Fin 8) (c : EClause) (s : State) : Out :=
  .next (
    let n := rowsm1.val + 1
    if s.clauseBad c || (s.curFw && decide (vd.val + 2 * n - 1 > 15)) then s.illegalField
    else if s.me.mx.busy acc then s.raise 0x60 (BitVec.ofNat 32 acc.val)
    else
      let x := s.me.mx
      let id := s.nextId
      let s := (List.range (2 * n)).foldl (fun s i => s.updCtx (fun c =>
        c.push { mkPend 4 (.vreg (grp vd i) 0xFFFF (x.rowHalf acc (row0.val + i / 2) (i % 2))) with mrd := some (id, acc) }))
        { s with nextId := id + 1 }
      if c.ginc = 0 then s else s.push 4 (.semAdd c.gsem c.ginc.toInt))

/-- MWAIT issues once its tile is free (14 R282); its signal is applied in the cycle after. -/
def execMwait (acc : Acc) (c : EClause) (s : State) : Out :=
  .next (if s.clauseBad c then s.illegalField
    else if s.me.mx.busy acc then s
    else s.updMe (fun k => k.signalNext c.gsem c.ginc.toInt))

/-- The table that MSCL has read: every entry is positive and finite, or it stays as it was (14 R275). -/
def State.loadScale (s : State) (va : Nat) (c : EClause) (bs : List (Byte × Bool)) : State :=
  let tab := tabulate 16 (fun j => ofBytes (((bs.drop (2 * j)).take 2).map (·.1)))
  if bs.any (·.2) then s.poisonUse va
  else if tab.any (fun v => bitAt v 15 || fld v 7 8 == 255 || v == 0) then s.raise 0x62 (BitVec.ofNat 32 va) va
  else s.updMe (fun k => ({ k with mx := { k.mx with scale := tab } } : Cluster).signal c.gsem c.ginc.toInt)

/-- MSCL (14 R275): 32 bytes read through q0. A table in another cluster comes by a message, and the context stalls until
it is there, with the slots after it (09 R186). -/
def execMscl (a : SReg) (c : EClause) (s : State) : Out :=
  .next (
    let x := s.ctx.rdS a
    let va := x.val.toNat
    if s.curFw then s.illegalOp
    else if s.clauseBad c then s.illegalField
    else if x.poison then s.poisonUse va
    else match checkAll s.me.table (.load false) false 32 32 [va], findExtent s.me.table va 32 with
      | some (code, p), _ => s.raise code (BitVec.ofNat 32 p) p
      | none, none => s.raise 0x21 (BitVec.ofNat 32 va) va
      | none, some (_, e) =>
        let pa := e.physical s.cur s.me va
        if paCluster pa ≠ s.cur then
          (s.sendSlot 0 (paCluster pa) va (.read pa 32)).updCtx (fun x => { x with post := .mscl va c (some s.nextId) [] :: x.post })
        else if !s.reach pa false then s.asyncFault s.cur s.curFw 0x22 (BitVec.ofNat 32 va) va
        else s.loadScale va c (s.performRead pa 32))

/-- An MSCL whose table has come is performed, in its slot. -/
def State.msclGo (s : State) (k : Nat) (fw : Bool) : State :=
  match (s.ctxOf k fw).post with
  | .mscl va c none bs :: rest =>
    ({ s with cur := k, curFw := fw, slot := 12 }.updCtx (fun x => { x with post := rest })).loadScale va c bs
  | _ => s

/-! ### Progress (14 R279, R283, R284) -/

/-- May a command start that comes after the commands `before` in the queue and the MRDs `reads`, by their tiles (14 Table
14.5)? -/
def mayStart (before : List MCmd) (reads : List Acc) (rate : Nat) (nsel : Nat) (c : MCmd) : Bool :=
  let feedOver (m : MCmd) : Bool := match m.op, m.age with
    | .run _ rows _ _ _ _, some a => decide (m.popped ≥ rows) &&
        decide (a - m.waited ≥ (rows + rate - 1) / rate * (if nsel = 0 then 1 else (nsel + 1) / 2))
    | _, _ => false
  match c.op with
  | .cfg .. => before.isEmpty && reads.isEmpty
  | .ldw .. => before.isEmpty && reads.isEmpty
  | .run .. => before.all (fun m => match m.op with
      | .run .. => feedOver m
      | _ => false)
  | .zero t => before.all (fun m => !m.op.names t) && !reads.contains t
  | .add d a => before.all (fun m => !m.op.names d && !m.op.names a) && !reads.contains d && !reads.contains a
  | .nop => true

/-- Tiles of the MRDs before command `id` that have not completed: their registers have still to land. -/
def Cluster.readsBefore (c : Cluster) (id : Nat) : List Acc :=
  (c.prog.pend ++ c.fw.pend).filterMap (fun p => match p.mrd with
    | some (i, t) => if i < id then some t else none
    | none => none)

/-- Cycles a fed command takes per row batch or column: 1 dense, ceil(nsel / 2) sparse. -/
def perBeat (nsel : Nat) : Nat := if nsel = 0 then 1 else (nsel + 1) / 2

/-- A fault found while a command runs (14 R292): recorded in the program context; the command goes without its
signal. -/
def State.mxFault (s : State) (k id code : Nat) (info : Word) : State :=
  (s.updCluster k (fun c => { c with mx := { c.mx with queue := c.mx.queue.filter (fun m => m.id != id) } })).asyncFault k false code info

/-- Changing a command of the engine's queue. -/
def State.updMCmd (s : State) (k id : Nat) (f : MCmd → MCmd) : State :=
  s.updCluster k (fun c => { c with mx := { c.mx with queue := c.mx.queue.map (fun m => if m.id = id then f m else m) } })

/-- A wait cycle of a command for FIFO A (0xA0) or B (0xB0); at WAITLIM strokes it ends (14 R278). -/
def State.mxWait (s : State) (k : Nat) (m : MCmd) (info : Word) : State :=
  if m.waited + 1 ≥ 4096 * (s.cluster k).waitlim.toNat then
    let s := match m.op with
      | .ldw .. => s.updCluster k (fun c => { c with mx := { c.mx with wvalid := false } })
      | _ => s
    s.mxFault k m.id 0x41 info
  else s.updMCmd k m.id (fun m => { m with waited := m.waited + 1 })

/-- One column popped by MLDW. -/
def State.popCol (s : State) (k : Nat) (m : MCmd) (kk n nsel : Nat) : State :=
  let x := (s.cluster k).mx
  let bytes := if nsel = 0 then rowBytes x.wtype (kpOf kk) else 16 + rowBytes x.wtype (16 * nsel)
  if x.fifoB.length < bytes then s.mxWait k m 0xB0
  else
    let bs := x.fifoB.take bytes
    let col := if nsel = 0 then some (rowDecode x.wtype (kpOf kk) bs) else sparseCol x.wtype nsel bs
    let cols := if m.popped = 0 then [] else x.cols
    let x := { x with fifoB := x.fifoB.drop bytes, fillsB := x.fillsB.drop bytes, wvalid := false }
    let s := s.updCluster k (fun c => { c with mx := { x with
      cols := cols ++ [col.getD ⟨[], [], false, false, bs⟩]
      k := kk
      nsel := nsel
      wvalid := decide (m.popped + 1 = n) && col.isSome && !m.bad } })
    let s := s.updMCmd k m.id (fun c => { c with popped := c.popped + 1, bad := c.bad || col.isNone })
    if col.isNone && !m.bad then s.asyncFault k false 0x63 (BitVec.ofNat 32 m.popped) else s

/-- Count of spans issued when span command `id` was: those queued after it came later (14 R291). -/
def Mx.spanNo (x : Mx) (id : Nat) : Nat :=
  let later := x.queue.filter (fun m => decide (m.id > id) && (match m.op with
    | .run _ _ _ span _ _ => span
    | _ => false))
  (x.spans - later.length) % 256

/-- Key of the neighbour to the east of cluster `k`. -/
def east (k : Nat) : Nat := k + 1

/-- One activation row obtained by MRUN: from FIFO A, or in a span from the west (14 R291); it is computed and, in a
span, passed on. -/
def State.popRow (s : State) (k : Nat) (m : MCmd) (acc : Acc) (pad M : Nat) (span : Bool) (tab : List Nat) : State × Bool :=
  let c := s.cluster k
  let x := c.mx
  let bytes := rowBytes x.atype (if x.nsel = 0 then kpOf x.k else 128)
  let (r0, c0, _, cols) := regionOf k c
  let go (s : State) (bs : List Lane) : State :=
    let x := (s.cluster k).mx
    let g := (if span then 32 * (rowOf k - r0) else 0) + m.popped
    let skip := x.padr && decide (g ≥ M - min pad M)
    let r := if skip then (x, 0) else x.runRow tab acc m.popped (rowDecode x.atype (if x.nsel = 0 then kpOf x.k else 128) bs)
    let s := s.updCluster k (fun c => ({ c with mx := r.1 } : Cluster).unitFlags r.2)
    let s := s.updMCmd k m.id (fun c => { c with popped := c.popped + 1 })
    if span && decide (colOf k + 1 < c0 + cols) then
      s.updCluster (east k) (fun d => { d with mx := { d.mx with
        rowsIn := d.mx.rowsIn ++ [(2 + (bytes + 63) / 64, x.spanNo m.id, bs)] } })
    else s
  if span && decide (colOf k > c0) then
    match x.rowsIn with
    | (0, n, bs) :: rest =>
      if n ≠ x.spanNo m.id then (s.mxFault k m.id 0x66 (BitVec.ofNat 32 n), false)
      else (go (s.updCluster k (fun c => { c with mx := { c.mx with rowsIn := rest } })) bs, true)
    | _ => (s, false)
  else if x.fifoA.length < bytes then (s, false)
  else
    let bs := x.fifoA.take bytes
    (go (s.updCluster k (fun c => { c with mx := { c.mx with fifoA := c.mx.fifoA.drop bytes, fillsA := c.mx.fillsA.drop bytes } })) bs, true)

/-- Up to `fuel` rows of one beat of an MRUN: those the beat still needs. -/
def State.popRows (k id need : Nat) : Nat → State → State
  | 0, s => s
  | fuel + 1, s =>
    match (s.cluster k).mx.queue.find? (fun m => m.id == id) with
    | none => s
    | some m =>
      match m.op with
      | .run acc _ pad span M tab =>
        if m.popped ≥ need then s
        else
          let r := s.popRow k m acc pad M span tab
          if r.2 then State.popRows k id need fuel r.1
          else match (r.1.cluster k).mx.queue.find? (fun x => x.id == id) with
            | none => r.1
            | some m => r.1.mxWait k m 0xA0
      | _ => s

/-- The beat of a running command in this cycle: rows per beat `rate` for MRUN, one column for MLDW. -/
def State.mxBeat (s : State) (k : Nat) (m : MCmd) : State :=
  let x := (s.cluster k).mx
  match m.op, m.age with
  | .ldw kk n nsel, some a =>
    let b := a - m.waited
    if m.popped < n ∧ m.popped * perBeat nsel ≤ b then s.popCol k m kk n nsel else s
  | .run _ rows _ _ _ _, some a =>
    let rate := (mxRate x.atype x.wtype).getD 1
    let b := a - m.waited
    let need := min rows (rate * (b / perBeat x.nsel + 1))
    if m.popped < need then State.popRows k m.id need 8 s else s
  | _, _ => s

/-- Commands whose condition holds start, in queue order; the running ones take their beat of the cycle. An MRUN
that starts on an array without weights faults (14 R284). -/
def execMatrixCmdStart (k : Nat) (s : State) : Out :=
  .next (
    let x := (s.cluster k).mx
    let rate := (mxRate x.atype x.wtype).getD 1
    let s := x.queue.foldl (fun s m =>
      let q := (s.cluster k).mx.queue
      let before := q.takeWhile (fun y => y.id != m.id)
      if m.age.isSome ∨ (s.stopping k ∧ !m.fw) ∨ q.all (fun y => y.id != m.id) ∨
          !(mayStart before ((s.cluster k).readsBefore m.id) rate x.nsel m && s.allMet k m.after) then s
      else match m.op with
        | .run .. => if !x.wvalid then s.mxFault k m.id 0x64 0 else s.updMCmd k m.id (fun m => { m with age := some 0 })
        | _ => s.updMCmd k m.id (fun m => { m with age := some 0 })) s
    (s.cluster k).mx.queue.foldl (fun s m => match (s.cluster k).mx.queue.find? (fun y => y.id == m.id) with
      | some m => s.mxBeat k m
      | none => s) s)

/-- Is a command due (14 Table 14.5)? -/
def Mx.due (x : Mx) (m : MCmd) : Bool :=
  let rate := (mxRate x.atype x.wtype).getD 1
  match m.op, m.age with
  | .cfg .., some a => decide (a ≥ 8)
  | .ldw _ n nsel, some a => decide (m.popped ≥ n) && decide (a ≥ 4 + n * perBeat nsel + m.waited)
  | .run _ 0 _ _ _ _, some a => decide (a ≥ 1)
  | .run _ rows _ _ _ _, some a =>
    decide (m.popped ≥ rows) && decide (a ≥ 36 + (rows + rate - 1) / rate * perBeat x.nsel + m.waited)
  | .zero _, some a => decide (a ≥ 1)
  | .add .., some a => decide (a ≥ 32)
  | .nop, some _ => true
  | _, none => false

/-- MZERO (14 R285). -/
def Mx.zeroTile (x : Mx) (t : Acc) : Mx := { x with tiles := x.tiles.filter (fun e => e.1 / 1024 != t.val) }

/-- The activation format after the commands before number `id` (14 R280: commands take effect in order). -/
def Mx.atypeAt (x : Mx) (id : Nat) : Fin 16 :=
  x.queue.foldl (fun a m => match m.op with
    | .cfg t _ _ => if m.id < id then t else a
    | _ => a) x.atype

/-- MADD (14 R287), in the configuration `at_`. -/
def Mx.addTile (x : Mx) (at_ : Fin 16) (d a : Acc) : Mx × Flags :=
  (List.range 1024).foldl (fun (r : Mx × Flags) i =>
    let u := r.1.elem d (i / 32) (i % 32)
    let v := r.1.elem a (i / 32) (i % 32)
    let z : Nat × Flags :=
      if mxInt at_ then (wrapNat 32 (satInt .i32 (sext 32 u.val.toNat + sext 32 v.val.toNat)), 0)
      else
        let q := addF .rne (fpVal .f32 u.val.toNat) (fpVal .f32 v.val.toNat)
        let w := roundRne fmtF32 q.1
        (w.1, q.2 ||| w.2)
    if u.val = 0 ∧ v.val = 0 ∧ !u.poison ∧ !v.poison then r
    else ({ r.1 with tiles := kset r.1.tiles (tkey d (i / 32) (i % 32)) ⟨BitVec.ofNat 32 z.1, u.poison || v.poison⟩ }, r.2 ||| z.2)) (x, 0)

/-- The effect that a command has at its completion. -/
def Mx.finish (x : Mx) (m : MCmd) : Mx × Flags :=
  match m.op with
  | .cfg a w p => ({ x with atype := a, wtype := w, padr := p, wvalid := false, loaded := false }, 0)
  | .ldw .. => ({ x with loaded := x.loaded || !m.bad }, 0)
  | .zero t => (x.zeroTile t, 0)
  | .add d a => x.addTile (x.atypeAt m.id) d a
  | _ => (x, 0)

/-- Every command that is due completes: its effect, its signal, its place in the queue (14 R279). -/
def execMatrixCmdComplete (k : Nat) (s : State) : Out :=
  .next (
    let q := (s.cluster k).mx.queue
    q.foldl (fun s m =>
      if !(s.cluster k).mx.due m then s
      else s.updCluster k (fun c =>
        let r := c.mx.finish m
        ((({ c with mx := { r.1 with queue := r.1.queue.filter (fun y => y.id != m.id) } } : Cluster).unitFlags r.2).signal m.gsem
          (if m.bad then 0 else m.ginc)))) s)

/-- A cycle of the engine passes: running commands age, rows on their way come nearer. -/
def Mx.tick (x : Mx) : Mx :=
  { x with
    queue := x.queue.map (fun m => { m with age := m.age.map (· + 1) })
    rowsIn := x.rowsIn.map (fun r => (r.1 - 1, r.2)) }

end Sys2Proof.Machine
end

