-- ==== Sys2Proof/Machine/Queue.lean ====
section
/-! DEFINITION. Work queues, launches and phases (chapter 22; the cox's part of 04 R99): packets, signals, selection,
translation, binding, phase steps, launch ends, QPOST and SIGADD; the black box's entries (24 R401, R402). -/

namespace Sys2Proof.Machine

/-! ### The black box (24 R401, R402) -/

/-- An entry of the black box. -/
abbrev BBEntry := DWord × DWord × DWord × DWord

/-- Where an entry stands among those of its cycle: its cluster's row and column, and its context where the event has one, bit 31
of the token word or repair word (24 R401). -/
def bbPlace (e : BBEntry) : Nat :=
  2 * fld e.1.toNat 32 10 + (if [1, 2, 6, 7, 9].contains (fld e.1.toNat 56 8) then fld e.2.2.1.toNat 31 1 else 0)

/-- The entry with another count of events before it. -/
def bbNumber (e : BBEntry) (n : Nat) : BBEntry := (BitVec.ofNat 64 (e.1.toNat / 2 ^ 32 * 2 ^ 32 + n % 2 ^ 32), e.2)

/-- The entry at ring place `i` goes before those of its cycle, at most `n`, that follow it in the order of places. -/
def bbSink (bb : KMap BBEntry) (i : Nat) : Nat → KMap BBEntry
  | 0 => bb
  | n + 1 =>
    let x := kget (0, 0, 0, 0) bb (i % 512)
    let y := kget (0, 0, 0, 0) bb ((i + 511) % 512)
    if bbPlace x < bbPlace y then
      bbSink (kset (kset bb (i % 512) (bbNumber y x.1.toNat)) ((i + 511) % 512) (bbNumber x y.1.toNat)) (i + 511) n
    else bb

/-- An event joins the ring of die `g`: a full ring loses its oldest entry. `source` is the number of a cluster of
the die. The events of one cycle stand in ascending (ROW, COL, CTX). -/
def State.blackbox (s : State) (g ev source : Nat) (w2 w3 : DWord) : State :=
  let now := s.gtsOf (g / 4)
  s.updDie g (fun d =>
    let w0 : DWord := BitVec.ofNat 64 (ev * 2 ^ 56 + (g % 4 * 2 ^ 10 + source % 1024) * 2 ^ 32 + d.bbCount % 2 ^ 32)
    let full := (d.bbHead + 1024 - d.bbTail) % 1024 = 512
    let run := if d.bbRun.1 = now then d.bbRun.2 else 0
    { d with
      bb := bbSink (kset d.bb (d.bbHead % 512) (w0, BitVec.ofNat 64 now, w2, w3)) (d.bbHead % 512) (min run 511)
      bbHead := (d.bbHead + 1) % 1024
      bbTail := if full then (d.bbTail + 1) % 1024 else d.bbTail
      bbOvf := d.bbOvf || full
      bbCount := d.bbCount + 1
      bbRun := (now, run + 1) })

/-! ### Signals (22 R367) -/

/-- Packets that depend on the signal at `pa` are to be examined (22 R368). -/
def Pkt.dependsOn (p : Pkt) (pa : Nat) : Bool :=
  let w (i : Nat) : Nat := (nth p.words i 0).toNat
  if w 0 % 16 = 2 then [3, 4, 5, 6].any (fun i => w i == pa) else w 1 == pa

def State.notify (s : State) (m pa : Nat) : State :=
  s.updModule m (fun d => { d with queues := d.queues.map (fun q => (q.1, { q.2 with
    window := q.2.window.map (fun p => if p.st = .pending ∧ p.dependsOn pa then { p with exam := true } else p) })) })

/-- Every pending packet is to be examined: a stroke start (22 R368). -/
def Module.examineAll (d : Module) : Module :=
  { d with queues := d.queues.map (fun q => (q.1, { q.2 with
    window := q.2.window.map (fun p => if p.st = .pending then { p with exam := true } else p) })) }

/-- A 64-bit word of scratchpad. -/
def State.readWord (s : State) (pa : Nat) : DWord := BitVec.ofNat 64 (ofBytes (s.readBytes pa 8))

/-- An add through the signal path (22 R367): the atomic add at the word's bank, then the notification. A poisoned
word is not changed (09 R196). -/
def State.signalAdd (s : State) (pa : Nat) (x : DWord) : State × DWord × Bool :=
  let old := s.readWord pa
  let bad := s.poisoned pa 8
  let s := if bad then s else s.writeMarked pa (marked 8 (old + x).toNat false)
  (s.notify (modOf (paCluster pa)) pa, old, bad)

/-! ### Packets (22 R365, R366) -/

def Pkt.w (p : Pkt) (i : Nat) : Nat := (nth p.words i 0).toNat
def Pkt.kind (p : Pkt) : Nat := p.w 0 % 16
def Pkt.bar (p : Pkt) : Bool := bitAt (p.w 0) 4

/-- Does an address lie in space 0 of module m, aligned? -/
def inModule (m pa align : Nat) : Bool := pa < 2 ^ 45 && modOf (paCluster pa) == m && pa % align == 0
/-- The same, or the field is 0. -/
def inModule0 (m pa align : Nat) : Bool := pa == 0 || inModule m pa align

/-- Is a packet of module m well formed (22 R366)? -/
def Pkt.ok (p : Pkt) (m : Nat) : Bool :=
  let common := p.w 0 < 32 && inModule0 m (p.w 1) 8 && inModule0 m (p.w 2) 8 && p.w 7 == 0
  common && (match p.kind with
    | 1 => inModule m (p.w 3) 1024 && decide (p.w 4 < 2 ^ 22) && decide (p.w 6 < 2 ^ 16) &&
        (if p.w 6 = 0 then p.w 5 == 0 else inModule m (p.w 5) 64)
    | 2 => p.w 1 == 0 && [3, 4, 5, 6].all (fun i => inModule0 m (p.w i) 8)
    | 3 => inModule m (p.w 3) 1 && inModule m (p.w 4) 1 && decide (p.w 5 < 2 ^ 32) && p.w 6 == 0
    | 4 => inModule m (p.w 3) 8 && p.w 5 == 0 && p.w 6 == 0
    | _ => false)

/-- READ passes what has completed or aborted at the head of the window. -/
def Queue.pass (q : Queue) : Queue :=
  let n := (q.window.takeWhile (fun p => p.st == .done)).length
  { q with window := q.window.drop n, read := (q.read + n) % 2 ^ 32 }

/-- A packet's standing changes. -/
def Queue.setPkt (q : Queue) (idx : Nat) (f : Pkt → Pkt) : Queue :=
  { q with window := q.window.map (fun p => if p.idx = idx then f p else p) }

/-- The eight words of ring index i. -/
def State.ringWords (s : State) (q : Queue) (i : Nat) : List DWord :=
  tabulate 8 (fun j => s.readWord (q.base + 64 * (i % 2 ^ q.log2n) + 8 * j))

/-- An abort's marks: −1 in its DONE, one more in ABORTS, INDEX and CODE (22 R370, R371). -/
def State.abortOne (s : State) (m n : Nat) (p : Pkt) (code : Nat) : State :=
  let s := s.updQueue m n (fun q => ({ q.setPkt p.idx (fun x => { x with st := .done, exam := false }) with
    aborts := min 0xFFFFFFFF (q.aborts + 1), eindex := p.idx % 2 ^ 16, ecode := code } : Queue))
  if p.w 2 ≠ 0 ∧ inModule m (p.w 2) 8 then
    (s.writeMarked (p.w 2) (marked 8 (2 ^ 64 - 1) false)).notify m (p.w 2)
  else s

/-- A packet aborts; with BAR set it takes every later packet written so far with it (22 R371). -/
def State.abortPkt (s : State) (m n : Nat) (p : Pkt) (code : Nat) : State :=
  let s := s.abortOne m n p code
  let q := s.queue m n
  let s := if !p.bar then s
    else
      let held := (q.write + 2 ^ 32 - (p.idx + 1)) % 2 ^ 32
      (List.range held).foldl (fun s i =>
        let idx := (p.idx + 1 + i) % 2 ^ 32
        let pk : Pkt := ⟨idx, s.ringWords q idx, .done, false⟩
        let s := s.updQueue m n (fun q => if q.window.any (fun x => x.idx == idx) then q else { q with window := q.window ++ [pk] })
        s.abortOne m n pk 0x03) s
  s.updQueue m n Queue.pass

/-- The launch a ready packet stands for. -/
def launchOf (n : Nat) (q : Queue) (p : Pkt) (now : Nat) : Launch :=
  let r := p.w 4
  ⟨n, p.idx, q.prio, q.pclass, now, p.w 3, fld r 0 2, fld r 2 5, fld r 7 5, fld r 12 5 + 1, fld r 17 5 + 1, p.w 5, p.w 6, none, none, false⟩

/-- A pending packet examined (22 R368), its counters read in `v`: as they stand when the cycle of the examination begins. -/
def State.examine (s v : State) (m n : Nat) (p : Pkt) : State :=
  let st (s : State) (x : PSt) : State := s.updQueue m n (fun q => q.setPkt p.idx (fun y => { y with st := x }))
  if p.kind = 2 then
    let sigs := ([3, 4, 5, 6].map p.w).filter (fun a => a != 0)
    if sigs.all (fun a => v.readWord a == 0) then st s .finished
    else if sigs.any (fun a => decide ((v.readWord a).toInt < 0)) then s.abortPkt m n p 0x02
    else s
  else
    let x : Int := if p.w 1 = 0 then 0 else (v.readWord (p.w 1)).toInt
    if x < 0 then s.abortPkt m n p 0x02
    else if x > 0 then s
    else if p.kind = 1 then
      (st s .busy).updModule m (fun d => { d with ready := d.ready ++ [launchOf n (s.queue m n) p (s.module m).cycles] })
    else st s .ready

/-- The pending packets of some queues that are due are examined, in ring order: those that an add of the cycle before has
notified, and all at a stroke start. What an examination changes has its own examinations in the next cycle. -/
def State.examineDue (s : State) (m : Nat) (ns : List Nat) : State :=
  let due := ns.flatMap (fun n => ((s.queue m n).window.filter (fun p => p.exam && p.st == .pending)).map (fun p => (n, p.idx)))
  let t := ns.foldl (fun t n => t.updQueue m n (fun q => { q with window := q.window.map (fun p => { p with exam := false }) })) s
  due.foldl (fun t x => match (t.queue m x.1).window.find? (fun p => p.idx == x.2 && p.st == .pending) with
    | some p => t.examine s m x.1 p
    | none => t) t

/-- The pending packets of a queue that are due are examined. -/
def execPacketExamine (m n : Nat) (s : State) : Out := .next (s.examineDue m [n])

/-- The queue processor fetches one packet (22 R365), checks it (R366) and examines it (R368). -/
def execQueueFetch (m n : Nat) (s : State) : Out :=
  .next (
    let q := s.queue m n
    let idx := (q.read + q.window.length) % 2 ^ 32
    if !q.en ∨ (q.window.filter (fun p => p.st != .done)).length ≥ 8 ∨ idx = q.write ∨
        q.window.any (fun p => p.bar && p.st != .done) then s
    else
      let p : Pkt := ⟨idx, s.ringWords q idx, .pending, false⟩
      let s := s.updQueue m n (fun q => { q with window := q.window ++ [p] })
      if p.ok m then s.examine s m n p else s.abortPkt m n p 0x01)

/-- One of the packets of a queue that meet `f`: packets of one queue go on in any order (22 R365), here as the free value
of the step says. -/
def State.somePkt (s : State) (m n : Nat) (f : Pkt → Bool) : Option Pkt :=
  let l := (s.queue m n).window.filter f
  l[Config.pick (s.free + 1) % max 1 l.length]?

/-- Is a packet a copy that may move a unit? Has its work been done, so that it may complete? -/
def Pkt.copies (p : Pkt) : Bool := p.kind == 3 && p.st == .ready
def Pkt.completes (p : Pkt) : Bool := p.st == .finished || (p.kind == 4 && p.st == .ready)

/-- One unit of one of the ready copy packets (22 R369, 18 R335): its words keep what is left to copy. A byte outside space 0
of the module faults it (log 21). -/
def execCopyPacket (m n : Nat) (s : State) : Out :=
  .next (
    match s.somePkt m n Pkt.copies with
    | none => s
    | some p =>
      let src := p.w 3
      let dst := p.w 4
      let k := min (p.w 5) (64 - src % 64)
      let ok (a : Nat) : Bool := inModule m a 1 && inModule m (a + k - 1) 1
      if k = 0 then s.updQueue m n (fun q => q.setPkt p.idx (fun y => { y with st := .finished }))
      else if !ok src ∨ !ok dst then s.abortPkt m n p 0x0B
      else
        let ws := ((p.words.set 3 (BitVec.ofNat 64 (src + k))).set 4 (BitVec.ofNat 64 (dst + k))).set 5 (BitVec.ofNat 64 (p.w 5 - k))
        (s.writeMarked dst (s.readMarked src k)).updQueue m n (fun q => q.setPkt p.idx (fun y =>
          { y with words := ws, st := if p.w 5 = k then .finished else .ready })))

/-- The completion engine (22 R369, R370): a ready signal packet adds its value; a packet whose work is done adds −1
to its DONE. -/
def execPacketComplete (m n : Nat) (s : State) : Out :=
  .next (
    match s.somePkt m n Pkt.completes with
    | none => s
    | some p =>
      let s := if p.kind = 4 then (s.signalAdd (p.w 3) (nth p.words 4 0)).1 else s
      let s := s.updQueue m n (fun q => (q.setPkt p.idx (fun y => { y with st := .done })).pass)
      if p.w 2 = 0 then s else (s.signalAdd (p.w 2) (-1)).1)

/-! ### Selection (22 R372) -/

/-- Does launch `a` come before `b`: higher priority of its queue, earlier readiness, lower queue, ring order? -/
def Launch.before (md : Module) (a b : Launch) : Bool :=
  let pr (l : Launch) : Nat := (kget Queue.reset md.queues l.q).prio
  let ring (l : Launch) : Nat := (l.idx + 2 ^ 32 - (kget Queue.reset md.queues l.q).read) % 2 ^ 32
  if pr a ≠ pr b then decide (pr a > pr b)
  else if a.readyAt ≠ b.readyAt then decide (a.readyAt < b.readyAt)
  else if a.q ≠ b.q then decide (a.q < b.q)
  else decide (ring a < ring b)

/-- The ready launch for die `d` that the distributor takes. -/
def Module.best (md : Module) (d : Nat) : Option Launch :=
  (md.ready.filter (fun l => l.die == d)).foldl (fun m l => match m with
    | none => some l
    | some x => if l.before md x then some l else some x) none

def execLaunchSelect (m g : Nat) (s : State) : Out :=
  .next (
    if (s.dieAt g).sel.isSome ∨ g / 4 ≠ m ∨ (s.module m).fwBusy then s
    else
      let md := s.module m
      match md.best (g % 4) with
      | none => s
      | some l =>
        let q := kget Queue.reset md.queues l.q
        let l1 : Launch := { l with prio := q.prio, pclass := q.pclass }
        (s.updModule m (fun d => { d with ready := d.ready.erase l })).updDie g (fun d => { d with sel := some l1 }))

/-! ### Translation (22 R376, R377, 11 R211) -/

/-- The members of a launch's region, in index order, holes left out. -/
def Launch.members (l : Launch) (m : Nat) : List Nat :=
  ((List.range l.rows).flatMap (fun i => (List.range l.cols).map (fun j =>
    clusterKey m l.die (l.row0 + i) (l.col0 + j)))).filter (fun k => !isLockhouse k)
def Launch.hasHole (l : Launch) (m : Nat) : Bool := (l.members m).length != l.rows * l.cols
/-- A member's index (16 R321): holes count. -/
def Launch.index (l : Launch) (k : Nat) : Nat := (rowOf k - l.row0) * l.cols + (colOf k - l.col0)

/-- An extent entry from its four words (11 Table 11.3). -/
def extentOf (w0 w1 w2 w3 : Nat) : Extent :=
  { v := bitAt w0 54, rel := bitAt w0 55
    res := match fld w0 52 2 with
      | 0 => .resident
      | 1 => .migrating
      | _ => .absent
    w := bitAt w0 51, r := bitAt w0 50
    kind := match fld w0 48 2 with
      | 0 => .none
      | 1 => .local
      | 2 => .remote
      | _ => .noise
    vbase := fld w0 0 48, len := fld w1 0 41, pbase := fld w2 0 48, fail := bitAt w3 33, pend := bitAt w3 32
    epoch := BitVec.ofNat 32 w3
    left := if fld w0 52 2 = 1 then (fld w1 0 41 + 63) / 64 else 0 }

/-- Does an entry of a launch pass R211 (`nmod` modules are numbered)? With V clear all other fields are reserved (R208). -/
def extentOk (l : Launch) (m nmod w0 w1 w2 w3 : Nat) : Bool :=
  let e := extentOf w0 w1 w2 w3
  let reserved := fld w0 56 8 == 0 && fld w0 52 2 != 3 && w1 < 2 ^ 41 && w2 < 2 ^ 48 && w3 < 2 ^ 34 && e.vbase % 64 == 0
  if !e.v then w0 == 0 && w1 == 0 && w2 == 0 && w3 == 0
  else (reserved && (!e.rel || e.kind == .remote) && e.pbaseOk nmod && (match e.kind with
    | .local => true
    | .remote =>
      !e.rel || (l.members m).all (fun k =>
        let row := l.row0 + (rowOf k - l.row0 + fld e.pbase 27 5) % l.rows
        let col := l.col0 + (colOf k - l.col0 + fld e.pbase 22 5) % l.cols
        !isLockhouse (clusterKey m l.die row col))
    | _ => e.res == .resident))

/-- A successor field. -/
def succOf (n : Nat) : Succ := if n < 8 then some n else none

/-- A phase entry from the 128 words of its 1,024 bytes; `w i` is word i. None: a reserved field is set or a limit
broken (DESC_BAD). The extent entries are given apart. -/
def phaseOf (nph : Nat) (w : Nat → Nat) (ext : List Extent) : Option Phase :=
  let c := w 0
  let nb := fld c 8 4
  let half (i : Nat) : Nat := w (48 + i / 2) / 2 ^ (32 * (i % 2)) % 2 ^ 32
  let succBad (n : Nat) : Bool := decide (n > 8) || (decide (n < 8) && decide (n ≥ nph))
  let reserved := (List.range 4).any (fun i => w (4 + i) != 0) || w 16 != 0 || (List.range 8).any (fun i => w (56 + i) != 0)
  if c ≥ 2 ^ 18 ∨ nb > 8 ∨ succBad (fld c 0 4) ∨ succBad (fld c 4 4) ∨ w 1 ≥ 2 ^ 12 ∨
      [0, 4, 8].any (fun i => decide (fld (w 1) i 4 ≥ 14)) ∨ w 2 ≥ 2 ^ 32 ∨ bitAt (w 2) 0 ∨ w 3 ≥ 2 ^ 22 ∨ w 3 % 4 ≠ 0 ∨
      (List.range nb).any (fun b => decide (w (8 + b) ≥ 2 ^ 35) || decide (fld (w (8 + b)) 32 3 ≥ nph)) ∨ reserved ∨
      (List.range 16).any (fun i => fld (half i) 22 9 != 0 || fld (half i) 0 6 != 0) then none
  else some
    { code := BitVec.ofNat 22 (w 3), ext := ext, det := bitAt c 12, fmt := BitVec.ofNat 12 (w 1)
      taken := succOf (fld c 0 4), other := succOf (fld c 4 4)
      buckets := tabulate nb (fun b => (fld (w (8 + b)) 0 32, fld (w (8 + b)) 32 3))
      cot := tabulate 16 (fun i => BitVec.ofNat 32 (half i))
      sinit := ((List.finRange 32).filter (fun r => bitAt (w 2) r.val)).map (fun r => (r, BitVec.ofNat 64 (w (16 + r.val))))
      posreg := Fin.ofNat 32 (fld c 13 5) }

/-- A member's channel table (22 R376): inbound and outbound entries with V or any word set. -/
def chansOf (w : Nat → Nat) : KMap Ich × KMap Och :=
  let ich (i : Nat) : Ich := ichSet (ichSet Ich.reset 0 (w (4 * i))) 2 (w (4 * i + 2))
  let och (i : Nat) : Och := ochSet (ochSet (ochSet Och.reset 0 (w (64 + 4 * i))) 2 (w (64 + 4 * i + 2))) 3 (w (64 + 4 * i + 3))
  let used (b i : Nat) : Bool := w (b + 4 * i) != 0 || w (b + 4 * i + 2) != 0 || w (b + 4 * i + 3) != 0
  (((List.range 16).filter (used 0)).map (fun i => (i, ich i)), ((List.range 16).filter (used 64)).map (fun i => (i, och i)))

/-- Are the reserved words and bits of a member's channel table zero (22 R376, 18 Tables 18.1 and 18.2)? -/
def chansOk (w : Nat → Nat) : Bool :=
  (List.range 16).all (fun i => !bitAt (w (4 * i)) 48 && w (4 * i + 1) == 0 && w (4 * i + 3) == 0) &&
    (List.range 16).all (fun i => !bitAt (w (64 + 4 * i)) 48 && w (64 + 4 * i + 1) == 0 && decide (w (64 + 4 * i + 2) < 2 ^ 32) &&
      decide (w (64 + 4 * i + 3) < 2 ^ 22))

/-- Why a launch fails its translation: the code, and for EXTENT_BAD the phase and the entry (11 R211). -/
structure Failure where
  code : Nat
  at_ : Option (Nat × Nat)
deriving DecidableEq, Repr

/-- The translation of a launch of module m (22 R377): its descriptor, or the first check that fails. -/
def State.translate (s : State) (m : Nat) (l : Launch) : Desc ⊕ Failure :=
  let w (i : Nat) : Nat := (s.readWord (l.desc + 8 * i)).toNat
  let nph := w 0 % 8 + 1
  let len := 64 + 1024 * nph + 1024 * (l.rows * l.cols)
  let opnd (e : Nat) : Nat := (s.readWord (l.oplist + 8 * e)).toNat
  let entry (j e : Nat) : Nat × Nat × Nat × Nat :=
    let b := 8 + 128 * j + 64 + 4 * e
    (w b, w (b + 1), if bitAt l.opmask e then opnd e else w (b + 2), w (b + 3))
  let mk (x : Nat × Nat × Nat × Nat) : Extent := extentOf x.1 x.2.1 x.2.2.1 x.2.2.2
  let phases := tabulate nph (fun j => phaseOf nph (fun i => w (8 + 128 * j + i)) (tabulate 16 (fun e => mk (entry j e))))
  let chan (k i : Nat) : Nat := w (8 + 128 * nph + 128 * l.index k + i)
  let badExt := (List.range nph).findSome? (fun j => ((List.range 16).find? (fun e =>
      let x := entry j e
      let k := mk x
      !extentOk l m (s.module m).nmod x.1 x.2.1 x.2.2.1 x.2.2.2 ||
        (bitAt l.opmask e && !(k.kind == .remote && !k.rel)))).map (fun e => (j, e)))
  let header := w 0 / 2 ^ 17 == 0 && fld (w 0) 3 5 == 0 && decide (fld (w 0) 8 8 ≤ 8) && w 1 == 0 && fld (w 5) 48 16 == 0 &&
    w 6 == 0 && w 7 == 0
  if !header ∨ l.desc % 2 ^ 34 + len > 2 ^ 34 ∨ phases.any Option.isNone ∨ (l.members m).any (fun k => !chansOk (chan k)) then
    .inr ⟨0x04, none⟩
  else if badExt.isSome then .inr ⟨0x05, badExt⟩
  else if l.row0 + l.rows > 32 ∨ l.col0 + l.cols > 32 ∨ (l.members m).isEmpty ∨ (bitAt (w 0) 16 ∧ l.hasHole m) ∨
      (l.members m).any (fun k => (s.cluster k).fenced) then .inr ⟨0x06, none⟩
  else .inl
    { phases := phases.filterMap id
      scpos := fld (w 0) 8 8
      localsem := BitVec.ofNat 256 (w 2 + w 3 * 2 ^ 64 + w 4 * 2 ^ 128 + w 5 * 2 ^ 192)
      chans := (l.members m).map (fun k =>
        let c := chansOf (chan k)
        (k, c.1, c.2)) }

/-- The packet of a launch. -/
def State.launchPkt (s : State) (m : Nat) (l : Launch) : Pkt :=
  match (s.queue m l.q).window.find? (fun p => p.idx == l.idx) with
  | some p => p
  | none => ⟨l.idx, [], .done, false⟩

/-- The selected launch of a die fails before it is bound; the areas of one that was pre-empted are freed. -/
def State.failSel (s : State) (g : Nat) (l : Launch) (code : Nat) : State :=
  let areas := match l.saved with
    | some v => v.members.map (fun k => kget 0 (s.cluster k).savearea l.q)
    | none => []
  let s : State := { s with saves := s.saves.filter (fun x => !areas.contains x.1) }
  let s := (s.updDie g (fun d => { d with sel := none })).abortPkt (g / 4) l.q (s.launchPkt (g / 4) l) code
  s.blackbox g 0x03 (32 * l.row0 + l.col0) (BitVec.ofNat 64 (code + l.q * 2 ^ 8 + l.idx % 2 ^ 32 * 2 ^ 16)) 0

def execLaunchTranslate (g : Nat) (s : State) : Out :=
  .next (
    match (s.dieAt g).sel with
    | none => s
    | some l =>
      if l.tr.isSome then s
      else match s.translate (g / 4) l with
        | .inr f =>
          let s := s.failSel g l f.code
          (match f.at_ with
            | some x => { s with outputs := s.outputs ++ [.extentBad (g / 4) l.q l.idx x.1 x.2] }
            | none => s)
        | .inl d => s.updDie g (fun x => { x with sel := some { l with tr := some d } }))

/-! ### Binding (22 R374, 12 R233) -/

/-- Slot-wheel positions held on a module. -/
def State.wheelUsed (s : State) (m : Nat) : List Nat :=
  (s.cl.filter (fun x => modOf x.1 == m)).flatMap (fun x => x.2.scPos)

/-- The lowest free position not below `p`, else the lowest free one (12 R233). -/
def wheelPick (used : List Nat) (p : Nat) : Option Nat :=
  match (List.range 256).find? (fun i => decide (p ≤ i) && !used.contains i) with
  | some i => some i
  | none => (List.range 256).find? (fun i => !used.contains i)

/-- `c` positions for one member. -/
def wheelMember (c : Nat) (used : List Nat) : Option (List Nat × List Nat) :=
  (List.range c).foldl (fun r j => match r with
    | none => none
    | some (u, l) => (wheelPick u (256 * j / c)).map (fun i => (u ++ [i], l ++ [i]))) (some (used, []))

/-- Positions for every member, in index order; none where too few are free. -/
def wheelAllot (c : Nat) (used : List Nat) (ms : List Nat) : Option (List (Nat × List Nat)) :=
  (ms.foldl (fun r k => match r with
    | none => none
    | some (u, l) => (wheelMember c u).map (fun x => (x.1, l ++ [(k, x.2)]))) (some (used, ([] : List (Nat × List Nat))))).map (·.2)

/-- The lowest free cox of a die (01 R15). -/
def Die.freeCox (d : Die) : Option Nat := (List.range 64).find? (fun i => d.coxes.all (fun x => x.1 != i))

/-- A phase starts on a member (01 R16, 05 R107, 16 R321, 04 R86): configuration, initial values, position, code. The VQNT group
sequence restarts for the program context alone, since a phase is the program's (DESIGN CHOICE, log 63: R164 counts "per
context"). -/
def Cluster.startPhase (c : Cluster) (j index stroke : Nat) : Cluster :=
  match c.phases[j]? with
  | none => c
  | some p =>
    let x := p.sinit.foldl (fun (x : Ctx) i => x.wrS i.1 ⟨i.2, false⟩) c.prog
    let x := if p.posreg = 0 then x else x.wrS p.posreg ⟨BitVec.ofNat 64 index, false⟩
    let x : Ctx := { x with
      pc := p.code, loops := [], target := none, entry := 0, unstamped := false, rest := [], strokes := [], runLeft := 0, park := .run, qseq := 0 }
    { c with phase := j, prog := x, det := p.det, fmtcfg := p.fmt, phbase := stroke, done := false }

/-- The physical base of a ring: its extent entry at binding (18 R324), LOCAL. -/
def ringBase (k : Nat) (c : Cluster) (va : Nat) : Nat :=
  match findExtent c.table va 1 with
  | some (_, e) => e.physical k c va
  | none => 0

/-- Reset of a member at binding (05 R107, 14 R271, 15 R295, 16 R308, R317, 18 R324, R329): the firmware context and
the counts of sem240 to sem255 stand, and so does the channel state of the launches `kept`, which are saved on the cluster
(25 R405). -/
def Cluster.bindReset (c : Cluster) (l : Launch) (d : Desc) (k cox : Nat) (pos : List Nat) (kept : List Nat) : Cluster :=
  let ch := ((d.chans.find? (fun x => x.1 == k)).map (·.2)).getD ([], [])
  let b : Binding := ⟨cox, l.row0, l.col0, l.rows, l.cols, l.index k, l.key⟩
  let c1 : Cluster := { c with
    prog := Ctx.reset
    sem := Vector.ofFn (fun i => if i.val < 240 then 0 else c.sem[i])
    semLocal := d.localsem
    bar := Vector.replicate 16 Barrier.reset
    bind := some b
    phases := d.phases
    phase := 0
    launch := l.q
    mapreqs := c.mapreqs.map (fun q => { q with phase := 8 })
    semSets := c.semSets.filter (fun x => decide (240 ≤ x.2.1.val))
    semWords := c.semWords.filter (fun x => decide (240 ≤ x.1.val))
    semIncs := c.semIncs.filter (fun x => decide (240 ≤ x.1.val))
    semNext := c.semNext.filter (fun x => decide (240 ≤ x.1.val))
    ckptHold := false
    scPos := pos
    done := false
    mx := Mx.reset
    block := none
    last := 31
    wake := []
    ibuf := []
    wanted := []
    bad := c.bad.filter (fun n => n / 256 == 1) }
  let ich := ch.1.foldl (fun m x => kset m x.1 { x.2 with
    expseq := 0, narr := 0, nheld := 0, head := 0, dup := 0, tags := [], phys := ringBase k c1 x.2.rbase, own := l.key })
    (c.ich.filter (fun x => kept.contains x.2.own))
  let och := ch.2.foldl (fun m x => kset m x.1 { x.2 with
    v := false, bound := x.2.v, seq := 0, ackseq := 0, credit := x.2.slots, own := l.key })
    (c.och.filter (fun x => kept.contains x.2.own))
  { c1 with ich := ich, och := och }

/-- The launches of module m that are pre-empted and saved on cluster `k`. -/
def State.savedOn (s : State) (m k : Nat) : List Nat :=
  (((s.module m).ready ++ (List.range 4).filterMap (fun i => (s.dieAt (4 * m + i)).sel)).filter (fun l => match l.saved with
    | some v => v.members.contains k
    | none => false)).map Launch.key

/-- Physical address of OCHST word 1 of channel o of cluster k. -/
def ochAddr (k o : Nat) : Nat := 2 * 2 ^ 45 + clusterBase k + 0x3200 + 32 * o + 8

/-- Outbound channel o of cluster k, which its launch binds, is made valid once its receiver is bound (18 R324): the
receiver's channel is the one whose SRC names it, of the launch that binds its cluster now. -/
def State.linkOch (s : State) (k o : Nat) : State :=
  let h := kget Och.reset (s.cluster k).och o
  let d := s.cluster (paCluster h.dest)
  match d.ich.find? (fun x => x.2.v && x.2.src == ochAddr k o && d.bind.any (fun b => b.key == x.2.own)) with
  | none => s
  | some (n, _) =>
    if h.bound ∧ (s.cluster k).bind.any (fun b => b.key == h.own) then s.updCluster k (fun c => { c with och := kset c.och o { h with
      v := true, ich := Fin.ofNat 16 n, route := s.fixedRoute (modOf (paCluster h.dest)) 8 (modOf k) } })
    else s

/-- The channels of a newly bound member, and those of bound senders to it. -/
def State.linkChannels (s : State) (k : Nat) : State :=
  let s := ((s.cluster k).och.map (·.1)).foldl (fun s o => s.linkOch k o) s
  ((s.cluster k).ich.filter (fun x => x.2.v)).foldl (fun s x =>
    let j := paCluster x.2.src
    if (s.cluster j).bind.isSome then s.linkOch j (ochOf x.2.src).val else s) s

/-- Do a launch's members stand free? -/
def State.membersFree (s : State) (ms : List Nat) : Bool := ms.all (fun k => (s.cluster k).bind.isNone)

def execLaunchBind (g : Nat) (s : State) : Out :=
  .next (
    match (s.dieAt g).sel with
    | none => s
    | some l =>
      match l.tr with
      | none => s
      | some d =>
        let m := g / 4
        let ms := l.members m
        if ms.any (fun k => (s.cluster k).fenced) then s.failSel g l 0x06
        else match (s.dieAt g).freeCox, wheelAllot d.scpos (s.wheelUsed m) ms with
          | some cox, some pos =>
            if !s.membersFree ms ∨ l.saved.isSome ∨ (s.module m).fwBusy ∨ ms.any (fun k => !(s.cluster k).mx.queue.isEmpty) then s
            else
              let st := s.strokeOf m
              let s := ms.foldl (fun s k => s.updCluster k (fun c =>
                (c.bindReset l d k cox (((pos.find? (fun x => x.1 == k)).map (·.2)).getD []) (s.savedOn m k)).startPhase 0 (l.index k) st)) s
              let s := ms.foldl (fun s k => s.linkChannels k) s
              s.updDie g (fun x => { x with sel := none, coxes := kset x.coxes cox ⟨l, 0, ms, none, none, .run⟩ })
          | _, _ => s)

/-! ### Phases (04 R99) -/

/-- Has all that a member's program context issued completed? -/
def State.drained (s : State) (k : Nat) : Bool :=
  let c := s.cluster k
  c.prog.pend.isEmpty && c.prog.holds.isEmpty && c.prog.post.isEmpty && c.prog.faultQ.isEmpty && c.semNext.isEmpty &&
    s.net.all (fun m => !(m.src == k && (match m.by_ with
      | .slot fw _ => !fw
      | .engine q i => (c.stream q).all (fun x => x.id != i || !x.fw)
      | .chain => true))) &&
    c.streams.all (fun q => q.2.all (fun x => x.fw)) && c.mx.queue.all (fun x => x.fw) &&
    (match c.block with
      | none => true
      | some b => b.blocked.isSome)

/-- A member that has ended its phase signals done once it has drained: its open windows are deposited first (11 R220). -/
def execMemberDone (k : Nat) (s : State) : Out :=
  .next (
    let c := s.cluster k
    match c.prog.park, c.bind with
    | .phase _, some b =>
      if c.done ∨ !s.drained k then s
      else
        let c1 := c.depositAll (s.cyc k) (s.strokeOf (modOf k))
        (s.setCluster k { c1 with done := true }).updDie (dieKey k) (fun d =>
          match d.coxes.find? (fun x => x.1 == b.cox) with
          | some (_, x) => { d with coxes := kset d.coxes b.cox { x with lastDone := some s.now } }
          | none => d)
    | _, _ => s)

/-- What each member ended with. -/
def State.phEnd (s : State) (k : Nat) : PhEnd :=
  match (s.cluster k).prog.park with
  | .phase e => e
  | _ => .abort

/-- The region steps to a successor: a phase on every member, or the end. -/
def State.stepTo (s : State) (g cox : Nat) (x : Cox) (j : Succ) (pad : Nat → Option Nat) : State :=
  match j with
  | none => s.updDie g (fun d => { d with coxes := kset d.coxes cox { x with phase := 8 } })
  | some j =>
    let st := s.strokeOf (g / 4)
    let s := x.members.foldl (fun s k => s.updCluster k (fun c =>
      let c := c.startPhase j (x.launch.index k) st
      let c := match pad k with
        | some n => { c with padm := BitVec.ofNat 32 n }
        | none => c
      c.dropGraphs)) s
    s.updDie g (fun d => { d with coxes := kset d.coxes cox { x with phase := j, lastDone := none } })

/-- The cox's decision once every member has signalled done (04 R99). -/
def execPhaseStep (g cox : Nat) (s : State) : Out :=
  .next (
    match (s.dieAt g).coxes.find? (fun x => x.1 == cox) with
    | none => s
    | some (_, x) =>
      if x.fail.isSome ∨ x.phase ≥ 8 ∨ x.mode ≠ .run ∨ !(x.members.all (fun k => (s.cluster k).done)) then s
      else
        let ends := x.members.map s.phEnd
        let fail (code : Nat) : State := s.updDie g (fun d => { d with coxes := kset d.coxes cox { x with fail := some code } })
        let ph := x.members.head?.bind (fun k => (s.cluster k).cur)
        if ends.contains .halt then s.stepTo g cox x none (fun _ => none)
        else match ends.head?, ph with
          | some (.phend m _), some p =>
            let bits := ends.filterMap (fun e => match e with
              | .phend m2 b => if m2 = m then some b else none
              | _ => none)
            if bits.length ≠ ends.length then fail 0x07
            else
              let r := match m with
                | .any => bits.any id
                | .all => bits.all id
                | .none => !bits.any id
              s.stepTo g cox x (if r then p.taken else p.other) (fun _ => none)
          | some (.bsel _), some p =>
            let ds := x.members.filterMap (fun k => match s.phEnd k with
              | .bsel d => some (k, d)
              | _ => none)
            if ds.length ≠ ends.length then fail 0x07
            else
              let D := ds.foldl (fun m y => max m y.2) 0
              let pick := (p.buckets.filter (fun b => decide (D ≤ b.1))).foldl (fun m b => match m with
                | none => some b
                | some y => if b.1 < y.1 then some b else some y) (none : Option (Nat × Nat))
              match pick with
              | none => s
              | some b => s.stepTo g cox x (some b.2) (fun k => (ds.find? (fun y => y.1 == k)).map (fun y => b.1 - y.2))
          | _, _ => s)

/-- The end of a launch (22 R375): completed, or aborted with its failure's code; cox, positions and members are
reclaimed, and what checkpoints hold of it is over. A failure is recorded with the report of a blocked element, if any (24
R402): that of the member of lowest index, whatever the failure's code (DESIGN CHOICE, log 63). A moved launch has no packet
(25 R414; log 64). -/
def State.endLaunch (s : State) (g cox : Nat) (x : Cox) : State :=
  let m := g / 4
  let l := x.launch
  let report := (x.members.filterMap (fun k => (s.cluster k).block.bind (·.blocked))).headD 0
  let s := x.members.foldl (fun s k => s.updCluster k (fun c =>
    { c with bind := none, scPos := [], done := false, block := none, ckptHold := false, prog := { c.prog with park := .halted } })) s
  let gone (y : Nat × Image) : Bool := x.members.contains y.1 && y.2.launch.key == l.key
  let s : State := { s.updDie g (fun d => { d with coxes := kdel d.coxes cox }) with
    staged := s.staged.filter (fun y => !gone y), images := s.images.filter (fun y => !gone y) }
  match x.fail with
  | none => if l.moved then s else s.updQueue m l.q (fun q => q.setPkt l.idx (fun y => { y with st := .finished }))
  | some code =>
    (if l.moved then s else s.abortPkt m l.q (s.launchPkt m l) code).blackbox g 0x03 (32 * l.row0 + l.col0)
      (BitVec.ofNat 64 (code + l.q * 2 ^ 8 + l.idx % 2 ^ 32 * 2 ^ 16)) (BitVec.ofNat 64 report)

def execLaunchEnd (g cox : Nat) (s : State) : Out :=
  .next (
    match (s.dieAt g).coxes.find? (fun x => x.1 == cox) with
    | none => s
    | some (_, x) =>
      if (x.phase < 8 ∧ x.fail.isNone) ∨ !(x.members.all (fun k => (s.cluster k).done)) then s else s.endLaunch g cox x)

/-! ### QPOST and SIGADD (22 R379, R380) -/

def execQpost (d a b : SReg) (s : State) : Out :=
  .next (
    let x := s.ctx.rdS a
    let y := s.ctx.rdS b
    let va := x.val.toNat
    if x.poison then s.poisonUse va
    else if y.poison then s.poisonUse
    else match checkAll s.me.table (.load false) false 64 64 [va], findExtent s.me.table va 64 with
      | some (code, f), _ => s.raise code (BitVec.ofNat 32 f) f
      | none, none => s.raise 0x21 (BitVec.ofNat 32 va) va
      | none, some (_, e) =>
        let pa := e.physical s.cur s.me va
        let ids := s.releaseDeps s.cur .sys
        if paCluster pa = s.cur then
          let s := s.denied va 64
          let bytes := if s.reach pa false then s.performRead pa 64 else marked 64 0 false
          s.updCtx (fun c => { c.owe d with post := c.post ++ [.qpost d y.val none bytes ids s.slot] })
        else
          let id := s.nextId
          (s.sendSlot 0 (paCluster pa) va (.read pa 64)).updCtx (fun c =>
            { c.owe d with post := c.post ++ [.qpost d y.val (some id) [] ids s.slot] }))

/-- What a QPOST finds at the queue processor of module m: the result where nothing is written, or none. -/
def State.qpostRefusal (s : State) (m : Nat) (n : DWord) : Option DWord :=
  let q := s.queue m n.toNat
  if n.toNat > 63 then some (-3)
  else if !q.en ∨ !q.dev then some (-2)
  else if (q.write + 2 ^ 32 - q.read) % 2 ^ 32 = 2 ^ q.log2n then some (-1)
  else none

/-- The packet is written to its slot. -/
def State.qpostWrite (s : State) (m : Nat) (n : DWord) (bytes : List (Byte × Bool)) : State :=
  let q := s.queue m n.toNat
  (s.writeMarked (q.base + 64 * (q.write % 2 ^ q.log2n)) bytes).updQueue m n.toNat (fun q => { q with write := (q.write + 1) % 2 ^ 32 })

/-- One cycle of a QPOST under way: with its packet read it makes its step, which waits as a release only where a packet is
written; its result lands one issue cycle later. -/
def State.qpostGo (s : State) (k : Nat) (fw : Bool) : State :=
  match (s.ctxOf k fw).post with
  | .qpost d n none bytes after _ :: rest =>
    let give (s : State) (v : DWord) : State := s.setCtxOf k fw { (s.ctxOf k fw).pay d ⟨v, false⟩ with post := rest }
    (match s.qpostRefusal (modOf k) n with
      | some v => give s v
      | none =>
        if s.allMet k after then give (s.qpostWrite (modOf k) n bytes) (BitVec.ofNat 64 (s.queue (modOf k) n.toNat).write) else s)
  | _ => s

def execSigadd (d a b : SReg) (s : State) : Out :=
  .next (
    let x := s.ctx.rdS a
    let y := s.ctx.rdS b
    let va := x.val.toNat
    if x.poison then s.poisonUse va
    else if y.poison then s.poisonUse
    else match checkAll s.me.table .atomic false 8 8 [va], findExtent s.me.table va 8 with
      | some (code, f), _ => s.raise code (BitVec.ofNat 32 f) f
      | none, none => s.raise 0x21 (BitVec.ofNat 32 va) va
      | none, some (_, e) =>
        let pa := e.physical s.cur s.me va
        if paSpace pa ≠ 0 then s.raise 0x22 (BitVec.ofNat 32 va) va
        else if s.poisoned pa 8 then s.raise 0x25 (BitVec.ofNat 32 va) va
        else
          let sc : Scope := if modOf (paCluster pa) = modOf s.cur then .mod else .sys
          let id := s.nextId
          let o := s.streamOrder s.cur 0 (paCluster pa) true
          (s.send (.slot s.curFw 0) s.cur (paCluster pa) va (.sigadd pa y.val)
            (s.releaseDeps s.cur sc ++ o.1) o.2).updCtx (fun c =>
            c.push (waitPend 5 (.sreg d ⟨0, false⟩) [(id, 0)] .z32 (some .s64))))

end Sys2Proof.Machine
end

