-- ==== Sys2Proof/Machine/Issue.lean ====
section
/-! DEFINITION. What holds a bundle at issue (04 R78, R79): fetching through the instruction buffer (R433), the
divide interlock (05 R116), fences and barriers of order (chapter 12), waits (chapter 16), full queues, and the
block that owns the fabric (01 R18). Nothing here changes a register. -/

namespace Sys2Proof.Machine

/-! ### Fetching (04 R433) -/

/-- `n` words from `a` upwards, if all their lines are present. -/
def Cluster.ibufWords (c : Cluster) (a : Nat) : Nat → Option (List (Word × Bool))
  | 0 => some []
  | n + 1 =>
    match c.ibufWord (a % 2 ^ 22), c.ibufWords (a + 4) n with
    | some w, some r => some (w :: r)
    | _, _ => none

/-- Is the line that holds `a` present? -/
def Cluster.linePresent (c : Cluster) (a : Nat) : Bool := (c.ibufWord (a % 2 ^ 22)).isSome

/-- A line read from the scratchpad replaces the line that held its index. -/
def execIcacheLineFill (k line : Nat) (s : State) : Out :=
  .next (
    let a := line % 2 ^ 16 * 64
    let l : ILine := ⟨lineTag a, s.codeWords k a 16⟩
    s.updCluster k (fun c => { c with ibuf := kset c.ibuf (lineIdx a) l, wanted := c.wanted.filter (fun x => x != line % 2 ^ 16) }))

/-- A fetched bundle. -/
structure Bundle where
  mask : Nat
  stamp : Option Word
  words : Nat
  /-- Present slots with their words. -/
  slots : List (Nat × Nat)
  /-- First present slot with a poisoned word, and whether the stamp word is poisoned (24 R399). -/
  poisonAt : Option Nat
  stampPoison : Bool
deriving DecidableEq, Repr

/-- What stands at the pc of a context. -/
inductive Fetched where
  /-- Code address of an absent line. -/
  | absent (a : Nat)
  /-- A header that faults: code and INFO. -/
  | bad (code : Nat) (info : Word)
  | folded (n : BitVec 16)
  | bundle (b : Bundle)
deriving DecidableEq, Repr

/-- Code addresses of the words of a range whose lines are absent. -/
def Cluster.firstAbsent (c : Cluster) (a : Nat) : Nat → Option Nat
  | 0 => none
  | n + 1 => if c.linePresent a then c.firstAbsent (a + 4) n else some (a % 2 ^ 22)

/-- The bundle at code address `a` (03 R50 to R53). -/
def Cluster.fetch (c : Cluster) (a : Nat) : Fetched :=
  match c.ibufWord a with
  | none => .absent a
  | some (h, hp) =>
    if hp then .bad 0x72 (BitVec.ofNat 32 (a % 2 ^ 22))
    else match decHeader h.toNat with
      | .illegalKind => .bad 0x00 h
      | .badField => .bad 0x02 h
      | .badLen => .bad 0x03 h
      | .folded n => .folded n
      | .bundle mask st n =>
        let k := n + (if st then 1 else 0)
        match c.firstAbsent (a + 4) k, c.ibufWords (a + 4) k with
        | some x, _ => .absent x
        | none, none => .absent a
        | none, some ws =>
          let body := if st then ws.drop 1 else ws
          let marks := (slotsOf mask (body.map (fun w => if w.2 then 1 else 0))).filter (fun x => x.2 != 0)
          .bundle ⟨mask, if st then (ws.head?).map (·.1) else none, 1 + k, slotsOf mask (body.map (·.1)),
            marks.head?.map (·.1), st && ((ws.head?).map (·.2)).getD false⟩

/-! ### What an instruction does to memory -/

/-- Does an instruction make an access in its slot, and is it a write? -/
inductive AccKind where
  | no | read | write
deriving DecidableEq, Repr

def accKind : Instr → AccKind
  | .ld .. => .read
  | .vld .. => .read
  | .vlds .. => .read
  | .vldb .. => .read
  | .vgath .. => .read
  | .ldacq .. => .read
  | .mscl .. => .read
  | .qpost .. => .write
  | .sigadd .. => .write
  | .array .. => .write
  | .st .. => .write
  | .vst .. => .write
  | .vsts .. => .write
  | .vscat .. => .write
  | .strel .. => .write
  | .atom .. => .write
  | .atomn .. => .write
  | .vatom .. => .write
  | .vatomn .. => .write
  | _ => .no

/-- Virtual addresses of an M-slot access, by lane (09 R183, R188). -/
def Ctx.addrs (c : Ctx) : Instr → List Nat
  | .ld _ b ty _ off => [effAddr (c.rdS b).val off (mbytes ty)]
  | .st _ b ty off => [effAddr (c.rdS b).val off (mbytes ty)]
  | .ldacq _ b ty _ off => [effAddr (c.rdS b).val off (mbytes ty)]
  | .strel _ b ty _ off => [effAddr (c.rdS b).val off (mbytes ty)]
  | .vld _ b ty _ off => tabulate 16 (fun i => (effAddr (c.rdS b).val off (16 * ebytes ty) + i * ebytes ty) % 2 ^ 64)
  | .vst _ b ty off => tabulate 16 (fun i => (effAddr (c.rdS b).val off (16 * ebytes ty) + i * ebytes ty) % 2 ^ 64)
  | .vldb _ b ty _ off => [effAddr (c.rdS b).val off (ebytes ty)]
  | .vlds _ b _ _ st => tabulate 16 (strideAddr (c.rdS b).val (c.rdS st).val)
  | .vsts _ b _ st => tabulate 16 (strideAddr (c.rdS b).val (c.rdS st).val)
  | .vgath _ b _ _ o => (c.rdV o).toList.map (fun l => indexAddr (c.rdS b).val l.val)
  | .vscat _ b _ o => (c.rdV o).toList.map (fun l => indexAddr (c.rdS b).val l.val)
  | .mscl a _ => [(c.rdS a).val.toNat]
  | .qpost _ a _ => [(c.rdS a).val.toNat]
  | _ => []

/-! ### Scalar registers that a bundle reads (05 R116) -/

/-- Scalar registers that an instruction reads for the divide interlock (05 R116). ARRAY counts its operands alone, and not
the registers that CONST nodes of its block name (DESIGN CHOICE, log 63: R116 speaks of the bundle that reads). -/
def readsS : Instr → List SReg
  | .add _ a b _ | .sub _ a b _ | .mul _ a b _ | .mulh _ a b _ | .mulhu _ a b _ | .div _ a b _ | .divu _ a b _ => [a, b]
  | .rem _ a b _ | .remu _ a b _ | .and _ a b _ | .or _ a b _ | .xor _ a b _ | .shl _ a b _ | .shr _ a b _ => [a, b]
  | .sra _ a b _ | .min _ a b _ | .max _ a b _ | .minu _ a b _ | .maxu _ a b _ | .slt _ a b _ | .sltu _ a b _ => [a, b]
  | .seq _ a b _ => [a, b]
  | .sel _ a b c => [a, b, c]
  | .mov _ a | .clz _ a _ | .ctz _ a _ | .popc _ a _ | .bfx _ a _ _ => [a]
  | .bfi d a _ _ => [d, a]
  | .addi _ a _ _ | .andi _ a _ _ | .ori _ a _ _ | .xori _ a _ _ => [a]
  | .shli _ a _ _ | .shri _ a _ _ | .srai _ a _ _ => [a]
  | .lui d _ => [d]
  | .csrw _ a _ => [a]
  | .extq _ a => [a]
  | .mapreq _ a b c => [a, b, c]
  | .semsigReg a _ | .semsetReg a _ => [a]
  | .xld _ a => [a]
  | .qpost _ a b | .sigadd _ a b => [a, b]
  | .vbcst _ a _ _ | .vins _ a _ _ => [a]
  | .vtwid _ a _ _ _ => [a]
  | .ld _ b _ _ _ | .vld _ b _ _ _ | .vldb _ b _ _ _ | .ldacq _ b _ _ _ => [b]
  | .st d b _ _ | .strel d b _ _ _ => [d, b]
  | .vlds _ b _ _ x => [b, x]
  | .vsts _ b _ x => [b, x]
  | .vgath _ b _ _ _ | .vst _ b _ _ | .vscat _ b _ _ => [b]
  | .atom _ b _ o x _ | .atomn b _ o x _ => if o = .cas then [b, x, Fin.ofNat 32 (x.val + 1)] else [b, x]
  | .vatom _ b _ _ _ _ | .vatomn b _ _ _ _ => [b]
  | .brc a _ _ | .jmpi a | .loop _ a _ _ | .bsel a | .waitarr _ a => [a]
  | .ret => [31]
  | .array a b _ => [a, b]
  | .repair a b => [a, b]
  | .ctxsave a | .ctxload a => [a]
  | .mcfg a _ | .mscl a _ => [a]
  | .scopy a b c _ _ | .spost a b c _ _ | .sget a b c _ _ => [a, b, c]
  | .sfill a b _ _ _ => [a, b]
  | .ssend _ a b _ _ => [a, b]
  | .sfree _ a _ _ => [a]
  | .swake a b _ _ => [a, b]
  | _ => []

def isDivide : Instr → Bool
  | .div .. => true
  | .divu .. => true
  | .rem .. => true
  | .remu .. => true
  | _ => false

/-- The scalar registers that unfinished divides of a context will write. -/
def Ctx.divDests (c : Ctx) : List SReg :=
  (c.pend.filter (fun p => p.div)).filterMap (fun p => match p.dest with
    | .sreg r _ => some r
    | _ => none)
def Ctx.divBusy (c : Ctx) : Bool := c.pend.any (fun p => p.div)

/-- Does the divide interlock hold these instructions (05 R116)? A divide whose destination is s0 holds no reader of s0, which
nothing writes (DESIGN CHOICE, log 63). -/
def Ctx.divStall (c : Ctx) (is : List Instr) : Bool :=
  is.any (fun i => (isDivide i && c.divBusy) || (readsS i).any (fun r => r != 0 && c.divDests.contains r))

/-! ### Waits -/

/-- What holds a bundle: a wait that counts strokes (16 R315, 19 R354), one that nothing can release (R314), one on a
local-only semaphore, which never times out (R315), or anything else. -/
inductive Hold where
  | sem (slot n : Nat) (count : Int)
  | dead (slot n : Nat) (count : Int)
  | quiet (slot : Nat)
  | bar (slot n : Nat)
  | tile (slot n : Nat)
  /-- A release that waits for acknowledgements from other modules. -/
  | ack (slot : Nat)
  | other (slot : Nat)
deriving DecidableEq, Repr

def Hold.slot (h : Hold) : Nat :=
  match h with
  | .sem n _ _ => n
  | .dead n _ _ => n
  | .quiet n => n
  | .bar n _ => n
  | .tile n _ => n
  | .ack n => n
  | .other n => n

/-- Does the wait count stroke starts? -/
def Hold.timed : Hold → Bool
  | .sem .. => true
  | .bar .. => true
  | .tile .. => true
  | .ack _ => true
  | _ => false

/-- The clause of an engine word. -/
def clauseOf : Instr → Option EClause
  | .engineNop _ c => some c
  | .mcfg _ c => some c
  | .mldw _ _ c => some c
  | .mldwSp _ _ _ c => some c
  | .mrun _ _ c => some c
  | .mrunSpan _ _ c => some c
  | .mzero _ c => some c
  | .mrd _ _ _ _ c => some c
  | .mwait _ c => some c
  | .madd _ _ c => some c
  | .mscl _ c => some c
  | .scopy _ _ _ _ c => some c
  | .sfill _ _ _ _ c => some c
  | .ssend _ _ _ _ c => some c
  | .sfree _ _ _ c => some c
  | .swake _ _ _ c => some c
  | .sclose _ c => some c
  | .spost _ _ _ _ c => some c
  | .sget _ _ _ _ c => some c
  | _ => none

/-- The engine stream an E command joins. -/
def streamOf : Instr → Option (Fin 16)
  | .scopy _ _ _ q _ => some q
  | .sfill _ _ _ q _ => some q
  | .ssend _ _ _ q _ => some q
  | .sfree _ _ q _ => some q
  | .swake _ _ q _ => some q
  | .sclose q _ => some q
  | .spost _ _ _ q _ => some q
  | .sget _ _ _ q _ => some q
  | _ => none

/-- Does an X command enter the matrix queue? -/
def entersMx : Instr → Bool
  | .mcfg .. => true
  | .mldw .. => true
  | .mldwSp .. => true
  | .mrun .. => true
  | .mrunSpan .. => true
  | .mzero .. => true
  | .madd .. => true
  | _ => false

/-- A wait on a semaphore against the running count of the bundle (16 R310): what it does to the count, or what
holds it. `adj` is what earlier waits of the cycle have taken. -/
def State.semHold (s : State) (slot : Nat) (n : Fin 256) (thr : Nat) (dec : Bool) (adj : List (Fin 256 × Int)) :
    Option Hold × List (Fin 256 × Int) :=
  let count := s.me.semCount n - sumFor n adj
  if s.semNameBad n then (none, adj)
  else if count ≥ thr then (none, if dec then adj ++ [(n, (thr : Int))] else adj)
  else if s.deadWait n thr count then (some (.dead slot n.val count), adj)
  else if !s.curFw ∧ s.me.semLocal.getLsb n then (some (.quiet slot), adj)
  else (some (.sem slot n.val count), adj)

/-- Is an instruction an SC atomic? Those of one bundle take successive positions (12 R234). -/
def isSc : Instr → Bool
  | .atom _ _ _ _ _ sc => sc
  | .atomn _ _ _ _ sc => sc
  | .vatom _ _ _ _ _ sc => sc
  | .vatomn _ _ _ _ sc => sc
  | _ => false

/-- What holds an access in its slot: SC atomics of its context, fences, SBARs that name its stream, and a stream that
cannot advance (12 R229 to R235, 09 R186, R198). ARRAY, an access of no stream, waits for fences and SC atomics alone. -/
def State.orderHold (s : State) (slot : Nat) (i : Instr) : Bool :=
  let k := s.cur
  let q := if 6 ≤ slot ∧ slot ≤ 9 then slot - 6 else 0
  let streamless := match i with
    | .array .. => true
    | _ => false
  match accKind i with
  | .no => false
  | a =>
    (!isSc i && !s.scOut.isEmpty) || s.ctx.fences.any (fun f => !s.allMet k f.acc || (a == .write && !s.allMet k f.writes)) ||
      (!streamless && (s.me.sbars.any (fun b => b.mask.getLsbD q && !s.allMet k b.deps) || s.streamBusy k q))

/-- Does an access touch a busy tile of its own cluster (14 R288)? One to another cluster leaves without a stall (09
R186). -/
def State.tileHold (s : State) (i : Instr) : Bool :=
  (s.ctx.addrs i).any (fun va => match s.paOf s.cur va with
    | some pa => paCluster pa == s.cur && s.tileBusy pa
    | none => false)

/-- Tiles that an MRD reads: it waits for earlier accesses to their windows as queued commands do (14 R280). -/
def readsTile : Instr → Option Acc
  | .mrd acc .. => some acc
  | _ => none

/-- What holds one instruction in its slot, apart from a wait on a semaphore. -/
def State.placeHold (s : State) (slot : Nat) (i : Instr) : Option Hold :=
  let c := s.me
  let full : Option Hold := match i with
    | .barw n => if c.bar[n].ph = s.ctx.barArr.getLsb n then some (.bar slot n.val) else none
    | .bara _ sc n =>
      let b := c.bar[n]
      let ds := s.releaseDeps s.cur sc
      if b.count = 0 ∨ sc ≠ (if b.rg then .rg else .cl) ∨ (s.curFw ∧ sc = .rg) then none
      else if b.rp then some (.bar slot n.val)
      else if ds.isEmpty then none
      else if s.ackWait s.cur ds then some (.ack slot) else some (.other slot)
    | .mwait acc _ => if c.mx.busy acc then some (.tile slot acc.val) else none
    | .array .. => if c.block.isSome then some (.other slot) else none
    | _ =>
      if entersMx i ∧ c.mx.queue.length ≥ 8 then some (.other slot)
      else match streamOf i with
        | some q => if (c.stream q.val).length ≥ 4 then some (.other slot) else none
        | none => none
  match full with
  | some h => some h
  | none =>
    if s.orderHold slot i ∨ s.tileHold i ∨ (readsTile i).any (fun t => !(s.windowDeps [t]).isEmpty) then some (.other slot) else none

/-- What holds one instruction of a bundle. -/
def State.instrHold (s : State) (slot : Nat) (i : Instr) (adj : List (Fin 256 × Int)) :
    Option Hold × List (Fin 256 × Int) :=
  let byClause : Option Hold × List (Fin 256 × Int) := match clauseOf i with
    | some e => if e.wv then s.semHold slot e.wsem e.wthr.val false adj else (none, adj)
    | none => match i with
      | .semwait _ dec n thr => s.semHold slot n thr.val dec adj
      | _ => (none, adj)
  match byClause with
  | (some h, adj) => (some h, adj)
  | (none, adj) => (s.placeHold slot i, adj)

/-- What holds instructions that issue in one cycle, each with its context, in commit order (12 R226, 16 R310). -/
def State.allHolds (s : State) : List (Bool × Nat × Instr) → List (Fin 256 × Int) → List (Bool × Hold)
  | [], _ => []
  | (fw, n, i) :: r, adj =>
    let h := ({ s with curFw := fw } : State).instrHold n i adj
    (match h.1 with
      | some x => [(fw, x)]
      | none => []) ++ s.allHolds r h.2

/-- A fetched bundle's legal instructions from slot `e` on, up to the first word that faults in decoding or is poisoned (24
R399). -/
def legalSlots (e : Nat) (poisonAt : Option Nat) : List (Nat × Nat) → List (Nat × Instr)
  | [] => []
  | (n, w) :: r =>
    if n < e then legalSlots e poisonAt r
    else if poisonAt = some n then []
    else match decSlot n w with
      | .ok i => (n, i) :: legalSlots e poisonAt r
      | _ => []

/-- The instructions with which a bundle of context `fw` would issue. -/
def Bundle.instrs (b : Bundle) (fw : Bool) (entry : Nat) : List (Bool × Nat × Instr) :=
  (legalSlots entry b.poisonAt b.slots).map (fun x => (fw, x))

/-- What holds the instructions of the bundle of the context in focus, in commit order. -/
def State.bundleHolds (s : State) (b : Bundle) : List Hold := (s.allHolds (b.instrs s.curFw s.ctx.entry) []).map (·.2)

/-- Does a running block hold a bundle with these slots (01 R18, 12 R237)? A firmware bundle merged in the very cycle in which
ARRAY issues is not yet held (DESIGN CHOICE, log 63: R18 says "from the cycle ARRAY issues", R82 merges disjoint bundles). -/
def State.fabricHold (s : State) (k : Nat) (slots : List Nat) : Bool :=
  slots.any (fun n => decide (2 ≤ n) && decide (n < 10)) &&
    ((s.cluster k).block.isSome || s.net.any (fun m => m.src == k && m.by_ == .chain && !m.phase.performed))

/-! ### Contexts in a cycle (04 R78, Table 4.1) -/

/-- Does a context wait for an answer, a drain, or a CTXSAVE or CTXLOAD? -/
def Ctx.busy (c : Ctx) (s : State) (k : Nat) : Bool :=
  c.pend.any (fun p => !p.waits.isEmpty) || c.holds.any (fun h => !s.allMet k h.deps) || c.swap.isSome

/-- What a context could do in this cycle. -/
inductive Ready where
  /-- Nothing, and the cycle does not count. -/
  | stall
  /-- Nothing, but the cycle counts as an issue cycle (04 Table 4.1). -/
  | count
  /-- A header fault, an empty cycle, or a bundle with the slots from its entry on. -/
  | headerBad (code : Nat) (info : Word)
  | empty (n : BitVec 16)
  | late (b : Bundle)
  | issue (b : Bundle)
  /-- A wait that faults in its slot: the slots to its left commit (16 R316). -/
  | waitFault (b : Bundle) (code : Nat) (h : Hold)
  /-- A bundle that issues up to its WAITARR, before which a checkpoint is due (25 R412): no context stands so by itself. -/
  | cut (b : Bundle)
deriving DecidableEq, Repr

/-- Is CIS in the firmware window of a deterministic phase (04 R89)? -/
def State.inWindow (s : State) (k : Nat) : Bool :=
  let c := s.cluster k
  c.det && decide (s.cisOf (modOf k) ≥ 4096 - 64 * c.share.toNat)

/-- The state with context `fw` of cluster `k` in focus. -/
def State.focus (s : State) (k : Nat) (fw : Bool) : State := { s with cur := k, curFw := fw, stop := false, slot := 0, word := 0, slotWord := 0 }

/-- Has a wait outlasted WAITLIM (16 R315)? Of the waits of engine words the first that is unsatisfied stands for all (R316). -/
def Ctx.outlasted (c : Ctx) (lim : Nat) (h : Hold) : Bool :=
  let engine (n : Nat) : Bool := decide (10 ≤ n) && decide (n ≤ 12)
  h.timed && c.strokes.any (fun x => decide (x.2 > lim) && (x.1 == h.slot || (engine x.1 && engine h.slot)))

/-- The cause that a hold raises now, if any (16 R314, R315). -/
def Ctx.holdFault (c : Ctx) (lim : Nat) (h : Hold) : Option Nat :=
  match h with
  | .dead _ _ _ => some 0x40
  | _ => if c.outlasted lim h then some 0x41 else none

/-- Does a cycle only drain for a context: parked, before an XLD or XDROP, or being stopped for a pre-emption, with results in
flight that must land (04 R81, 15 R299, R300)? -/
def State.drains (s : State) (k : Nat) (fw : Bool) : Bool :=
  let c := s.ctxOf k fw
  if c.park ≠ .run then !c.pend.isEmpty
  else c.rest.isEmpty && (match c.post with
    | .xld .. :: _ => c.xopBusy
    | .xdrop .. :: _ => c.xopBusy
    | _ :: _ => false
    | [] => !fw && s.stopping k && c.atBoundary && !c.pend.isEmpty)

/-- The standing of context `fw` of cluster `k`. A bundle that a block holds (01 R18), and a context that waits for an answer
or a drain, are held before a divide can stall them (DESIGN CHOICE, log 63: Table 4.1 gives no precedence), so that cycle does
not count. A stamped bundle of the firmware context is held to its stamp as the program's is (DESIGN CHOICE, log 63: R87
speaks of the program context). A wait that has timed out faults though something to its left still waits (log 70). -/
def State.readiness (s : State) (k : Nat) (fw : Bool) : Ready :=
  let s := s.focus k fw
  let c := s.ctx
  match c.park with
  | .run =>
    if s.drains k fw then .count
    else if !c.rest.isEmpty then .stall
    else if !c.post.isEmpty then .stall
    else if !fw && s.stopping k && c.atBoundary then .stall
    else if c.busy s k then .stall
    else if c.runLeft > 0 then .empty 1
    else match s.me.fetch c.pc.toNat with
      | .absent _ => .stall
      | .bad code info => .headerBad code info
      | .folded n => .empty n
      | .bundle b =>
        if b.stampPoison then .headerBad 0x72 (BitVec.ofNat 32 c.pc.toNat)
        else if s.fabricHold k ((b.slots.filter (fun x => decide (c.entry ≤ x.1))).map (·.1)) then .stall
        else if c.divStall ((b.instrs fw c.entry).map (·.2.2)) then .count
        else
          let hs := s.bundleHolds b
          match hs.findSome? (fun h => (c.holdFault s.me.waitlim.toNat h).map (fun x => (x, h))) with
          | some (code, h) => .waitFault b code h
          | none =>
            if !hs.isEmpty then .stall
            else match (if c.unstamped then none else b.stamp) with
              | none => .issue b
              | some st =>
                let g := s.gtsOf (modOf k)
                let t := stampTime s.me st
                if g < t then .count else if g = t then .issue b else .late b
  | _ => if s.drains k fw then .count else .stall

/-- What holds the next bundle of context `fw` of cluster `k` in the present state, or the slot of the one under way that has
still to issue. -/
def State.holdsNow (s : State) (k : Nat) (fw : Bool) : List Hold :=
  let s := s.focus k fw
  let c := s.ctx
  if c.park ≠ .run then []
  else match c.rest with
    | (n, w, _) :: _ => (match decSlot n w with
        | .ok i => (s.instrHold n i []).1.toList
        | _ => [])
    | [] =>
      if !c.post.isEmpty ∨ c.busy s k ∨ c.runLeft > 0 then []
      else match s.me.fetch c.pc.toNat with
        | .bundle b =>
          if s.fabricHold k ((b.slots.filter (fun x => decide (c.entry ≤ x.1))).map (·.1)) then [] else s.bundleHolds b
        | _ => []

/-- The counts of the waits of the next bundle, each changed by `f`; that of a satisfied one is at zero again (16 R315).
While slots of a bundle still wait, those after the first keep theirs. Keys from 16 on are of what follows a bundle. -/
def State.waitCounts (s : State) (k : Nat) (fw : Bool) (f : Nat → Nat) : State :=
  let c := s.ctxOf k fw
  let hs := s.holdsNow k fw
  let waits : KMap Nat := (hs.filter Hold.timed).map (fun h => (h.slot, f (kget 0 c.strokes h.slot)))
  let other (n : Nat) : Bool := match c.rest with
    | (m, _, _) :: _ => n != m
    | [] => false
  let kept := c.strokes.filter (fun x => decide (16 ≤ x.1) || other x.1)
  s.setCtxOf k fw { c with strokes := waits.filter (fun x => x.2 != 0) ++ kept }

/-- A stroke start passes for a context (16 R315): one more for every wait of its next bundle that stays unsatisfied. -/
def State.strokeCtx (s : State) (k : Nat) (fw : Bool) : State := s.waitCounts k fw (· + 1)

/-- A cycle passes for a context: the counts of its waits that are satisfied in it are at zero again. -/
def State.settleWaits (s : State) (k : Nat) (fw : Bool) : State :=
  if (s.ctxOf k fw).strokes.any (fun x => decide (x.1 < 16)) then s.waitCounts k fw id else s

/-- CAUSE.INFO of WAIT_TIMEOUT and DEADWAIT (16 Table 16.5, 19 R354). -/
def Hold.info (h : Hold) : Word :=
  match h with
  | .sem _ n c => BitVec.ofNat 32 (wrapNat 16 c * 2 ^ 16 + 1 * 2 ^ 12 + n)
  | .dead _ n c => BitVec.ofNat 32 (wrapNat 16 c * 2 ^ 16 + 1 * 2 ^ 12 + n)
  | .bar _ n => BitVec.ofNat 32 (2 * 2 ^ 12 + n)
  | .tile _ n => BitVec.ofNat 32 (3 * 2 ^ 12 + n)
  | .ack _ => 0x4000
  | .quiet _ => 0
  | .other _ => 0

/-- A wait that faults raises its cause in its own slot, the one being committed (16 R316). -/
def State.raiseWait (s : State) (code : Nat) (h : Hold) : State :=
  { s with slot := h.slot }.raise code h.info

/-- WAIT_TIMEOUT (16 R315, 13 R257): a block whose TRECV has waited longer than WAITLIM; or a wait of a context of cluster
`k` that has, the slots to its left already committed: the one in focus, or else either. -/
def execWaitTimeout (k : Nat) (s : State) : Out :=
  .next (
    let one (s : State) (fw : Bool) : State :=
      match (s.holdsNow k fw).find? ((s.ctxOf k fw).outlasted (s.cluster k).waitlim.toNat) with
      | some h => { s with cur := k, curFw := fw }.raiseWait 0x41 h
      | none => s
    if s.blockLate k then s.blockTimeout k
    else if s.cur = k then one s s.curFw else one (one s false) true)

end Sys2Proof.Machine
end

