-- ==== Sys2Proof/Machine/Link.lean ====
section
/-! DEFINITION. Links, messages between clusters and modules, strokes and alignment (chapter 19; 09 R186, R225; 18
R326, R328; 26 R421, R423). Messages are in the networks of their source's module until they are at their
destination's; a message between modules moves link by link under the budgets. -/

namespace Sys2Proof.Machine

/-! ### Messages -/

/-- Message `id` of the networks. -/
def State.msg (s : State) (id : Nat) : Option Msg := s.net.find? (fun m => m.id == id)
/-- Changing a message. -/
def State.updMsg (s : State) (id : Nat) (f : Msg → Msg) : State :=
  { s with net := s.net.map (fun m => if m.id = id then f m else m) }
/-- A message is over. -/
def State.dropMsg (s : State) (id : Nat) : State := { s with net := s.net.filter (fun m => m.id != id) }

/-- The context a message belongs to: its command's for an engine, the program context's for a block. -/
def State.msgFw (s : State) (m : Msg) : Bool :=
  match m.by_ with
  | .slot fw _ => fw
  | .engine q c => ((s.cluster m.src).stream q).any (fun x => x.id == c && x.fw)
  | .chain => false

/-- The module a message is bound for: its destination's, and for an answer its source's. -/
def Msg.goal (m : Msg) : Nat := if m.phase.performed then modOf m.src else modOf m.dst

/-- May a message be performed: it has left its stream and is there, and what precedes it in its stream has been performed
(12 R228, R229)? -/
def State.msgReady (s : State) (m : Msg) : Bool :=
  m.phase == .out && m.loc == modOf m.dst && m.after.all s.performed

/-- Does the target's access table permit it (26 R422)? -/
def State.msgAllowed (s : State) (m : Msg) (pa : Nat) (write : Bool) : Bool :=
  s.accOk (s.masterOf m.src (s.msgFw m) (modOf m.dst)) pa write

/-- A message has been performed; its answer sets out. A part of it that was denied before marks the answer too. -/
def State.answer (s : State) (id : Nat) (bytes : List (Byte × Bool)) (deny : Bool) : State :=
  s.updMsg id (fun m => { m with phase := .back bytes, hop := 0, via := none, left := 0, came := none, deny := m.deny || deny })

/-- Virtual address of physical byte `pa` in the current table of cluster `k`. -/
def State.vaOf (s : State) (k pa : Nat) : Option Nat :=
  let cl := s.cluster k
  (cl.table.find? (fun e => e.v && (e.kind == .local || e.kind == .remote) && decide (e.physical k cl e.vbase ≤ pa) &&
    decide (pa < e.physical k cl e.vbase + e.len))).map (fun e => e.vbase + (pa - e.physical k cl e.vbase))

/-- An access of a vector message that a table denies performs nothing: the message is marked with its address. -/
def State.denyPart (s : State) (m : Msg) (pa : Nat) : State :=
  s.updMsg m.id (fun x => if x.deny then x else { x with deny := true, va := (s.vaOf m.src pa).getD m.va })

/-- What a vector message has still to do changes; with nothing left it has been performed, and the bytes it brings back
set out. -/
def State.goOn (s : State) (id : Nat) (kind : MsgKind) (done : Bool) (got : List (Nat × List (Byte × Bool))) : State :=
  let s := s.updMsg id (fun x => { x with kind := kind })
  if done then s.answer id (got.flatMap (·.2)) false else s

/-- One lane of an atomic of message `m` at its bank, where its access table permits it (26 R422). With `note` the bytes it
writes enter the window of its stream now, if the operation is performed (11 R219). The old value and its mark. -/
def State.laneAtom (s : State) (m : Msg) (note : Bool) (pa : Nat) (o : Aop) (ty : ElemTy) (x y : Nat) : State × Nat × Bool :=
  if s.msgAllowed m pa true then
    let q := s.performAtom pa o ty x y
    (if note && !q.2.2 then q.1.notePerf m pa (ebytes ty) else q.1, q.2)
  else (s.denyPart m pa, 0, false)

/-- One lane of a vector atomic is performed at its bank (09 R194). -/
def State.atomPart (s : State) (m : Msg) (o : Aop) (ty : ElemTy) (ret : Bool) (got : List (Nat × List (Byte × Bool))) :
    List (Nat × Nat × Nat × Nat) → State
  | [] => s.goOn m.id (.vatom o ty ret [] got) true got
  | (lane, pa, x, y) :: r =>
    if s.tileBusy pa then s
    else
      let q := s.laneAtom m ret pa o ty x y
      let got := if ret then got ++ [(lane, marked (ebytes ty) q.2.1 q.2.2)] else got
      q.1.goOn m.id (.vatom o ty ret r got) r.isEmpty got

/-- A posted write is performed at its bank and acknowledged (19 R354, 12 R225); a vector's is performed 64-byte unit by unit,
which a read of a whole unit sees wholly or not at all (14 R289), its words in order (09 R191). A denied one performs nothing and is acknowledged with a mark (26 R423). -/
def execRemoteWritePerform (id : Nat) (s : State) : Out :=
  .next (
    match s.msg id with
    | none => s
    | some m =>
      if !s.msgReady m then s
      else match m.kind with
        | .write pa bs =>
          if s.tileBusy pa then s
          else if s.msgAllowed m pa true then
            (s.performWrite (s.masterOf m.src (s.msgFw m) (modOf m.dst)) (m.src == m.dst && !s.msgFw m) pa bs).answer id [] false
          else s.answer id [] true
        | .vwrite [] => s.answer id [] false
        | .vwrite (part :: rest) =>
          let pa := (part.head?.map (·.1)).getD 0
          if s.tileBusy pa then s
          else
            let near (p : List (Nat × Byte × Bool)) : Bool := (p.head?.map (fun x => x.1 / 64)) == some (pa / 64)
            let now := part :: rest.filter near
            let later := rest.filter (fun p => !near p)
            let s := now.foldl (fun s p =>
              let pa := (p.head?.map (·.1)).getD 0
              if s.msgAllowed m pa true then
                s.performCells (s.masterOf m.src (s.msgFw m) (modOf m.dst)) (m.src == m.dst && !s.msgFw m) p
              else s.denyPart m pa) s
            s.goOn id (.vwrite later) later.isEmpty []
        | .atom pa o ty x y false =>
          if s.msgAllowed m pa true then (s.performAtom pa o ty x y).1.answer id [] false else s.answer id [] true
        | .vatom o ty false todo got => s.atomPart m o ty false got todo
        | .ckpt _ => s.answer id [] false
        | _ => s)

/-- A denied access of a cluster (26 R423): ADDR_PERM, asynchronously; an engine command ends by it, a block aborts. -/
def State.denyFault (s : State) (m : Msg) : State :=
  match m.by_ with
  | .slot fw _ => s.asyncFault m.src fw 0x22 (BitVec.ofNat 32 m.va) m.va
  | .engine q c =>
    (match ((s.cluster m.src).stream q).find? (fun x => x.id == c) with
      | some x => s.cmdFault m.src q x 0x22 m.va
      | none => s)
  | .chain => s.abortBlock m.src 0x22 (BitVec.ofNat 32 m.va) m.va

/-- An acknowledgement reaches the issuing cluster (19 R354). -/
def execAckArrive (id : Nat) (s : State) : Out :=
  .next (
    match s.msg id with
    | none => s
    | some m =>
      if !m.phase.performed ∨ isReadKind m.kind ∨ m.loc ≠ modOf m.src then s
      else
        let s1 := s.dropMsg id
        let s2 := match m.by_ with
          | .engine q c => s1.updCmd m.src q c (fun x => { x with outs := x.outs.filter (fun i => i != id) })
          | _ => s1
        if m.deny then s2.denyFault m else s2)

/-- A read, a returning atomic or a SIGADD is performed at its target and answered (09 R186, 22 R380); a vector's is
performed access by access (09 R191, R194). -/
def execRemoteReadServe (id : Nat) (s : State) : Out :=
  .next (
    match s.msg id with
    | none => s
    | some m =>
      if !s.msgReady m then s
      else match m.kind with
        | .read pa n =>
          if s.tileBusy pa then s
          else if s.msgAllowed m pa false then s.answer id (s.performRead pa n) false
          else s.answer id (marked n 0 false) true
        | .vread n [] got => s.goOn id (.vread n [] got) true got
        | .vread n (part :: rest) got =>
          let pa := (part.head?.map (·.2)).getD 0
          if s.tileBusy pa then s
          else
            let ok := s.msgAllowed m pa false
            let got := got ++ part.map (fun x => (x.1, if ok then s.performRead x.2 n else marked n 0 false))
            (if ok then s else s.denyPart m pa).goOn id (.vread n rest got) rest.isEmpty got
        | .vatom o ty true todo got => s.atomPart m o ty true got todo
        | .atom pa o ty x y true =>
          if s.msgAllowed m pa true then
            let r := s.performAtom pa o ty x y
            r.1.answer id (marked (ebytes ty) r.2.1 r.2.2) false
          else s.answer id (marked (ebytes ty) 0 false) true
        | .sigadd pa x =>
          if s.msgAllowed m pa true then
            let r := s.signalAdd pa x
            (if r.2.2 then r.1 else r.1.notePerf m pa 8).answer id (marked 8 r.2.1.toNat r.2.2) false
          else s.answer id (marked 8 0 false) true
        | _ => s)

/-- An SC atomic at its bank, 64 cycles after its position (12 R234): its lanes in order; a returning form's old values set out
for the cluster. Firmware contexts are masters of the access tables here too (26 R422). -/
def execScAtomicPerform (id : Nat) (s : State) : Out :=
  .next (
    match s.msg id with
    | none => s
    | some m =>
      match m.kind, m.grant with
      | .scAtom lanes o ty ret, some g =>
        if s.gtsOf (modOf m.src) < g + 64 ∨ m.phase.performed then s
        else
          let r := lanes.foldl (fun (r : State × List (Byte × Bool)) l =>
            let q := r.1.laneAtom m true l.1 o ty l.2.1 l.2.2
            (q.1, r.2 ++ marked 4 q.2.1 q.2.2)) (s, [])
          if ret then r.1.updMsg id (fun x => { x with phase := .back r.2 })
          else
            match r.1.msg id with
            | some x => if x.deny then (r.1.dropMsg id).denyFault x else r.1.dropMsg id
            | none => r.1
      | _, _ => s)

/-- A value that comes back into a result in flight, at a lane: extended or written as its load is (09 R189, R192). -/
def fillDest (d : Dest) (ty : ElemTy) (mty : Option MemTy) (lane v : Nat) (poison : Bool) : Dest :=
  match d with
  | .sreg r _ => .sreg r ⟨(match mty with
      | some t => mextend t v
      | none => atomExt ty v), poison⟩
  | .vreg r m x => .vreg r m (Vector.ofFn (fun i => if i.val = lane then ⟨wrElem ty v, poison⟩ else x[i]))
  | _ => d

/-- The bytes of a response that a lane of a result waits for: an SC atomic answers its lanes in order, a vector message
by lane. -/
def laneBytes (kind : MsgKind) (bytes : List (Byte × Bool)) (lane : Nat) : List (Byte × Bool) :=
  let of_ (got : List (Nat × List (Byte × Bool))) : List (Byte × Bool) := ((got.find? (fun x => x.1 == lane)).map (·.2)).getD []
  match kind with
  | .scAtom .. => (bytes.drop (4 * lane)).take 4
  | .vread _ _ got => of_ got
  | .vatom _ _ _ _ got => of_ got
  | _ => bytes

/-- A result in flight takes what message `id` brought. -/
def Pend.fill (p : Pend) (id : Nat) (kind : MsgKind) (bytes : List (Byte × Bool)) : Pend :=
  (p.waits.filter (fun w => w.1 == id)).foldl (fun p w =>
    let b := laneBytes kind bytes w.2
    { p with dest := fillDest p.dest p.ty p.mty w.2 (ofBytes (b.map (·.1))) (b.any (·.2)), waits := p.waits.erase w }) p

/-- A post takes the bytes it waits for; a QPOST or MSCL whose read was denied is over. -/
def Post.fill (id : Nat) (bytes : List (Byte × Bool)) (deny : Bool) (p : Post) : Option Post :=
  match p with
  | .qpost d n (some i) _ a sl => if i ≠ id then some p else if deny then none else some (.qpost d n none bytes a sl)
  | .mscl va c (some i) _ => if i ≠ id then some p else if deny then none else some (.mscl va c none bytes)
  | _ => some p

/-- What a context's registers and posts take from an answer. The register of a denied QPOST is not written. -/
def Ctx.fill (c : Ctx) (id : Nat) (kind : MsgKind) (bytes : List (Byte × Bool)) (deny : Bool) : Ctx :=
  let c1 : Ctx := { c with pend := c.pend.map (fun p => p.fill id kind bytes), post := c.post.filterMap (Post.fill id bytes deny) }
  let owed := c.post.findSome? (fun p => match p with
    | .qpost d _ (some i) _ _ _ => if i = id then some d else none
    | _ => none)
  match owed with
  | some d => if deny then c1.forgo d else c1
  | none => c1

/-- A response reaches its requester, perhaps poisoned (19 R358). The bytes of an engine's read are moved on a unit a
cycle (01 R434). -/
def execReadResponseArrive (id : Nat) (s : State) : Out :=
  .next (
    match s.msg id with
    | none => s
    | some m =>
      match m.phase with
      | .back bytes =>
        if !isReadKind m.kind ∨ m.loc ≠ modOf m.src then s
        else
          let s1 := s.dropMsg id
          let s2 := match m.by_ with
            | .slot fw _ => s1.setCtxOf m.src fw ((s1.ctxOf m.src fw).fill id m.kind bytes m.deny)
            | .engine q c => if m.deny then s1 else s1.updCmd m.src q c (fun x => { x with reading := none, got := bytes })
            | .chain =>
              (match ((s1.cluster m.src).block.map (·.outs)).getD [] |>.find? (fun o => o.1 == id) with
                | some (_, n, iter) =>
                  let t := nodeTy n.t
                  let s3 := s1.updCluster m.src (fun c => { c with block := c.block.map (fun b =>
                    { b with outs := b.outs.filter (fun o => o.1 != id) }) })
                  s3.chainResult m.src n iter (s.cyc m.src) (wrElem t (ofBytes (bytes.map (·.1)))) (bytes.any (·.2))
                | none => s1)
          if m.deny then s2.denyFault m else s2
      | _ => s)

/-- A stream packet is written to its slot or discarded, and acknowledged (18 R328, Table 19.1). -/
def execPacketArrive (id : Nat) (s : State) : Out :=
  .next (
    match s.msg id with
    | none => s
    | some m =>
      match m.kind with
      | .packet ich seq bytes poison =>
        if s.msgReady m then (s.arrive m.dst ich seq bytes poison).answer id [] false else s
      | _ => s)

/-- A free return reaches the sender and is consumed (18 R326). -/
def execFreeReturnArrive (id : Nat) (s : State) : Out :=
  .next (
    match s.msg id with
    | none => s
    | some m =>
      match m.kind with
      | .freeRet och seq => if s.msgReady m then (s.freeReturn m.dst och seq).dropMsg id else s
      | _ => s)

/-! ### Between modules (R346 to R351, R354, R358) -/

/-- The virtual channel of a message where it stands (Table 19.1). -/
def Msg.vc (m : Msg) : Nat :=
  if m.phase.performed then (if isReadKind m.kind then 0 else 3)
  else match m.kind with
    | .freeRet .. => 1
    | .report .. => 2
    | .flood .. => 4
    | k => if isReadKind k then 1 else 0

/-- Flits of a packet of `n` data bytes (R347). -/
def dataFlits (n : Nat) : Nat := if n = 0 then 1 else (16 + n + 63) / 64

/-- Its flits (R347): a request, a free return and an acknowledgement take one each. -/
def Msg.flits (m : Msg) : Nat :=
  let atomBytes (o : Aop) (ty : ElemTy) : Nat := (if o = .cas then 2 else 1) * ebytes ty
  let data : Nat := match m.phase with
    | .back b => b.length
    | _ => match m.kind with
      | .write _ b => b.length
      | .vwrite parts => parts.flatten.length
      | .packet _ _ b _ => b.length
      | .ckpt n => n
      | .flood _ b => b.length
      | .atom _ o ty _ _ false => atomBytes o ty
      | .vatom o ty false todo _ => todo.length * atomBytes o ty
      | _ => 0
  dataFlits data

/-- The flits of the answer that a request asks for. -/
def Msg.answerFlits (m : Msg) : Nat :=
  dataFlits (match m.kind with
    | .read _ n => n
    | .vread n parts got => n * (parts.flatten.length + got.length)
    | .vatom _ ty _ todo got => ebytes ty * (todo.length + got.length)
    | .atom _ _ ty _ _ _ => ebytes ty
    | _ => 8)

/-- Does it follow a fixed route (R349), that of a channel, or a spanning order? -/
def Msg.fixed (m : Msg) : Bool :=
  !m.phase.performed && (match m.kind with
    | .packet .. => true
    | .freeRet .. => true
    | .flood .. => true
    | _ => false)

/-- A posted write to another module (R354): stream packets, which Table 19.1 sets apart, are none. -/
def Msg.posted (m : Msg) : Bool :=
  isWriteKind m.kind && !isReadKind m.kind && modOf m.dst != modOf m.src && (match m.kind with
    | .packet .. => false
    | _ => true)

/-- Has the first flit of it left the module it is at? -/
def Msg.begun (m : Msg) : Bool := m.via.isSome && decide (m.left < m.flits)

/-- A posted write to another module that has departed and is not acknowledged (R354). -/
def Msg.departed (m : Msg) : Bool := m.posted && (m.loc != modOf m.src || m.begun || m.phase.performed)

/-- Posted writes of a cluster outstanding to other modules. -/
def State.postedOut (s : State) (k : Nat) : Nat := (s.net.filter (fun m => m.src == k && m.departed)).length

/-- Budget and count of a virtual channel on a link. -/
def Link.budOf (l : Link) (v : Nat) : Nat := nth l.bud v 0
def Link.useOf (l : Link) (v : Nat) : Nat := nth l.use v 0

/-- May one more flit of a virtual channel take link `l` of module `m` in this stroke (R351)? -/
def State.roomOn (s : State) (m l v : Nat) : Bool :=
  (s.link m l).up && decide ((s.link m l).useOf v < (s.link m l).budOf v)

/-- A request that is discarded is answered poisoned, with its length (R358). -/
def State.answerDead (s : State) (m : Msg) : State :=
  let fill (got : List (Nat × List (Byte × Bool))) (n : Nat) (lanes : List Nat) : List (Nat × List (Byte × Bool)) :=
    got.map (fun x => (x.1, marked n 0 true)) ++ lanes.map (fun i => (i, marked n 0 true))
  match m.kind with
  | .read _ n => s.answer m.id (marked n 0 true) false
  | .vread n parts got => let g := fill got n (parts.flatten.map (·.1)); s.goOn m.id (.vread n [] g) true g
  | .vatom o ty true todo got => let g := fill got (ebytes ty) (todo.map (·.1)); s.goOn m.id (.vatom o ty true [] g) true g
  | .atom _ _ ty _ _ _ => s.answer m.id (marked (ebytes ty) 0 true) false
  | _ => s.answer m.id (marked 8 0 true) false

/-- A packet that is discarded because its destination has been declared failed (R358): a request is answered poisoned, one
that still waits in its stream too; an answer is lost; a posted write is never performed nor acknowledged. -/
def State.discard (s : State) (m : Msg) : State :=
  if m.phase.performed then s.dropMsg m.id
  else if isReadKind m.kind then s.answerDead m
  else if m.kind.isService && !m.kind.isCopy then s.dropMsg m.id
  else s.updMsg m.id (fun m => { m with phase := .dead, via := none, left := 0 })

/-- Flits of a virtual channel and hop class in the buffers at the far end of link `l` of module `m` (R346, R348): of the
packets that came by it and have not gone on, and of the one that crosses. -/
def State.occupied (s : State) (m l v h : Nat) : Nat :=
  ((s.net.filter (fun x => x.vc == v && x.came == some (96 * m + l) && x.hop == h + 1)).map
      (fun x => if x.via.isSome then x.left else x.flits)).sum +
    ((s.net.filter (fun x => x.vc == v && x.loc == m && x.via == some l && x.hop == h)).map (fun x => x.flits - x.left)).sum

/-- The flits that such a buffer still takes. It holds at least the longest packet (DESIGN CHOICE, log 26). -/
def State.bufferFree (s : State) (m l v h : Nat) : Nat := 65 + Config.buffer (96 * m + l) v h - s.occupied m l v h

/-- The link of the mask that an adaptive packet takes (R348): up, with a budget, and with the most free buffer space; ties
go to the lowest number. -/
def State.chooseLink (s : State) (m : Msg) : Option Nat :=
  let ls := (s.upTo m.loc m.goal).filter (fun l => (s.link m.loc l).budOf m.vc != 0)
  (ls.foldl (fun (b : Option (Nat × Nat)) l =>
    let n := s.bufferFree m.loc l m.vc m.hop
    match b with
    | none => some (l, n)
    | some x => if n > x.2 then some (l, n) else some x) none).map (·.1)

/-- The link that a packet is on or takes next. -/
def State.nextLink (s : State) (m : Msg) : Option Nat :=
  if m.fixed then m.route.head?.bind (fun x => if x / 96 = m.loc ∧ (s.link m.loc (x % 96)).up then some (x % 96) else none)
  else match m.via with
    | some l => some l
    | none => s.chooseLink m

/-- Does a packet of the same virtual channel that has begun stand on the link (R347)? -/
def State.linkTaken (s : State) (m : Msg) (l : Nat) : Bool :=
  s.net.any (fun x => x.id != m.id && x.loc == m.loc && x.via == some l && x.vc == m.vc && x.begun)

/-- Has its destination been declared failed, with no up link towards it (R358)? What its stream still holds counts where it
asks for an answer. -/
def State.cutDead (s : State) (m : Msg) : Bool :=
  !m.fixed && m.phase != .dead && (m.phase != .held || (isReadKind m.kind && !isScKind m.kind)) && (s.module m.loc).failed.contains m.goal && (s.upTo m.loc m.goal).isEmpty

/-- Requests of other modules that module `d` has accepted from a link, or is accepting, and `p` picks (R346). -/
def State.accepted (s : State) (d : Nat) (p : Msg → Bool) : List Msg :=
  s.net.filter (fun x => p x && x.phase != .dead && modOf x.dst == d && modOf x.src != d && (x.loc == d ||
    (x.begun && (x.via.bind (s.partner x.loc)).map (· / 96) == some d)))

/-- Does a module take a request from a link (R346)? One that will be acknowledged while a VC3 entry is free for that, one
that asks for an answer while there is space for the whole of it; both are reserved on acceptance. What they number is a
DESIGN CHOICE (log 26). -/
def State.accepts (s : State) (m : Msg) (d : Nat) : Bool :=
  let acked (x : Msg) : Bool := isWriteKind x.kind && !isReadKind x.kind
  m.begun || m.phase.performed || d != m.goal ||
    (if acked m then decide ((s.accepted d acked).length < 1 + Config.buffer d 5 0)
    else if isReadKind m.kind then
      decide (((s.accepted d (fun x => isReadKind x.kind)).map Msg.answerFlits).sum + m.answerFlits ≤ 65 + Config.buffer d 6 0)
    else true)

/-- Could a message on its way take a step by itself? A posted write departs only below the limit of 256 (R354). -/
def State.canCross (s : State) (m : Msg) : Bool :=
  m.loc != m.goal && (s.cutDead m ||
    (m.phase != .held && m.phase != .dead && (m.begun || !m.posted || m.phase.performed || m.loc != modOf m.src || decide (s.postedOut m.src < 256)) &&
      (match s.nextLink m with
        | some l => s.roomOn m.loc l m.vc && !s.linkTaken m l && decide (0 < s.bufferFree m.loc l m.vc m.hop) &&
          ((s.partner m.loc l).map (fun p => s.accepts m (p / 96))).getD false
        | none => false)))

/-- May it take a step? On a module's networks forwarded flits go before those of the same virtual channel that are
injected there (R350). -/
def State.canForward (s : State) (m : Msg) : Bool :=
  s.canCross m && (decide (0 < m.hop) || !s.net.any (fun x => x.loc == m.loc && decide (0 < x.hop) && x.vc == m.vc && s.canCross x))

/-- A message goes on over link `l` of the module it is at: as many flits as the budget and the buffer leave; with the last
one it is at the partner. -/
def State.cross (s : State) (m : Msg) (l : Nat) : State :=
  let k := s.link m.loc l
  let v := m.vc
  let left := if m.via.isSome then m.left else m.flits
  let n := min (min left (k.budOf v - k.useOf v)) (s.bufferFree m.loc l v m.hop)
  let s := s.updLink m.loc l (fun k => { k with use := k.use.set v (k.useOf v + n) })
  if n < left then s.updMsg m.id (fun m => { m with via := some l, left := left - n })
  else match s.partner m.loc l with
    | some p => s.updMsg m.id (fun x => { x with
        loc := p / 96, hop := x.hop + 1, via := none, left := 0, route := x.route.drop 1, came := some (96 * m.loc + l) })
    | none => s

/-- A module sends a message on its way: the link is chosen once per module (R348, R349). One whose destination has been
declared failed is discarded (R358). -/
def execPacketForward (id : Nat) (s : State) : Out :=
  .next (
    match s.msg id with
    | none => s
    | some m =>
      if !s.canForward m then s
      else if s.cutDead m then s.discard m
      else match s.nextLink m with
        | some l => s.cross m l
        | none => s)

/-! ### Links (R342, R345, R357) -/

/-- The module that the supervising firmware runs on: the root (log 66). -/
def State.supervisor (s : State) : Option Nat := (s.md.find? (fun x => x.2.root)).map (·.1)

/-- Module m reports a link to the supervising firmware: at once on its own module, else on VC2. -/
def State.reportLink (s : State) (m l : Nat) : State :=
  match s.supervisor with
  | some r => if r = m then { s with outputs := s.outputs ++ [.linkReport m l] }
    else s.sendAs (.slot true 16) (4096 * m) (4096 * r) 0 (.report m l) .out [] [] false
  | none => { s with outputs := s.outputs ++ [.linkReport m l] }

/-- A report reaches the supervising firmware, which waits for nothing to take it (R346). -/
def State.reportArrive (s : State) (id : Nat) : State :=
  match s.msg id with
  | some m => (match m.kind with
      | .report x l => { s.dropMsg id with outputs := s.outputs ++ [.linkReport x l] }
      | _ => s)
  | none => s

/-- A link goes down (R357): UP is cleared, and with it the link is in no effective route mask; adaptive packets on it go
another way; a channel's fixed route that takes it is broken (R349); the module reports it to the supervising firmware, and the
black box records it. -/
def State.linkDown (s : State) (m l : Nat) : State :=
  if !(s.link m l).up then s
  else
    let s := s.updLink m l (fun k => { k with up := false })
    let x := 96 * m + l
    let s : State := { s with
      cl := s.cl.map (fun c => (c.1, { c.2 with och := c.2.och.map (fun o => (o.1, { o.2 with route := o.2.route.map (breakLink x) })) }))
      net := s.net.map (fun y => if y.fixed then (if y.vc = 4 then y else { y with route := y.route.map (breakLink x) })
        else if y.loc = m ∧ y.via = some l then { y with via := none, left := 0 } else y) }
    (s.reportLink m l).blackbox (4 * m + l / 24) 0x04 0 (BitVec.ofNat 64 l) (BitVec.ofNat 64 (lnkstat (s.link m l)))

def execLinkDown (m link : Nat) (s : State) : Out := .next (if link < 96 then s.linkDown m link else s)

/-- Has a boot that succeeded, or a join, numbered module `x`? -/
def State.booted (s : State) (x : Nat) : Bool :=
  ((s.module x).root && !(s.module x).image.isEmpty) || !(s.module x).routes.isEmpty

/-- A trained link whose two modules boot has numbered exchanges its numbers with its partner (R342). -/
def State.exchange (s : State) (m l : Nat) : State :=
  match s.partner m l with
  | none => s
  | some p =>
    if (s.link m l).up ∧ s.booted m ∧ s.booted (p / 96) then s.updLink m l (fun k => { k with partner := p / 96, plink := p % 96 })
    else s

/-- Every link of module `m`, and the other end of each, does. -/
def State.exchangeAll (s : State) (m : Nat) : State :=
  (s.wires.filter (fun w => w.1 / 96 == m || w.2 / 96 == m)).foldl (fun s w => s.exchange (w.1 / 96) (w.1 % 96)) s

/-- A link trains: both ends come up, with their measured delay; numbers are exchanged once boot has given them (R342). -/
def execLinkTrain (m link : Nat) (s : State) : Out :=
  .next (
    match s.partner m link with
    | none => s
    | some p =>
      let one (s : State) (a la : Nat) : State := s.updLink a la (fun k => { k with
        up := true, delay := (Config.delay (96 * a + la)).val, miss := 0, tries := 0, heard := true })
      if (s.link m link).up ∨ (s.module m).power ≠ .on ∨ (s.module (p / 96)).power ≠ .on then s
      else ((one (one s m link) (p / 96) (p % 96)).exchange m link).exchange (p / 96) (p % 96))

/-- A frame arrives (R345): a good one ends the replays of its flits; a bad one is counted and replayed, and a ninth
replay of the same flit takes the link down. -/
def execFrameReceive (m link : Nat) (good : Bool) (s : State) : Out :=
  .next (
    let k := s.link m link
    if !k.up then s
    else if good then s.updLink m link (fun k => { k with tries := 0 })
    else
      let s := s.updLink m link (fun k => { k with crcerr := min 0xFFFF (k.crcerr + 1), tries := k.tries + 1 })
      let s := match s.partner m link with
        | some p => s.updLink (p / 96) (p % 96) (fun k => { k with replays := min 0xFFFF (k.replays + 1) })
        | none => s
      if k.tries + 1 > 8 then s.linkDown m link else s)

/-! ### Strokes (04 R85, 19 R351 to R356) -/

/-- WAIT_TIMEOUT of an operation that waits for acknowledgements (R354): SLOTRES names its slot; the context re-enters
where it stands. -/
def State.ackTimeout (s : State) (k : Nat) (fw : Bool) (slot : Nat) : State :=
  let c := s.ctxOf k fw
  let f : FaultRec := ⟨0x41, 0x4000, 0, BitVec.ofNat 4 slot, false, false, c.pc, 0, s.strokeOf (modOf k), false⟩
  s.setCtxOf k fw { c.takeFault f with entry := c.entry, target := c.target }

/-- The first element that `p` picks, and the list with it changed. -/
def takeFirst {α : Type} (p : α → Bool) (f : α → α) : List α → Option α × List α
  | [] => (none, [])
  | x :: r => if p x then (some x, f x :: r) else ((takeFirst p f r).1, x :: (takeFirst p f r).2)

/-- What follows the bundle of context `fw` and waits for acknowledgements: its slot. A QPOST waits where it would write
its packet; CTXSAVE where its area is written (22 R379, 24 R392, 25 R406). -/
def State.ackPost (s : State) (k : Nat) (fw : Bool) : Option Nat :=
  let c := s.ctxOf k fw
  let after : Option (Nat × List Dep) := match c.post with
    | .qpost _ n none _ ds slot :: _ => if (s.qpostRefusal (modOf k) n).isNone then some (slot, ds) else none
    | .repair _ _ ds slot :: _ => some (slot, ds)
    | _ => match c.swap with
      | some ⟨_, _, slot, some ds⟩ => some (slot, ds)
      | _ => none
  after.bind (fun x => if s.ackWait k x.2 then some x.1 else none)

/-- Is the message a release: a STREL or a SIGADD (12 R229, 22 R380)? -/
def Msg.isRelease (m : Msg) : Bool := m.strel || (match m.kind with
  | .sigadd .. => true
  | _ => false)

/-- A held release of context `fw` of cluster `k` that waits for acknowledgements. -/
def State.ackHeld (s : State) (k : Nat) (fw : Bool) (m : Msg) : Bool :=
  m.src == k && m.phase == .held && m.isRelease && s.msgFw m == fw && s.ackWait k m.cond

/-- A stroke start passes for what waits for acknowledgements: fences, DRAINs and SC atomics, SBARs, held releases, and
what follows the bundle (key 16 + slot). -/
def State.countAcks (s : State) (k : Nat) (fw : Bool) : State :=
  let up (b : Bool) (n : Nat) : Nat := if b then n + 1 else n
  let c := s.ctxOf k fw
  let tail : KMap Nat := match s.ackPost k fw with
    | some n => [(16 + n, kget 0 c.strokes (16 + n) + 1)]
    | none => []
  let c' : Ctx := { c with
    fences := c.fences.map (fun f => { f with strokes := up (s.ackWait k (f.acc ++ f.writes)) f.strokes })
    holds := c.holds.map (fun h => { h with strokes := up (s.ackWait k h.deps) h.strokes })
    strokes := c.strokes.filter (fun x => decide (x.1 < 16)) ++ tail }
  let net := s.net.map (fun m => { m with strokes := up (s.ackHeld k fw m) m.strokes })
  let t := (s.setCtxOf k fw c').updCluster k (fun cl => { cl with
    sbars := cl.sbars.map (fun b => { b with strokes := up (b.fw == fw && s.ackWait k b.deps) b.strokes }) })
  { t with net := net }

/-- One of them has waited longer than WAITLIM: the first raises WAIT_TIMEOUT in its slot and counts anew. A context that
is trapped raises none meanwhile. -/
def State.ackStroke (s0 : State) (k : Nat) (fw : Bool) : State :=
  let lim := (s0.cluster k).waitlim.toNat
  let s := s0.countAcks k fw
  let c := s.ctxOf k fw
  if c.fault.isSome then s
  else
    let f := takeFirst (fun f : FenceRec => decide (f.strokes > lim)) (fun f => { f with strokes := 0 }) c.fences
    let h := takeFirst (fun h : HoldRec => decide (h.strokes > lim)) (fun h => { h with strokes := 0 }) c.holds
    let b := takeFirst (fun b : SbarRec => b.fw == fw && decide (b.strokes > lim)) (fun b => { b with strokes := 0 }) (s.cluster k).sbars
    let m := takeFirst (fun m : Msg => s0.ackHeld k fw m && decide (m.strokes > lim)) (fun m => { m with strokes := 0 }) s.net
    match f.1, h.1, b.1, m.1 with
    | some x, _, _, _ => (s.setCtxOf k fw { c with fences := f.2 }).ackTimeout k fw x.slot
    | none, some x, _, _ => (s.setCtxOf k fw { c with holds := h.2 }).ackTimeout k fw x.slot
    | none, none, some x, _ => (s.updCluster k (fun cl => { cl with sbars := b.2 })).ackTimeout k fw x.slot
    | none, none, none, some x => ({ s with net := m.2 }.ackTimeout k fw x.slot)
    | none, none, none, none =>
      match c.strokes.find? (fun x => decide (16 ≤ x.1) && decide (x.2 > lim)) with
      | some x => (s.setCtxOf k fw { c with strokes := kdel c.strokes x.1 }).ackTimeout k fw (x.1 - 16)
      | none => s

/-- A stroke start passes for a cluster: FWCNT is 0 again (04 R85), and waits count it (16 R315, 13 R257, R263). -/
def State.strokeCluster (s : State) (k : Nat) : State :=
  let s := (s.strokeCtx k false).strokeCtx k true
  let s := (s.ackStroke k false).ackStroke k true
  let older (c : Ctx) : Ctx := { c with faultAge := if c.fault.isSome then c.faultAge + 1 else 0 }
  s.updCluster k (fun c => { c with
    fwcnt := 0, block := c.block.map (fun b => b.stroke c.tch), prog := older c.prog, fw := older c.fw })

/-- A link at a stroke start: the counts pass to LNKUSE; a stroke without a beacon is counted (R351, R357). -/
def Link.stroke (l : Link) : Link :=
  if !l.up then { l with prev := l.use, use := [0, 0, 0, 0, 0] }
  else { l with prev := l.use, use := [0, 0, 0, 0, 0], miss := if l.heard then 0 else min 3 (l.miss + 1), heard := false }

/-- CIS of module m returns to 0. -/
def execStrokeStart (m : Nat) (s : State) : Out :=
  .next (
    let d := s.module m
    let beat := d.links.any (fun l => l.2.up && l.2.heard)
    let lost := d.origin && !d.root && (!beat || decide (d.err > 2) || decide (d.err < -2))
    let s := s.updModule m (fun d => { d.examineAll with
      links := d.links.map (fun l => (l.1, l.2.stroke)), migUsed := 0, hpUsedA := 0, hpUsedB := 0, lost := d.lost || lost })
    let s := if lost ∧ !d.lost then s.blackbox (4 * m) 0x08 0 (BitVec.ofNat 64 (talign (s.module m))) 0 else s
    let s := ((s.module m).links.filter (fun l => l.2.up && decide (l.2.miss ≥ 3))).foldl (fun s l => s.linkDown m l.1) s
    ((s.cl.map (·.1)).filter (fun k => modOf k == m)).foldl (fun s k => s.strokeCluster k) s)

/-- The partner a module aligns to (R355): least hop count to the root, lowest link. -/
def Module.aligned (d : Module) : Option Nat :=
  ((d.links.filter (fun l => l.2.up)).foldl (fun (b : Option (Nat × Nat)) l => match b with
    | none => some (l.1, l.2.hops)
    | some x => if l.2.hops < x.2 then some (l.1, l.2.hops) else some x) none).map (·.1)

/-- GTS takes a new value in one cycle (R356, 26 R421): the lease of HSEM keeps its length, and the per-stroke counts
restart with the new stroke, which waits count as one. -/
def execTimeOrigin (m gts : Nat) (s : State) : Out :=
  let old := s.strokeOf m
  execStrokeStart m (s.updModule m (fun d => { d with
    gts := gts, origin := true, lease := d.lease + BitVec.ofInt 32 ((gts / 4096 : Nat) - (old : Int)) }))

/-- A beacon with the partner's GTS at sending arrives (R355): it ends the count of missing ones; from the aligning partner
it sets the error, and a module that is ahead holds one cycle at its next stroke boundary. One that boot has numbered but
that has no time yet takes its own from it: GTS at sending plus DELAY (R356). -/
def execBeaconReceive (m link gts : Nat) (s : State) : Out :=
  let k := s.link m link
  match s.partner m link with
  | none => .next s
  | some p =>
    if !k.up then .next s
    else
      let s := s.updLink m link (fun k => { k with heard := true, miss := 0, hops := (s.module (p / 96)).rootHops })
      let d := s.module m
      if d.root ∨ d.aligned ≠ some link then .next s
      else if !d.origin then
        (if s.booted m ∧ (s.module (p / 96)).origin then execTimeOrigin m (gts + k.delay) s else .next s)
      else
        let err : Int := (d.gts : Int) - ((gts + k.delay : Nat) : Int)
        .next (s.updModule m (fun d => { d with err := err, hold := decide (err ≥ 1) }))

end Sys2Proof.Machine
end

