-- ==== Sys2Proof/Machine/Residency.lean ====
section
/-! DEFINITION. The residency service of a module (11 R214, R215, R218; 19 R353): changes of residency, written into every
entry of a cluster that maps the range, the copying under MIGBUD, and the settling of MAPREQ requests. -/

namespace Sys2Proof.Machine

/-- May the service change an entry? NOISE and NONE entries never change (11 R212). -/
def Extent.moves (e : Extent) : Bool := e.v && (e.kind == .local || e.kind == .remote)

/-- The physical range of an entry of cluster `k`: start and length. -/
def Extent.range (e : Extent) (k : Nat) (c : Cluster) : Nat × Nat := (e.physical k c e.vbase, e.len)

/-- Does an entry of cluster `k` map bytes of a physical range? -/
def Extent.maps (e : Extent) (k : Nat) (c : Cluster) (r : Nat × Nat) : Bool := e.moves && rangesMeet (e.range k c) r

/-- Has some bound cluster, in some phase, an entry that maps bytes of the range and of which `f` holds? -/
def State.mapped (s : State) (r : Nat × Nat) (f : Extent → Bool) : Bool :=
  s.cl.any (fun x => x.2.bind.isSome && x.2.phases.any (fun p => p.ext.any (fun e => e.maps x.1 x.2 r && f e)))

/-- Every entry of every phase of cluster `k` that maps bytes of a range changes (11 R215). -/
def Cluster.updMaps (c : Cluster) (k : Nat) (r : Nat × Nat) (f : Extent → Extent) : Cluster :=
  { c with phases := c.phases.map (fun p => { p with ext := p.ext.map (fun e => if e.maps k c r then f e else e) }) }

/-- Entry `i` of the current phase, or, from 16 on, entry `i % 16` of phase `i / 16 - 1`. -/
def Cluster.entry (c : Cluster) (i : Nat) : Option Extent :=
  c.phases[if i < 16 then c.phase else i / 16 - 1]? >>= (fun p => p.ext[i % 16]?)

/-- May the service copy the range: is it marked in every cluster that maps it, and has every access checked before that
completed (11 R215), the bytes of a copy to another module among them that still make up a packet? -/
def State.copyable (s : State) (r : Nat × Nat) : Bool :=
  s.net.all (fun m => m.phase.performed || m.phase == .dead || !m.kind.ranges.any (rangesMeet r)) &&
    s.cl.all (fun x => x.2.streams.all (fun q => q.2.all (fun c => c.op != .post || !(x.2.pieces x.1 (c.dst.toNat + c.done - c.buf.length)
      c.buf.length).any (rangesMeet r)))) && !s.mapped r (fun e => e.res == .resident)

/-- The copying of entry `e` of cluster `k` goes on, as far as MIGBUD lets it in this stroke (19 R353). -/
def State.copyOn (s : State) (k : Nat) (e : Extent) : State :=
  let r := e.range k (s.cluster k)
  let d := s.module (modOf k)
  let n := if s.copyable r then min e.left (d.migbud - d.migUsed) else 0
  if n = 0 then s
  else
    let s := s.updModule (modOf k) (fun d => { d with migUsed := d.migUsed + n })
    { s with cl := s.cl.map (fun x => (x.1, x.2.updMaps x.1 r (fun e => { e with left := e.left - n }))) }

/-- Units of 64 bytes that a range which becomes MIGRATING has to copy: none where it is already there for another
cluster. -/
def State.unitsOf (s : State) (k : Nat) (e : Extent) : Nat :=
  if e.res = .absent ∧ s.mapped (e.range k (s.cluster k)) (fun x => x.res == .resident) then 0 else (e.len + 63) / 64

/-- The bytes of a range are copied to another place, with the marks of their words. -/
def State.moveBytes (s : State) (from_ to_ n : Nat) : State :=
  let src := memKey from_
  let dst := memKey to_
  let bytes := s.mem.filter (fun x => decide (src ≤ x.1) && decide (x.1 < src + n))
  let words := s.pmem.filter (fun w => decide (src ≤ 8 * w) && decide (8 * w < src + n))
  { s with
    mem := bytes.foldl (fun m x => memSet m (x.1 - src + dst) x.2) (s.mem.filter (fun x => x.1 < dst || dst + n ≤ x.1))
    pmem := words.foldl (fun l w => setIns l ((8 * w - src + dst) / 8)) (s.pmem.filter (fun w => 8 * w < dst || dst + n ≤ 8 * w)) }

/-- The entry of cluster `k` with its range moved by `d` bytes, if its kind can have it so: within R211, on no hole of the
region. -/
def Extent.shift (e : Extent) (k : Nat) (c : Cluster) (nmod : Nat) (d : Int) : Option Extent :=
  match (if d = 0 then some e else e.moveTo k c ((e.physical k c e.vbase : Int) + d).toNat) with
  | some x => if x.pbaseOk nmod ∧ !(x.rel && isLockhouse (paCluster (x.physical k c x.vbase))) then some x else none
  | none => none

/-- The requests of cluster `k` that are settled now that their entries are RESIDENT: PEND clears, and their semaphores are
signalled, in the same cycle (11 R218). -/
def Cluster.settleResident (c : Cluster) : Cluster :=
  let over_ (q : MapReq) : Bool := (c.phases[q.phase]? >>= (fun p => p.ext[q.ext]?)).any (fun e => e.res == .resident)
  (c.mapreqs.filter over_).foldl (fun c q => { c with
    phases := c.phases.modify q.phase (fun p => p.updExt q.ext (fun x => { x with pend := false, fail := false }))
    mapreqs := c.mapreqs.erase q
    semIncs := c.semIncs ++ (match q.sem with
      | some n => [(n, 1)]
      | none => []) }) c

/-- The change of the entries of cluster `k` that map the range of `e` (11 Table 11.4, R215), by `d` bytes where it is
again RESIDENT at a new PBASE. -/
def State.writeRes (s : State) (k : Nat) (e : Extent) (to_ : Res) (d : Int) : State :=
  let n := s.unitsOf k e
  let c := s.cluster k
  let new (x : Extent) : Extent :=
    if resMove x.res to_ then
      { (x.shift k c (s.module (modOf k)).nmod d).getD x with
        res := to_, epoch := x.epoch + 1, left := if to_ = .migrating then n else 0, moved := none }
    else x
  s.setCluster k (c.updMaps k (e.range k c) new).settleResident

/-- May the range of `e` be RESIDENT again `d` bytes further, with every entry of cluster `k` that maps bytes of it: each lies
in it and still fits? -/
def Cluster.shiftable (c : Cluster) (k : Nat) (e : Extent) (nmod : Nat) (d : Int) : Bool :=
  let r := e.range k c
  c.phases.all (fun p => p.ext.all (fun x => !x.maps k c r ||
    (decide (r.1 ≤ (x.range k c).1) && decide ((x.range k c).1 + x.len ≤ r.1 + r.2) &&
      (x.shift k c nmod d).isSome)))

/-- The bytes of the range of entry `e` of cluster `k` are where the service has them, `d` bytes further: moved once, at the
first cluster whose entry is RESIDENT again, and noted for the others that map the range (11 R215). -/
def State.moveRange (s : State) (k : Nat) (e : Extent) (d : Int) : State :=
  let r := e.range k (s.cluster k)
  if d = 0 ∨ e.moved = some d then s
  else
    let s := s.moveBytes r.1 ((r.1 : Int) + d).toNat r.2
    { s with cl := s.cl.map (fun x => (x.1, x.2.updMaps x.1 r (fun e => if e.res = .migrating then { e with moved := some d } else e))) }

/-- The service changes the residency of entry `ext` of cluster `k` (as `Cluster.entry` numbers it) to state `res % 4`; a
range that becomes RESIDENT may be at a new PBASE, `res / 4 - 1` where that is not 0 (11 R214, R215). A MIGRATING range
first has its copying go on, and leaves that state once the copy is complete (19 R353). -/
def execResidencyChange (k ext res : Nat) (s : State) : Out :=
  .next (
    match (s.cluster k).entry ext, resOf (res % 4) with
    | some e0, some r =>
      if !e0.moves || !resMove e0.res r then s
      else
        let s := if e0.res = .migrating then s.copyOn k e0 else s
        match (s.cluster k).entry ext with
        | none => s
        | some e =>
          let c := s.cluster k
          let nmod := (s.module (modOf k)).nmod
          let new : Extent := { e with pbase := res / 4 - 1 }
          let d : Int := if r = .resident ∧ 4 ≤ res then ((new.physical k c new.vbase : Nat) : Int) - (e.physical k c e.vbase : Nat) else 0
          if e.res = .migrating ∧ e.left ≠ 0 then s
          else if r ≠ .resident then s.writeRes k e r 0
          else if (4 ≤ res ∧ !new.pbaseOk nmod) ∨ e.moved.getD d ≠ d ∨ (d ≠ 0 ∧ !c.shiftable k e nmod d) then s
          else (s.moveRange k e d).writeRes k e r d
    | _, _ => s)

/-- Request `idx` of cluster `k` settles (11 R218): with `res` 0 the service marks the range RESIDENT, once it is MIGRATING
and copied; else it finds that it cannot bring the range in: FAIL is set, PEND clears, and the semaphore is signalled. A
request whose launch has ended has no entry any more and still settles. -/
def execMapreqSettle (k idx res : Nat) (s : State) : Out :=
  match (s.cluster k).mapreqs[idx]? with
  | none => .next s
  | some q =>
    let c := s.cluster k
    let gone := (c.phases[q.phase]? >>= (fun p => p.ext[q.ext]?)).isNone
    if res = 0 ∧ !gone then execResidencyChange k (16 * (q.phase + 1) + q.ext) 0 s
    else .next (s.setCluster k { c with
      phases := c.phases.modify q.phase (fun p => p.updExt q.ext (fun x => { x with pend := false, fail := true }))
      mapreqs := c.mapreqs.eraseIdx idx
      semIncs := c.semIncs ++ (match q.sem with
        | some n => [(n, 1)]
        | none => []) })

end Sys2Proof.Machine
end

