-- ==== Sys2Proof/Machine/Lockhouse.lean ====
section
/-! DEFINITION. The lockhouse (chapter 24): fault tokens and the towpath queue, FTRECV and REPAIR, re-entry, the
shipped loader and policy, asynchronous faults, soft errors. Taking a fault is in Ops. -/

namespace Sys2Proof.Machine

/-! ### Asynchronous and pending faults (R384) -/

/-- The oldest pending fault is taken in stroke `st`: SLOTRES is the slot at which the context would have gone on. -/
def Ctx.takePending (c : Ctx) (st : Nat) : Ctx :=
  match c.faultQ with
  | [] => c
  | f :: r => ({ c with faultQ := r } : Ctx).takeFault { f with slot := BitVec.ofNat 4 c.entry, pc := c.pc, stroke := st }

/-- Is the context parked where an asynchronous fault is taken at once? -/
def Ctx.parkedForFault (c : Ctx) : Bool :=
  match c.park with
  | .waitarr .. => true
  | .arwait => true
  | .phase _ => true
  | _ => false

/-- Is the launch of cluster `k` failing? Its members then only drain (24 R394). -/
def State.failing (s : State) (k : Nat) : Bool :=
  match (s.cluster k).bind with
  | none => false
  | some b => (s.dieAt (dieKey k)).coxes.any (fun x => x.1 == b.cox && x.2.fail.isSome)

/-- May the context take a pending fault: parked, or between two bundles? -/
def State.asyncDue (s : State) (k : Nat) (fw : Bool) : Bool :=
  let c := s.ctxOf k fw
  !c.faultQ.isEmpty && c.fault.isNone && (if c.parkedForFault then fw || !((s.cluster k).done || s.failing k)
    else c.park == .run && c.rest.isEmpty && c.post.isEmpty && c.swap.isNone)

/-- The pending fault of a context is taken, if it may be. -/
def State.asyncTake (s : State) (k : Nat) (fw : Bool) : State :=
  if s.asyncDue k fw then s.setCtxOf k fw ((s.ctxOf k fw).takePending (s.strokeOf (modOf k))) else s

/-- An issue cycle of both contexts of a cluster comes, with faults pending: they are taken (R384). -/
def execAsyncFaultTake (k : Nat) (s : State) : Out := .next ((s.asyncTake k false).asyncTake k true)

/-- Does a pending fault wait for no issue cycle: that of a parked context, or of one that is being stopped for a pre-emption,
which waits for its repair (R384, R395)? -/
def State.asyncAtOnce (s : State) (k : Nat) (fw : Bool) : Bool := (s.ctxOf k fw).parkedForFault || (!fw && s.stopping k)

/-! ### Tokens (R387, R388) -/

/-- Word 0 of a token: the cluster's number on its module is its DIE, ROW and COL. -/
def tokenWord0 (k : Nat) (fw : Bool) (f : FaultRec) (tag : Nat) : DWord :=
  BitVec.ofNat 64 (tag % 2 ^ 16 * 2 ^ 48 + k % 4096 * 2 ^ 32 + ofBool fw * 2 ^ 31 + ofBool f.ovf * 2 ^ 30 + ofBool f.async * 2 ^ 29 +
    ofBool f.hdr * 2 ^ 28 + f.slot.toNat * 2 ^ 24 + f.code)
def tokenWord1 (f : FaultRec) : DWord := BitVec.ofNat 64 (f.info.toNat * 2 ^ 32 + f.pc.toNat)
def tokenWord2 (f : FaultRec) : DWord := BitVec.ofNat 64 (f.va % 2 ^ 48)
def tokenWord3 (f : FaultRec) : DWord := BitVec.ofNat 64 (f.stroke % 2 ^ 52)

/-- The standing of a context's token changes. -/
def State.setTok (s : State) (k : Nat) (fw : Bool) (t : TokState) : State :=
  let c := s.ctxOf k fw
  s.setCtxOf k fw { c with fault := c.fault.map (fun f => (f.1, t)) }

/-- Tags that a lockhouse context has claimed, with their contexts, in TAG order of the die's count. -/
def State.claims (s : State) (by_ : Nat) : List (Nat × Nat × Bool) :=
  s.cl.flatMap (fun x => [false, true].filterMap (fun fw => match (x.2.ctx fw).fault with
    | some (_, .claimed tag b) => if b = by_ then some (tag, x.1, fw) else none
    | _ => none))

/-- A rising insertion of tokens by TAG. -/
def insTag (t : Nat × Nat × Bool) : List (Nat × Nat × Bool) → List (Nat × Nat × Bool)
  | [] => [t]
  | u :: r => if t.1 ≤ u.1 then t :: u :: r else u :: insTag t r

/-- A lockhouse context has faulted (R389): the black box names it, with the cause LOCKHOUSE_FAULT and the cause of its
fault as INFO (Table 24.1), the context halts, its claimed tokens return to the head of the queue in TAG order. -/
def State.lockhouseFault (s : State) (k : Nat) (f : FaultRec) : State :=
  let g := dieKey k
  let back := (s.claims k).foldl (fun l t => insTag t l) []
  let s := back.foldl (fun s t => s.setTok t.2.1 t.2.2 (.queued t.1)) s
  let s := s.updDie g (fun d => { d with towq := back ++ d.towq })
  let c := s.ctxOf k true
  let r : FaultRec := { f with code := 0x74, info := BitVec.ofNat 32 f.code }
  (s.setCtxOf k true { c with fault := none, given := [], faultQ := [], park := .halted }).blackbox g 0x07 k (tokenWord0 k true r 0)
    (tokenWord1 r)

/-- A token's place among those that arrive in one cycle (R388). -/
def tokPlace (k : Nat) (fw : Bool) : Nat := 2 * k + ofBool fw

/-- May the token of a context enter the queue of its die now: an entry is free, and none of a later place in the order of
R388 has entered in this cycle? -/
def State.mayEnter (s : State) (k : Nat) (fw : Bool) : Bool :=
  let d := s.dieAt (dieKey k)
  decide (d.towq.length < 64) && !(d.tokAt.1 == s.now && decide (tokPlace k fw < d.tokAt.2))

/-- A travelling token of a context enters the queue of its die, if it may: it takes its TAG, and the black box has it. -/
def State.enqueueToken (s : State) (k : Nat) (fw : Bool) : State :=
  match (s.ctxOf k fw).fault with
  | some (f, .travelling) =>
    let g := dieKey k
    if fw ∧ isLockhouse k then s.lockhouseFault k f
    else if !s.mayEnter k fw then s
    else
      let tag := (s.dieAt g).nextTag
      let s := (s.setTok k fw (.queued tag)).updDie g (fun d => { d with
        towq := d.towq ++ [(tag, k, fw)], nextTag := (tag + 1) % 2 ^ 16, tokAt := (s.now, tokPlace k fw) })
      s.blackbox g 0x01 k (tokenWord0 k fw f tag) (tokenWord1 f)
  | _ => s

/-- The tag of an outstanding fault's token, if it has one and no repair has answered it. -/
def tokTag : TokState → Option Nat
  | .queued t => some t
  | .claimed t _ => some t
  | _ => none

/-- The outstanding fault of a context counts as answered: its token, if the lockhouse has not taken it, is not lost (R388,
R394). -/
def State.toGhost (s : State) (k : Nat) (fw : Bool) : State :=
  match (s.ctxOf k fw).fault with
  | none => s
  | some (f, t) =>
    let s := s.setCtxOf k fw { s.ctxOf k fw with fault := none }
    let keep (tag : Option Nat) : State := s.updDie (dieKey k) (fun d => { d with ghosts := d.ghosts ++ [(k, fw, f, tag)] })
    match t with
    | .travelling => if fw ∧ isLockhouse k then s else keep none
    | .queued tag => keep (some tag)
    | _ => s

/-- The travelling token of an answered fault enters the queue. -/
def State.enqueueGhost (s : State) (k : Nat) (fw : Bool) : State :=
  let g := dieKey k
  match (s.dieAt g).ghosts.find? (fun x => x.1 == k && x.2.1 == fw && x.2.2.2.isNone) with
  | none => s
  | some x =>
    if !s.mayEnter k fw then s
    else
      let tag := (s.dieAt g).nextTag
      let s := s.updDie g (fun d => { d with
        ghosts := d.ghosts.erase x ++ [(k, fw, x.2.2.1, some tag)]
        towq := d.towq ++ [(tag, k, fw)], nextTag := (tag + 1) % 2 ^ 16, tokAt := (s.now, tokPlace k fw) })
      s.blackbox g 0x01 k (tokenWord0 k fw x.2.2.1 tag) (tokenWord1 x.2.2.1)

/-- A queued token whose fault counts as answered. -/
def State.ghost (s : State) (g tag : Nat) : Option (Nat × Bool × FaultRec × Option Nat) :=
  (s.dieAt g).ghosts.find? (fun x => x.2.2.2 == some tag)

/-- Tokens of a cluster enter the towpath queue, the program context's first (R388). -/
def execFaultTokenEnqueue (k : Nat) (s : State) : Out :=
  .next ([false, true].foldl (fun s fw => (s.enqueueGhost k fw).enqueueToken k fw) s)

/-! ### FTRECV (R391) -/

/-- A lockhouse instruction where it is not accepted (R390, 03 R64). -/
def State.lockhouseOnly (s : State) : Option State :=
  if !s.curFw then some (s.raise 0x04 s.word) else if !isLockhouse s.cur then some s.illegalOp else none

/-- The token at the head of the queue is taken and claimed by the context in focus; its words go to s[d] to
s[d + 3] at latency `lat`. -/
def State.takeToken (s : State) (d : SReg) (lat : Nat) : State :=
  let g := dieKey s.cur
  match (s.dieAt g).towq with
  | [] => s
  | (tag, k, fw) :: r =>
    let s := s.updDie g (fun x => { x with towq := r })
    let give (s : State) (f : FaultRec) : State :=
      let put1 (s : State) (i : Nat) (v : DWord) : State := s.pushS lat (Fin.ofNat 32 (d.val + i)) v false
      put1 (put1 (put1 (put1 s 0 (tokenWord0 k fw f tag)) 1 (tokenWord1 f)) 2 (tokenWord2 f)) 3 (tokenWord3 f)
    match s.ghost g tag, (s.ctxOf k fw).fault with
    | some x, _ => give (s.updDie g (fun d => { d with ghosts := d.ghosts.erase x })) x.2.2.1
    | none, some (f, _) => give (s.setTok k fw (.claimed tag s.cur)) f
    | none, none => s

def execFtrecv (d : SReg) (s : State) : Out :=
  .next (
    match s.lockhouseOnly with
    | some t => t
    | none =>
      if d.val = 0 ∨ d.val > 28 then s.illegalField
      else if (s.dieAt (dieKey s.cur)).towq.isEmpty then s.updCtx (fun c => { c with park := .ftrecv d none, entry := 13 })
      else s.takeToken d 1)

/-- Lockhouse clusters of a die, in row, column order. -/
def lockhousesOf (g : Nat) : List Nat := [1024 * g + 990, 1024 * g + 991, 1024 * g + 1022, 1024 * g + 1023]

/-- Does a context of a lockhouse wait for a token? -/
def State.waitsToken (s : State) (k : Nat) : Bool :=
  match (s.ctxOf k true).park with
  | .ftrecv .. => true
  | _ => false

/-- The release of a parked FTRECV: the lowest waiting cluster of the die takes the token, whose words its next bundle
reads (latency 1 after the park), once every result in flight has landed (04 R81). -/
def execFtrecvRelease (k : Nat) (s : State) : Out :=
  .next (
    if (lockhousesOf (dieKey k)).find? s.waitsToken ≠ some k ∨ (s.dieAt (dieKey k)).towq.isEmpty ∨ !(s.ctxOf k true).pend.isEmpty then s
    else
      match (s.ctxOf k true).park with
      | .ftrecv d _ =>
        ({ s with cur := k, curFw := true, slot := 13 }.updCtx (fun c => ({ c with park := .run } : Ctx).closeAt 0)).takeToken d 0
      | _ => s)

/-- A parked FTRECV notes the cycle since which a token has stood in the queue: it is released within 64 cycles (R391). -/
def State.noteToken (s : State) (k : Nat) : State :=
  match (s.ctxOf k true).park with
  | .ftrecv d none =>
    if (s.dieAt (dieKey k)).towq.isEmpty then s
    else s.setCtxOf k true { s.ctxOf k true with park := .ftrecv d (some (s.cyc k)) }
  | .ftrecv _ (some t) => if s.cyc k ≥ t + 63 then s.run (execFtrecvRelease k) else s
  | _ => s

/-! ### REPAIR (R392 to R394) -/

/-- The slot at which re-entry begins once slot `n` is passed over: the next present one, or the next bundle. -/
def State.afterSlot (s : State) (k pc n : Nat) : Nat :=
  match (s.slotsAt k pc).find? (fun x => decide (n < x.1)) with
  | some x => x.1
  | none => 14

/-- What RESUME_VALUE gives a load or returning atomic (R392): none for anything else. -/
def valueDest (i : Instr) (v : SVal) : Option Dest :=
  let all (d : VReg) (t : ElemTy) : Option Dest :=
    some (.vreg d 0xFFFF (Vector.replicate 16 ⟨wrElem t (v.val.toNat % 2 ^ (8 * ebytes t)), v.poison⟩))
  match i with
  | .sigadd d _ _ => some (.sreg d v)
  | .ld d _ t _ _ => some (.sreg d ⟨mextend t (v.val.toNat % 2 ^ (8 * mbytes t)), v.poison⟩)
  | .ldacq d _ t _ _ => some (.sreg d ⟨mextend t (v.val.toNat % 2 ^ (8 * mbytes t)), v.poison⟩)
  | .atom d _ t _ _ _ => some (.sreg d ⟨atomExt t (v.val.toNat % 2 ^ (8 * ebytes t)), v.poison⟩)
  | .vld d _ t _ _ => all d t
  | .vldb d _ t _ _ => all d t
  | .vlds d _ t _ _ => all d t
  | .vgath d _ t _ _ => all d t
  | .vatom d _ t _ _ _ => all d t
  | _ => none

/-- What a repaired context re-enters with. -/
def State.setAnswered (s : State) (k : Nat) (fw : Bool) (entry : Nat) (vals : List Dest) : State :=
  let c := (s.setTok k fw .answered).ctxOf k fw
  s.setCtxOf k fw { c with entry := entry, unstamped := true, given := c.given ++ vals }

/-- The members of the launch that binds cluster `k`. -/
def State.launchMembers (s : State) (k : Nat) : List Nat :=
  match (s.cluster k).bind with
  | none => []
  | some b => match (s.dieAt (dieKey k)).coxes.find? (fun x => x.1 == b.cox) with
    | some (_, x) => x.members
    | none => []

/-- A fault answered without re-entry (R394, R395): the program context stops with its launch, which fails with
`code`, and the faults of the launch's other members count as answered; a firmware context halts. -/
def State.abortCtx (s : State) (k : Nat) (fw : Bool) (code : Nat) : State :=
  let c := s.ctxOf k fw
  if fw then s.setCtxOf k true { c with fault := none, given := [], faultQ := [], park := .halted }
  else
    let t := (s.setCtxOf k false { c with fault := none, given := [], faultQ := [], park := .phase .abort }).failCox k code
    ((s.launchMembers k).filter (· != k)).foldl (fun t j => t.toGhost j false) t

/-- The QERR code of ABORT_PHASE. -/
def abortCode (v : DWord) : Nat := if v.toNat % 256 = 9 then 9 else 10

/-- A repair of kind `kind` applied to a context with fault `f`; none where it breaks a condition of Table 24.4. -/
def State.applyKind (s : State) (kind k : Nat) (fw : Bool) (f : FaultRec) (v : SVal) : Option State :=
  let slot := f.slot.toNat
  match kind with
  | 0 => some (s.setAnswered k fw (s.ctxOf k fw).entry [])
  | 1 =>
    if f.hdr then some (s.abortCtx k fw 10)
    else if f.async then some (s.setAnswered k fw (s.ctxOf k fw).entry [])
    else some (s.setAnswered k fw (s.afterSlot k f.pc.toNat slot) [])
  | 2 =>
    if f.code < 0x20 ∨ f.code > 0x25 then none
    else match (s.slotsAt k f.pc.toNat).find? (fun x => x.1 == slot) with
      | none => none
      | some (n, w) => match decSlot n w with
        | .ok i => (valueDest i v).map (fun d => s.setAnswered k fw (s.afterSlot k f.pc.toNat slot) [d])
        | _ => none
  | 3 =>
    let line := f.pc.toNat / 64 * 64
    some ((s.updCluster k (fun c => { c with ibuf := c.ibuf.filter (fun l => decide (l.2.tag * 2 ^ 14 + l.1 * 64 < line)) })).setAnswered
      k fw (s.ctxOf k fw).entry [])
  | 4 => some (s.abortCtx k fw (abortCode v.val))
  | _ =>
    let ms := if fw then [] else s.launchMembers k
    some (ms.foldl (fun s j => s.updCluster j (fun c => { c with fenced := true })) (s.abortCtx k fw (abortCode v.val)))

/-- An outstanding fault that a repair word names: TAG, ROW, COL and CTX on die `g`. -/
def State.named (s : State) (g : Nat) (w : DWord) : Option (Nat × Bool × FaultRec) :=
  let k := 1024 * g + fld w.toNat 32 10
  let fw := bitAt w.toNat 31
  match (s.ctxOf k fw).fault with
  | some (f, t) => if fld w.toNat 42 2 = g % 4 ∧ tokTag t = some (fld w.toNat 48 16) then some (k, fw, f) else none
  | none => none

/-- A repair reaches its fault on die `g` (R392): it is applied and recorded, or REPAIR_BAD is recorded. -/
def State.applyRepair (s : State) (g : Nat) (w : DWord) (v : SVal) : State :=
  let bad := s.blackbox g 0x06 (fld w.toNat 32 10) w 0
  match s.named g w with
  | none => bad
  | some (k, fw, f) =>
    match s.applyKind (fld w.toNat 8 3) k fw f v with
    | none => bad
    | some t => (t.updDie g (fun d => { d with towq := d.towq.filter (fun x => x.1 != fld w.toNat 48 16) })).blackbox g 0x02 k w v.val

/-- Writes of a context that are not yet performed and acknowledged. -/
def State.ownWrites (s : State) (k : Nat) (fw : Bool) : List Dep := s.unmet k ((s.underWayOf k fw).map (.wr .sys))

/-- What a REPAIR of cluster `k` waits for: its context's writes (R392), and, as a release at .die, the earlier loads and the
writes in that scope of its cluster (12 R229). -/
def State.repairDeps (s : State) (k : Nat) : List Dep := s.ownWrites k true ++ s.releaseDeps k .die

/-- REPAIR: RESUME_VALUE carries the mark of s[b]; any other marked operand raises POISON_USE. -/
def execRepair (a b : SReg) (s : State) : Out :=
  .next (
    match s.lockhouseOnly with
    | some t => t
    | none =>
      let x := s.ctx.rdS a
      let y := s.ctx.rdS b
      let w := x.val.toNat
      if x.poison ∨ (y.poison ∧ fld w 8 3 ≠ 2) then s.poisonUse
      else if fld w 44 4 ≠ 0 ∨ fld w 11 13 ≠ 0 ∨ bitAt w 7 ∨ fld w 8 3 ≥ 6 then s.illegalField
      else
        let ds := s.repairDeps s.cur
        if ds.isEmpty then s.applyRepair (dieKey s.cur) x.val y
        else s.updCtx (fun c => { c with post := c.post ++ [.repair x.val y ds s.slot] }))

/-- A REPAIR whose context's writes have been performed and acknowledged is applied. -/
def State.repairGo (s : State) (k : Nat) (fw : Bool) : State :=
  match (s.ctxOf k fw).post with
  | .repair w v ds _ :: rest =>
    if s.allMet k ds then (s.setCtxOf k fw { s.ctxOf k fw with post := rest }).applyRepair (dieKey k) w v else s
  | _ => s

/-! ### Re-entry (R393) -/

/-- A structure of the context that is lost: it faults again (R400). -/
def Cluster.lost (c : Cluster) (fw : Bool) : Option Nat := c.bad.find? (fun n => (n / 256 == 1) == fw)

/-- A repaired context re-enters once its results in flight have landed (04 R81), unless a pending fault or a lost structure
comes first. What RESUME_VALUE has given it is written at latency 5 from here. -/
def State.reenter (s : State) (k : Nat) (fw : Bool) : State :=
  let c0 := s.ctxOf k fw
  match c0.fault with
  | some (_, .answered) =>
    let c : Ctx := { c0 with fault := none, park := .run }
    if !c0.pend.isEmpty then s
    else s.setCtxOf k fw (match (s.cluster k).lost fw, c.faultQ with
      | _, _ :: _ => c.takePending (s.strokeOf (modOf k))
      | some n, [] => c.takeFault ⟨0x73, BitVec.ofNat 32 (n % 256), 0, BitVec.ofNat 4 c.entry, true, false, c.pc, 0,
          s.strokeOf (modOf k), false⟩
      | none, [] => c.given.foldl (fun (c : Ctx) d => c.push (mkPend 5 d)) { c with given := [] })
  | _ => s

def execContextReentry (k : Nat) (s : State) : Out := .next ((s.reenter k false).reenter k true)

/-! ### Time-out, loader, policy (R389, R304, R435) -/

/-- The context whose outstanding token on die `g` has a tag. -/
def State.taggedOn (s : State) (g tag : Nat) : Option (Nat × Bool × FaultRec × TokState) :=
  (s.cl.filter (fun x => dieKey x.1 == g)).findSome? (fun x => [false, true].findSome? (fun fw => match (x.2.ctx fw).fault with
    | some (f, t) => if tokTag t = some tag then some (x.1, fw, f, t) else none
    | none => none))

/-- The fault of a context has been outstanding for 256 strokes with no repair: it is answered as ABORT_PHASE with code
0x0A (R389). Its token may still travel. -/
def State.lhExpire (s : State) (k : Nat) (fw : Bool) : State :=
  match (s.ctxOf k fw).fault with
  | none => s
  | some (f, t) =>
    let g := dieKey k
    let answered : Bool := match t with
      | .answered => true
      | _ => false
    if answered || decide ((s.ctxOf k fw).faultAge < 256) then s
    else
      ((s.toGhost k fw).abortCtx k fw 10).blackbox g 0x09 k (tokenWord0 k fw f ((tokTag t).getD 0)) 0

/-- A fault of a die that its token names has been outstanding for 256 strokes. -/
def execLhTimeout (g tag : Nat) (s : State) : Out :=
  .next (
    match s.taggedOn g tag with
    | none => s
    | some (k, fw, _, _) => s.lhExpire k fw)

/-- The shipped firmware answers the token `tag` at the queue: FTRECV and REPAIR in one (R435, R304). -/
def State.answerQueued (s : State) (g tag k : Nat) (fw : Bool) (f : FaultRec) (kind : Nat) (v : DWord) : State :=
  s.applyRepair g (tokenWord0 k fw f tag ||| BitVec.ofNat 64 (kind * 2 ^ 8)) ⟨v, false⟩

/-- What the loader does for graph `n` of cluster `k` (15 R304), and whether it answers RELOAD_RESUME; else it answers
ABORT_PHASE with code 0x09. It installs through PLREQ (24 Table 24.8). -/
def State.loaderGo (s : State) (k : Nat) (n : Fin 16) : State × Bool :=
  match (s.cluster k).cotAddr n with
  | none => (s, false)
  | some addr =>
    if (s.ctxOf k false).plane.any (fun h => h.n == n) then (s, true)
    else s.plInstall k addr ((s.sparedXops k).filter (fun m => m != n))

/-- The answer of the shipped firmware to a token whose fault counts as answered: the token is gone, and REPAIR_BAD is recorded
(R392, R394). -/
def State.answerGhost (s : State) (g tag : Nat) (x : Nat × Bool × FaultRec × Option Nat) (kind : Nat) : State :=
  (s.updDie g (fun d => { d with ghosts := d.ghosts.erase x, towq := d.towq.filter (fun y => y.1 != tag) })).blackbox g 0x06
    (x.1 % 1024) (tokenWord0 x.1 x.2.1 x.2.2.1 tag ||| BitVec.ofNat 64 (kind * 2 ^ 8)) 0

/-- Is it XOP_UNLOADED of a program context, which the loader serves? -/
def forLoader (fw : Bool) (f : FaultRec) : Bool := !fw && f.code == 0x68

/-- The loader (15 R304) serves XOP_UNLOADED of a program context. It reads the graph as R299 step 3 does, once the accesses
of q0 to q3 have been performed. -/
def execLockhouseLoader (g tag : Nat) (s : State) : Out :=
  .next (
    match s.ghost g tag, s.taggedOn g tag with
    | some x, _ =>
      if !forLoader x.2.1 x.2.2.1 ∨ !(s.coreOps x.1).isEmpty then s
      else
        let r := s.loaderGo x.1 (Fin.ofNat 16 x.2.2.1.info.toNat)
        r.1.answerGhost g tag x (if r.2 then 3 else 4)
    | none, some (k, fw, f, .queued _) =>
      if !forLoader fw f ∨ !(s.coreOps k).isEmpty then s
      else
        let r := s.loaderGo k (Fin.ofNat 16 f.info.toNat)
        r.1.answerQueued g tag k fw f (if r.2 then 3 else 4) (if r.2 then 0 else 9)
    | _, _ => s)

/-- The policy table of die `g` (R435). The entry of XOP_UNLOADED is ignored: that of a firmware context, which the loader does
not serve, is answered as entries are at reset (DESIGN CHOICE, log 36). -/
def State.policy (s : State) (g code : Nat) : Nat := if code = 0x68 then 4 else kget 4 (s.cluster (1024 * g + 990)).lhpol code

/-- The shipped handler answers any other fault by LHPOL; aborts carry code 0x0A. -/
def execLockhousePolicy (g tag : Nat) (s : State) : Out :=
  .next (
    match s.ghost g tag, s.taggedOn g tag with
    | some x, _ => if forLoader x.2.1 x.2.2.1 then s else s.answerGhost g tag x (s.policy g x.2.2.1.code)
    | none, some (k, fw, f, .queued _) =>
      if forLoader fw f then s
      else
        let kind := s.policy g f.code
        s.answerQueued g tag k fw f kind (if kind ≥ 4 then 10 else 0)
    | _, _ => s)

/-! ### Soft errors (R398, R400) -/

/-- The context that owns a structure: the firmware plane is the firmware context's, a loop state its context's, any
other the program context's. -/
def ownerFw (info : Nat) (fw : Bool) : Bool := if info = 4 then true else if info = 6 then fw else false

/-- An uncorrectable error in a structure of the SCU: STATE_ERR, asynchronously. Loop state that is lost holds no active loop any
more (log 64). -/
def execStateErrDetect (k : Nat) (fw : Bool) (info : Word) (s : State) : Out :=
  .next (
    let n := info.toNat
    if n < 1 ∨ n > 6 then s
    else
      let o := ownerFw n fw
      let s := s.updCluster k (fun c => { c with bad := c.bad ++ [n + (if o then 256 else 0)] })
      let c := s.ctxOf k o
      let s := if n = 6 then s.setCtxOf k o { c with loops := [] } else s
      s.asyncFault k o 0x73 info)

/-- A read finds an error in word `w` (8-byte words) of the scratchpad of cluster `k` (09 R199): a single-bit error
corrected in place or a rebuilt word counts in CE, a word that cannot be rebuilt takes the mark and counts in UE; both
stop at 0xFFFF (Table 9.5). A word that holds the poison check code is left as it is. -/
def State.wordError (s : State) (k w : Nat) (lost : Bool) : State :=
  let n := w % 2 ^ 19 / 2 ^ 14
  let key := k * 2 ^ 19 + w % 2 ^ 19
  if s.pmem.contains key then s
  else
    let old := kget 0 (s.cluster k).sestat n
    let at_ := if lost then 32 else 48
    let new : DWord := if fld old.toNat at_ 16 = 0xFFFF then old else old + BitVec.ofNat 64 (2 ^ at_)
    let s1 := s.updCluster k (fun c => { c with sestat := kset c.sestat n new })
    if lost then ({ s1 with pmem := setIns s1.pmem key } : State).blackbox (dieKey k) 0x05 k (BitVec.ofNat 64 (8 * key)) new
    else s1

/-- An uncorrectable error in a register, a lane or an accumulator element: its mark is set, the black box has UE.
`reg` is a scalar register, 32 + a vector register, or 96 + a tile; `elem` the lane or the element 32 row + column.
104 and 105 are an error of scratchpad word `elem`: one that is corrected or rebuilt, and one that is not (R199). -/
def execRegisterSoftError (k : Nat) (fw : Bool) (reg elem : Nat) (s : State) : Out :=
  .next (
    if reg = 104 then s.wordError k elem false
    else if reg = 105 then s.wordError k elem true
    else
    let c := s.ctxOf k fw
    let s1 : State :=
      if reg < 32 then
        let r : SReg := Fin.ofNat 32 reg
        s.setCtxOf k fw (c.wrS r ⟨(c.rdS r).val, true⟩)
      else if reg < 96 then
        let r : VReg := Fin.ofNat 64 (reg - 32)
        s.setCtxOf k fw (c.wrV r (1 <<< (elem % 16)) ((c.rdV r).map (fun l => ⟨l.val, true⟩)))
      else s.updCluster k (fun x =>
        let key := 1024 * ((reg - 96) % 8) + elem % 1024
        { x with mx := { x.mx with tiles := kset x.mx.tiles key ⟨(kget ⟨0, false⟩ x.mx.tiles key).val, true⟩ } })
    s1.blackbox (dieKey k) 0x05 k 0 0)

end Sys2Proof.Machine
end

