-- ==== Sys2Proof/Machine/Shake.lean ====
section
/-! DEFINITION. SHAKE256 of FIPS 202, by which images and provisioning records are digested and signed (26 R424, R427,
R428). The standard is named by the specification and stands outside it (PRESUMED, log 49). -/

namespace Sys2Proof.Machine

/-- A lane of the sponge's state: lane (x, y) is number x + 5 y. -/
abbrev KLane := BitVec 64

def keccakRc : List KLane :=
  [0x0000000000000001, 0x0000000000008082, 0x800000000000808A, 0x8000000080008000, 0x000000000000808B, 0x0000000080000001,
    0x8000000080008081, 0x8000000000008009, 0x000000000000008A, 0x0000000000000088, 0x0000000080008009, 0x000000008000000A] ++
  [0x000000008000808B, 0x800000000000008B, 0x8000000000008089, 0x8000000000008003, 0x8000000000008002, 0x8000000000000080,
    0x000000000000800A, 0x800000008000000A, 0x8000000080008081, 0x8000000000008080, 0x0000000080000001, 0x8000000080008008]

/-- Rotation of each lane. -/
def keccakRot : List Nat :=
  [0, 1, 62, 28, 27, 36, 44, 6, 55, 20, 3, 10, 43] ++ [25, 39, 41, 45, 15, 21, 8, 18, 2, 61, 56, 14]

def laneAt (a : List KLane) (x y : Nat) : KLane := (a[x % 5 + 5 * (y % 5)]?).getD 0

/-- One round: theta, rho and pi, chi, iota. -/
def keccakRound (a : List KLane) (rc : KLane) : List KLane :=
  let col (x : Nat) : KLane := laneAt a x 0 ^^^ laneAt a x 1 ^^^ laneAt a x 2 ^^^ laneAt a x 3 ^^^ laneAt a x 4
  let cs := (List.range 5).map col
  let c (x : Nat) : KLane := (cs[x % 5]?).getD 0
  let t := (List.range 25).map (fun i => laneAt a (i % 5) (i / 5) ^^^ c (i % 5 + 4) ^^^ (c (i % 5 + 1)).rotateLeft 1)
  let b := (List.range 25).map (fun i =>
    let x := (i % 5 + 3 * (i / 5)) % 5
    let y := i % 5
    (laneAt t x y).rotateLeft ((keccakRot[x + 5 * y]?).getD 0))
  (List.range 25).map (fun i =>
    let v := laneAt b (i % 5) (i / 5) ^^^ (~~~(laneAt b (i % 5 + 1) (i / 5)) &&& laneAt b (i % 5 + 2) (i / 5))
    if i = 0 then v ^^^ rc else v)

def keccakF (a : List KLane) : List KLane := keccakRc.foldl keccakRound a

/-- Eight bytes, the first least significant. -/
def laneOf (bs : List Byte) : KLane := bs.foldr (fun x r => (r <<< 8) ||| x.setWidth 64) 0

/-- Block `i` of a padded message enters the state. -/
def absorb (m : List Byte) (a : List KLane) (i : Nat) : List KLane :=
  let bs := (m.drop (136 * i)).take 136
  keccakF (a.zipIdx.map (fun x => if x.2 < 17 then x.1 ^^^ laneOf ((bs.drop (8 * x.2)).take 8) else x.1))

/-- The message padded to blocks of 136 bytes. -/
def shakePad (m : List Byte) : List Byte :=
  let k := 135 - m.length % 136
  if k = 0 then m ++ [0x9F] else m ++ (0x1F :: List.replicate (k - 1) 0) ++ [0x80]

/-- The first 32 bytes of SHAKE256. -/
def shake256 (m : List Byte) : List Byte :=
  let p := shakePad m
  let a := (List.range (p.length / 136)).foldl (absorb p) (List.replicate 25 0)
  (a.take 4).flatMap (fun (l : KLane) => (List.range 8).map (fun i => (l >>> (8 * i)).setWidth 8))

end Sys2Proof.Machine
end

