-- ==== Sys2Proof/Machine/Xmss.lean ====
section
/-! DEFINITION. Verification of an XMSS signature with the parameter set XMSS-SHAKE256_20_256 (26 R424): the construction
of RFC 8391 with n = 32, w = 16 and tree height 20. A public key is its number of 4 bytes, the root and the public seed; a
signature the leaf index, the randomiser, 67 chain values and 20 nodes of the path. The standards are named by the
specification and stand outside it (PRESUMED, log 49). -/

namespace Sys2Proof.Machine

/-- `n` bytes of a number, the most significant first. -/
def beBytes (n v : Nat) : List Byte := (List.range n).map (fun i => BitVec.ofNat 8 (v / 2 ^ (8 * (n - 1 - i))))
def beNat (bs : List Byte) : Nat := bs.foldl (fun r b => r * 256 + b.toNat) 0

/-- The keyed hash functions: F is number 0, H is 1, H_msg is 2, PRF is 3. -/
def xmssHash (kind : Nat) (key m : List Byte) : List Byte := shake256 (beBytes 32 kind ++ key ++ m)

/-- A hash address of one tree: its type (0 a one-time signature, 1 an L-tree, 2 the hash tree) and its last four words. -/
structure HashAdr where
  ty : Nat
  a : Nat
  b : Nat
  c : Nat
deriving DecidableEq, Repr

def HashAdr.bytes (x : HashAdr) (mask : Nat) : List Byte :=
  beBytes 12 0 ++ beBytes 4 x.ty ++ beBytes 4 x.a ++ beBytes 4 x.b ++ beBytes 4 x.c ++ beBytes 4 mask

def xmssPrf (seed : List Byte) (x : HashAdr) (mask : Nat) : List Byte := xmssHash 3 seed (x.bytes mask)
def xorBytes (a b : List Byte) : List Byte := (a.zip b).map (fun x => x.1 ^^^ x.2)

/-- Steps `i` to `i + n - 1` of chain `c` of leaf `l`. -/
def wotsChain (seed : List Byte) (l c i n : Nat) (x : List Byte) : List Byte :=
  (List.range n).foldl (fun x j =>
    let a : HashAdr := ⟨0, l, c, i + j⟩
    xmssHash 0 (xmssPrf seed a 0) (xorBytes x (xmssPrf seed a 1))) x

/-- Two nodes hashed into one. -/
def randHash (seed : List Byte) (a : HashAdr) (l r : List Byte) : List Byte :=
  xmssHash 1 (xmssPrf seed a 0) (xorBytes l (xmssPrf seed a 1) ++ xorBytes r (xmssPrf seed a 2))

/-- The digits of a digest and of its checksum: 67 of four bits. -/
def wotsDigits (m : List Byte) : List Nat :=
  let d := m.flatMap (fun b => [b.toNat / 16, b.toNat % 16])
  let sum := (d.map (fun x => 15 - x)).sum
  d ++ [sum / 256 % 16, sum / 16 % 16, sum % 16]

/-- One level of an L-tree: pairs are hashed, an odd node passes up. -/
def ltreePairs (seed : List Byte) (l h : Nat) : Nat → List (List Byte) → List (List Byte)
  | i, a :: b :: r => randHash seed ⟨1, l, h, i⟩ a b :: ltreePairs seed l h (i + 1) r
  | _, r => r

/-- The root of the L-tree over the 67 chain ends: 7 levels. -/
def ltree (seed : List Byte) (l : Nat) (ns : List (List Byte)) : List Byte :=
  (((List.range 7).foldl (fun ns h => ltreePairs seed l h 0 ns) ns)[0]?).getD []

/-- The node number `i` of 32 bytes. -/
def node32 (bs : List Byte) (i : Nat) : List Byte := (bs.drop (32 * i)).take 32

/-- Does the signature of 2,820 bytes over `m` verify under the 68-byte key? -/
def xmssVerify (key m sig : List Byte) : Bool :=
  let root := (key.drop 4).take 32
  let seed := (key.drop 36).take 32
  let idx := beNat (sig.take 4)
  let rest := sig.drop 4
  let d := xmssHash 2 (node32 rest 0 ++ root ++ beBytes 32 idx) m
  let ends := (wotsDigits d).zipIdx.map (fun x => wotsChain seed idx x.2 x.1 (15 - x.1) (node32 rest (1 + x.2)))
  let top := (List.range 20).foldl (fun n k =>
    let other := node32 rest (68 + k)
    let a : HashAdr := ⟨2, 0, k, idx / 2 ^ (k + 1)⟩
    if idx / 2 ^ k % 2 = 0 then randHash seed a n other else randHash seed a other n) (ltree seed idx ends)
  key.length == 68 && sig.length == 2820 && beNat (key.take 4) == 0x12 && decide (idx < 2 ^ 20) && top == root

end Sys2Proof.Machine
end

