-- ==== Sys2Proof/Machine/Preempt.lean ====
section
/-! DEFINITION. Pre-emption, CTXSAVE and CTXLOAD, checkpoints, failure and migration, firmware activation
(chapter 25). A save area's bytes stand in memory, in the places that Table 25.2 gives them; beside them the distributor knows
what it was written from, by the area's address (log 20). -/

namespace Sys2Proof.Machine

/-! ### Save areas (R409) -/

/-- Segments of a save area: offset and bytes with their marks. -/
abbrev Segs := List (Nat × List (Byte × Bool))

/-- An 8-byte word of a save area. -/
def seg8 (off v : Nat) : Nat × List (Byte × Bool) := (off, marked 8 v false)

/-- The four words of a loop counter's state; the last has the loop's place among the active ones in bits [61:60]. -/
def loopSegs (c : Ctx) (i : Fin 3) : Segs :=
  let o := 0x160 + 32 * i.val
  match c.loops.zipIdx.find? (fun l => l.1.lc == i) with
  | some (l, n) => [seg8 o c.lc[i].toNat, seg8 (o + 8) l.remaining, seg8 (o + 16) (wrapNat 32 l.step * 2 ^ 32 + l.loopend.toNat),
      seg8 (o + 24) (2 ^ 63 + n * 2 ^ 60 + l.start.toNat)]
  | none => [seg8 o c.lc[i].toNat]

/-- Marks as bytes, eight to a byte, the first in bit 0. -/
def markBytes (l : List Bool) : List (Byte × Bool) :=
  (List.range ((l.length + 7) / 8)).map (fun i =>
    (BitVec.ofNat 8 (((l.drop (8 * i)).take 8).zipIdx.map (fun b => ofBool b.1 * 2 ^ b.2)).sum, false))

/-- Unpopped bytes in a FIFO of SFILL number `id`. -/
def Mx.unpopped (x : Mx) (b : Bool) (id : Nat) : Nat := ((if b then x.fillsB else x.fillsA).filter (fun y => y.1 == id)).length

/-- An entry for a command of a stream (Table 25.2, 0x0500): its slot word and the values it read at issue. SFILL has no
destination, and that value is its progress: bytes moved, and of these the bytes not popped. -/
def scmdSegs (x : Mx) (q : Nat) (n : Nat) (c : SCmd) : Segs :=
  let o := 0x500 + 128 * (q - 4) + 32 * n
  let v : Nat × Nat := match c.op with
    | .free seq src => (seq.toNat, src)
    | .fill b => (c.done + x.unpopped b c.id * 2 ^ 32, c.src.toNat)
    | _ => (c.dst.toNat, c.src.toNat)
  [seg8 o c.word.toNat, seg8 (o + 8) v.1, seg8 (o + 16) v.2, seg8 (o + 24) c.len]

/-- An entry for an X command: its slot word, what it captured at issue, and how far it has come: cycles waited, cycles at
work, rows or columns popped, and whether it has started. -/
def mcmdSegs (n : Nat) (m : MCmd) : Segs :=
  let o := 0xB28 + 24 * n
  let v : Nat := match m.op with
    | .cfg a w p => a.val + 16 * w.val + 256 * ofBool p
    | .run _ rows pad _ M _ => rows % 2 ^ 16 + M % 2 ^ 16 * 2 ^ 16 + pad % 2 ^ 32 * 2 ^ 32
    | _ => 0
  let work : Nat := match m.age with
    | some a => 2 + ofBool m.bad * 4 + m.popped % 2 ^ 12 * 2 ^ 8 + (a - m.waited) % 2 ^ 16 * 2 ^ 20 + m.waited % 2 ^ 28 * 2 ^ 36
    | none => 0
  [seg8 o m.word.toNat, seg8 (o + 8) v, seg8 (o + 16) (1 + work)]

/-- The matrix configuration: formats, WVALID and what the stationary tile is. -/
def mxWord (x : Mx) : Nat :=
  x.atype.val + x.wtype.val * 2 ^ 4 + ofBool x.padr * 2 ^ 8 + ofBool x.wvalid * 2 ^ 9 + ofBool x.loaded * 2 ^ 10 +
    x.k % 2 ^ 8 * 2 ^ 16 + x.cols.length % 2 ^ 6 * 2 ^ 24 + x.nsel * 2 ^ 32 + x.spans % 2 ^ 8 * 2 ^ 40

/-- The parts of an area that hold the matrix engine (0x0B00, 0x3000 to 0xFFFF), the weights as the bytes they were read
from. -/
def mxSegs (x : Mx) : Segs :=
  let mark (j : Nat) : Nat := ((List.range 8).map (fun i => ofBool (kget ⟨0, false⟩ x.tiles (8 * j + i)).poison * 2 ^ i)).sum
  [seg8 0xB00 (mxWord x), (0xB08, (x.scale.flatMap (toBytes 2)).map (fun b => (b, false))), (0xBE8, markBytes (x.cols.map (·.poison))),
    (0x3000, x.fifoA.map (fun l => (l.val.setWidth 8, l.poison))), (0x4000, x.fifoB.map (fun l => (l.val.setWidth 8, l.poison))),
    (0x5000, ((x.cols.flatMap (·.raw)).take 4096).map (fun l => (l.val.setWidth 8, false))),
    (0x6000, markBytes (x.fifoA.map (·.poison))), (0x6200, markBytes (x.fifoB.map (·.poison))),
    seg8 0x6F00 (x.fifoA.length + x.fifoB.length * 2 ^ 32)] ++
  x.tiles.map (fun e => (0x8000 + 4 * e.1, marked 4 e.2.val.toNat e.2.poison)) ++
  (x.tiles.filter (fun e => e.2.poison)).map (fun e => (0x6400 + e.1 / 8, marked 1 (mark (e.1 / 8)) false))

/-- What an area holds of cluster `k`'s program context (Table 25.2; the places within its parts that the table does not give
are a DESIGN CHOICE, log 20). -/
def State.areaSegs (s : State) (k : Nat) : Segs :=
  let cl := s.cluster k
  let c := cl.prog
  let csr (n : Nat) : Nat := ((s.csrRead k false n).getD 0).toNat
  let plane := (c.plane.zipIdx.map (fun g => g.1.n.val * 2 ^ (4 * g.2))).sum + c.plane.length * 2 ^ 16
  let blk := match cl.block with
    | some b => [seg8 0x248 b.addr, seg8 0x250 b.chain.toNat, seg8 0x258 b.nextK, seg8 0x260 b.trips, seg8 0x268 b.ell,
        seg8 0x270 (match b.link with
          | some l => 2 ^ 63 + l
          | none => 0)]
    | none => []
  [seg8 0 ((s.module (modOf k)).active + 65536 * 2 ^ 32),
    seg8 8 (c.pc.toNat + c.entry * 2 ^ 22 + ofBool cl.block.isSome * 2 ^ 26 + c.runLeft * 2 ^ 32),
    seg8 0x10 (s.strokeOf (modOf k))] ++
  (List.finRange 32).map (fun r => (0x40 + 8 * r.val, marked 8 (c.rdS r).val.toNat (c.rdS r).poison)) ++
  (List.finRange 16).map (fun r => (0x140 + 2 * r.val, marked 2 (c.rdP r).toNat false)) ++
  (List.finRange 3).flatMap (loopSegs c) ++
  ([0x000, 0x001, 0x002, 0x020, 0x021, 0x030, 0x031, 0x032, 0x033, 0x034].zipIdx.map (fun x => seg8 (0x1C0 + 8 * x.2) (csr x.1))) ++
  [seg8 0x210 c.qseq.toNat, seg8 0x218 cl.last, seg8 0x240 plane] ++ blk ++
  (List.range 240).map (fun n => (0x280 + 2 * n, marked 2 (wrapNat 16 (cl.semCount (Fin.ofNat 256 n))) false)) ++
  [(0x460, marked 30 (cl.semLocal.toNat % 2 ^ 240) false)] ++
  (List.finRange 16).map (fun n => seg8 (0x480 + 8 * n.val) (barWord cl.bar[n] + ofBool (c.barArr.getLsb n) * 2 ^ 8)) ++
  (List.finRange 64).flatMap (fun r => (List.finRange 16).map (fun i =>
    (0x1000 + 64 * r.val + 4 * i.val, marked 4 (c.rdV r)[i].val.toNat (c.rdV r)[i].poison))) ++
  [(0x2000, markBytes ((List.finRange 32).map (fun r => (c.rdS r).poison))),
    (0x2008, markBytes ((List.finRange 64).flatMap (fun r => (c.rdV r).toList.map (·.poison))))] ++
  cl.streams.flatMap (fun q => ((q.2.filter (fun x => !x.fw)).take 4).zipIdx.flatMap (fun x => scmdSegs cl.mx q.1 x.2 x.1)) ++
  ((cl.mx.queue.filter (fun m => !m.fw)).take 8).zipIdx.flatMap (fun x => mcmdSegs x.2 x.1) ++ mxSegs cl.mx

/-- An area is written: zeros, then its segments; beside it, what CTXLOAD reads. -/
def State.writeArea (s : State) (k addr : Nat) : State :=
  let zero := s.writeMarked addr (tabulate 65536 (fun _ => (0, false)))
  let s1 := (s.areaSegs k).foldl (fun t x => if x.2.isEmpty then t else t.writeMarked (addr + x.1) x.2) zero
  { s1 with saves := kset s1.saves addr (s.cluster k) }

/-- The bytes of an area alone, so that reading them need not search all of memory. -/
def State.areaOnly (s : State) (addr : Nat) : State :=
  { s with mem := s.mem.filter (fun x => decide (memKey addr ≤ x.1) && decide (x.1 < memKey addr + 65536)) }

/-- The 8-byte word of an area at an offset. -/
def State.areaNum (a : State) (addr off : Nat) : Nat := ofBytes (a.readBytes (addr + off) 8)

/-- Bit `i` of marks that stand at an offset of an area. -/
def State.areaMark (a : State) (addr off i : Nat) : Bool := bitAt (ofBytes (a.readBytes (addr + off + i / 8) 1)) (i % 8)

/-- The stream command that a slot word stands for, with the first two values of its entry. -/
def streamOp (i : Instr) (v w : Nat) : Option (SOp × EClause) :=
  match i with
  | .scopy _ _ _ _ c => some (.copy, c)
  | .sfill _ _ b _ c => some (.fill b, c)
  | .ssend och _ _ _ c => some (.send och, c)
  | .sfree _ _ _ c => some (.free (BitVec.ofNat 32 v) w, c)
  | .swake _ _ _ c => some (.wake, c)
  | .sclose _ c => some (.close, c)
  | .spost _ _ _ _ c => some (.post, c)
  | .sget _ _ _ _ c => some (.get, c)
  | _ => none

/-- Entry `n` of stream `q` in an area, as command `id`. -/
def State.areaScmd (a : State) (addr q n id : Nat) : Option SCmd :=
  let o := 0x500 + 128 * (q - 4) + 32 * n
  let w := a.areaNum addr o
  let v := a.areaNum addr (o + 8)
  let v2 := a.areaNum addr (o + 16)
  let len := a.areaNum addr (o + 24)
  match decSlot 11 w with
  | .ok i => (streamOp i v v2).map (fun x =>
      let filled : Nat := match x.1 with
        | .fill _ => v % 2 ^ 32
        | _ => 0
      let dst : DWord := match x.1 with
        | .fill _ => 0
        | _ => BitVec.ofNat 64 v
      { id := id, op := x.1, dst := dst, src := BitVec.ofNat 64 v2, len := len, gsem := x.2.gsem, ginc := x.2.ginc.toInt
        fw := false, after := [], started := decide (0 < filled), done := filled, ended := decide (0 < filled ∧ len ≤ filled)
        outs := [], reading := none, got := [], buf := [], bad := false, word := BitVec.ofNat 64 w })
  | _ => none

/-- The X command that a slot word stands for, with the value of its entry and a scale table. -/
def matrixOp (i : Instr) (v : Nat) (scale : List Nat) : Option (MOp × EClause) :=
  match i with
  | .mcfg _ c => some (.cfg (Fin.ofNat 16 v) (Fin.ofNat 16 (v / 16)) (bitAt v 8), c)
  | .mldw k n c => some (.ldw (k.val + 1) (n.val + 1) 0, c)
  | .mldwSp _ n nsel c => some (.ldw 128 (n.val + 1) nsel.val, c)
  | .mrun t _ c => some (.run t (fld v 0 16) (fld v 32 32) false (fld v 16 16) scale, c)
  | .mrunSpan t _ c => some (.run t (fld v 0 16) (fld v 32 32) true (fld v 16 16) scale, c)
  | .mzero t c => some (.zero t, c)
  | .madd d a c => some (.add d a, c)
  | _ => none

/-- Entry `n` of the X commands in an area, as command `id`. -/
def State.areaMcmd (a : State) (addr n id : Nat) (scale : List Nat) : Option MCmd :=
  let o := 0xB28 + 24 * n
  let w := a.areaNum addr o
  let f := a.areaNum addr (o + 16)
  match decSlot 10 w, bitAt f 0 with
  | .ok i, true => (matrixOp i (a.areaNum addr (o + 8)) scale).map (fun x =>
      { id := id, op := x.1, gsem := x.2.gsem, ginc := x.2.ginc.toInt, fw := false, after := []
        age := if bitAt f 1 then some (fld f 20 16 + fld f 36 28) else none
        popped := fld f 8 12, waited := fld f 36 28, bad := bitAt f 2, word := BitVec.ofNat 64 w })
  | _, _ => none

/-- The stationary columns of an area, where all their bytes stand there. -/
def State.areaCols (a : State) (addr : Nat) (t : Fin 16) (k n nsel : Nat) : Option (List WCol) :=
  let len := if nsel = 0 then rowBytes t (kpOf k) else 16 + rowBytes t (16 * nsel)
  if n * len > 4096 then none
  else some ((List.range n).map (fun i =>
    let bs := (a.readBytes (addr + 0x5000 + i * len) len).map (fun b => fifoByte (b, false))
    let c := if nsel = 0 then rowDecode t (kpOf k) bs else (sparseCol t nsel bs).getD ⟨[], [], false, false, bs⟩
    { c with poison := a.areaMark addr 0xBE8 i }))

/-- What CTXLOAD reads of the matrix engine from the area at `addr`. From the record `old`, which the area of another address
has not, come what the table has no room for: columns of more than 4,096 bytes, the scale table that a queued MRUN captured,
the owners of FIFO bytes, span rows on their way (log 20). Command numbers from `id` on are free. -/
def State.mxFrom (a : State) (addr id : Nat) (old : Mx) (fills : Bool → List (Nat × Nat)) : Mx :=
  let w := a.areaNum addr 0xB00
  let t : Fin 16 := Fin.ofNat 16 (w / 2 ^ 4)
  let n := a.areaNum addr 0x6F00
  let fifo (off marks len : Nat) : List Lane :=
    (a.readBytes (addr + off) len).zipIdx.map (fun x => fifoByte (x.1, a.areaMark addr marks x.2))
  let scale := (List.range 16).map (fun i => ofBytes (a.readBytes (addr + 0xB08 + 2 * i) 2))
  let tile (m : KMap Lane) (i : Nat) : KMap Lane :=
    let l : Lane := ⟨BitVec.ofNat 32 (ofBytes (a.readBytes (addr + 0x8000 + 4 * i) 4)), a.areaMark addr 0x6400 i⟩
    if l = ⟨0, false⟩ then m else kset m i l
  let mine := old.queue.filter (fun m => !m.fw)
  let captured (i : Nat) : List Nat := match (mine[i]?).map MCmd.op with
    | some (.run _ _ _ _ _ tab) => tab
    | _ => scale
  { old with
    atype := Fin.ofNat 16 w, wtype := t, padr := bitAt w 8, wvalid := bitAt w 9, loaded := bitAt w 10
    k := fld w 16 8, nsel := fld w 32 8, spans := fld w 40 8
    cols := (a.areaCols addr t (fld w 16 8) (fld w 24 6) (fld w 32 8)).getD old.cols
    scale := scale
    fifoA := fifo 0x3000 0x6000 (fld n 0 32), fifoB := fifo 0x4000 0x6200 (fld n 32 32)
    fillsA := fills false, fillsB := fills true
    tiles := (List.range 8192).foldl tile []
    queue := (List.range 8).filterMap (fun i => a.areaMcmd addr i (((mine[i]?).map (·.id)).getD (id + i)) (captured i)) }

/-- The active loops of an area, the innermost first as in `Ctx.loops`. -/
def State.areaLoops (a : State) (addr : Nat) : List Loop :=
  let loop (i : Fin 3) : Option (Nat × Loop) :=
    let o := 0x160 + 32 * i.val
    let w := a.areaNum addr (o + 24)
    let v := a.areaNum addr (o + 16)
    if bitAt w 63 then some (fld w 60 2, ⟨i, a.areaNum addr (o + 8), sext 32 (v / 2 ^ 32), BitVec.ofNat 22 v, BitVec.ofNat 22 w⟩) else none
  let ls := (List.finRange 3).filterMap loop
  (List.range 3).filterMap (fun n => (ls.find? (fun x => x.1 == n)).map (·.2))

/-- The numbers of the graphs in the plane record, oldest last use first (15 R305). -/
def State.areaPlane (a : State) (addr : Nat) : List (Fin 16) :=
  let w := a.areaNum addr 0x240
  (List.range (min 4 (fld w 16 3))).map (fun i => Fin.ofNat 16 (w / 16 ^ i))

/-- The program stream commands of stream `q` in an area, each with the number of its entry; a number that the record has not
comes from `id` on. -/
def State.areaStream (a : State) (addr id : Nat) (old : Cluster) (q : Nat) : List (Nat × SCmd) :=
  let mine := (old.stream q).filter (fun x => !x.fw)
  (List.range 4).filterMap (fun n =>
    (a.areaScmd addr q n (((mine[n]?).map (·.id)).getD (id + 4 * (q - 4) + n))).map (fun c => (n, c)))

/-- A block of which nothing but what an area holds is known. -/
def blankBlock : Block :=
  { addr := 0, chain := 0, trips := 0, S := 0, ii := 1, nodes := [], consts := [], cfgEnd := 0, nextK := 0, lastAdmit := none,
    ports := [], fired := [], buf := [], reserved := 0, ell := 0, link := none, gap := 0, stuck := 0, outs := [], after := [],
    blocked := none }

/-- What CTXLOAD reads from the area at `addr`, written from `old` where a record of it is kept. Command numbers from `id` on
are free. The context goes on at the saved pc and entry slot, so that a WAITARR or ARWAIT in slot B parks again, and a bundle
keeps its stamp (R408). -/
def State.fromArea (s : State) (addr id : Nat) (old : Cluster) : Cluster :=
  let a := s.areaOnly addr
  let num (off n : Nat) : Nat := ofBytes (a.readBytes (addr + off) n)
  let c := old.prog
  let regs := [0x000, 0x001, 0x002, 0x020, 0x021, 0x030, 0x031, 0x032, 0x033, 0x034].zipIdx.foldl
    (fun (c : Ctx) x => c.csrSet x.1 (BitVec.ofNat 64 (num (0x1C0 + 8 * x.2) 8))) c
  let streams := ((List.range 12).map (fun i => (i + 4, a.areaStream addr id old (i + 4)))).filter (fun x => !x.2.isEmpty)
  let owners (b : Bool) : List (Nat × Nat) := streams.flatMap (fun x => x.2.flatMap (fun y =>
    if y.2.op == .fill b then List.replicate (fld (a.areaNum addr (0x508 + 128 * (x.1 - 4) + 32 * y.1)) 32 32) (y.2.id, x.1) else []))
  let fills (b : Bool) : List (Nat × Nat) :=
    let l := if b then old.mx.fillsB else old.mx.fillsA
    if l.isEmpty then owners b else l
  { old with
    prog := { regs with
      park := .run
      unstamped := false
      pc := BitVec.ofNat 22 (num 8 8)
      entry := fld (num 8 8) 22 4
      runLeft := num 12 4
      loops := a.areaLoops addr
      lc := Vector.ofFn (fun i => BitVec.ofNat 64 (num (0x160 + 32 * i.val) 8))
      s := Vector.ofFn (fun r => ⟨BitVec.ofNat 64 (num (0x40 + 8 * r.val) 8), a.areaMark addr 0x2000 r.val⟩)
      p := Vector.ofFn (fun r => BitVec.ofNat 16 (num (0x140 + 2 * r.val) 2))
      v := Vector.ofFn (fun r => Vector.ofFn (fun i =>
        ⟨BitVec.ofNat 32 (num (0x1000 + 64 * r.val + 4 * i.val) 4), a.areaMark addr 0x2008 (16 * r.val + i.val)⟩))
      qseq := BitVec.ofNat 32 (num 0x210 4)
      barArr := BitVec.ofNat 16 (((List.range 16).map (fun n => fld (num (0x480 + 8 * n) 8) 8 1 * 2 ^ n)).sum) }
    last := num 0x218 8
    block := if bitAt (num 8 8) 26 then some { (old.block.getD blankBlock) with
        addr := num 0x248 8
        chain := BitVec.ofNat 8 (num 0x250 8)
        nextK := num 0x258 8
        trips := num 0x260 8
        ell := num 0x268 8
        link := if bitAt (num 0x270 8) 63 then some (num 0x270 8 % 2 ^ 63) else none } else none
    sem := Vector.ofFn (fun i => if i.val < 240 then sext 16 (num (0x280 + 2 * i.val) 2) else old.sem[i])
    semLocal := BitVec.ofNat 256 (num 0x460 30 + old.semLocal.toNat / 2 ^ 240 * 2 ^ 240)
    bar := Vector.ofFn (fun i =>
      let w := num (0x480 + 8 * i.val) 8
      ⟨fld w 24 8, fld w 16 8, bitAt w 1, bitAt w 0, bitAt w 4⟩)
    streams := streams.map (fun x => (x.1, x.2.map (·.2)))
    mx := a.mxFrom addr (id + 48) old.mx fills }

/-- LAYOUT and LENGTH of the area at an address. -/
def State.areaLayout (s : State) (addr : Nat) : Nat := fld (s.readWord addr).toNat 0 16
def State.areaLength (s : State) (addr : Nat) : Nat := fld (s.readWord addr).toNat 32 32

/-! ### Stopping (R404) -/

/-- A started SFILL that R404 lets stop: it waits for room, or for the popping of what it has pushed. -/
def SCmd.waits (c : SCmd) (x : Mx) : Bool :=
  match c.op with
  | .fill b => c.reading.isNone && (c.ended || decide (fifoRoom x b = 0))
  | _ => false

/-- A started MLDW or MRUN of cluster `k` that waits for a FIFO row, or in a span for a row from the west. -/
def MCmd.waits (m : MCmd) (k : Nat) (c : Cluster) : Bool :=
  let x := c.mx
  match m.op with
  | .ldw kk n nsel => decide (m.popped < n) &&
      decide (x.fifoB.length < (if nsel = 0 then rowBytes x.wtype (kpOf kk) else 16 + rowBytes x.wtype (16 * nsel)))
  | .run _ rows _ span _ _ => decide (m.popped < rows) && (if span && decide (colOf k > (regionOf k c).2.1) then x.rowsIn.isEmpty
      else decide (x.fifoA.length < rowBytes x.atype (if x.nsel = 0 then kpOf x.k else 128)))
  | _ => false

/-- Steps 1 to 3 of R404 are over for the program context of cluster `k`: it stands at a bundle boundary, nothing of it is in
flight, the commands it started have completed or wait, and the admitted iterations of its block have completed. -/
def State.progStopped (s : State) (k : Nat) : Bool :=
  let cl := s.cluster k
  let c := cl.prog
  c.atBoundary && c.pend.isEmpty && c.post.isEmpty && c.rest.isEmpty && c.holds.all (fun h => s.allMet k h.deps) && c.fault.isNone &&
    c.faultQ.isEmpty && cl.semNext.isEmpty &&
    cl.streams.all (fun q => q.2.all (fun x => x.fw || !x.started || x.waits cl.mx)) &&
    cl.mx.queue.all (fun m => m.fw || m.age.isNone || m.waits k cl) &&
    (match cl.block with
      | none => true
      | some b => b.blocked.isSome || s.admittedDone k b)

/-- The program context passes on from a bundle it has committed, so that its entry slot is 0 or 13. -/
def Ctx.settle (c : Ctx) : Ctx := if c.entry = 14 ∧ c.park = .run then c.advanceAt 0 else c

/-- What a restored context is: everything the area holds; channels, wake words, the firmware context and the
cluster's own tables stay (R405); the configuration of the phase is the distributor's. -/
def restored (old now : Cluster) : Cluster :=
  let q := (List.range 16).foldl (fun (m : KMap (List SCmd)) i =>
    let l := ((old.stream i).filter (fun c => !c.fw)) ++ now.stream i
    if l.isEmpty then kdel m i else kset m i l) now.streams
  { now with
    prog := { old.prog with plane := [], holds := [], fences := [], strokes := [] }
    sem := Vector.ofFn (fun i => if i.val < 240 then old.sem[i] else now.sem[i])
    semLocal := old.semLocal
    bar := old.bar
    last := old.last
    mx := { old.mx with queue := (old.mx.queue.filter (fun m => !m.fw)).map (fun m => { m with after := [] }) ++
      now.mx.queue.filter (fun m => m.fw) }
    streams := q.map (fun x => (x.1, x.2.map (fun c => if c.started then c else { c with after := [] })))
    sbars := []
    done := false
    block := none }

/-- The graphs of a plane reloaded in their order of last use (15 R305): one that is invalid or fails is left out. -/
def State.reloadPlane (s : State) (k : Nat) (ns : List (Fin 16)) : State :=
  ns.foldl (fun s n => match (s.cluster k).cotAddr n with
    | none => s
    | some a => match s.loadGraph k false a [] with
      | some (t, _, _) => t
      | none => s) s

/-- A saved block is configured anew from its header (13 R267), with its chain number, k, T, ℓ and L as saved; the numbers
reserved are those between ℓ and k. The values of CONST nodes that ARRAY read come back from the record (log 20). A header
or a node that is no longer legal is reported as at ARRAY's issue, asynchronously (DESIGN CHOICE, log 20). -/
def State.restoreBlock (s : State) (k : Nat) (o : Block) : State :=
  match s.readBlock k o.addr with
  | none => s.asyncFault k false 0x05 (BitVec.ofNat 32 o.addr)
  | some w =>
    let back (ns : List BNode) : Block :=
      let b := w.block o.addr o.chain o.trips (s.cyc k) (s.ctxOf k false) [] ns none
      { b with
        consts := if o.nodes.isEmpty then b.consts else o.consts, nextK := o.nextK, ell := o.ell, link := o.link
        fired := ns.zipIdx.map (fun x => (x.2, o.nextK))
        reserved := (o.nextK * w.S + 2 ^ 24 - 1 - o.ell) % 2 ^ 24 }
    match s.readNodes k w w.words [] with
    | .inl ns => s.updCluster k (fun c => { c with block := some (back ns) })
    | .inr x =>
      (s.updCluster k (fun c => { c with block := some { back [] with blocked := some (blockedReport k x) } })).failCox k 0x08

/-- CTXLOAD's restoring of cluster `k` from a saved cluster, with the graph numbers of its plane. -/
def State.restore (s : State) (k : Nat) (old : Cluster) (ns : List (Fin 16)) : State :=
  let s := (s.updCluster k (restored old)).reloadPlane k ns
  match old.block with
  | some b => s.restoreBlock k b
  | none => s

/-! ### CTXSAVE and CTXLOAD (R406, R407) -/

/-- The cox that binds a cluster. -/
def State.coxOf (s : State) (k : Nat) : Option (Nat × Cox) :=
  match (s.cluster k).bind with
  | none => none
  | some b => (s.dieAt (dieKey k)).coxes.find? (fun x => x.1 == b.cox)

/-- The checks on the operand: the fault raised, or the area's address. -/
def State.swapArea (s : State) (a : SReg) : State ⊕ Nat :=
  let x := s.ctx.rdS a
  let v := x.val.toNat
  if !s.curFw then .inl (s.raise 0x04 s.word)
  else if x.poison then .inl (s.poisonUse v)
  else if v ≥ 2 ^ 45 ∨ modOf (paCluster v) ≠ modOf s.cur then .inl (s.raise 0x21 (BitVec.ofNat 32 v) (v % 2 ^ 48))
  else if v % 65536 ≠ 0 then .inl (s.raise 0x20 (BitVec.ofNat 32 v) v)
  else .inr v

def execCtxsave (a : SReg) (s : State) : Out :=
  .next (
    match s.swapArea a with
    | .inl t => t
    | .inr v =>
      if s.me.bind.isNone then s.illegalField
      else s.updCtx (fun c => { c with swap := some ⟨v, true, s.slot, none⟩ }))

/-- Has the distributor rebound the launch of the area to this cluster? It knows the launch by the area's address; of bytes
that firmware has brought to another place it does not, and takes them for those of the launch that is being loaded
(DESIGN CHOICE, log 20). -/
def State.rebound (s : State) (k addr : Nat) : Bool :=
  match s.coxOf k with
  | none => false
  | some (_, x) =>
    (match x.mode with
      | .loading _ => true
      | _ => false) && (match s.saves.find? (fun y => y.1 == addr) with
        | none => true
        | some (_, old) => (match old.bind, (s.cluster k).bind with
          | some a, some b => a.key == b.key && a.index == b.index
          | _, _ => false))

def execCtxload (a : SReg) (s : State) : Out :=
  .next (
    match s.swapArea a with
    | .inl t => t
    | .inr v =>
      if s.areaLayout v ≠ (s.module (modOf s.cur)).active ∨ s.areaLength v ≠ 65536 then
        s.raise 0x02 (BitVec.ofNat 32 (s.areaLayout v))
      else if !s.rebound s.cur v then s.illegalField
      else s.updCtx (fun c => { c with swap := some ⟨v, false, s.slot, none⟩ }))

/-- A member reports to its cox: saved, or loaded. -/
def State.report (s : State) (k : Nat) : State :=
  match s.coxOf k with
  | none => s
  | some (i, x) => s.updDie (dieKey k) (fun d => { d with coxes := kset d.coxes i { x with mode := match x.mode with
      | .saving l => .saving (l ++ [k])
      | .loading l => .loading (l ++ [k])
      | .run => .run } })

/-- The operation that a `Dep` names. -/
def Dep.op : Dep → Nat
  | .loads id => id
  | .wr _ id => id
  | .perf id => id
  | .touch _ _ id => id
  | .path _ id => id

/-- What CTXSAVE waits for as a release at .sys: what either context has issued, but for the commands of the program context
that have not started or have stopped, which are saved (R404, R407). -/
def State.saveDeps (s : State) (k : Nat) : List Dep :=
  let cl := s.cluster k
  let kept := cl.streams.flatMap (fun q => (q.2.filter (fun c => !c.fw && (!c.started || c.waits cl.mx))).map (·.id))
  (s.releaseDeps k .sys).filter (fun d => !kept.contains d.op)

/-- The area at `addr` is loaded into cluster `k`. -/
def State.loadArea (s : State) (k addr : Nat) : State :=
  let old := ((s.saves.find? (fun x => x.1 == addr)).map (·.2)).getD Cluster.reset
  let new := s.fromArea addr s.nextId old
  let t := { s with nextId := s.nextId + 56 }.restore k new ((s.areaOnly addr).areaPlane addr)
  { t with saves := kdel t.saves addr }

/-- The CTXSAVE or CTXLOAD of a cluster goes on. Reading the graphs of the plane waits for the accesses of q0 to q3 (15 R299,
R305). -/
def State.swapGo (s : State) (k : Nat) : State :=
  match (s.cluster k).fw.swap with
  | none => s
  | some w =>
    let finish (s : State) : State := (s.updCluster k (fun c => { c with fw := { c.fw with swap := none } })).report k
    if w.save then
      match w.ids with
      | some ds => if s.allMet k ds then finish s else s
      | none =>
        if !s.progStopped k then s
        else
          let s := s.updCluster k (fun c => ({ c with prog := c.prog.settle } : Cluster).depositAll (s.cyc k) (s.strokeOf (modOf k)))
          let ds := s.saveDeps k
          let s := s.writeArea k w.addr
          s.updCluster k (fun c => { c with fw := { c.fw with swap := some { w with ids := some ds } } })
    else if !(s.coreOps k).isEmpty then s
    else finish (s.loadArea k w.addr)

/-! ### Pre-empting and rebinding (R403 to R405) -/

/-- Do two launches of a die share a cluster? -/
def overlaps (a b : Launch) : Bool :=
  a.die == b.die && decide (a.row0 < b.row0 + b.rows) && decide (b.row0 < a.row0 + a.rows) &&
    decide (a.col0 < b.col0 + b.cols) && decide (b.col0 < a.col0 + a.cols)

/-- The save area of cluster `k` for a launch of queue `q`; 0 is none. -/
def Cluster.areaFor (c : Cluster) (q : Nat) : Nat := kget 0 c.savearea q

/-- May the launch of a cox be pre-empted for launch `n` (R403)? -/
def State.mayPreempt (s : State) (x : Cox) (n : Launch) : Bool :=
  let v := x.launch
  (v.pclass == 2 || (v.pclass == 1 && decide (n.prio > v.prio))) && x.fail.isNone && decide (x.phase < 8) &&
    x.members.all (fun k =>
      let c := s.cluster k
      !c.det && c.prog.fault.isNone && c.fw.fault.isNone && c.areaFor v.q != 0 && s.saves.all (fun a => a.1 != c.areaFor v.q))

/-- A member begins to stop. The shipped firmware of one whose firmware context runs no program of its own executes its
CTXSAVE. -/
def State.beginSave (s : State) (q k : Nat) : State :=
  s.updCluster k (fun c => if c.fw.park = .halted then { c with fw := { c.fw with swap := some ⟨c.areaFor q, true, 13, none⟩ } } else c)

/-- A member that has been saved is reclaimed. -/
def Cluster.unbind (c : Cluster) : Cluster :=
  { c with
    bind := none, scPos := [], block := none, ckptHold := false, prog := { c.prog with park := .halted }
    streams := (c.streams.map (fun q => (q.1, q.2.filter (fun x => x.fw)))).filter (fun q => !q.2.isEmpty)
    mx := { c.mx with queue := c.mx.queue.filter (fun x => x.fw) } }

/-- PREEMPT of cox `cox` on die `g`: it and every other cox whose region the selected launch overlaps begin to stop their
members, if all of them may be pre-empted; or, all saved, it is reclaimed and its launch is ready again, or over, if it
has been aborted meanwhile (24 R394). -/
def execPreempt (g cox : Nat) (s : State) : Out :=
  .next (
    match (s.dieAt g).coxes.find? (fun x => x.1 == cox) with
    | none => s
    | some (_, x) =>
      match x.mode with
      | .run =>
        (match (s.dieAt g).sel with
          | none => s
          | some n =>
            let lap := (s.dieAt g).coxes.filter (fun y => overlaps y.2.launch n)
            if n.tr.isSome && !(s.module (g / 4)).fwBusy && overlaps x.launch n && lap.all (fun y => y.2.mode == .run && s.mayPreempt y.2 n) then
              lap.foldl (fun s y =>
                y.2.members.foldl (fun s k => s.beginSave y.2.launch.q k)
                  (s.updDie g (fun d => { d with coxes := kset d.coxes y.1 { y.2 with mode := .saving [] } }))) s
            else s)
      | .saving l =>
        if !x.members.all l.contains then s
        else if x.fail.isSome then
          let areas := x.members.map (fun k => (s.cluster k).areaFor x.launch.q)
          { s.endLaunch g cox x with saves := s.saves.filter (fun y => !areas.contains y.1) }
        else
          let keep := x.members.map (fun k => (k, (s.cluster k).padm, (s.cluster k).phbase))
          let s := x.members.foldl (fun s k => s.updCluster k Cluster.unbind) s
          let v := { x.launch with saved := some ⟨x.members, x.phase, keep⟩, tr := none }
          (s.updDie g (fun d => { d with coxes := kdel d.coxes cox })).updModule (g / 4) (fun d => { d with ready := d.ready ++ [v] })
      | .loading _ => s)

/-- A member of a pre-empted launch is bound again: its phase goes on with the configuration it had, and nothing of its
channels is written (R405). -/
def Cluster.rebindTo (c : Cluster) (b : Binding) (d : Desc) (v : Saved) (q k : Nat) (pos : List Nat) : Cluster :=
  let x := ((v.keep.find? (fun x => x.1 == k)).map (·.2)).getD (0, 0)
  { c with
    bind := some b, phases := d.phases, phase := v.phase, launch := q, done := false, ibuf := [], wanted := [], scPos := pos
    det := ((d.phases[v.phase]?).map (·.det)).getD false, fmtcfg := ((d.phases[v.phase]?).map (·.fmt)).getD 0
    padm := x.1, phbase := x.2
    fw := if c.fw.park = .halted then { c.fw with swap := some ⟨c.areaFor q, false, 13, none⟩ } else c.fw }

/-- Senders to a member that is bound again find their receiver bound (18 R324); channels that are valid stay as they are. -/
def State.linkAgain (s : State) (k : Nat) : State :=
  ((s.cluster k).ich.filter (fun x => x.2.v)).foldl (fun s x =>
    let j := paCluster x.2.src
    let o := (ochOf x.2.src).val
    if (kget Och.reset (s.cluster j).och o).v then s else s.linkOch j o) s

/-- PREEMPT_REBIND on die `g`: the selected pre-empted launch is bound to its clusters again, with no channel state, or
fails where one of them has been fenced meanwhile (24 R397);
or cox `idx`, all of whose members have loaded, resumes them in one cycle. -/
def execPreemptRebind (g idx : Nat) (s : State) : Out :=
  .next (
    match (s.dieAt g).coxes.find? (fun x => x.1 == idx) with
    | some (_, x) =>
      (match x.mode with
        | .loading l =>
          if x.members.all l.contains then s.updDie g (fun d => { d with coxes := kset d.coxes idx { x with mode := .run } }) else s
        | _ => s)
    | none =>
      match (s.dieAt g).sel with
      | none => s
      | some l =>
        match l.saved with
        | none => s
        | some v =>
          let m := g / 4
          if v.members.any (fun k => (s.cluster k).fenced) then s.failSel g l 0x06
          else match l.tr, (s.dieAt g).freeCox with
            | some d, some cox =>
              if !s.membersFree v.members ∨ (s.module m).fwBusy then s
              else match wheelAllot d.scpos (s.wheelUsed m) v.members with
                | none => s
                | some pos =>
                  let s := v.members.foldl (fun s k => s.updCluster k (fun c => c.rebindTo
                    ⟨cox, l.row0, l.col0, l.rows, l.cols, l.index k, l.key⟩ d v l.q k (((pos.find? (fun x => x.1 == k)).map (·.2)).getD []))) s
                  let s := v.members.foldl State.linkAgain s
                  s.updDie g (fun x => { x with sel := none, coxes := kset x.coxes cox ⟨l, v.phase, v.members, none, none, .loading []⟩ })
            | _, _ => s)

/-- A member that is fenced before its launch is bound fails the launch in that cycle (22 R374). -/
def State.fenceDue (s : State) (m : Nat) : State :=
  (List.range 4).foldl (fun s i => match (s.dieAt (4 * m + i)).sel with
    | none => s
    | some l => if l.tr.isSome ∧ (l.members m).any (fun k => (s.cluster k).fenced) then s.failSel (4 * m + i) l 0x06 else s) s

/-! ### Checkpoints (R412, R413) -/

/-- Is an offset of a cluster's scratchpad in a writable LOCAL extent of its launch? -/
def Cluster.localOffset (c : Cluster) (off : Nat) : Bool :=
  c.phases.any (fun p => p.ext.any (fun e => e.v && e.kind == .local && e.w && decide (e.pbase ≤ off) && decide (off < e.pbase + e.len)))

/-- The dirty-range records since the last checkpoint, in the order of their numbers, as offsets of the cluster's own
scratchpad, upper ends excluded. Every byte of the LOCAL extents where OVF is set or a record is gone from the ring, and in
the first checkpoint of a launch (DESIGN CHOICE, log 39). -/
def State.dirtyRanges (s : State) (k : Nat) : List (Nat × Nat) :=
  let c := s.cluster k
  let b := clusterBase k
  let n := (c.drlSeq - c.ckptDrl).toNat
  let known := s.images.any (fun x => x.1 == k && c.bind.any (fun y => y.key == x.2.launch.key))
  if c.drlOvf ∨ 64 < n ∨ !known then
    (c.phases.flatMap (·.ext)).filterMap (fun e => if e.v && e.kind == .local && e.w then some (e.pbase, e.pbase + e.len) else none)
  else (List.range n).filterMap (fun i =>
    let r := kget (0, 0, 0, 0, 0) c.drl ((c.drlHead + 128 - (n - i)) % 64)
    let lo := max r.2.1 b
    let hi := min (r.2.2.1 + 1) (b + 2 ^ 22)
    if lo < hi then some (lo - b, hi - b) else none)

/-- The content of the LOCAL extents of cluster `k` at its checkpoint: within `rs` as it is now, elsewhere as in the image
before. -/
def State.localContent (s : State) (k : Nat) (rs : List (Nat × Nat)) : List Host.Cell × List Nat :=
  let c := s.cluster k
  let b := clusterBase k
  let hit (o : Nat) : Bool := c.localOffset o && rs.any (fun r => decide (r.1 ≤ o) && decide (o < r.2))
  let hitWord (w : Nat) : Bool := (List.range 8).any (fun i => hit (8 * w + i))
  let mine (a : Nat) : Bool := decide (b ≤ a) && decide (a < b + 2 ^ 22)
  let old : List Host.Cell × List Nat := match s.images.find? (fun x => x.1 == k) with
    | some (_, i) => (i.mem, i.pmem)
    | none => ([], [])
  (old.1.filter (fun x => !hit x.1) ++ ((s.mem.filter (fun x => mine x.1)).map (fun x => (x.1 - b, x.2))).filter (fun x => hit x.1),
    old.2.filter (fun w => !hitWord w) ++ ((s.pmem.filter (fun w => mine (8 * w))).map (fun w => w - b / 8)).filter hitWord)

/-- The ranges copied into a staging area, one after the other from `off` on (DESIGN CHOICE, log 39), as far as the cluster's
scratchpad reaches. -/
def State.copyRanges (s : State) (k off : Nat) : List (Nat × Nat) → State
  | [] => s
  | (lo, hi) :: r =>
    let n := min (hi - lo) (2 ^ 22 - off)
    let t := if n = 0 then s else s.writeMarked (clusterBase k + off) (s.readMarked (clusterBase k + lo) n)
    t.copyRanges k (off + n) r

/-- Is the bundle at the pc of the program context one with WAITARR in its B slot? -/
def State.atWaitarr (s : State) (k : Nat) : Bool :=
  let c := (s.cluster k).prog
  c.park == .run && c.runLeft == 0 && c.entry != 14 && (s.slotsAt k c.pc.toNat).any (fun x => x.1 == 13 && (match decSlot 13 x.2 with
    | .ok (.waitarr _ _) => true
    | _ => false))

/-- Is a checkpoint of cluster `k` due at the WAITARR about to issue? The placement names a staging area and a buddy, which has
not failed. -/
def State.checkpointDue (s : State) (k : Nat) : Bool :=
  let c := s.cluster k
  let d := s.module (modOf k)
  c.ckpt != 0 && !d.fwBusy && !c.det && c.bind.isSome && c.staging != 0 && c.buddy.any (fun b => !d.failed.contains b) && !c.ckptOut &&
    decide (s.strokeOf (modOf k) ≥ c.ckptAt + c.ckpt.toNat) && c.ich.all (fun x => !x.2.v || x.2.nheld == 0) && s.atWaitarr k

/-- The program context is held at its WAITARR for a checkpoint. -/
def Cluster.holdCkpt (c : Cluster) : Cluster :=
  { c with ckptHold := true, prog := { c.prog with entry := 13, unstamped := true, strokes := [] } }

/-- The checkpoint of a context held at its WAITARR, once what it started is over as R404 says: the save area and the ranges
go into the staging area, OVF is cleared and the context is released; the copy for the buddy is due. A context that has left
its WAITARR meanwhile is held no longer. -/
def execCheckpoint (k : Nat) (s : State) : Out :=
  .next (
    let c := s.cluster k
    let free (s : State) : State := s.updCluster k (fun c => { c with ckptHold := false })
    if !c.ckptHold then s
    else if c.prog.park ≠ .run ∨ c.prog.entry ≠ 13 then free s
    else if !s.progStopped k then s
    else match s.coxOf k, c.buddy with
      | some (_, x), some b =>
        let at_ := s.cyc k
        let s := s.updCluster k (fun c => (c.depositAll at_ (s.strokeOf (modOf k))).flushRecords (at_ + 1))
        let rs := s.dirtyRanges k
        let t := s.writeArea k c.staging
        let off := c.staging - clusterBase k
        let img := s.localContent k rs
        let size := 65536 + (rs.map (fun r => r.2 - r.1)).sum
        let i : Image := ⟨t.readBytes c.staging 65536, img.1, img.2, s.cluster k, x.launch, b, (size + 63) / 64⟩
        let u := t.copyRanges k (off + 65536) rs
        { free (u.updCluster k (fun c => { c with
            drlOvf := false, ckptOut := true, ckptSeq := c.ckptSeq + 1, ckptAt := s.strokeOf (modOf k), ckptDrl := c.drlSeq })) with
          saves := kdel u.saves c.staging, staged := kset u.staged k i }
      | _, _ => free s)

/-- Is a part of the copy of cluster `k`'s checkpoint not yet acknowledged? -/
def State.copyOut (s : State) (k : Nat) : Bool := s.net.any (fun m => m.src == k && m.kind.isCopy)

/-- The copy of a checkpoint goes on, as far as MIGBUD lets it in this stroke (19 R353), as posted writes of at most 256 bytes to
the buddy; once the last of them is acknowledged it is the committed image. -/
def execCheckpointCommit (k : Nat) (s : State) : Out :=
  .next (
    let d := s.module (modOf k)
    match s.staged.find? (fun x => x.1 == k) with
    | none => s.updCluster k (fun c => { c with ckptOut := false })
    | some (_, i) =>
      let n := min (min i.left 4) (d.migbud - d.migUsed)
      if i.left = 0 then
        if s.copyOut k then s
        else { s.updCluster k (fun c => { c with ckptOut := false }) with images := kset s.images k i, staged := kdel s.staged k }
      else if n = 0 then s
      else
        let t := (s.updModule (modOf k) (fun d => { d with migUsed := d.migUsed + n })).sendAs (.slot true 16) k (4096 * i.holder) 0
          (.ckpt (64 * n)) .out [] [] false
        { t with staged := kset t.staged k { i with left := i.left - n } })

/-! ### Channels rebound (R415) -/

def State.updOch (s : State) (k o : Nat) (f : Och → Och) : State :=
  s.updCluster k (fun c => { c with och := kset c.och o (f (kget Och.reset c.och o)) })
def State.updIch (s : State) (k i : Nat) (f : Ich → Ich) : State :=
  s.updCluster k (fun c => { c with ich := kset c.ich i (f (kget Ich.reset c.ich i)) })

/-- Has module m been declared failed? -/
def State.isFailed (s : State) (m : Nat) : Bool := s.md.any (fun x => x.1 != m && x.2.failed.contains m)

/-- Packets of a channel from cluster `k` on their way to one of the clusters `js`; with `back` also those whose
acknowledgement is on its way. -/
def State.packetsOut (s : State) (k : Nat) (js : List Nat) (i : Nat) (back : Bool) : List Msg :=
  s.net.filter (fun m => m.src == k && js.contains m.dst && (back || !m.phase.performed) && (match m.kind with
    | .packet c _ _ _ => c.val == i
    | _ => false))

/-- Free returns of a channel on their way from one of the clusters `js` to one of `ks`. -/
def State.freesLost (s : State) (ks js : List Nat) (o : Nat) : List Nat :=
  (s.net.filter (fun m => js.contains m.src && ks.contains m.dst && (match m.kind with
    | .freeRet c _ => c.val == o
    | _ => false))).map (·.id)

def State.dropAll (s : State) (ids : List Nat) : State := { s with net := s.net.filter (fun m => !ids.contains m.id) }

/-- Sequence number of a packet. -/
def Msg.seq (m : Msg) : Word :=
  match m.kind with
  | .packet _ q _ _ => q
  | _ => 0

/-- Packet `q` of a retained channel goes out again from its mirror without credit; an SSEND that still waits for the packet
`old` waits for this one. -/
def State.resend (s : State) (k o : Nat) (q : Word) (old : Option Msg) : State :=
  let h := kget Och.reset (s.cluster k).och o
  let dst := paCluster h.dest
  let bs := s.readMarked (clusterBase k + h.mirror + q.toNat % h.slots * h.sbytes) (kget h.sbytes h.lens (q.toNat % h.slots))
  let id := s.nextId
  let by_ := (old.map (·.by_)).getD (.slot true 16)
  let s := (s.send by_ k dst 0 (.packet h.ich q bs (bs.any (·.2))) [] (s.channelOut k dst h.ich)).routeLast id h.route
  match by_, old with
  | .engine e c, some m => s.updCmd k e c (fun x => { x with outs := x.outs.map (fun i => if i = m.id then id else i) })
  | _, _ => s

/-- The sequence numbers that SSENDs of channel `o` have taken but whose packets have not yet left. -/
def State.unsent (s : State) (k o : Nat) : List Word :=
  (s.cluster k).streams.flatMap (fun q => (q.2.filter (fun c => c.started && !c.ended && (match c.op with
    | .send x => x.val == o
    | _ => false))).map (fun c => BitVec.ofNat 32 c.dst.toNat))

/-- The packets in a retained channel's mirror, from `a` to the sender's SEQ − 1, are replayed in order; SSENDs that wait for a
packet `lost` on the old route, which the receiver has had, are done with it. -/
def State.replay (s : State) (k o : Nat) (a : Word) (lost : List Msg) : State :=
  let h := kget Och.reset (s.cluster k).och o
  let still := s.unsent k o
  let qs := ((List.range (h.seq - a).toNat).map (fun i => a + BitVec.ofNat 32 i)).filter (fun q => !still.contains q)
  let s := (lost.filter (fun m => !qs.contains m.seq)).foldl (fun s m => match m.by_ with
    | .engine e c => s.updCmd k e c (fun x => { x with outs := x.outs.filter (fun i => i != m.id) })
    | _ => s) s
  qs.foldl (fun s q => s.resend k o q (lost.find? (fun m => m.seq == q))) s

/-- The rows of R415's table: the end that moved is the receiver, neither, or the sender. -/
inductive Moved where
  | receiver | neither | sender
deriving DecidableEq, Repr

/-- Outbound channel `o` of cluster `k` is rebound to inbound channel `i` of cluster `j`; before that they were `ok` and `oj`.
Packets and free returns on the old route are gone, but for the packets of a channel that is not retained, which has no
mirror: they go on by the new route (DESIGN CHOICE, log 64). -/
def State.rebind (s : State) (mv : Moved) (k o j i ok oj : Nat) : State :=
  let h0 := kget Och.reset (s.cluster k).och o
  let d := kget Ich.reset (s.cluster j).ich i
  let route := s.fixedRoute (modOf j) 8 (modOf k)
  let lost := s.packetsOut k [j, oj] i (mv == .receiver)
  let gone := (if ok = k then [] else s.packetsOut ok [j, oj] i false).map (·.id) ++ s.freesLost [k, ok] [j, oj] o
  let s := s.dropAll (gone ++ if h0.ret then lost.map (·.id) else [])
  let s : State := if h0.ret then s else { s with net := s.net.map (fun m =>
    if lost.any (fun x => x.id == m.id) then { m with dst := j, route := s.fixedRoute (modOf j) 8 m.loc, via := none, left := 0 } else m) }
  let base (h : Och) : Och := { h with v := true, route := route, dest := d.phys, ich := Fin.ofNat 16 i }
  let held : Word := BitVec.ofNat 32 (d.narr + d.nheld)
  let again (s : State) (a : Word) : State :=
    let t := s.updOch k o (fun h => { base h with ackseq := a, credit := h.slots - (h.seq - a).toNat })
    if h0.ret then t.replay k o a lost else t
  match mv with
  | .receiver =>
    again (s.updIch j i (fun x => { x with
      head := 0, narr := 0, nheld := 0, tags := [], expseq := h0.ackseq, src := ochAddr k o, v := true })) h0.ackseq
  | .neither => again s (d.expseq - held)
  | .sender =>
    (s.updIch j i (fun x => { x with src := ochAddr k o })).updOch k o (fun h => { base h with
      seq := d.expseq, ackseq := d.expseq - held, credit := h.slots - (d.narr + d.nheld), lens := [] })

/-- A route with a link that is down, or has been since the channel was bound. -/
def State.broken (s : State) (r : List Nat) : Bool := r.any (fun x => decide (brokenBit ≤ x) || !(s.link (x / 96) (x % 96)).up)

/-- Does a route end in module `d`? -/
def State.reaches (s : State) (r : List Nat) (d : Nat) : Bool :=
  (r.getLast?.bind (fun x => s.partner (x / 96) (x % 96))).map (· / 96) == some d

/-- Outbound channel `o` of cluster `k` has lost its route while both its modules are there; there is another, and every SFREE
of its receiver has completed: it is to be rebound. Its receiver and the channel there. -/
def State.brokenChannel (s : State) (k o : Nat) : Option (Nat × Nat) :=
  let h := kget Och.reset (s.cluster k).och o
  let j := paCluster h.dest
  let frees := (s.cluster j).streams.any (fun q => q.2.any (fun c => match c.op with
    | .free _ src => src == ochAddr k o
    | _ => false))
  if h.v ∧ s.broken h.route ∧ !frees ∧ !s.isFailed (modOf k) ∧ !s.isFailed (modOf j) ∧
      s.reaches (s.fixedRoute (modOf j) 8 (modOf k)) (modOf j) then some (j, h.ich.val) else none

/-- The supervising firmware rebinds the channels that have lost their routes. -/
def State.rebindBroken (s : State) : State :=
  (s.cl.flatMap (fun x => x.2.och.map (fun o => (x.1, o.1)))).foldl (fun s x => match s.brokenChannel x.1 x.2 with
    | some (j, i) => s.rebind .neither x.1 x.2 j i x.1 j
    | none => s) s

/-- Has it any to rebind? -/
def State.routesBroken (s : State) : Bool := s.cl.any (fun x => x.2.och.any (fun o => (s.brokenChannel x.1 o.1).isSome))

/-! ### Failure and migration (R414) -/

/-- Has every link whose partner is module m gone down? -/
def State.cutOff (s : State) (m : Nat) : Bool :=
  s.wires.any (fun w => w.2 / 96 == m) && s.wires.all (fun w => w.2 / 96 != m || !(s.link (w.1 / 96) (w.1 % 96)).up)

/-- Does the supervising firmware declare module m failed (R414)? One that has lost the time base it treats so too (19
R355). -/
def State.gone (s : State) (m : Nat) : Bool := s.cutOff m || (s.module m).lost

/-- A state in which nothing but the bytes of a save area stands, at address 0. -/
def areaState (bs : List Byte) : State := State.reset.writeMarked 0 (bs.map (fun b => (b, false)))

/-- The bytes and marks of a cluster's writable LOCAL extents as an image has them, and no others. -/
def State.placeBytes (s : State) (k : Nat) (i : Image) : State :=
  let b := clusterBase k
  let mine (a : Nat) : Bool := decide (b ≤ a) && decide (a < b + 2 ^ 22) && i.ctx.localOffset (a - b)
  let s : State := { s with mem := s.mem.filter (fun x => !mine x.1), pmem := s.pmem.filter (fun w => !mine (8 * w)) }
  let s := i.mem.foldl (fun (s : State) x => { s with mem := memSet s.mem (b + x.1) x.2 }) s
  { s with pmem := i.pmem.foldl (fun l w => setIns l (b / 8 + w)) s.pmem }

/-- The image of a stage's cluster in a spare cluster, which executes CTXLOAD from its save area; its rings are where its
extents put them there (18 R324). -/
def State.place (s : State) (k : Nat) (i : Image) (b : Binding) (pos : List Nat) : State :=
  let old := i.ctx
  let s := (s.placeBytes k i).updCluster k (fun c => { c with
    bind := some b, phases := old.phases, phase := old.phase, launch := old.launch, det := old.det, fmtcfg := old.fmtcfg
    phbase := old.phbase, padm := old.padm, done := false, ibuf := [], wanted := [], scPos := pos, mapreqs := [], wake := [] })
  let s := s.updCluster k (fun c => { c with
    ich := old.ich.map (fun x => (x.1, { x.2 with phys := ringBase k c x.2.rbase })), och := old.och })
  let a := areaState i.area
  { s with nextId := s.nextId + 56 }.restore k (a.fromArea 0 s.nextId old) (a.areaPlane 0)

/-- Outbound channels of modules that are there whose packets go to inbound channel `i` of cluster `j`. -/
def State.senderOf (s : State) (j i : Nat) : Option (Nat × Nat) :=
  (s.cl.filter (fun x => !s.isFailed (modOf x.1))).findSome? (fun x =>
    (x.2.och.find? (fun o => o.2.v && paCluster o.2.dest == j && o.2.ich.val == i)).map (fun o => (x.1, o.1)))

/-- Inbound channels of modules that are there whose sender is outbound channel `o` of cluster `k`. -/
def State.receiverOf (s : State) (k o : Nat) : Option (Nat × Nat) :=
  (s.cl.filter (fun x => !s.isFailed (modOf x.1))).findSome? (fun x =>
    (x.2.ich.find? (fun i => i.2.v && i.2.src == ochAddr k o)).map (fun i => (x.1, i.1)))

/-- The inbound channels of a cluster that has moved from `old` are rebound with their senders' state. One whose sender has
moved with it takes the first row of R415 too, with the sender's state of its checkpoint (DESIGN CHOICE, log 64). -/
def State.rebindIns (s : State) (old k : Nat) : State :=
  ((s.cluster k).ich.filter (fun x => x.2.v)).foldl (fun s x => match s.senderOf old x.1 with
    | some (j, o) => s.rebind .receiver j o k x.1 j old
    | none => s) s

/-- The outbound channels of a cluster that has moved from `old` are rebound with their receivers' state. -/
def State.rebindOuts (s : State) (old k : Nat) : State :=
  ((s.cluster k).och.filter (fun x => x.2.v)).foldl (fun s x => match s.receiverOf old x.1 with
    | some (j, i) => s.rebind .sender k x.1 j i old j
    | none => s) s

/-- The clusters of a stage, their spares and their committed images, where it can be moved: it has a spare region, and every
member has an image of the layout that the spare module writes. -/
def State.stageImages (s : State) (st : Stage) : Option (List (Nat × Nat × Image)) :=
  let l := (st.home.zip st.spare).filterMap (fun x => (s.images.find? (fun i => i.1 == x.1 &&
    fld (ofBytes (i.2.area.take 8)) 0 16 == (s.module (modOf x.2)).active)).map (fun i => (x.1, x.2, i.2)))
  if l.isEmpty ∨ l.length ≠ st.home.length then none else some l

/-- Where a stage's launch binds in its spare region: the cox, the slot-wheel positions; none while a spare cluster is bound, or
too few coxes or positions are free (12 R233, 22 R374). -/
def State.stageRoom (s : State) (st : Stage) (l : Launch) (p : Nat) : Option (Nat × List (Nat × List Nat)) :=
  if !s.membersFree st.spare ∨ (s.module (modOf p)).fwBusy then none
  else match (s.dieAt (dieKey p)).freeCox, wheelAllot ((l.tr.map (·.scpos)).getD 0) (s.wheelUsed (modOf p)) st.spare with
    | some cox, some pos => some (cox, pos)
    | _, _ => none

/-- The stage's weights on the spare clusters, from the host's image or a replica module: what they are is open (log 57). -/
def State.stageWeights (s : State) (ks : List Nat) : State :=
  let keep (x : Nat × List Byte) : Bool := paSpace x.1 == 0 && ks.contains (paCluster x.1) && decide (x.1 % 2 ^ 22 + x.2.length ≤ 2 ^ 22)
  let ws := (Config.weights s.free).filter keep
  ws.foldl (fun s x => s.writeMarked x.1 (x.2.map (fun b => (b, false)))) { s with free := s.free + 1 }

/-- A coordinate moved as far as from `a` to `b`. -/
def shifted (x a b : Nat) : Nat := x + b - a

/-- A stage of failed module m moves to its spare clusters: bound there, its weights brought, its images placed and loaded, its
channels rebound, it goes on. It waits while its spare region has no room for it; without a spare region or a committed
image its launch aborts with code 0x0A. -/
def State.moveStage (s : State) (m : Nat) (st : Stage) : State :=
  let left (s : State) : State := s.updModule m (fun d => { d with stages := d.stages.erase st })
  match s.stageImages st with
  | none => match st.home.head? with
    | some h => (left s).failCox h 0x0A
    | none => left s
  | some imgs =>
    match imgs.head? with
    | none => left s
    | some (h, p, i0) =>
      match s.stageRoom st i0.launch p with
      | none => s
      | some (cox, pos) =>
        let l : Launch := { i0.launch with
          die := dieKey p % 4, row0 := shifted i0.launch.row0 (rowOf h) (rowOf p), col0 := shifted i0.launch.col0 (colOf h) (colOf p), moved := true }
        let bindOf (i : Image) : Binding := ⟨cox, l.row0, l.col0, l.rows, l.cols, (i.ctx.bind.map (·.index)).getD 0, l.key⟩
        let posOf (k : Nat) : List Nat := ((pos.find? (fun y => y.1 == k)).map (·.2)).getD []
        let s := (left s).stageWeights st.spare
        let s := imgs.foldl (fun s i => s.place i.2.1 i.2.2 (bindOf i.2.2) (posOf i.2.1)) s
        let s := imgs.foldl (fun s i => s.rebindIns i.1 i.2.1) s
        let s := imgs.foldl (fun s i => s.rebindOuts i.1 i.2.1) s
        s.updDie (dieKey p) (fun d => { d with coxes := kset d.coxes cox ⟨l, i0.ctx.phase, st.spare, none, none, .run⟩ })

/-- A stage of a failed module that has waited may move now. -/
def State.stageReady (s : State) (st : Stage) : Bool :=
  match s.stageImages st with
  | none => true
  | some imgs => imgs.head?.all (fun x => (s.stageRoom st x.2.2.launch x.2.1).isSome)

/-- Requests of other modules whose message stands in failed module m, performed or not, are answered poisoned (01 R22, 19
R358). -/
def State.answerLost (s : State) (m : Nat) : State :=
  (s.net.filter (fun x => x.loc == m && modOf x.src != m && isReadKind x.kind)).foldl (fun s x =>
    (s.answerDead x).updMsg x.id (fun y => { y with loc := modOf y.src })) s

/-- Checkpoints on their way from module m or to it are discarded, and the images that it keeps are lost (R413). -/
def State.dropCheckpoints (s : State) (m : Nat) : State :=
  { s with
    staged := s.staged.filter (fun x => modOf x.1 != m && x.2.holder != m)
    images := s.images.filter (fun x => x.2.holder != m)
    net := s.net.filter (fun x => !(x.kind.isCopy && (modOf x.src == m || modOf x.dst == m))) }

/-- The supervising firmware declares module m failed: the others note it, discard what waits for it, have no
answer from it any more, and its stages move. -/
def execModuleFailed (m : Nat) (s : State) : Out :=
  .next (
    if !s.gone m ∨ s.isFailed m then s
    else
      let s : State := { s with md := s.md.map (fun x => if x.1 = m then x else (x.1, { x.2 with failed := x.2.failed ++ [m] })) }
      (s.module m).stages.foldl (fun s st => s.moveStage m st) ((s.dropCheckpoints m).answerLost m))

/-! ### Activation (R410, R411) -/

/-- A field of an image: `n` bytes at offset `o`. -/
def State.imageField (s : State) (addr o n : Nat) : Nat := ofBytes (s.readBytes (addr + o) n)
/-- The whole image: header, payload and signature. -/
def State.imageBytes (s : State) (addr : Nat) : List Byte :=
  s.readBytes addr (256 + s.imageField addr 8 8 + 2820)
/-- Does Lerlia's signature over a provisioning record verify (26 R427)? -/
def Record.ok (r : Record) : Bool := xmssVerify Config.lerliaKey r.body r.sig

/-- Does an image pass its checks on a module with the record `r` (26 R424): its magic, and the signature over its header and
its payload under the record's image-signer key? -/
def Record.verifies (r : Record) (b : List Byte) : Bool :=
  ofBytes (b.take 4) == 0x4C474931 && r.ok && xmssVerify r.signer (b.take (b.length - 2820)) (b.drop (b.length - 2820))

/-- Does the image at an address pass its checks on module m? -/
def State.imageOk (s : State) (m addr : Nat) : Bool := (s.module m).record.verifies (s.imageBytes addr)

/-- A save area that module m holds, or the image of a cluster's checkpoint. -/
inductive Held where
  | area (addr : Nat)
  | image (k : Nat)
deriving DecidableEq, Repr

/-- The save areas of module m in address order, then the checkpoint images that it keeps, whose addresses the specification
does not give (DESIGN CHOICE, log 39), each with its bytes. -/
def State.areasOf (s : State) (m : Nat) : List (Held × List Byte) :=
  (s.saves.filter (fun x => modOf (paCluster x.1) == m)).map (fun x => (.area x.1, s.readBytes x.1 65536)) ++
    (s.images.filter (fun x => x.2.holder == m)).map (fun x => (.image x.1, x.2.area))

/-- LAYOUT of an area's bytes. -/
def layoutOf (bs : List Byte) : Nat := fld (ofBytes (bs.take 8)) 0 16

/-- No pre-emption, no checkpoint and no fault token is under way on module m. -/
def State.settled (s : State) (m : Nat) : Bool :=
  s.die.all (fun x => x.1 / 4 != m || x.2.coxes.all (fun y => y.2.mode == .run)) &&
    s.cl.all (fun x => modOf x.1 != m || (!x.2.ckptOut && x.2.prog.fault.isNone && x.2.fw.fault.isNone))

/-- Has an image a conversion routine for a layout? -/
def State.converts (s : State) (addr l : Nat) : Bool := decide (l < 8) && s.imageField addr (32 + 8 * l) 8 != 0

/-- The area that a routine gives, as one of the image's layout; zeros stand where it gives nothing (DESIGN CHOICE, log 20). -/
def freshArea (lay : Nat) (bs : List Byte) : List Byte := toBytes 8 (lay + 65536 * 2 ^ 32) ++ tabulate 65528 (fun i => nth bs (i + 8) 0)

/-- A held area is replaced by its fresh one, at the same address (DESIGN CHOICE, log 20). -/
def State.replaceArea (s : State) (h : Held) (bs : List Byte) : State :=
  match h with
  | .area a => s.writeMarked a (bs.map (fun b => (b, false)))
  | .image k => { s with images := s.images.map (fun x => if x.1 = k then (x.1, { x.2 with area := bs }) else x) }

/-- A firmware context restarts under an image; the routines that an image ships serve one that runs no program of its own. -/
def Ctx.restart (c : Ctx) (img : List Byte) (k : Nat) : Ctx :=
  if c.park = .halted then Ctx.reset else { Ctx.reset with park := .run, pc := Config.fwEntry img k }

def execFirmwareActivation (m : Nat) (s : State) : Out :=
  .next (
    let d := s.module m
    if !d.fwBusy ∨ !s.settled m then s
    else
      let a := d.fwaddr
      let stop (s : State) (r bad : Nat) : State := s.updModule m (fun d => { d with
        fwBusy := false, fwResult := r, badLayout := if r = 2 then bad else d.badLayout })
      let img := s.imageBytes a
      if !s.imageOk m a then stop s 4 0
      else
        let lay := s.imageField a 16 2
        let todo := (s.areasOf m).filter (fun x => !bitAt (s.imageField a 24 8) (layoutOf x.2))
        match todo.find? (fun x => !s.converts a (layoutOf x.2)) with
        | some x => stop s 2 (layoutOf x.2)
        | none =>
          let made := todo.map (fun x => (x.1, Config.convert img (layoutOf x.2) x.2))
          if made.any (fun x => x.2.isNone) then stop s 3 0
          else
            let s := made.foldl (fun s x => s.replaceArea x.1 (freshArea lay (x.2.getD []))) s
            let s : State := { s with cl := s.cl.map (fun x => if modOf x.1 = m then (x.1, { x.2 with fw := x.2.fw.restart img x.1 }) else x) }
            (stop s 1 0).updModule m (fun d => { d with active := lay, image := img }))

end Sys2Proof.Machine
end

