-- ==== Sys2Proof/Machine/Numbering.lean ====
section
/-! DEFINITION. Module numbers (01 R12, 26 R426). The state is keyed by module number; before a boot, by the place of a
module in the wiring (log 27). Boot and join give numbers, and everything that the model keeps by module number follows. -/

namespace Sys2Proof.Machine

/-- The numbers that a flood gives the modules in order of discovery; a module it has not reached makes room, if it must. -/
def renum (order : List Nat) (m : Nat) : Nat :=
  match (order.zipIdx.find? (fun x => x.1 == m)).map (·.2) with
  | some i => i
  | none =>
    if m < order.length then
      let gaps := (List.range order.length).filter (fun x => !order.contains x)
      nth (order.filter (fun x => decide (order.length ≤ x))) ((gaps.zipIdx.find? (fun x => x.1 == m)).map (·.2) |>.getD 0) m
    else m

/-- What the numbers make of a cluster's number, a physical address, a link's number. -/
def renCl (σ : Nat → Nat) (k : Nat) : Nat := 4096 * σ (k / 4096) + k % 4096
def renPa (σ : Nat → Nat) (a : Nat) : Nat := a / 2 ^ 45 * 2 ^ 45 + renCl σ (a % 2 ^ 45 / 2 ^ 22) * 2 ^ 22 + a % 2 ^ 22
def renLink (σ : Nat → Nat) (x : Nat) : Nat := 96 * σ (x / 96) + x % 96
def renRoute (σ : Nat → Nat) (x : Nat) : Nat := renLink σ (x % brokenBit) + x / brokenBit * brokenBit

/-- A sparse map with its keys changed. -/
def rekey {α : Type} (f : Nat → Nat) (m : KMap α) : KMap α := m.foldl (fun r x => kset r (f x.1) x.2) []

def MsgKind.renumber (σ : Nat → Nat) : MsgKind → MsgKind
  | .write pa bs => .write (renPa σ pa) bs
  | .read pa n => .read (renPa σ pa) n
  | .vwrite ps => .vwrite (ps.map (fun p => p.map (fun x => (renPa σ x.1, x.2))))
  | .vread n ps got => .vread n (ps.map (fun p => p.map (fun x => (x.1, renPa σ x.2)))) got
  | .vatom o t r todo got => .vatom o t r (todo.map (fun x => (x.1, renPa σ x.2.1, x.2.2))) got
  | .atom pa o t x y r => .atom (renPa σ pa) o t x y r
  | .scAtom ls o t r => .scAtom (ls.map (fun x => (renPa σ x.1, x.2))) o t r
  | .packet i q b p => .packet i q b p
  | .freeRet o q => .freeRet o q
  | .sigadd pa x => .sigadd (renPa σ pa) x
  | .ckpt n => .ckpt n
  | .flood pa b => .flood (renPa σ pa) b
  | .report m l => .report (σ m) l

def Msg.renumber (σ : Nat → Nat) (m : Msg) : Msg :=
  { m with src := renCl σ m.src, dst := renCl σ m.dst, loc := σ m.loc, kind := m.kind.renumber σ,
           route := m.route.map (renRoute σ), came := m.came.map (renLink σ) }

def SCmd.renumber (σ : Nat → Nat) (c : SCmd) : SCmd :=
  { c with
    op := match c.op with
      | .free q src => .free q (renPa σ src)
      | x => x
    after := c.after.map (fun d => match d with
      | .touch pa n id => .touch (renPa σ pa) n id
      | x => x) }

def Extent.renumber (σ : Nat → Nat) (e : Extent) : Extent :=
  if e.kind = .remote ∧ !e.rel then { e with pbase := renPa σ e.pbase } else e

def Cluster.renumber (σ : Nat → Nat) (c : Cluster) : Cluster :=
  let win (w : Window) : Window := ⟨renPa σ w.low, renPa σ w.high⟩
  { c with
    phases := c.phases.map (fun p => { p with ext := p.ext.map (Extent.renumber σ) })
    windows := c.windows.map (fun x => (x.1, win x.2))
    drlNew := c.drlNew.map (fun x => (x.1, x.2.1, x.2.2.1, win x.2.2.2))
    drl := c.drl.map (fun x => (x.1, x.2.1, renPa σ x.2.2.1, renPa σ x.2.2.2.1, x.2.2.2.2))
    ich := c.ich.map (fun x => (x.1, { x.2 with src := renPa σ x.2.src, phys := renPa σ x.2.phys }))
    och := c.och.map (fun x => (x.1, { x.2 with dest := renPa σ x.2.dest, route := x.2.route.map (renRoute σ) }))
    streams := c.streams.map (fun q => (q.1, q.2.map (SCmd.renumber σ)))
    staging := renPa σ c.staging
    savearea := c.savearea.map (fun x => (x.1, renPa σ x.2))
    buddy := c.buddy.map σ }

def Launch.renumber (σ : Nat → Nat) (l : Launch) : Launch :=
  { l with desc := renPa σ l.desc, oplist := renPa σ l.oplist, saved := l.saved.map (fun x => { x with
    members := x.members.map (renCl σ), keep := x.keep.map (fun y => (renCl σ y.1, y.2)) }) }

def Die.renumber (σ : Nat → Nat) (d : Die) : Die :=
  { d with
    coxes := d.coxes.map (fun x => (x.1, { x.2 with
      launch := x.2.launch.renumber σ, members := x.2.members.map (renCl σ)
      mode := match x.2.mode with
        | .saving l => .saving (l.map (renCl σ))
        | .loading l => .loading (l.map (renCl σ))
        | .run => .run }))
    sel := d.sel.map (Launch.renumber σ)
    towq := d.towq.map (fun x => (x.1, renCl σ x.2.1, x.2.2))
    ghosts := d.ghosts.map (fun x => (renCl σ x.1, x.2)) }

def Module.renumber (σ : Nat → Nat) (d : Module) : Module :=
  { d with
    queues := d.queues.map (fun x => (x.1, { x.2 with base := renPa σ x.2.base }))
    ready := d.ready.map (Launch.renumber σ)
    failed := d.failed.map σ
    fwaddr := renPa σ d.fwaddr
    bootaddr := renPa σ d.bootaddr
    stages := d.stages.map (fun t => { t with home := t.home.map (renCl σ), spare := t.spare.map (renCl σ) }) }

def Image.renumber (σ : Nat → Nat) (i : Image) : Image := { i with ctx := i.ctx.renumber σ, launch := i.launch.renumber σ, holder := σ i.holder }

/-- Modules take new numbers, `same` where each keeps its own: everything kept by module number follows. Addresses in
programs' registers and in memory stay as they are (log 27). -/
def State.renumber (s : State) (σ : Nat → Nat) (same : Bool) : State :=
  if same then s
  else
    { s with
      mem := s.mem.foldl (fun m x => memSet m (renPa σ x.1) x.2) []
      pmem := s.pmem.foldl (fun l w => setIns l (renPa σ (8 * w) / 8)) []
      cl := rekey (renCl σ) (s.cl.map (fun x => (x.1, x.2.renumber σ)))
      die := rekey (fun g => 4 * σ (g / 4) + g % 4) (s.die.map (fun x => (x.1, x.2.renumber σ)))
      md := rekey σ (s.md.map (fun x => (x.1, x.2.renumber σ)))
      net := s.net.map (Msg.renumber σ)
      wires := rekey (renLink σ) (s.wires.map (fun x => (x.1, renLink σ x.2)))
      saves := rekey (renPa σ) (s.saves.map (fun x => (x.1, x.2.renumber σ)))
      staged := rekey (renCl σ) (s.staged.map (fun x => (x.1, x.2.renumber σ)))
      images := rekey (renCl σ) (s.images.map (fun x => (x.1, x.2.renumber σ)))
      cur := renCl σ s.cur
      turn := s.turn.map (renCl σ)
      extra := s.extra.map σ }

end Sys2Proof.Machine
end

