-- ==== Sys2Proof/Machine/HostPort.lean ====
section
/-! DEFINITION. Host ports, boot, identity, management and supplies (chapter 26). -/

namespace Sys2Proof.Machine

/-! ### The graph of modules (R348, R426) -/

/-- Links of module m that are up, with the partner module, in link order. -/
def State.neighbours (s : State) (m : Nat) : List (Nat × Nat) :=
  (((s.module m).links.filter (fun l => l.2.up)).map (·.1)).filterMap (fun l => (s.partner m l).map (fun p => (l, p / 96)))

/-- One round of breadth-first exploration: what the modules found in the last round lead to. -/
def State.exploreRound (s : State) (seen last : List (Nat × Nat)) (h : Nat) : List (Nat × Nat) :=
  last.foldl (fun new x => (s.neighbours x.1).foldl (fun new l =>
    if (seen ++ new).any (fun y => y.1 == l.2) then new else new ++ [(l.2, h)]) new) []

/-- Modules with their hop counts from module m, in order of discovery, up to hop `n`. -/
def State.explore (s : State) (m : Nat) : Nat → List (Nat × Nat)
  | 0 => [(m, 0)]
  | n + 1 =>
    let seen := s.explore m n
    seen ++ s.exploreRound seen (seen.filter (fun x => x.2 == n)) (n + 1)

/-- Hop count from module d to module m, if at most 7. -/
def State.hopsFrom (s : State) (d m : Nat) : Option Nat := ((s.explore d 7).find? (fun x => x.1 == m)).map (·.2)

/-- The route table of module m over the modules numbered: links whose partner lies one hop nearer (R348). -/
def State.routeTable (s : State) (ms : List Nat) (m : Nat) : KMap (List Nat) :=
  ms.foldl (fun t d =>
    if d = m then t
    else
      let dist := s.explore d 7
      let of_ (x : Nat) : Nat := ((dist.find? (fun y => y.1 == x)).map (·.2)).getD 8
      kset t d (((s.neighbours m).filter (fun l => decide (of_ l.2 + 1 = of_ m))).map (·.1))) []

/-! ### Boot (R425, R426) -/

/-- The links of module m know the hop counts of their partners, which choose the one it aligns to (19 R355). -/
def State.learnHops (s : State) (m : Nat) : State :=
  (s.module m).links.foldl (fun u k => match u.partner m k.1 with
    | some q => u.updLink m k.1 (fun k => { k with hops := (u.module (q / 96)).rootHops })
    | none => u) s

/-- Boot ends with a result: FAILMOD and the modules numbered. -/
def State.bootEnd (s : State) (m r failmod n : Nat) : State :=
  s.updModule m (fun d => { d with bootBusy := false, bootResult := r, failmod := failmod, nmod := n })

/-- The modules of `order` have taken their numbers in order of discovery, and boot ends so at the root, which is number 0. -/
def State.bootOver (s : State) (order : List Nat) (r failmod : Nat) : State :=
  (s.renumber (renum order) (order == List.range order.length)).bootEnd 0 r failmod order.length

/-- Has a module fewer than `n` modules within 7 hops? -/
def State.tooFar (s : State) (n x : Nat) : Bool := decide ((s.explore x 7).length < n)

/-- Why a module of the flood refuses: the image (RESULT 5) before the distances (RESULT 3). -/
def State.refusal (s : State) (img : List Byte) (n x : Nat) : Option Nat :=
  if (s.module x).power ≠ .on then none
  else if !(s.module x).record.verifies img then some 5 else if s.tooFar n x then some 3 else none

/-- Every module of `order`, the hop counts beside, installs the image, builds its route table and knows the root. -/
def State.install (s : State) (img : List Byte) (active : Nat) (all : List (Nat × Nat)) : State :=
  let σ := renum (all.map (·.1))
  let ms := all.map (fun x => σ x.1)
  let t := all.foldl (fun u x => u.updModule (σ x.1) (fun e => { e with
    routes := s.routeTable ms (σ x.1), rootHops := x.2, image := img, active := active, nmod := ms.length, root := x.2 == 0 })) s
  ms.foldl (fun u x => (u.exchangeAll x).learnHops x) (t.updModule 0 (fun d => { d with bcast := true }))

/-- Does a link of the tree of a flood, over the modules found with their hop counts, carry no traffic of VC4, its budget being 0
(19 R351)? Its flits are held there. -/
def State.floodHeld (s : State) (all : List (Nat × Nat)) : Bool :=
  all.any (fun x => x.2 != 0 && ((all.filter (fun y => y.2 + 1 == x.2)).findSome? (fun y =>
    ((s.neighbours y.1).find? (fun l => l.2 == x.1)).map (fun l => (s.link y.1 l.1).budOf 4))).getD 1 == 0)

/-- The flood of an image from root m: numbering in order of discovery, the root number 0 (01 R12), exploration limits,
installation, completion. The first module in that order that refuses ends it, and a boot that fails installs nothing
(DESIGN CHOICE, log 27); one with a module that is not powered, or a link of the tree that VC4 may not use, waits for its
acknowledgement. -/
def execBoot (m : Nat) (s : State) : Out :=
  .next (
    let d := s.module m
    if !d.bootBusy then s
    else
      let img := s.imageBytes d.bootaddr
      let all := s.explore m 8
      let ms := all.map (·.1)
      let i := (all.findIdx? (fun x => x.2 == 8)).getD 2048
      if !d.record.verifies img ∨ d.bootlen ≠ img.length then s.bootOver [m] 2 0
      else if i < 2048 then s.bootOver (ms.take (i + 1)) 3 i
      else if ms.length > 2048 then s.bootOver (ms.take 2048) 4 0
      else match ms.zipIdx.findSome? (fun x => (s.refusal img ms.length x.1).map (fun r => (r, x.2))) with
        | some (r, x) => s.bootOver ms r x
        | none =>
          if ms.any (fun x => (s.module x).power != .on) || s.floodHeld all then s
          else (s.bootOver ms 1 0).install img (ofBytes ((img.drop 16).take 2)) all)

/-- 4,096 strokes without an acknowledgement end boot with RESULT 5: FAILMOD names a module that does not answer. -/
def execBootAckTimeout (m : Nat) (s : State) : Out :=
  .next (
    let d := s.module m
    if !d.bootBusy ∨ s.strokeOf m < d.bootSince + 4096 then s
    else
      let ms := ((s.explore m 8).map (·.1)).take 2048
      s.bootOver ms 5 ((ms.findIdx? (fun x => (s.module x).power != .on)).getD 0))

/-- The links to the children of module x in the tree of the flood, with them: a module is a child of the first module that
reaches it, by the lowest link, among links that are up (19 R349, R426). -/
def State.children (s : State) (x : Nat) : List (Nat × Nat) :=
  let hops (y : Nat) : Nat := (s.module y).rootHops
  (s.neighbours x).filter (fun c => s.booted c.2 && decide (hops c.2 = hops x + 1) &&
    ((s.neighbours x).find? (fun y => y.2 == c.2)).map (·.1) == some c.1 &&
    (s.neighbours c.2).all (fun y => decide (hops y.2 + 1 ≠ hops c.2 ∨ x ≤ y.2)))

/-- A piece of a weight image at module x: it keeps what is addressed to it, and the piece goes on to its children. -/
def State.floodAt (s : State) (x pa : Nat) (bs : List Byte) : State :=
  let s := if modOf (paCluster pa) = x then s.writeMarked pa (bs.map (fun b => (b, false))) else s
  (s.children x).foldl (fun s c =>
    let id := s.nextId
    (s.sendAs (.slot true 16) (4096 * x) (4096 * c.2) 0 (.flood pa bs) .out [] [] false).routeLast id [96 * x + c.1]) s

/-- A piece of a weight image reaches module `m` over a link of the tree. -/
def State.floodArrive (s : State) (id : Nat) : State :=
  match s.msg id with
  | some m => (match m.kind with
      | .flood pa bs => (s.dropMsg id).floodAt (modOf m.dst) pa bs
      | _ => s)
  | none => s

/-- A weight image in pieces that a packet holds (19 R347). -/
def pieces (pa : Nat) (bs : List Byte) : List (Nat × List Byte) :=
  (List.range ((bs.length + 255) / 256)).map (fun i => (pa + 256 * i, (bs.drop (256 * i)).take 256))

/-- The placement's weight images go down the tree of the boot from root m; each module keeps the ranges addressed to it
(R426). What they are is open. -/
def State.broadcast (s : State) (m : Nat) : State :=
  let n := (s.module m).nmod
  let keep (x : Nat × List Byte) : Bool := paSpace x.1 == 0 && decide (modOf (paCluster x.1) < n) && decide (x.1 % 2 ^ 34 + x.2.length ≤ 2 ^ 34)
  let ws := (Config.weights s.free).filter keep
  let s : State := { s with free := s.free + 1 }
  ((ws.flatMap (fun x => pieces x.1 x.2)).foldl (fun s x => s.floodAt m x.1 x.2) s).updModule m (fun d => { d with bcast := false })

/-- A module that the firmware does not join: the new link, number l of module m, stays unused; the module at its other end
records it as a LINK_DOWN. -/
def State.refuseJoin (s : State) (m l p other : Nat) : State :=
  (s.updLink m l (fun k => { k with up := false })).linkDown p other

/-- The firmware floods the image to a newly trained module m (R426), which takes the next unused number and joins unless the
diameter would pass 7; it takes its time from the beacon of its aligning partner (19 R356). One that refuses the image, or for
which no number is left, does not join either (DESIGN CHOICE, log 27). -/
def execModuleJoin (m : Nat) (s : State) : Out :=
  .next (
    match (s.neighbours m).find? (fun l => s.booted l.2), s.md.find? (fun x => x.2.root) with
    | some (l, p), some (root, rd) =>
      if s.booted m ∨ (s.module m).power ≠ .on ∨ rd.bootBusy then s
      else
        let other := (((s.partner m l).map (fun x => x % 96)).getD 0)
        let ms := (s.md.map (·.1)).filter (fun x => s.booted x || x == m)
        if rd.nmod ≥ 2048 ∨ !(s.module m).record.verifies rd.image ∨ ms.any (fun x => ms.any (fun y => (s.hopsFrom x y).isNone)) then
          s.refuseJoin m l p other
        else
          let n := rd.nmod
          let σ (x : Nat) : Nat := if x = m then n else if x = n then m else x
          let t := s.renumber σ (m == n)
          let all := ms.map σ
          let t1 := all.foldl (fun u x => u.updModule x (fun d => { d with
            routes := t.routeTable all x, rootHops := (t.hopsFrom root x).getD 0, nmod := n + 1 })) t
          ((t1.updModule n (fun d => { d with image := rd.image, active := rd.active })).exchangeAll n).learnHops n
    | _, _ => s)

/-- The supervising firmware rewrites the route tables of the modules that boot has numbered, after links have gone down or
come up (19 R348, R358). -/
def State.rewriteRoutes (s : State) : State :=
  let ms := (s.md.map (·.1)).filter s.booted
  ms.foldl (fun t x => t.updModule x (fun d => { d with routes := s.routeTable ms x })) s

/-- Would that change a table? -/
def State.routesStale (s : State) : Bool :=
  let ms := (s.md.map (·.1)).filter s.booted
  s.md.any (fun x => s.booted x.1 && s.routeTable ms x.1 != x.2.routes)

/-! ### Host ports (R417, R418) -/

/-- Is the port's count for the stroke at its limit (19 R353)? -/
def State.hostHeld (s : State) (m port : Nat) : Bool :=
  let d := s.module m
  if port = 0 then d.hpbudA != 0 && decide (d.hpUsedA ≥ d.hpbudA) else d.hpbudB != 0 && decide (d.hpUsedB ≥ d.hpbudB)
def State.hostCount (s : State) (m port : Nat) : State :=
  s.updModule m (fun d => if port = 0 then { d with hpUsedA := d.hpUsedA + 1 } else { d with hpUsedB := d.hpUsedB + 1 })

/-- Physical address of an offset in a BAR of a host port of module m (R417): BAR0 is space 0, BAR2 spaces 1 and 2. -/
def barPa (m : Nat) (a : BarAddr) : Nat :=
  (if a.bar2 then (1 + a.off / 2 ^ 34) * 2 ^ 45 else 0) + m * 2 ^ 34 + a.off % 2 ^ 34

/-- Does a request of `n` bytes, at most `max`, lie in the BAR? It crosses no boundary of 4 KiB, as PCIe has it (log 41). -/
def barFits (a : BarAddr) (n max : Nat) : Bool :=
  decide (0 < n) && decide (n ≤ max) && decide (a.off + n ≤ (if a.bar2 then 2 ^ 35 else 2 ^ 34)) && decide (a.off % 4096 + n ≤ 4096)

/-- A request of a host port at an address, `n` bytes long: one over the budget or to a busy tile is held and stays among the
inputs; any other is one access of the port's count. -/
def State.hostDo (s : State) (m port pa n : Nat) (i : Instr) (f : State → State) : State :=
  if 2 ≤ port ∨ (s.module m).power ≠ .on then s
  else if s.hostHeld m port ∨ s.tilesBusy pa n then s.holdInput i
  else f (s.hostCount m port)

/-- A host's write, where its access table permits it. -/
def State.hostPut (s : State) (port pa : Nat) (bs : List (Byte × Bool)) : State :=
  if s.accOk port pa true then s.performWrite port false pa bs else s

/-- A host memory write TLP; `ep` is its EP bit. -/
def execHostWrite (m port : Nat) (at_ : BarAddr) (ep : Bool) (data : List Byte) (s : State) : Out :=
  .next (
    if !barFits at_ data.length 512 then s
    else s.hostDo m port (barPa m at_) data.length (.hostWrite m port at_ ep data)
      (fun s => s.hostPut port (barPa m at_) (data.map (fun b => (b, ep)))))

/-- A host memory read of `n` bytes: data, with EP for a poisoned word, or Unsupported Request where the table
denies. -/
def execHostRead (m port : Nat) (at_ : BarAddr) (n : Nat) (s : State) : Out :=
  .next (
    let pa := barPa m at_
    if !barFits at_ n 4096 then s
    else s.hostDo m port pa n (.hostRead m port at_ n) (fun s =>
      let b := s.performRead pa n
      let o : Output := if s.accOk port pa false then .hostData m port (b.map (·.1)) (b.any (·.2)) else .hostUnsupported m port
      { s with outputs := s.outputs ++ [o] }))

/-- A write of HSCMD by the host whose identity is `owner`, through its port (R419, R420). -/
def State.hsemWrite (s : State) (m owner : Nat) (i : Instr) (v : Nat) : State :=
  let pa := ctlPa (4096 * m) 0x4908
  if owner = 1 ∨ owner = 2 then s.hostDo m (owner - 1) pa 8 i (fun s => s.hostPut (owner - 1) pa (marked 8 v false)) else s

def execHsemTake (m owner lease : Nat) (s : State) : Out :=
  .next (s.hsemWrite m owner (.hsemTake m owner lease) (2 ^ 62 + lease % 2 ^ 62))
def execHsemRelease (m owner : Nat) (s : State) : Out :=
  .next (s.hsemWrite m owner (.hsemRelease m owner) (2 ^ 63))

/-! ### Management (R428, R429) -/

/-- An 8-byte management access to space 2 of cluster `k`: none while the logic supply is lost; one to a busy tile is held (14
R288). -/
def execMgmtSpace2Access (k off : Nat) (wr : Bool) (v : DWord) (s : State) : Out :=
  .next (
    let pa := ctlPa k off
    let out (o : Output) : State := { s with outputs := s.outputs ++ [o] }
    if (s.module (modOf k)).power ≠ .on then s
    else if s.tilesBusy pa 8 then s.holdInput (.mgmtSpace2Access k off wr v)
    else if !s.accOk mMgmt pa wr then out .mgmtDiscarded
    else if wr then s.performWrite mMgmt false pa (marked 8 v.toNat false)
    else out (.mgmtData (BitVec.ofNat 64 (ofBytes ((s.performRead pa 8).map (·.1))))))

/-- A management read of entry `idx % 512` of the ring of die `idx / 512`, while the SRAM supply holds. -/
def execBlackBoxRead (m idx : Nat) (s : State) : Out :=
  .next (
    if (s.module m).power = .off then s
    else
      let e := kget (0, 0, 0, 0) (s.dieAt (4 * m + idx / 512 % 4)).bb (idx % 512)
      { s with outputs := s.outputs ++ [.blackBox e.1 e.2.1 e.2.2.1 e.2.2.2] })

/-- An attestation request (R428): the counter advances and is written back, and the signature is due; after index 2^20 − 1
it is refused. -/
def execAttestationRequest (m nonce : Nat) (s : State) : Out :=
  .next (
    let d := s.module m
    if d.power ≠ .on then s
    else if d.counter ≥ 2 ^ 20 - 1 then { s with outputs := s.outputs ++ [.exhausted m] }
    else s.updModule m (fun d => { d with counter := d.counter + 1, attest := d.attest ++ [(d.counter + 1, nonce % 2 ^ 256)] }))

/-- The seed of a module's identity key (R427). -/
def Record.seed (r : Record) : List Byte :=
  shake256 ((List.range 4).flatMap (Config.response r.serial r.helper) ++ r.serial)

/-- The oldest request whose index has been written is signed and answered (R428). The order of a report's fields is a DESIGN
CHOICE (log 49). -/
def State.attestSign (s : State) (m : Nat) : State :=
  let d := s.module m
  match d.attest with
  | [] => s
  | (i, nonce) :: r =>
    let di := shake256 d.image
    let dr := shake256 (d.record.body ++ d.record.sig)
    let body := toBytes 32 nonce ++ di ++ dr ++ toBytes 8 m ++ toBytes 8 d.gts ++ toBytes 8 d.active
    let t := s.updModule m (fun d => { d with attest := r })
    { t with outputs := t.outputs ++ [.report nonce di dr m d.gts d.active i (Config.sign d.record.seed i body)] }

/-- An MCTP control message is answered while the port is there. -/
def execMctpControlMessage (m msg : Nat) (s : State) : Out :=
  .next (if (s.module m).power = .off then s else { s with outputs := s.outputs ++ [.mctp m (Config.mctpReply m msg)] })

/-! ### Reset and supplies (09 R182, 24 R401) -/

/-- Module m as module reset leaves it: all scratchpad zero, every register at its reset value; the black box and the
flash keep their contents. -/
def State.resetModule (s : State) (m : Nat) (p : Power) : State :=
  let keepDie (d : Die) : Die := { Die.reset with
    bb := d.bb, bbHead := d.bbHead, bbTail := d.bbTail, bbOvf := d.bbOvf, bbCount := d.bbCount }
  let d := s.module m
  { s with
    mem := s.mem.filter (fun x => modOf (x.1 / 2 ^ 22) != m)
    pmem := s.pmem.filter (fun w => modOf (8 * w / 2 ^ 22) != m)
    cl := s.cl.filter (fun x => modOf x.1 != m)
    die := s.die.map (fun x => if x.1 / 4 = m then (x.1, keepDie x.2) else x)
    md := kset s.md m { Module.reset with record := d.record, counter := d.counter, power := p }
    net := s.net.filter (fun x => modOf x.src != m && x.loc != m)
    saves := s.saves.filter (fun x => modOf (paCluster x.1) != m)
    staged := s.staged.filter (fun x => modOf x.1 != m)
    images := s.images.filter (fun x => x.2.holder != m)
    turn := s.turn.filter (fun k => modOf k != m) }

def execModuleReset (m : Nat) (s : State) : Out :=
  .next (if (s.module m).power = .on then s.resetModule m .on else s)

/-- Loss of the logic supply: only the black box and the flash are left. -/
def execLogicSupplyLoss (m : Nat) (s : State) : Out :=
  .next (if (s.module m).power = .on then s.resetModule m .logicLost else s)

/-- Its return: the module starts as after module reset. With the SRAM supply gone too, both return and the rings
are empty. -/
def execLogicSupplyReturn (m : Nat) (s : State) : Out :=
  .next (if (s.module m).power = .on then s else s.resetModule m .on)

/-- Loss of the SRAM supply: the black box is lost, and the management port is gone. -/
def execSramSupplyLoss (m : Nat) (s : State) : Out :=
  .next (
    let s := s.resetModule m .off
    { s with die := s.die.filter (fun x => x.1 / 4 != m) })

end Sys2Proof.Machine
end

