-- ==== Sys2Proof/Machine/Quant.lean ====
section
/-! DEFINITION. Conversion, quantisation, complex arithmetic and twiddles (chapter 08). -/

namespace Sys2Proof.Machine

def execVcvt (d a : VReg) (rm : Rm) (t2 t : ElemTy) (p : PReg) (s : State) : Out :=
  .next (s.vec2 3 d a p (laneCvt t2 t rm))

/-- VPKSX (08 R161): the whole register is written; p governs only the inputs. -/
def execVpksx (d a : VReg) (rm : Rm) (t2 t : ElemTy) (p : PReg) (s : State) : Out :=
  .next (
    if s.fwBad [d, a] then s.illegalField
    else
      let c := s.ctx
      let x := c.rdV a
      let m := c.rdP p
      let ins := (List.finRange 16).map (fun i =>
        if m.getLsb i then fpVal t2 (rdElem t2 x[i].val) else FVal.fin false 0 0)
      let (blk, fl) := sxEncode (sxF t) rm ins
      let bad := (List.finRange 16).any (fun i => m.getLsb i && x[i].poison)
      s.vlanes 3 d 0xFFFF (fun i => (BitVec.ofNat 32 (blk / 2 ^ (32 * i.val)), fl, bad)))

/-- The SX block held in a register at the bit positions of 08 R161. -/
def blockOf (F : Nat) (x : VVal) : Nat :=
  ((List.finRange 16).foldl (fun n i => n + x[i].val.toNat * 2 ^ (32 * i.val)) 0) % 2 ^ (16 + 16 * (1 + F))

/-- The registers' lanes that hold the block. -/
def blockPoison (F : Nat) (x : VVal) : Bool :=
  (List.finRange 16).any (fun i => decide (32 * i.val < 16 + 16 * (1 + F)) && x[i].poison)

/-- VUPSX (08 R162). -/
def execVupsx (d a : VReg) (rm : Rm) (t2 t : ElemTy) (p : PReg) (s : State) : Out :=
  .next (
    if s.fwBad [d, a] then s.illegalField
    else
      let x := s.ctx.rdV a
      let F := sxF t2
      let blk := blockOf F x
      let bad := blockPoison F x
      s.vlanes 3 d (s.ctx.rdP p) (fun i =>
        let (q, f) := roundFp (fmtOf t) rm (sxDecode blk F i.val)
        (wrElem t q, f ||| (if sxBad blk then flSXE else 0), bad)))

/-- The narrow type that QTy names, `.q` through FMTCFG.QTYPE (08 R163); none where Table 8.1 does not list it. -/
def narrowOf (fmtcfg : BitVec 12) (z8ok : Bool) : QTy → Option ElemTy
  | .e4m3 => some .e4m3
  | .e5m2 => some .e5m2
  | .i8 => some .i8
  | .z8 => if z8ok then some .z8 else none
  | .q => match fmtcfg.toNat / 256 with
    | 3 => some .e4m3
    | 4 => some .e5m2
    | 7 => some .i8
    | 10 => if z8ok then some .z8 else none
    | _ => none

/-- A scale that is positive and finite, as a magnitude. -/
def posFinite : FVal → Option (Nat × Int)
  | .fin false m e => if m = 0 then none else some (m, e)
  | _ => none

/-- One lane of `pass(s)` (08 R164): code, flags, clip?, zero? -/
def quantLane (t : ElemTy) (rm : Rm) (ms : Nat) (es : Int) (x : FVal) : Nat × Flags × Bool × Bool :=
  match t with
  | .i8 => match x with
    | .nan sig => (0, if sig then flNANQ ||| flNV else flNANQ, false, false)
    | .inf neg => (if neg then 0x80 else 0x7F, 0, true, false)
    | .fin neg m e =>
      let (y, _) := roundIntRatio rm neg m ms (e - es)
      if y > 127 ∨ y < -128 then (wrapNat 8 (satInt .i8 y), 0, true, false)
      else (wrapNat 8 y, 0, false, y == 0 && m != 0)
  | .z8 => match x with
    | .nan sig => (0, if sig then flNANQ ||| flNV else flNANQ, false, false)
    | .inf _ => (15, 0, true, false)
    | .fin _ m e =>
      if m = 0 then (0, 0, false, false)
      else
        let l0 := floorLog2 m ms
        let exact : Bool := if l0 ≥ 0 then m == ms * 2 ^ l0.toNat else m * 2 ^ (-l0).toNat == ms
        let j := l0 + (e - es) + (if exact then 0 else 1) + 8
        ((min (max j 0) 15).toNat, 0, decide (j > 15), false)
  | _ => match x with
    | .nan sig => (canonNan (fmtOf t), if sig then flNV else 0, false, false)
    | .inf neg => (signPat (fmtOf t) neg + maxPat (fmtOf t), 0, true, false)
    | .fin neg m e =>
      if m = 0 then (signPat (fmtOf t) neg, 0, false, false)
      else
        let (q, f) := roundRatio (fmtOf t) rm neg m ms (e - es)
        if f &&& flOF ≠ 0 then (signPat (fmtOf t) neg + maxPat (fmtOf t), 0, true, false)
        else (q, 0, false, q % 2 ^ (ebits t - 1) == 0)

/-- qmax of a narrow type (08 R165). -/
def qmaxOf : ElemTy → Nat
  | .i8 => 127
  | .e4m3 => 448
  | _ => 57344

/-- fit(A, t) (08 R165): the FP32 pattern and NV for an infinite A. -/
def fitScale (t : ElemTy) : FVal → Nat × Flags
  | .inf _ => (maxPat fmtF32, flNV)
  | .fin _ m e => if m = 0 then (0x3F800000, 0) else ((roundRatio fmtF32 .ru false m (qmaxOf t) e).1, 0)
  | .nan _ => (0x3F800000, 0)

/-- The largest magnitude over the active lanes that are not NaNs: 0 with no such lane, also where active lanes hold nothing
but NaNs, for which R165 states no value of its own (DEDUCED, log 63). -/
def largestMag (m : Pred) (xs : Fin 16 → FVal) : FVal :=
  (List.finRange 16).foldl (fun a i =>
    if !m.getLsb i then a
    else match xs i with
      | .nan _ => a
      | .inf _ => .inf false
      | .fin _ v e => if cmpF a (.fin false v e) < 0 then .fin false v e else a) (.fin false 0 0)

/-- A signalling NaN in an active lane: NV, also where the lane is then ignored (06 R124, 07 R147). -/
def nanFlags (m : Pred) (xs : Fin 16 → FVal) : Flags :=
  if (List.finRange 16).any (fun i => m.getLsb i && xs i == .nan true) then flNV else 0

/-- VQNT (08 R164, R166). -/
def State.vqnt (s : State) (d a : VReg) (rm : Rm) (t2 t : ElemTy) (p : PReg) : State :=
  let c := s.ctx
  let x := c.rdV a
  let m := c.rdP p
  let xs : Fin 16 → FVal := fun i => fpVal t2 (rdElem t2 x[i].val)
  let grpNo := c.qseq
  let s := s.updCtx (fun c => { c with qseq := c.qseq + 1 })
  let write (s : State) (f : Fin 16 → Nat × Flags × Bool × Bool) (extra : Flags) : State :=
    s.vlanes 3 d m (fun i => (wrElem t (f i).1, (f i).2.1 ||| extra, x[i].poison))
  let count (f : Fin 16 → Nat × Flags × Bool × Bool) (g : Nat × Flags × Bool × Bool → Bool) : Nat :=
    ((List.finRange 16).filter (fun i => m.getLsb i && g (f i))).length
  match posFinite (fpVal .f32 c.qscale.toNat) with
  | none =>
    (s.vlanes 3 d m (fun i => (0, 0, x[i].poison))).pushFlags 3 flNV
  | some (ms, es) =>
    let q1 : Fin 16 → Nat × Flags × Bool × Bool := fun i => quantLane t rm ms es (xs i)
    let nc := count q1 (fun r => r.2.2.1)
    let nz := count q1 (fun r => r.2.2.2)
    if c.qrefit ∧ t ≠ .z8 ∧ (nc > c.qlimit.toNat ∨ nz > c.qlimit.toNat) then
      let (sc, f) := fitScale t (largestMag m xs)
      match posFinite (fpVal .f32 sc) with
      | none => (write s q1 0).push 3 (.quant nc nz none grpNo)
      | some (mf, ef) =>
        let q2 : Fin 16 → Nat × Flags × Bool × Bool := fun i => quantLane t rm mf ef (xs i)
        ((write s q2 0).pushFlags 3 (f ||| flQREF)).push 3 (.quant nc nz (some (BitVec.ofNat 32 sc)) grpNo)
    else ((write s q1 0).pushFlags 3 (if nc > 0 then flQSAT else 0)).push 3 (.quant nc nz none grpNo)

def execVqnt (d a : VReg) (rm : Rm) (t2 : ElemTy) (t : QTy) (p : PReg) (s : State) : Out :=
  .next (
    match narrowOf s.me.fmtcfg true t with
    | none => s.illegalField
    | some ty =>
      if s.fwBad [d, a] ∨ (ty = .z8 ∧ rm ≠ .rne) then s.illegalField else s.vqnt d a rm t2 ty p)

/-- A code's value under its narrow type (08 R167). A .z8 code above 15, which VQNT never makes, takes 2^(j − 8) of all eight
bits (DESIGN CHOICE, log 63). -/
def codeVal (t : ElemTy) (bits : Nat) : FVal :=
  match t with
  | .i8 => intVal (sext 8 bits)
  | .z8 => .fin false 1 ((bits : Int) - 8)
  | _ => fpVal t bits

/-- VDQ (08 R167). -/
def execVdq (d a : VReg) (rm : Rm) (t2 : QTy) (t : ElemTy) (p : PReg) (s : State) : Out :=
  .next (
    match narrowOf s.me.fmtcfg true t2 with
    | none => s.illegalField
    | some ty =>
      if s.fwBad [d, a] then s.illegalField
      else
        let sc := fpVal .f32 s.ctx.qscale.toNat
        match posFinite sc with
        | none => (s.vec2 3 d a p (fun _ => (wrElem t (canonNan (fmtOf t)), 0))).pushFlags 3 flNV
        | some _ => s.vec2 3 d a p (fun x => putFloat t rm (mulF (codeVal ty (rdElem ty x)) sc)))

/-- VQCH on one channel (08 R168): scale, offset, reciprocal, flags. -/
def quantChannel (t : ElemTy) (rm : Rm) (lo hi : FVal) : Nat × Nat × Nat × Flags :=
  let f := fmtOf t
  match lo, hi with
  | .fin nl ml el, .fin nh mh eh =>
    if cmpF hi lo < 0 then (0, canonNan f, 0, flNV)
    else
      let (dif, _) := addF rm (.fin nh mh eh) (.fin (!nl) ml el)
      let (sp, f1) := match dif with
        | .fin n m e => if m = 0 then (signPat f n, (0 : Flags)) else roundRatio f rm n m 255 e
        | _ => (0, 0)
      let sv := fpDecode f sp
      let (ov, f2) := fmaF rm false (.fin false 128 0) sv lo
      let (op, f3) := roundFp f rm ov
      let (rc, f4) := match sv with
        | .fin n m e => if m = 0 then (0, (0 : Flags)) else satRatio f rm n 1 m (-e)
        | _ => (0, 0)
      (sp, op, rc, f1 ||| f2 ||| f3 ||| f4)
  | _, _ => (0, canonNan f, 0, flNV)

def execVqch (d a : VReg) (rm : Rm) (_t2 t : ElemTy) (p : PReg) (s : State) : Out :=
  .next (
    if s.fwBad [grp d 2, grp a 1] then s.illegalField
    else
      let c := s.ctx
      let lo := c.rdV a
      let hi := c.rdV (grp a 1)
      let m := c.rdP p
      let r : Fin 16 → Nat × Nat × Nat × Flags := fun i =>
        quantChannel t rm (fpVal t (rdElem t lo[i].val)) (fpVal t (rdElem t hi[i].val))
      let bad : Fin 16 → Bool := fun i => lo[i].poison || hi[i].poison
      ((s.vlanes 6 d m (fun i => (wrElem t (r i).1, (r i).2.2.2, bad i))).vlanes 6 (grp d 1) m
        (fun i => (wrElem t (r i).2.1, 0, bad i))).vlanes 6 (grp d 2) m (fun i => (wrElem t (r i).2.2.1, 0, bad i)))

/-- VQFIT (08 R165): the fitted scale as FP32 in every lane of vd. -/
def execVqfit (d a : VReg) (t2 : ElemTy) (t : QTy) (p : PReg) (s : State) : Out :=
  .next (
    match narrowOf s.me.fmtcfg false t with
    | none => s.illegalField
    | some ty =>
      if s.fwBad [d, a] then s.illegalField
      else
        let c := s.ctx
        let x := c.rdV a
        let m := c.rdP p
        let xs : Fin 16 → FVal := fun i => fpVal t2 (rdElem t2 x[i].val)
        let (sc, f) := fitScale ty (largestMag m xs)
        let bad := (List.finRange 16).any (fun i => m.getLsb i && x[i].poison)
        s.vlanes 4 d 0xFFFF (fun _ => (BitVec.ofNat 32 sc, f ||| nanFlags m xs, bad)))

/-! ### Complex arithmetic (08 R169 to R172) -/

/-- A complex lane: real and imaginary parts, poison. -/
structure Cx where
  re : FVal
  im : FVal
  poison : Bool
deriving DecidableEq, Repr

def cxAt (c : Ctx) (t : ElemTy) (r : VReg) (i : Fin 16) : Cx :=
  let x := (c.rdV r)[i]
  let y := (c.rdV (grp r 1))[i]
  ⟨fpVal t (rdElem t x.val), fpVal t (rdElem t y.val), x.poison || y.poison⟩

/-- One part: an exact signed sum of terms rounded once (08 R169). -/
def part (t : ElemTy) (ts : List (FVal × Flags)) : Nat × Flags :=
  let (v, f) := sumTerms ts
  let (p, g) := roundFp (fmtOf t) .rne v
  (p, f ||| g)

def negTerm (x : FVal × Flags) : FVal × Flags := (x.1.negate, x.2)

/-- The complex product, each part rounded once (08 R170). -/
def cxMul (t : ElemTy) (a b : Cx) : (Nat × Flags) × (Nat × Flags) :=
  (part t [mulF a.re b.re, negTerm (mulF a.im b.im)], part t [mulF a.re b.im, mulF a.im b.re])

/-- A rounded complex product as a value again. -/
def cxMulVal (t : ElemTy) (a b : Cx) : Cx × Flags :=
  let (r, i) := cxMul t a b
  (⟨fpVal t r.1, fpVal t i.1, a.poison || b.poison⟩, r.2 ||| i.2)

def execVcmul (d a b : VReg) (t : ElemTy) (p : PReg) (s : State) : Out :=
  .next (
    if s.fwBad [grp d 1, grp a 1, grp b 1] then s.illegalField
    else
      let c := s.ctx
      let m := c.rdP p
      let r : Fin 16 → (Nat × Flags) × (Nat × Flags) := fun i => cxMul t (cxAt c t a i) (cxAt c t b i)
      let bad : Fin 16 → Bool := fun i => (cxAt c t a i).poison || (cxAt c t b i).poison
      (s.vlanes 4 d m (fun i => (wrElem t (r i).1.1, (r i).1.2, bad i))).vlanes 4 (grp d 1) m
        (fun i => (wrElem t (r i).2.1, (r i).2.2, bad i)))

/-- VCONJ moves bits and inverts the sign of the imaginary part (08 R170). -/
def execVconj (d a : VReg) (t : ElemTy) (p : PReg) (s : State) : Out :=
  .next (
    if s.fwBad [grp d 1, grp a 1] then s.illegalField
    else
      let c := s.ctx
      let m := c.rdP p
      let x := c.rdV a
      let y := c.rdV (grp a 1)
      (s.vlanes 2 d m (fun i => (wrElem t (rdElem t x[i].val), 0, x[i].poison))).vlanes 2 (grp d 1) m
        (fun i => (laneNeg t y[i].val, 0, y[i].poison)))

/-- VBF2 on one lane (08 R171): four parts in register order, each with flags. -/
def bf2Lane (t : ElemTy) (w a b : Cx) : List (Nat × Flags) × Flags × Bool :=
  let (q, f) := cxMulVal t w b
  ([part t [(a.re, 0), (q.re, 0)], part t [(a.im, 0), (q.im, 0)],
    part t [(a.re, 0), negTerm (q.re, 0)], part t [(a.im, 0), negTerm (q.im, 0)]],
    f, w.poison || a.poison || b.poison)

/-- Writing the parts of a butterfly to consecutive registers. -/
def State.writeParts (s : State) (t : ElemTy) (d : VReg) (m : Pred) (n : Nat)
    (r : Fin 16 → List (Nat × Flags) × Flags × Bool) : State :=
  (List.range n).foldl (fun s k =>
    s.vlanes 4 (grp d k) m (fun i =>
      let x := (r i).1.getD k (0, 0)
      (wrElem t x.1, x.2 ||| (r i).2.1, (r i).2.2))) s

def execVbf2 (d a b : VReg) (t : ElemTy) (p : PReg) (s : State) : Out :=
  .next (
    if s.fwBad [grp d 3, grp a 1, grp b 1] then s.illegalField
    else
      let c := s.ctx
      s.writeParts t d (c.rdP p) 4 (fun i => bf2Lane t (cxAt c t d i) (cxAt c t a i) (cxAt c t b i)))

/-- VBF4 on one lane (08 R172): eight parts in register order. -/
def bf4Lane (t : ElemTy) (x0 x1 x2 x3 w1 w2 w3 : Cx) : List (Nat × Flags) × Flags × Bool :=
  let (g1, f1) := cxMulVal t w1 x1
  let (g2, f2) := cxMulVal t w2 x2
  let (g3, f3) := cxMulVal t w3 x3
  let P (v : FVal) : FVal × Flags := (v, 0)
  let N (v : FVal) : FVal × Flags := (v.negate, 0)
  ([part t [P x0.re, P g1.re, P g2.re, P g3.re], part t [P x0.im, P g1.im, P g2.im, P g3.im],
    part t [P x0.re, P g1.im, N g2.re, N g3.im], part t [P x0.im, N g1.re, N g2.im, P g3.re],
    part t [P x0.re, N g1.re, P g2.re, N g3.re], part t [P x0.im, N g1.im, P g2.im, N g3.im],
    part t [P x0.re, N g1.im, N g2.re, P g3.im], part t [P x0.im, P g1.re, N g2.im, N g3.re]],
    f1 ||| f2 ||| f3,
    x0.poison || x1.poison || x2.poison || x3.poison || w1.poison || w2.poison || w3.poison)

def execVbf4 (d a b : VReg) (t : ElemTy) (p : PReg) (s : State) : Out :=
  .next (
    if s.fwBad [grp d 7, grp a 7, grp b 5] then s.illegalField
    else
      let c := s.ctx
      s.writeParts t d (c.rdP p) 8 (fun i =>
        bf4Lane t (cxAt c t a i) (cxAt c t (grp a 2) i) (cxAt c t (grp a 4) i) (cxAt c t (grp a 6) i)
          (cxAt c t b i) (cxAt c t (grp b 2) i) (cxAt c t (grp b 4) i)))

/-- VTWID (08 R173). -/
def execVtwid (d : VReg) (a : SReg) (log2n : Fin 64) (t : ElemTy) (p : PReg) (s : State) : Out :=
  .next (
    if s.fwBad [grp d 1] then s.illegalField
    else
      let c := s.ctx
      let x := c.rdS a
      let N := 2 ^ log2n.val
      let sh := fld x.val.toNat 0 4
      let mm := fld x.val.toNat 8 24
      let k0 := fld x.val.toNat 40 24
      let r : Fin 16 → (Nat × Flags) × (Nat × Flags) := fun i =>
        twiddle (fmtOf t) ((k0 + mm * (i.val / 2 ^ sh)) % N) N
      let m := c.rdP p
      (s.vlanes 6 d m (fun i => (wrElem t (r i).1.1, (r i).1.2, x.poison))).vlanes 6 (grp d 1) m
        (fun i => (wrElem t (r i).2.1, (r i).2.2, x.poison)))

end Sys2Proof.Machine
end

