-- ==== Sys2Proof/Machine/Vector.lean ====
section
/-! DEFINITION. The vector and predicate instructions of chapter 07. -/

namespace Sys2Proof.Machine

def execVadd (d a b : VReg) (t : ElemTy) (p : PReg) (s : State) : Out :=
  .next (s.vec3 (latOf t 2 4) d a b p false (fun x y z => laneArith .add t .rne x y z))
def execVsub (d a b : VReg) (t : ElemTy) (p : PReg) (s : State) : Out :=
  .next (s.vec3 (latOf t 2 4) d a b p false (fun x y z => laneArith .sub t .rne x y z))
def execVmul (d a b : VReg) (t : ElemTy) (p : PReg) (s : State) : Out :=
  .next (s.vec3 (latOf t 2 4) d a b p false (fun x y z => laneArith .mul t .rne x y z))
def execVfma (d a b : VReg) (t : ElemTy) (p : PReg) (s : State) : Out :=
  .next (s.vec3 (latOf t 2 4) d a b p true (fun x y z => laneArith .fma t .rne x y z))
def execVfms (d a b : VReg) (t : ElemTy) (p : PReg) (s : State) : Out :=
  .next (s.vec3 (latOf t 2 4) d a b p true (fun x y z => laneArith .fms t .rne x y z))
def execVfnma (d a b : VReg) (t : ElemTy) (p : PReg) (s : State) : Out :=
  .next (s.vec3 (latOf t 2 4) d a b p true (fun x y z => laneArith .fnma t .rne x y z))
def execVmulh (d a b : VReg) (t : ElemTy) (p : PReg) (s : State) : Out :=
  .next (s.vec3 2 d a b p false (fun x y _ => laneMulh t x y))
def execVmin (d a b : VReg) (t : ElemTy) (p : PReg) (s : State) : Out :=
  .next (s.vec3 2 d a b p false (fun x y _ => laneMinMax false t x y))
def execVmax (d a b : VReg) (t : ElemTy) (p : PReg) (s : State) : Out :=
  .next (s.vec3 2 d a b p false (fun x y _ => laneMinMax true t x y))
def execVabs (d a : VReg) (t : ElemTy) (p : PReg) (s : State) : Out :=
  .next (s.vec2 2 d a p (fun x => (laneAbs t x, 0)))
def execVneg (d a : VReg) (t : ElemTy) (p : PReg) (s : State) : Out :=
  .next (s.vec2 2 d a p (fun x => (laneNeg t x, 0)))
def execVand (d a b : VReg) (p : PReg) (s : State) : Out :=
  .next (s.vec3 2 d a b p false (fun x y _ => (x &&& y, 0)))
def execVor (d a b : VReg) (p : PReg) (s : State) : Out :=
  .next (s.vec3 2 d a b p false (fun x y _ => (x ||| y, 0)))
def execVxor (d a b : VReg) (p : PReg) (s : State) : Out :=
  .next (s.vec3 2 d a b p false (fun x y _ => (x ^^^ y, 0)))
def execVnot (d a : VReg) (p : PReg) (s : State) : Out := .next (s.vec2 2 d a p (fun x => (~~~x, 0)))
def execVshl (d a b : VReg) (t : ElemTy) (p : PReg) (s : State) : Out :=
  .next (s.vec3 2 d a b p false (fun x y _ => (laneShift .shl t x y.toNat, 0)))
def execVshr (d a b : VReg) (t : ElemTy) (p : PReg) (s : State) : Out :=
  .next (s.vec3 2 d a b p false (fun x y _ => (laneShift .shr t x y.toNat, 0)))
def execVsra (d a b : VReg) (t : ElemTy) (p : PReg) (s : State) : Out :=
  .next (s.vec3 2 d a b p false (fun x y _ => (laneShift .sra t x y.toNat, 0)))

/-- The correctly rounded functions need t2 = t (07 R157), which decoding checks. -/
def execVrcp (d a : VReg) (rm : Rm) (_t2 t : ElemTy) (p : PReg) (s : State) : Out :=
  .next (s.vec2 6 d a p (laneFunc .rcp t rm))
def execVrsq (d a : VReg) (rm : Rm) (_t2 t : ElemTy) (p : PReg) (s : State) : Out :=
  .next (s.vec2 6 d a p (laneFunc .rsq t rm))
def execVsqrt (d a : VReg) (rm : Rm) (_t2 t : ElemTy) (p : PReg) (s : State) : Out :=
  .next (s.vec2 6 d a p (laneFunc .sqrt t rm))
def execVexp2 (d a : VReg) (rm : Rm) (_t2 t : ElemTy) (p : PReg) (s : State) : Out :=
  .next (s.vec2 6 d a p (laneFunc .exp2 t rm))
def execVlog2 (d a : VReg) (rm : Rm) (_t2 t : ElemTy) (p : PReg) (s : State) : Out :=
  .next (s.vec2 6 d a p (laneFunc .log2 t rm))

/-- A predicate built from 16 bits. -/
def predOf (f : Fin 16 → Bool) : Pred := BitVec.ofNat 16 ((List.finRange 16).foldl
  (fun x i => if f i then x + 2 ^ i.val else x) 0)

/-- VCMP: all 16 lanes, no governing predicate (07 R151). -/
def execVcmp (pd : PReg) (cc : VCond) (a b : VReg) (t : ElemTy) (s : State) : Out :=
  .next (
    if s.fwBad [a, b] then s.illegalField
    else
      let x := s.ctx.rdV a
      let y := s.ctx.rdV b
      let fl := (List.finRange 16).foldl (fun f i => f ||| (laneCmp cc t x[i].val y[i].val).2) (0 : Flags)
      (s.pushP 2 pd 0xFFFF (predOf (fun i => (laneCmp cc t x[i].val y[i].val).1))).pushFlags 2 fl)

/-- VSEL writes every lane (07 R152). -/
def execVsel (d a b : VReg) (p : PReg) (s : State) : Out :=
  .next (
    if s.fwBad [d, a, b] then s.illegalField
    else
      let c := s.ctx
      let x := c.rdV a
      let y := c.rdV b
      let m := c.rdP p
      s.vlanes 2 d 0xFFFF (fun i =>
        (if m.getLsb i then x[i].val else y[i].val, 0, x[i].poison || y[i].poison)))

def execVmov (d a : VReg) (p : PReg) (s : State) : Out := .next (s.vec2 2 d a p (fun x => (x, 0)))

/-- VBCST (07 R153): s[a][W-1:0] in every active lane. -/
def execVbcst (d : VReg) (a : SReg) (t : ElemTy) (p : PReg) (s : State) : Out :=
  .next (
    if s.fwBad [d] then s.illegalField
    else
      let x := s.ctx.rdS a
      s.vlanes 2 d (s.ctx.rdP p) (fun _ => (wrElem t x.val.toNat, 0, x.poison)))

/-- The value VEXT writes (07 R153). -/
def extractVal (t : ElemTy) (x : Word) : DWord :=
  if isSigned t then BitVec.ofInt 64 (sext (ebits t) x.toNat) else BitVec.ofNat 64 (rdElem t x)

def execVext (d : SReg) (a : VReg) (lane : Fin 16) (t : ElemTy) (s : State) : Out :=
  .next (
    if s.fwBad [a] then s.illegalField
    else
      let x := (s.ctx.rdV a)[lane]
      s.pushS 2 d (extractVal t x.val) x.poison)

/-- VINS (07 R153): one lane written, the others unchanged. -/
def execVins (d : VReg) (a : SReg) (lane : Fin 16) (t : ElemTy) (s : State) : Out :=
  .next (
    if s.fwBad [d] then s.illegalField
    else
      let x := s.ctx.rdS a
      s.vlanes 2 d (predOf (fun i => i == lane)) (fun _ => (wrElem t x.val.toNat, 0, x.poison)))

/-- VPERM: bits [31:4] of the index are ignored; the index lane is read too. -/
def execVperm (d a b : VReg) (p : PReg) (s : State) : Out :=
  .next (
    if s.fwBad [d, a, b] then s.illegalField
    else
      let c := s.ctx
      let x := c.rdV a
      let y := c.rdV b
      s.vlanes 2 d (c.rdP p) (fun i =>
        let l := x[Fin.ofNat 16 y[i].val.toNat]
        (l.val, 0, l.poison || y[i].poison)))

/-- The 4-bit reversal of a lane number. -/
def rev4 (i : Nat) : Nat := i % 2 * 8 + i / 2 % 2 * 4 + i / 4 % 2 * 2 + i / 8 % 2

/-- Which source (b?) and lane reach lane i (07 Table 7.4). -/
def shufLane (pat : Shuf) (i : Fin 16) : Bool × Fin 16 :=
  let n := i.val
  let lo (h : Nat) : Bool × Fin 16 := if n / h % 2 = 0 then (false, i) else (true, Fin.ofNat 16 (n - h))
  let hi (h : Nat) : Bool × Fin 16 := if n / h % 2 = 0 then (false, Fin.ofNat 16 (n + h)) else (true, i)
  match pat with
  | .lo1 => lo 1
  | .lo2 => lo 2
  | .lo4 => lo 4
  | .lo8 => lo 8
  | .hi1 => hi 1
  | .hi2 => hi 2
  | .hi4 => hi 4
  | .hi8 => hi 8
  | .evn => if n < 8 then (false, Fin.ofNat 16 (2 * n)) else (true, Fin.ofNat 16 (2 * n - 16))
  | .odd => if n < 8 then (false, Fin.ofNat 16 (2 * n + 1)) else (true, Fin.ofNat 16 (2 * n - 15))
  | .zipl => if n % 2 = 0 then (false, Fin.ofNat 16 (n / 2)) else (true, Fin.ofNat 16 ((n - 1) / 2))
  | .ziph => if n % 2 = 0 then (false, Fin.ofNat 16 (8 + n / 2)) else (true, Fin.ofNat 16 (8 + (n - 1) / 2))
  | .rev => (false, Fin.ofNat 16 (rev4 n))

def execVshuf (d a b : VReg) (pat : Shuf) (p : PReg) (s : State) : Out :=
  .next (s.vperm d a b p (shufLane pat))
def execVrot (d a : VReg) (n : Fin 16) (p : PReg) (s : State) : Out :=
  .next (s.vperm d a a p (fun i => (false, Fin.ofNat 16 (i.val + n.val))))

/-- A reduction (07 R155): p governs which lanes contribute; the result goes to all 16 lanes of d. -/
def State.reduce (s : State) (op : Red) (d a : VReg) (t : ElemTy) (p : PReg) (lat : Nat) : State :=
  if s.fwBad [d, a] then s.illegalField
  else
    let c := s.ctx
    let x := c.rdV a
    let m := c.rdP p
    let leaves := (List.finRange 16).map (fun i =>
      ((if m.getLsb i then redLeaf op t x[i].val else redIdent op t, 0) : Nat × Flags))
    let r := redTree op t leaves
    let bad := (List.finRange 16).any (fun i => m.getLsb i && x[i].poison)
    s.vlanes lat d 0xFFFF (fun _ => (redWrite op t r.1, r.2, bad))

def execVrsum (d a : VReg) (t : ElemTy) (p : PReg) (s : State) : Out :=
  .next (s.reduce .sum d a t p (latOf t 4 8))
def execVrmax (d a : VReg) (t : ElemTy) (p : PReg) (s : State) : Out := .next (s.reduce .max d a t p 4)
def execVrmin (d a : VReg) (t : ElemTy) (p : PReg) (s : State) : Out := .next (s.reduce .min d a t p 4)
def execVramax (d a : VReg) (t : ElemTy) (p : PReg) (s : State) : Out := .next (s.reduce .amax d a t p 4)

def execPand (pd pa pb : PReg) (s : State) : Out := .next (s.pushP 1 pd 0xFFFF (s.ctx.rdP pa &&& s.ctx.rdP pb))
def execPor (pd pa pb : PReg) (s : State) : Out := .next (s.pushP 1 pd 0xFFFF (s.ctx.rdP pa ||| s.ctx.rdP pb))
def execPxor (pd pa pb : PReg) (s : State) : Out := .next (s.pushP 1 pd 0xFFFF (s.ctx.rdP pa ^^^ s.ctx.rdP pb))
def execPnot (pd pa : PReg) (s : State) : Out := .next (s.pushP 1 pd 0xFFFF (~~~(s.ctx.rdP pa)))
def execPset (pd : PReg) (i : BitVec 16) (s : State) : Out := .next (s.pushP 1 pd 0xFFFF i)
def execPcnt (d : SReg) (pa : PReg) (s : State) : Out :=
  .next (s.pushS 1 d (BitVec.ofNat 64 (popBits 16 (s.ctx.rdP pa).toNat)) false)

end Sys2Proof.Machine
end

