-- ==== Sys2Proof/Machine/Dispatch.lean ====
section
/-! DEFINITION. Dispatch: one arm per constructor of `Instr`, each one direct call of its meaning. -/

namespace Sys2Proof.Machine

def exec (i : Instr) (s : State) : Host.Outcome State Fault Refusal :=
  match i with
  | .nop => Sys2Proof.Machine.execNop s
  | .emptyBundle => Sys2Proof.Machine.execEmptyBundle s
  | .foldedRun n => Sys2Proof.Machine.execFoldedRun n s
  | .stampedBundleIssue stamp => Sys2Proof.Machine.execStampedBundleIssue stamp s
  | .add d a b w => Sys2Proof.Machine.execAdd d a b w s
  | .sub d a b w => Sys2Proof.Machine.execSub d a b w s
  | .mul d a b w => Sys2Proof.Machine.execMul d a b w s
  | .mulh d a b w => Sys2Proof.Machine.execMulh d a b w s
  | .mulhu d a b w => Sys2Proof.Machine.execMulhu d a b w s
  | .div d a b w => Sys2Proof.Machine.execDiv d a b w s
  | .divu d a b w => Sys2Proof.Machine.execDivu d a b w s
  | .rem d a b w => Sys2Proof.Machine.execRem d a b w s
  | .remu d a b w => Sys2Proof.Machine.execRemu d a b w s
  | .and d a b w => Sys2Proof.Machine.execAnd d a b w s
  | .or d a b w => Sys2Proof.Machine.execOr d a b w s
  | .xor d a b w => Sys2Proof.Machine.execXor d a b w s
  | .shl d a b w => Sys2Proof.Machine.execShl d a b w s
  | .shr d a b w => Sys2Proof.Machine.execShr d a b w s
  | .sra d a b w => Sys2Proof.Machine.execSra d a b w s
  | .min d a b w => Sys2Proof.Machine.execMin d a b w s
  | .max d a b w => Sys2Proof.Machine.execMax d a b w s
  | .minu d a b w => Sys2Proof.Machine.execMinu d a b w s
  | .maxu d a b w => Sys2Proof.Machine.execMaxu d a b w s
  | .slt d a b w => Sys2Proof.Machine.execSlt d a b w s
  | .sltu d a b w => Sys2Proof.Machine.execSltu d a b w s
  | .seq d a b w => Sys2Proof.Machine.execSeq d a b w s
  | .sel d a b c => Sys2Proof.Machine.execSel d a b c s
  | .mov d a => Sys2Proof.Machine.execMov d a s
  | .clz d a w => Sys2Proof.Machine.execClz d a w s
  | .ctz d a w => Sys2Proof.Machine.execCtz d a w s
  | .popc d a w => Sys2Proof.Machine.execPopc d a w s
  | .bfx d a pos lenm1 => Sys2Proof.Machine.execBfx d a pos lenm1 s
  | .bfi d a pos lenm1 => Sys2Proof.Machine.execBfi d a pos lenm1 s
  | .addi d a w imm => Sys2Proof.Machine.execAddi d a w imm s
  | .andi d a w imm => Sys2Proof.Machine.execAndi d a w imm s
  | .ori d a w imm => Sys2Proof.Machine.execOri d a w imm s
  | .xori d a w imm => Sys2Proof.Machine.execXori d a w imm s
  | .shli d a w n => Sys2Proof.Machine.execShli d a w n s
  | .shri d a w n => Sys2Proof.Machine.execShri d a w n s
  | .srai d a w n => Sys2Proof.Machine.execSrai d a w n s
  | .li d imm => Sys2Proof.Machine.execLi d imm s
  | .lui d imm => Sys2Proof.Machine.execLui d imm s
  | .csrr d c => Sys2Proof.Machine.execCsrr d c s
  | .csrw d a c => Sys2Proof.Machine.execCsrw d a c s
  | .rdgts d => Sys2Proof.Machine.execRdgts d s
  | .extq d a => Sys2Proof.Machine.execExtq d a s
  | .mapreq d a b c => Sys2Proof.Machine.execMapreq d a b c s
  | .semsigImm n imm => Sys2Proof.Machine.execSemsigImm n imm s
  | .semsigReg a n => Sys2Proof.Machine.execSemsigReg a n s
  | .semwait d e n thr => Sys2Proof.Machine.execSemwait d e n thr s
  | .semsetImm n imm => Sys2Proof.Machine.execSemsetImm n imm s
  | .semsetReg a n => Sys2Proof.Machine.execSemsetReg a n s
  | .semrd d n => Sys2Proof.Machine.execSemrd d n s
  | .barinit sc n count => Sys2Proof.Machine.execBarinit sc n count s
  | .bara d sc n => Sys2Proof.Machine.execBara d sc n s
  | .barw n => Sys2Proof.Machine.execBarw n s
  | .xld d a => Sys2Proof.Machine.execXld d a s
  | .xdrop d n => Sys2Proof.Machine.execXdrop d n s
  | .xqry d => Sys2Proof.Machine.execXqry d s
  | .qpost d a b => Sys2Proof.Machine.execQpost d a b s
  | .sigadd d a b => Sys2Proof.Machine.execSigadd d a b s
  | .vadd d a b t p => Sys2Proof.Machine.execVadd d a b t p s
  | .vsub d a b t p => Sys2Proof.Machine.execVsub d a b t p s
  | .vmul d a b t p => Sys2Proof.Machine.execVmul d a b t p s
  | .vmulh d a b t p => Sys2Proof.Machine.execVmulh d a b t p s
  | .vfma d a b t p => Sys2Proof.Machine.execVfma d a b t p s
  | .vfms d a b t p => Sys2Proof.Machine.execVfms d a b t p s
  | .vfnma d a b t p => Sys2Proof.Machine.execVfnma d a b t p s
  | .vmin d a b t p => Sys2Proof.Machine.execVmin d a b t p s
  | .vmax d a b t p => Sys2Proof.Machine.execVmax d a b t p s
  | .vabs d a t p => Sys2Proof.Machine.execVabs d a t p s
  | .vneg d a t p => Sys2Proof.Machine.execVneg d a t p s
  | .vand d a b p => Sys2Proof.Machine.execVand d a b p s
  | .vor d a b p => Sys2Proof.Machine.execVor d a b p s
  | .vxor d a b p => Sys2Proof.Machine.execVxor d a b p s
  | .vnot d a p => Sys2Proof.Machine.execVnot d a p s
  | .vshl d a b t p => Sys2Proof.Machine.execVshl d a b t p s
  | .vshr d a b t p => Sys2Proof.Machine.execVshr d a b t p s
  | .vsra d a b t p => Sys2Proof.Machine.execVsra d a b t p s
  | .vrcp d a rm t2 t p => Sys2Proof.Machine.execVrcp d a rm t2 t p s
  | .vrsq d a rm t2 t p => Sys2Proof.Machine.execVrsq d a rm t2 t p s
  | .vsqrt d a rm t2 t p => Sys2Proof.Machine.execVsqrt d a rm t2 t p s
  | .vexp2 d a rm t2 t p => Sys2Proof.Machine.execVexp2 d a rm t2 t p s
  | .vlog2 d a rm t2 t p => Sys2Proof.Machine.execVlog2 d a rm t2 t p s
  | .vcmp pd cc a b t => Sys2Proof.Machine.execVcmp pd cc a b t s
  | .vsel d a b p => Sys2Proof.Machine.execVsel d a b p s
  | .vmov d a p => Sys2Proof.Machine.execVmov d a p s
  | .vbcst d a t p => Sys2Proof.Machine.execVbcst d a t p s
  | .vext d a lane t => Sys2Proof.Machine.execVext d a lane t s
  | .vins d a lane t => Sys2Proof.Machine.execVins d a lane t s
  | .vperm d a b p => Sys2Proof.Machine.execVperm d a b p s
  | .vshuf d a b pat p => Sys2Proof.Machine.execVshuf d a b pat p s
  | .vrot d a n p => Sys2Proof.Machine.execVrot d a n p s
  | .vrsum d a t p => Sys2Proof.Machine.execVrsum d a t p s
  | .vrmax d a t p => Sys2Proof.Machine.execVrmax d a t p s
  | .vrmin d a t p => Sys2Proof.Machine.execVrmin d a t p s
  | .vramax d a t p => Sys2Proof.Machine.execVramax d a t p s
  | .pand pd pa pb => Sys2Proof.Machine.execPand pd pa pb s
  | .por pd pa pb => Sys2Proof.Machine.execPor pd pa pb s
  | .pxor pd pa pb => Sys2Proof.Machine.execPxor pd pa pb s
  | .pnot pd pa => Sys2Proof.Machine.execPnot pd pa s
  | .pset pd imm => Sys2Proof.Machine.execPset pd imm s
  | .pcnt d pa => Sys2Proof.Machine.execPcnt d pa s
  | .vcvt d a rm t2 t p => Sys2Proof.Machine.execVcvt d a rm t2 t p s
  | .vpksx d a rm t2 t p => Sys2Proof.Machine.execVpksx d a rm t2 t p s
  | .vupsx d a rm t2 t p => Sys2Proof.Machine.execVupsx d a rm t2 t p s
  | .vqnt d a rm t2 t p => Sys2Proof.Machine.execVqnt d a rm t2 t p s
  | .vdq d a rm t2 t p => Sys2Proof.Machine.execVdq d a rm t2 t p s
  | .vqch d a rm t2 t p => Sys2Proof.Machine.execVqch d a rm t2 t p s
  | .vqfit d a t2 t p => Sys2Proof.Machine.execVqfit d a t2 t p s
  | .vbf2 d a b t p => Sys2Proof.Machine.execVbf2 d a b t p s
  | .vbf4 d a b t p => Sys2Proof.Machine.execVbf4 d a b t p s
  | .vcmul d a b t p => Sys2Proof.Machine.execVcmul d a b t p s
  | .vconj d a t p => Sys2Proof.Machine.execVconj d a t p s
  | .vtwid d a log2n t p => Sys2Proof.Machine.execVtwid d a log2n t p s
  | .xop d a b n p => Sys2Proof.Machine.execXop d a b n p s
  | .ld d base ty rp off => Sys2Proof.Machine.execLd d base ty rp off s
  | .st d base ty off => Sys2Proof.Machine.execSt d base ty off s
  | .vld d base ty rp off => Sys2Proof.Machine.execVld d base ty rp off s
  | .vlds d base ty rp b => Sys2Proof.Machine.execVlds d base ty rp b s
  | .vldb d base ty rp off => Sys2Proof.Machine.execVldb d base ty rp off s
  | .vgath d base ty rp b => Sys2Proof.Machine.execVgath d base ty rp b s
  | .vst d base ty off => Sys2Proof.Machine.execVst d base ty off s
  | .vsts d base ty b => Sys2Proof.Machine.execVsts d base ty b s
  | .vscat d base ty b => Sys2Proof.Machine.execVscat d base ty b s
  | .atom d base ty aop b sc => Sys2Proof.Machine.execAtom d base ty aop b sc s
  | .atomn base ty aop b sc => Sys2Proof.Machine.execAtomn base ty aop b sc s
  | .vatom d base ty aop b sc => Sys2Proof.Machine.execVatom d base ty aop b sc s
  | .vatomn base ty aop b sc => Sys2Proof.Machine.execVatomn base ty aop b sc s
  | .scAtomicPerform id => Sys2Proof.Machine.execScAtomicPerform id s
  | .drain path => Sys2Proof.Machine.execDrain path s
  | .fence sc kind => Sys2Proof.Machine.execFence sc kind s
  | .sbar mask => Sys2Proof.Machine.execSbar mask s
  | .ldacq d base ty sc off => Sys2Proof.Machine.execLdacq d base ty sc off s
  | .strel d base ty sc off => Sys2Proof.Machine.execStrel d base ty sc off s
  | .br off => Sys2Proof.Machine.execBr off s
  | .brc a cc off => Sys2Proof.Machine.execBrc a cc off s
  | .brp p mode off => Sys2Proof.Machine.execBrp p mode off s
  | .bru p sense off => Sys2Proof.Machine.execBru p sense off s
  | .jmpi a => Sys2Proof.Machine.execJmpi a s
  | .call off => Sys2Proof.Machine.execCall off s
  | .ret => Sys2Proof.Machine.execRet s
  | .loop lc a step fin => Sys2Proof.Machine.execLoop lc a step fin s
  | .loopi lc count step fin => Sys2Proof.Machine.execLoopi lc count step fin s
  | .lexit lc => Sys2Proof.Machine.execLexit lc s
  | .bsel a => Sys2Proof.Machine.execBsel a s
  | .phend p mode => Sys2Proof.Machine.execPhend p mode s
  | .halt => Sys2Proof.Machine.execHalt s
  | .trap code => Sys2Proof.Machine.execTrap code s
  | .waitarr d a => Sys2Proof.Machine.execWaitarr d a s
  | .waitarrRelease k => Sys2Proof.Machine.execWaitarrRelease k s
  | .array a b chain => Sys2Proof.Machine.execArray a b chain s
  | .arwait => Sys2Proof.Machine.execArwait s
  | .ftrecv d => Sys2Proof.Machine.execFtrecv d s
  | .ftrecvRelease k => Sys2Proof.Machine.execFtrecvRelease k s
  | .repair a b => Sys2Proof.Machine.execRepair a b s
  | .ctxsave a => Sys2Proof.Machine.execCtxsave a s
  | .ctxload a => Sys2Proof.Machine.execCtxload a s
  | .engineNop slot c => Sys2Proof.Machine.execEngineNop slot c s
  | .mcfg cfg c => Sys2Proof.Machine.execMcfg cfg c s
  | .mldw km1 nm1 c => Sys2Proof.Machine.execMldw km1 nm1 c s
  | .mldwSp km1 nm1 nsel c => Sys2Proof.Machine.execMldwSp km1 nm1 nsel c s
  | .mrun acc rowsm1 c => Sys2Proof.Machine.execMrun acc rowsm1 c s
  | .mrunSpan acc rowsm1 c => Sys2Proof.Machine.execMrunSpan acc rowsm1 c s
  | .mzero acc c => Sys2Proof.Machine.execMzero acc c s
  | .mrd acc row0 vd rowsm1 c => Sys2Proof.Machine.execMrd acc row0 vd rowsm1 c s
  | .mwait acc c => Sys2Proof.Machine.execMwait acc c s
  | .madd dst src c => Sys2Proof.Machine.execMadd dst src c s
  | .mscl a c => Sys2Proof.Machine.execMscl a c s
  | .matrixCmdStart k => Sys2Proof.Machine.execMatrixCmdStart k s
  | .matrixCmdComplete k => Sys2Proof.Machine.execMatrixCmdComplete k s
  | .scopy dst src len q c => Sys2Proof.Machine.execScopy dst src len q c s
  | .sfill src len fifo q c => Sys2Proof.Machine.execSfill src len fifo q c s
  | .ssend och src len q c => Sys2Proof.Machine.execSsend och src len q c s
  | .sfree ich slot q c => Sys2Proof.Machine.execSfree ich slot q c s
  | .swake addr val q c => Sys2Proof.Machine.execSwake addr val q c s
  | .sclose q c => Sys2Proof.Machine.execSclose q c s
  | .spost dst src len q c => Sys2Proof.Machine.execSpost dst src len q c s
  | .sget dst src len q c => Sys2Proof.Machine.execSget dst src len q c s
  | .streamCmdStart k q => Sys2Proof.Machine.execStreamCmdStart k q s
  | .streamCmdComplete k q => Sys2Proof.Machine.execStreamCmdComplete k q s
  | .steer n => Sys2Proof.Machine.execSteer n s
  | .merge n => Sys2Proof.Machine.execMerge n s
  | .cld n => Sys2Proof.Machine.execCld n s
  | .cst n => Sys2Proof.Machine.execCst n s
  | .catom n => Sys2Proof.Machine.execCatom n s
  | .tsend n => Sys2Proof.Machine.execTsend n s
  | .trecv n => Sys2Proof.Machine.execTrecv n s
  | .dadd n => Sys2Proof.Machine.execDadd n s
  | .dsub n => Sys2Proof.Machine.execDsub n s
  | .dmul n => Sys2Proof.Machine.execDmul n s
  | .dfma n => Sys2Proof.Machine.execDfma n s
  | .dmin n => Sys2Proof.Machine.execDmin n s
  | .dmax n => Sys2Proof.Machine.execDmax n s
  | .dand n => Sys2Proof.Machine.execDand n s
  | .dor n => Sys2Proof.Machine.execDor n s
  | .dxor n => Sys2Proof.Machine.execDxor n s
  | .dshl n => Sys2Proof.Machine.execDshl n s
  | .dshr n => Sys2Proof.Machine.execDshr n s
  | .dsra n => Sys2Proof.Machine.execDsra n s
  | .dcmp n => Sys2Proof.Machine.execDcmp n s
  | .dsel n => Sys2Proof.Machine.execDsel n s
  | .dcvt n => Sys2Proof.Machine.execDcvt n s
  | .dmov n => Sys2Proof.Machine.execDmov n s
  | .daddk n => Sys2Proof.Machine.execDaddk n s
  | .dshlk n => Sys2Proof.Machine.execDshlk n s
  | .dshrk n => Sys2Proof.Machine.execDshrk n s
  | .dandk n => Sys2Proof.Machine.execDandk n s
  | .iterationAdmit k => Sys2Proof.Machine.execIterationAdmit k s
  | .chainOpSend k => Sys2Proof.Machine.execChainOpSend k s
  | .chainGap k => Sys2Proof.Machine.execChainGap k s
  | .blockEnd k => Sys2Proof.Machine.execBlockEnd k s
  | .waitTimeout k => Sys2Proof.Machine.execWaitTimeout k s
  | .barrierRegionFlip k n => Sys2Proof.Machine.execBarrierRegionFlip k n s
  | .icacheLineFill k line => Sys2Proof.Machine.execIcacheLineFill k line s
  | .asyncFaultTake k => Sys2Proof.Machine.execAsyncFaultTake k s
  | .faultTokenEnqueue k => Sys2Proof.Machine.execFaultTokenEnqueue k s
  | .contextReentry k => Sys2Proof.Machine.execContextReentry k s
  | .lhTimeout g tag => Sys2Proof.Machine.execLhTimeout g tag s
  | .lockhouseLoader g tag => Sys2Proof.Machine.execLockhouseLoader g tag s
  | .lockhousePolicy g tag => Sys2Proof.Machine.execLockhousePolicy g tag s
  | .stateErrDetect k fw info => Sys2Proof.Machine.execStateErrDetect k fw info s
  | .registerSoftError k fw reg elem => Sys2Proof.Machine.execRegisterSoftError k fw reg elem s
  | .strokeStart m => Sys2Proof.Machine.execStrokeStart m s
  | .beaconReceive m link gts => Sys2Proof.Machine.execBeaconReceive m link gts s
  | .timeOrigin m gts => Sys2Proof.Machine.execTimeOrigin m gts s
  | .frameReceive m link good => Sys2Proof.Machine.execFrameReceive m link good s
  | .linkTrain m link => Sys2Proof.Machine.execLinkTrain m link s
  | .linkDown m link => Sys2Proof.Machine.execLinkDown m link s
  | .packetForward id => Sys2Proof.Machine.execPacketForward id s
  | .packetArrive id => Sys2Proof.Machine.execPacketArrive id s
  | .freeReturnArrive id => Sys2Proof.Machine.execFreeReturnArrive id s
  | .remoteWritePerform id => Sys2Proof.Machine.execRemoteWritePerform id s
  | .ackArrive id => Sys2Proof.Machine.execAckArrive id s
  | .remoteReadServe id => Sys2Proof.Machine.execRemoteReadServe id s
  | .readResponseArrive id => Sys2Proof.Machine.execReadResponseArrive id s
  | .semSignalWordWrite k n v => Sys2Proof.Machine.execSemSignalWordWrite k n v s
  | .semSetWordWrite k n v => Sys2Proof.Machine.execSemSetWordWrite k n v s
  | .wakeWordWrite k n v => Sys2Proof.Machine.execWakeWordWrite k n v s
  | .residencyChange k ext res => Sys2Proof.Machine.execResidencyChange k ext res s
  | .mapreqSettle k idx res => Sys2Proof.Machine.execMapreqSettle k idx res s
  | .qcfgWrite m q off v => Sys2Proof.Machine.execQcfgWrite m q off v s
  | .qwriteWrite m q v => Sys2Proof.Machine.execQwriteWrite m q v s
  | .queueFetch m q => Sys2Proof.Machine.execQueueFetch m q s
  | .packetExamine m q => Sys2Proof.Machine.execPacketExamine m q s
  | .copyPacket m q => Sys2Proof.Machine.execCopyPacket m q s
  | .packetComplete m q => Sys2Proof.Machine.execPacketComplete m q s
  | .launchSelect m g => Sys2Proof.Machine.execLaunchSelect m g s
  | .launchTranslate g => Sys2Proof.Machine.execLaunchTranslate g s
  | .launchBind g => Sys2Proof.Machine.execLaunchBind g s
  | .memberDone k => Sys2Proof.Machine.execMemberDone k s
  | .phaseStep g cox => Sys2Proof.Machine.execPhaseStep g cox s
  | .launchEnd g cox => Sys2Proof.Machine.execLaunchEnd g cox s
  | .preempt g cox => Sys2Proof.Machine.execPreempt g cox s
  | .preemptRebind g idx => Sys2Proof.Machine.execPreemptRebind g idx s
  | .checkpoint k => Sys2Proof.Machine.execCheckpoint k s
  | .checkpointCommit k => Sys2Proof.Machine.execCheckpointCommit k s
  | .moduleFailed m => Sys2Proof.Machine.execModuleFailed m s
  | .firmwareActivation m => Sys2Proof.Machine.execFirmwareActivation m s
  | .boot m => Sys2Proof.Machine.execBoot m s
  | .bootAckTimeout m => Sys2Proof.Machine.execBootAckTimeout m s
  | .moduleJoin m => Sys2Proof.Machine.execModuleJoin m s
  | .hsemTake m owner lease => Sys2Proof.Machine.execHsemTake m owner lease s
  | .hsemRelease m owner => Sys2Proof.Machine.execHsemRelease m owner s
  | .lnkbudWrite m link v => Sys2Proof.Machine.execLnkbudWrite m link v s
  | .plreqWrite k v => Sys2Proof.Machine.execPlreqWrite k v s
  | .registerWrite pa v => Sys2Proof.Machine.execRegisterWrite pa v s
  | .hostWrite m port at_ ep data => Sys2Proof.Machine.execHostWrite m port at_ ep data s
  | .hostRead m port at_ n => Sys2Proof.Machine.execHostRead m port at_ n s
  | .mgmtSpace2Access k off wr v => Sys2Proof.Machine.execMgmtSpace2Access k off wr v s
  | .blackBoxRead m idx => Sys2Proof.Machine.execBlackBoxRead m idx s
  | .attestationRequest m nonce => Sys2Proof.Machine.execAttestationRequest m nonce s
  | .moduleReset m => Sys2Proof.Machine.execModuleReset m s
  | .logicSupplyLoss m => Sys2Proof.Machine.execLogicSupplyLoss m s
  | .latencyResultWrite => Sys2Proof.Machine.execLatencyResultWrite s
  | .illegalKindHeader h => Sys2Proof.Machine.execIllegalKindHeader h s
  | .unassignedOpcode w => Sys2Proof.Machine.execUnassignedOpcode w s
  | .plreqInstallEnd k res => Sys2Proof.Machine.execPlreqInstallEnd k res s
  | .mctpControlMessage m msg => Sys2Proof.Machine.execMctpControlMessage m msg s
  | .sramSupplyLoss m => Sys2Proof.Machine.execSramSupplyLoss m s
  | .logicSupplyReturn m => Sys2Proof.Machine.execLogicSupplyReturn m s

end Sys2Proof.Machine
end

