-- ==== Sys2Proof/Machine/Cycle.lean ====
section
/-! DEFINITION. One step of the chain. In a clock cycle every cluster runs once (its landing results, its engines, the
merge of R82, the bundles that issue); between these, networks, firmware and processors make their events at times that
the specification leaves open, chosen by `Config.pick` (log 5). Inputs of the outside world come in their cycles. -/

namespace Sys2Proof.Machine

/-! ### Slots and bundles (03 R53, R75) -/

/-- A slot of a bundle that issues: its context, its number, its word and whether the word is poisoned. -/
abbrev SlotIn := Bool × Nat × Nat × Bool

/-- Is an MSCL of the context waiting for its table in another cluster (14 R275)? -/
def Ctx.tabling (c : Ctx) : Bool := c.post.any (fun p => match p with
  | .mscl .. => true
  | _ => false)

/-- One slot of a bundle commits: its instruction runs; an illegal word or a poisoned one faults in its slot. An access that
something to its left in its bundle orders waits in its slot, and the slots after it with it: they issue once it may be
performed, and the bundle's cycle is the one in which the last of them issues (12 R226 to R235; log 59). Number 14 stands
for the end of a bundle whose MSCL waits, 16 + n for slot n, at which a bundle stops that has a wait to fault there. A word
with a bad field raises ILLEGAL_FIELD though its slot or its context would not accept it either, before ILLEGAL_OP and
FIRMWARE_OP (DESIGN CHOICE, log 63). -/
def State.commitSlot (s : State) (x : SlotIn) : State :=
  let n := x.2.1
  let w := x.2.2.1
  let s : State := { s with curFw := x.1, slot := n, word := BitVec.ofNat 32 w, slotWord := BitVec.ofNat 64 w, stop := false }
  let c := s.ctx
  if c.park = .trapped then s
  else if !c.rest.isEmpty || c.tabling then s.updCtx (fun c => { c with rest := c.rest ++ [x.2] })
  else if n = 14 then s
  else if 16 ≤ n then s.updCtx (fun c => { c with entry := n - 16, unstamped := true })
  else if x.2.2.2 then s.raise 0x72 (BitVec.ofNat 32 c.pc.toNat)
  else match decSlot n w with
    | .ok i =>
      (match (s.instrHold n i []).1 with
        | some h =>
          (match c.holdFault s.me.waitlim.toNat h with
            | some code => s.raiseWait code h
            | none => s.updCtx (fun c => { c with rest := [x.2] }))
        | none => s.run (exec i))
    | .illegalOp => s.run (execUnassignedOpcode (BitVec.ofNat 32 w))
    | .illegalField => s.illegalField

/-- Slots in commit order; each context stops at its own fault (04 R78). -/
def State.commit (s : State) (l : List SlotIn) : State := l.foldl State.commitSlot s

/-- What follows a bundle: a context that neither faulted nor parked passes on, once what the bundle left to do after
it (XLD, XDROP, QPOST, REPAIR, CTXSAVE, CTXLOAD) is done; a fault raised after the bundle finds it closed (24 R393). -/
def Ctx.epilogue (c : Ctx) : Ctx :=
  match c.park with
  | .run => if c.post.isEmpty ∧ c.swap.isNone then c.advance else c.closeAt 1
  | .trapped => if c.entry = 14 then c.closeAt 1 else c
  | _ => c

/-- The slots of a bundle of context `fw` have been taken: it is over, or some of them wait. -/
def State.closeBundle (s : State) (k : Nat) (fw : Bool) : State :=
  let c := s.ctxOf k fw
  if c.park = .run ∧ c.tabling then s.setCtxOf k fw { c with rest := c.rest ++ [(14, 0, false)] }
  else if !c.rest.isEmpty then s
  else s.setCtxOf k fw c.epilogue

/-- The context in focus with the address after its bundle of `n` words. -/
def State.open (s : State) (n : Nat) : State := s.updCtx (fun c => { c with seqPc := c.pc + BitVec.ofNat 22 (4 * n) })

/-- The same, the waits of the bundle satisfied: their counts are at zero again (16 R315). -/
def State.begin (s : State) (n : Nat) : State :=
  s.updCtx (fun c => { c with seqPc := c.pc + BitVec.ofNat 22 (4 * n), strokes := [] })

/-- Slots of a bundle of context `fw` from the entry slot on. -/
def Bundle.from (b : Bundle) (fw : Bool) (entry : Nat) : List SlotIn :=
  (b.slots.filter (fun x => decide (entry ≤ x.1))).map (fun x => (fw, x.1, x.2, b.poisonAt == some x.1))

/-- The buffer reads ahead (04 R433): the line after the one that holds the header of a bundle or folded run that issues
(DESIGN CHOICE, log 63, for a bundle that spans two lines). -/
def Cluster.readAhead (c : Cluster) (pc : Nat) : Cluster :=
  let l := (pc / 64 + 1) % 2 ^ 16
  if c.linePresent (64 * l) || c.wanted.contains l then c else { c with wanted := c.wanted ++ [l] }

/-- The context in focus starts to issue a bundle of `n` words. -/
def State.start (s : State) (n : Nat) : State := (s.updMe (fun c => c.readAhead s.ctx.pc.toNat)).begin n

/-- The context in focus starts to issue what it is ready for: a bundle, or one of whose waits faults, whose counts stand. -/
def State.startAs (s : State) (r : Ready) : State :=
  match r with
  | .issue b => s.start b.words
  | .waitFault b _ _ => (s.updMe (fun c => c.readAhead s.ctx.pc.toNat)).open b.words
  | .cut b => s.start b.words
  | _ => s

/-- The slots that a context commits which is ready so: those of its bundle, or those left of a wait that faults (16 R316) or
of a WAITARR that a checkpoint precedes (25 R412). -/
def Ready.part (r : Ready) (fw : Bool) (entry : Nat) : List SlotIn :=
  match r with
  | .issue b => b.from fw entry
  | .waitFault b _ h => (b.from fw entry).filter (fun x => decide (x.2.1 < h.slot))
  | .cut b => (b.from fw entry).filter (fun x => decide (x.2.1 < 13))
  | _ => []

/-- A bundle stops before its B slot, the slots to its left committed or still waiting. -/
def State.endCut (s : State) (k : Nat) (fw : Bool) : State :=
  let c := s.ctxOf k fw
  if c.park ≠ .run then s
  else if !c.rest.isEmpty ∨ c.tabling then s.setCtxOf k fw { c with rest := c.rest ++ [(29, 0, false)] }
  else s.setCtxOf k fw { c with entry := 13, unstamped := true }

/-- A wait faults in its slot, the slots to its left committed (16 R314 to R316), or still waiting themselves (log 70). -/
def State.endWait (s : State) (k : Nat) (fw : Bool) (code : Nat) (h : Hold) : State :=
  let c := s.ctxOf k fw
  if c.park ≠ .run then s
  else if !c.rest.isEmpty ∨ c.tabling then s.setCtxOf k fw { c with rest := c.rest ++ [(16 + h.slot, 0, false)] }
  else
    let s := (s.focus k fw).updCtx (fun c => { c with entry := h.slot })
    (if code = 0x41 then s.run (execWaitTimeout k) else s.raiseWait code h).updCtx (fun c => { c with strokes := [] })

/-- The slots of a context that was ready so have been taken. -/
def State.endAs (s : State) (k : Nat) (fw : Bool) (r : Ready) : State :=
  match r with
  | .issue _ => s.closeBundle k fw
  | .waitFault _ code h => s.endWait k fw code h
  | .cut _ => s.endCut k fw
  | _ => s

/-- A bundle issues in the context in focus, or what is left of a wait that faults. -/
def State.issueBundle (s : State) (r : Ready) : State :=
  let l := r.part s.curFw s.ctx.entry
  let t := s.startAs r
  (if l.isEmpty then t.run execEmptyBundle else t.commit l).endAs s.cur s.curFw r

/-- The context in focus issues what it is ready for. -/
def State.issueAs (s : State) (r : Ready) : State :=
  match r with
  | .headerBad code info => if code = 0 then s.run (execIllegalKindHeader info) else s.headerFault code info
  | .empty n =>
    let t := ((s.updMe (fun c => c.readAhead s.ctx.pc.toNat)).open 1).run (execFoldedRun n)
    if t.ctx.runLeft > 0 then t else t.updCtx Ctx.epilogue
  | .late b => (s.open b.words).run (execStampedBundleIssue (b.stamp.getD 0))
  | .issue _ => s.issueBundle r
  | .waitFault _ _ _ => s.issueBundle r
  | .cut _ => s.issueBundle r
  | _ => s

/-- The slots that a ready context takes in the merge. -/
def Ready.mask (r : Ready) (entry : Nat) : List Nat :=
  match r with
  | .issue b => (b.from false entry).map (·.2.1)
  | .waitFault b _ _ => (b.from false entry).map (·.2.1)
  | _ => []

/-- Is a context ready, in the sense of R82? -/
def Ready.isReady : Ready → Bool
  | .stall => false
  | .count => false
  | _ => true

def Ready.isLate : Ready → Bool
  | .late _ => true
  | _ => false

/-! ### The cycle of a cluster -/

/-- The context passes on from a bundle whose work after it is done. -/
def Ctx.passOn (c : Ctx) : Ctx :=
  if c.entry = 14 ∧ c.park = .run ∧ c.post.isEmpty ∧ c.swap.isNone ∧ c.rest.isEmpty then c.advanceAt 0 else c

/-- The program context of a member whose launch is failing stops at its next issue cycle, its bundle over; a trapped one
stops without re-entry, its fault counting as answered. It then drains as at a phase end: its engine commands complete and a
running block runs to its end or its fault (24 R394). -/
def State.stopFailed (s : State) (k : Nat) : State :=
  let c := s.cluster k
  let stop (s : State) : State := s.updCluster k (fun c => { c with
    prog := { c.prog with park := .phase .abort, given := [], faultQ := [], runLeft := 0, target := none, rest := [], post := [] } })
  if !s.failing k || c.done then s
  else match c.prog.park with
    | .phase _ => s.updCluster k (fun c => { c with prog := { c.prog with faultQ := [] } })
    | .halted => s
    | .trapped => stop (s.toGhost k false)
    | _ => if c.prog.rest.isEmpty ∧ c.prog.post.isEmpty then stop s else s

/-- Releases and re-entries at the start of a cycle. A pending fault abandons a park (24 R384): the context takes it in this
cycle and is not released. -/
def State.releases (s : State) (k : Nat) : State :=
  let s := (s.stopFailed k).run (execContextReentry k)
  (if s.asyncDue k false then s else (s.updCluster k Cluster.arwaitRelease).run (execWaitarrRelease k)).noteToken k

/-- The slots of a bundle of context `fw` that wait issue, as far as they may (log 59). With the last of them the cycle of
the bundle is over. -/
def State.restGo (s : State) (k : Nat) (fw : Bool) : State :=
  let s := s.focus k fw
  let l := s.ctx.rest
  let s1 := (s.updCtx (fun c => { c with rest := [] })).msclGo k fw
  let s2 := if (s1.ctxOf k fw).park = .run then s1.commit (l.map (fun x => (fw, x))) else s1
  let c := s2.ctxOf k fw
  if !c.rest.isEmpty then s2
  else s2.setCtxOf k fw (if l.any (fun x => decide (16 ≤ x.1)) ∧ c.park = .run then c else c.epilogue).age

/-- What follows bundles: XLD and XDROP, QPOST, REPAIR, CTXSAVE and CTXLOAD, checkpoints go on. -/
def State.posts (s : State) (k : Nat) : State :=
  let one (s : State) (fw : Bool) : State :=
    if (s.ctxOf k fw).rest.isEmpty then ((s.postStep k fw).qpostGo k fw).repairGo k fw else s
  let s := ((one (one s false) true).swapGo k).run (execCheckpoint k)
  s.updCluster k (fun c => { c with prog := c.prog.passOn, fw := c.fw.passOn })

/-- The nodes of a running block that `f` names fire. -/
def State.fireNodes (s : State) (k : Nat) (f : BNode → Bool) : State :=
  match (s.cluster k).block with
  | none => s
  | some b => ((b.nodes.filter f).filterMap BNode.instr).foldl (fun s i => s.run (exec i)) { s with cur := k }

/-- A block's sources that have still to fire for admitted iterations do so when their consumers have room (13 R251). -/
def State.sources (s : State) (k : Nat) : State :=
  match (s.cluster k).block with
  | none => s
  | some b => if b.blocked.isSome then s else s.fireSources k

/-- The streams of a cluster go on: a unit in each of at most four (01 R434, 18 R333). -/
def State.streamsGo (s : State) (k : Nat) : State :=
  (((s.cluster k).streams.map (·.1)).foldl (fun (x : State × Nat) q =>
    let n := if x.1.movesUnit k q then 1 else 0
    let s := if x.2 + n ≤ 4 then x.1.run (execStreamCmdStart k (Fin.ofNat 16 q)) else x.1
    (s.run (execStreamCmdComplete k (Fin.ofNat 16 q)), min 4 (x.2 + n))) (s, 0)).1

/-- The engines and the block of a cluster go on (chapters 13, 14, 18). -/
def State.engines (s : State) (k : Nat) : State :=
  let s := ((s.updCluster k (fun c => { c with mx := c.mx.tick })).run (execMatrixCmdComplete k)).streamsGo k
  if (s.cluster k).block.isNone then s
  else
    let s := ((s.fireNodes k (fun n => !n.onSpan)).run (execIterationAdmit k)).run (execChainOpSend k)
    let s := (s.run (execChainGap k)).run (execBlockEnd k)
    (if s.blockLate k then s.run (execWaitTimeout k) else s).sources k

/-- Fences, DRAINs and SBARs whose operations have come about are over. -/
def State.dropOver (s : State) (k : Nat) : State :=
  let keep (c : Ctx) : Ctx := { c with
    fences := c.fences.filter (fun f => !f.over s k), holds := c.holds.filter (fun h => !s.allMet k h.deps) }
  s.updCluster k (fun c => { c with prog := keep c.prog, fw := keep c.fw, sbars := c.sbars.filter (fun b => !s.allMet k b.deps) })

/-- The part of a cluster's cycle before issue. -/
def State.early (s : State) (k : Nat) : State :=
  let s := ((s.releases k).engines k).posts k
  ((s.dropOver k).wheelGrant k).leaveStreams k

/-- The part after issue: matrix commands start, TSENDs on the channel of span rows fire (13 R256), the changes of semaphores
and the records of the cycle are applied. -/
def State.late (s : State) (k : Nat) : State :=
  ((s.run (execMatrixCmdStart k)).fireNodes k BNode.onSpan).updCluster k (fun c =>
    { c.flushSems.clampSems.flushRecords (s.cyc k) with statusIn := 0 })

/-! ### Issue (04 R78 to R89) -/

/-- The results of a context that are due are written, if its cycle counts (01 R19, 04 R80). -/
def State.landIf (s : State) (k : Nat) (fw go : Bool) : State :=
  if go then ({ s with cur := k, curFw := fw }).run execLatencyResultWrite else s

/-- The merge stage (04 R82): which contexts issue. A stamp passed raises STAMP_LATE in the firmware window too (R89). -/
def State.merge (s : State) (k : Nat) (p f : Ready) : Bool × Bool :=
  let c := s.cluster k
  let cis := s.cisOf (modOf k)
  let behind := decide (64 * c.fwcnt < c.share.toNat * (cis + 1))
  let pr := p.isReady && (!s.inWindow k || p.isLate)
  let collide := (p.mask c.prog.entry).any (fun x => (f.mask c.fw.entry).contains x)
  if pr && f.isReady then
    if !collide then (true, true) else if !c.det && behind then (false, true) else (true, false)
  else (pr, f.isReady)

/-- Slots of two bundles in commit order (12 R226). -/
def bySlot {α : Type} (l : List (Bool × Nat × α)) : List (Bool × Nat × α) :=
  (List.range 14).flatMap (fun n => l.filter (fun x => x.2.1 == n))

/-- The instructions that a context commits which is ready so. -/
def Ready.instrs (r : Ready) (fw : Bool) (entry : Nat) : List (Bool × Nat × Instr) :=
  match r with
  | .issue b => b.instrs fw entry
  | .waitFault b _ h => (b.instrs fw entry).filter (fun x => decide (x.2.1 < h.slot))
  | _ => []

/-- Two contexts that would issue together, judged in commit order: one held by what the other does before it waits, and not
alone, is offered again (16 R310). -/
def State.joint (s : State) (k : Nat) (p f : Ready) (g : Bool × Bool) : Bool × Bool :=
  let a := p.instrs false (s.ctxOf k false).entry
  let b := f.instrs true (s.ctxOf k true).entry
  let t : State := { s with cur := k }
  let alone := (t.allHolds a [] ++ t.allHolds b []).map (fun x => (x.1, x.2.slot))
  if g = (true, true) then
    match (t.allHolds (bySlot (a ++ b)) []).find? (fun x => !alone.contains (x.1, x.2.slot)) with
    | none => g
    | some (fw, _) => (fw, !fw)
  else g

/-- Does a cycle in which a context issues nothing count as its issue cycle (04 Table 4.1)? -/
def Ready.counting : Ready → Bool
  | .count => true
  | _ => false

/-- What a cycle of a cluster comes to: the state with the results written that are due, the standing of the two contexts,
which of them issue. -/
structure Plan where
  st : State
  p : Ready
  f : Ready
  goP : Bool
  goF : Bool

/-- The standing of a context in the cycle: as it is in `t`, with the results written; but a cycle that drains counts also
when its last result is written. -/
def State.standing (s t : State) (k : Nat) (fw : Bool) : Ready := if s.drains k fw then .count else t.readiness k fw

/-- The plan if the results of the program context (`lp`) and of the firmware context (`lf`) are written. -/
def State.planWith (s : State) (k : Nat) (lp lf : Bool) : Plan :=
  let t := (({ s with cur := k }.landIf k false lp).landIf k true lf)
  let p := s.standing t k false
  let f := s.standing t k true
  let g := t.joint k p f (t.merge k p f)
  ⟨t, p, f, g.1, g.2⟩

/-- Does the cycle count for a context (04 Table 4.1)? -/
def Plan.counts (x : Plan) (k : Nat) (fw : Bool) : Bool :=
  if fw then x.goF || x.f.counting
  else x.goP || x.p.counting || x.st.inWindow k

/-- The plan of a cycle: results are written at the start of a cycle that counts, and whether it counts is judged with them
written (04 R80); one in which just those are written whose contexts it counts for. Where that has no or several answers (a
CSRW of FWSHARE that is due decides whether the cycle counts for its own context), the first in the order below, both
written, is taken (DESIGN CHOICE, log 63). -/
def State.plan (s : State) (k : Nat) : Plan :=
  let due (fw : Bool) : Bool := (s.ctxOf k fw).pend.any Pend.due
  let fits (x : Bool × Bool) : Option Plan :=
    let y := s.planWith k x.1 x.2
    if (!due false || y.counts k false == x.1) && (!due true || y.counts k true == x.2) then some y else none
  ([(true, true), (true, false), (false, true), (false, false)].findSome? fits).getD (s.planWith k true true)

/-- Context `fw` of cluster `k` issues, if `go`. -/
def State.issueCtx (s : State) (k : Nat) (fw go : Bool) (r : Ready) : State := if go then (s.focus k fw).issueAs r else s

/-- A merged cycle of two bundles (04 R82, R84): their slots commit in the order of R226. -/
def State.issueBoth (s : State) (k : Nat) (p f : Ready) : State :=
  let l := bySlot (p.part false (s.ctxOf k false).entry ++ f.part true (s.ctxOf k true).entry)
  let t := (((s.focus k false).startAs p).focus k true).startAs f
  ((t.commit l).endAs k false p).endAs k true f

/-- Does a context that is ready so issue slots? -/
def Ready.slotted : Ready → Bool
  | .issue _ => true
  | .waitFault _ _ _ => true
  | .cut _ => true
  | _ => false

/-- A bundle ready to issue, up to its WAITARR; with no slot before that it has nothing to issue. -/
def Ready.cutAt (r : Ready) (entry : Nat) : Ready :=
  match r with
  | .issue b => if b.slots.any (fun x => decide (entry ≤ x.1) && decide (x.1 < 13)) then .cut b else .stall
  | _ => .stall

/-- A counted cycle of context `fw` is over: its results come one cycle nearer. The cycle of a bundle whose slots still wait
is over with the last of them; one that counts meanwhile (`meanwhile`: the firmware window) is one of its older results. -/
def State.ageIf (s : State) (k : Nat) (fw go meanwhile : Bool) : State :=
  let c := s.ctxOf k fw
  if !go then s else if c.rest.isEmpty then s.setCtxOf k fw c.age else if meanwhile then s.setCtxOf k fw c.ageOld else s

/-- The issue of a cycle: both contexts issue as the merge says. A context with a fault pending takes it in its issue cycle and
issues nothing (24 R384); at a WAITARR for which a checkpoint is due the program context issues the slots before it, or,
there, is held for the checkpoint (25 R412); the slots of a bundle that still wait go on, the program's not in the firmware
window (04 R89). -/
def State.issue (s : State) (k : Nat) : State :=
  let x := s.plan k
  let t := (x.st.settleWaits k false).settleWaits k true
  let takes (fw : Bool) : Bool := (x.counts k fw || t.asyncAtOnce k fw) && t.asyncDue k fw
  let due := x.goP && !takes false && t.checkpointDue k
  let p := if due then x.p.cutAt (t.ctxOf k false).entry else x.p
  let hold := due && p == .stall
  let goP := x.goP && !takes false && !hold
  let goF := x.goF && !takes true
  let a := if takes false then t.asyncTake k false else t
  let a := if takes true then a.asyncTake k true else a
  let a := if hold then a.updCluster k Cluster.holdCkpt else a
  let u := if goP && goF && p.slotted && x.f.slotted then a.issueBoth k p x.f
    else (a.issueCtx k false goP p).issueCtx k true goF x.f
  let u := if goF then u.updCluster k (fun c => { c with fwcnt := c.fwcnt + 1 }) else u
  let old (fw : Bool) : Bool := !(s.ctxOf k fw).rest.isEmpty
  let v := (u.ageIf k false (x.counts k false && !hold) (old false)).ageIf k true (x.counts k true) (old true)
  let go (v : State) (fw : Bool) : State :=
    if old fw && (v.ctxOf k fw).park == .run && (fw || !x.st.inWindow k) then v.restGo k fw else v
  go (go v false) true

/-- The cycle of cluster `k`. -/
def State.clusterCycle (s : State) (k : Nat) : State := ((s.early k).issue k).late k

/-! ### Events whose time is open -/

/-- Is the next access of a message one to a busy matrix tile (14 R288)? -/
def State.kindBusy (s : State) (k : MsgKind) : Bool :=
  match k with
  | .write pa _ => s.tileBusy pa
  | .read pa _ => s.tileBusy pa
  | .vwrite (p :: _) => s.tileBusy ((p.head?.map (·.1)).getD 0)
  | .vread _ (p :: _) _ => s.tileBusy ((p.head?.map (·.2)).getD 0)
  | .vatom _ _ _ ((_, pa, _) :: _) _ => s.tileBusy pa
  | _ => false

/-- The event of a message where it stands. -/
def State.msgEvent (s : State) (m : Msg) : Option (State → Out) :=
  if m.loc ≠ m.goal then (if s.canForward m then some (execPacketForward m.id) else none)
  else match m.phase with
    | .back _ => some (if isReadKind m.kind then execReadResponseArrive m.id else execAckArrive m.id)
    | _ =>
      if !s.msgReady m || s.kindBusy m.kind then none
      else match m.kind with
        | .packet .. => some (execPacketArrive m.id)
        | .freeRet .. => some (execFreeReturnArrive m.id)
        | .scAtom .. => none
        | .flood .. => some (fun t => .next (t.floodArrive m.id))
        | .report .. => some (fun t => .next (t.reportArrive m.id))
        | k => some (if isReadKind k then execRemoteReadServe m.id else execRemoteWritePerform m.id)

/-- Lines of code that a context waits for. -/
def State.neededLine (s : State) (k : Nat) (fw : Bool) : List (State → Out) :=
  let c := s.ctxOf k fw
  if c.park ≠ .run ∨ c.runLeft > 0 ∨ c.entry = 14 then []
  else match (s.cluster k).fetch c.pc.toNat with
    | .absent a => [execIcacheLineFill k (a / 64)]
    | _ => []

/-- Events of a cluster. -/
def State.clusterEvents (s : State) (k : Nat) : List (State → Out) :=
  let c := s.cluster k
  let d := s.dieAt (dieKey k)
  let tok (fw : Bool) : Bool := (match (c.ctx fw).fault with
    | some (_, .travelling) => (fw && isLockhouse k) || s.mayEnter k fw
    | _ => false) || (d.ghosts.any (fun x => x.1 == k && x.2.1 == fw && x.2.2.2.isNone) && s.mayEnter k fw)
  let member := match c.prog.park, c.bind with
    | .phase _, some _ => !c.done && s.drained k
    | _, _ => false
  s.neededLine k false ++ s.neededLine k true ++ c.wanted.map (fun l => execIcacheLineFill k l) ++
    (if tok false || tok true then [execFaultTokenEnqueue k] else []) ++
    (if isLockhouse k && s.waitsToken k && !d.towq.isEmpty && c.fw.pend.isEmpty &&
      (lockhousesOf (dieKey k)).find? s.waitsToken == some k then [execFtrecvRelease k] else []) ++
    (if member then [execMemberDone k] else []) ++
    (if c.plBusy && (s.coreOps k).isEmpty then [execPlreqInstallEnd k 0] else []) ++
    ((List.finRange 16).filter (fun n => c.bar[n].rp && (s.membersOf k).head? == some k &&
      (s.membersOf k).all (fun x => (s.cluster x).bar[n].rp))).map (fun n => execBarrierRegionFlip k n) ++
    (c.mapreqs.zipIdx.flatMap (fun x => [execResidencyChange k (16 * (x.1.phase + 1) + x.1.ext) 1, execMapreqSettle k x.2 0,
      execMapreqSettle k x.2 1])) ++
    (if c.ckptOut then [execCheckpointCommit k] else [])

/-- The lockhouse clusters of a die run no program of their own: the shipped handlers serve its tokens. -/
def State.shipped (s : State) (g : Nat) : Bool := (lockhousesOf g).all (fun k => (s.ctxOf k true).park == .halted)

/-- Events of a die. The shipped handlers answer a fault once what its bundle left to do is done: an XLD left of a
faulting XOP installs its graph first (15 R302, R304). -/
def State.dieEvents (s : State) (g : Nat) : List (State → Out) :=
  let d := s.dieAt g
  (if s.shipped g then d.towq.flatMap (fun x =>
    let f := match s.ghost g x.1 with
      | some y => some y.2.2.1
      | none => if (s.ctxOf x.2.1 x.2.2).post.isEmpty then (s.ctxOf x.2.1 x.2.2).fault.map (·.1) else none
    match f with
    | some f =>
      if forLoader x.2.2 f then (if (s.coreOps x.2.1).isEmpty then [execLockhouseLoader g x.1] else []) else [execLockhousePolicy g x.1]
    | none => []) else []) ++
  (match d.sel with
    | none => if ((s.module (g / 4)).best (g % 4)).isSome then [execLaunchSelect (g / 4) g] else []
    | some l =>
      if l.tr.isNone then [execLaunchTranslate g]
      else (if l.saved.isSome then [execPreemptRebind g 64] else [execLaunchBind g])) ++
  d.coxes.flatMap (fun x => match x.2.mode with
    | .run => (if x.2.members.all (fun k => (s.cluster k).done) then [execPhaseStep g x.1, execLaunchEnd g x.1] else []) ++
        (if d.sel.isSome then [execPreempt g x.1] else [])
    | .saving l => if x.2.members.all l.contains then [execPreempt g x.1] else []
    | .loading l => if x.2.members.all l.contains then [execPreemptRebind g x.1] else [])

/-- Events of a queue. -/
def queueEvents (m : Nat) (x : Nat × Queue) : List (State → Out) :=
  let q := x.2
  let n := x.1
  let fetchable := q.en && decide ((q.window.filter (fun p => p.st != .done)).length < 8) &&
    (q.read + q.window.length) % 2 ^ 32 != q.write && !q.window.any (fun p => p.bar && p.st != .done)
  (if fetchable then [execQueueFetch m n] else []) ++
    (if q.window.any Pkt.copies then [execCopyPacket m n] else []) ++
    (if q.window.any Pkt.completes then [execPacketComplete m n] else [])

/-- Events of a module. -/
def State.moduleEvents (s : State) (m : Nat) : List (State → Out) :=
  let d := s.module m
  if d.power ≠ .on then []
  else
    d.queues.flatMap (queueEvents m) ++
      (if d.fwBusy && s.settled m then [execFirmwareActivation m] else []) ++
      (if d.bootBusy then [execBoot m] else []) ++ (if d.bcast then [fun t => .next (t.broadcast m)] else []) ++
      (if d.attest.isEmpty then [] else [fun t => .next (t.attestSign m)]) ++
      (if !s.booted m && (s.neighbours m).any (fun l => s.booted l.2) && !s.md.any (fun x => x.2.root && x.2.bootBusy) then
        [execModuleJoin m] else [])

/-- What the supervising firmware has to do: a module that has gone and that it has not declared failed, stages of a failed
module that may move, channels to rebind, route tables to rewrite. -/
def State.supervision (s : State) : List (State → Out) :=
  (s.md.filter (fun x => s.gone x.1 && !s.isFailed x.1 && s.md.any (fun y => y.1 != x.1 && s.booted y.1))).map
      (fun x => execModuleFailed x.1) ++
    (s.md.filter (fun x => s.isFailed x.1)).flatMap (fun x => (x.2.stages.filter s.stageReady).map
      (fun st => fun t => .next (t.moveStage x.1 st))) ++
    (if s.routesBroken then [fun t => .next t.rebindBroken] else []) ++
    (if s.routesStale then [fun t => .next t.rewriteRoutes] else [])

/-- Modules of the chain: those with a record or a cluster. -/
def State.modules (s : State) : List Nat := (s.md.map (·.1) ++ s.cl.map (fun x => modOf x.1)).eraseDups

/-- Everything that may happen now besides the cycle of the next cluster. -/
def State.events (s : State) : List (State → Out) :=
  s.net.filterMap s.msgEvent ++ s.cl.flatMap (fun x => s.clusterEvents x.1) ++ s.modules.flatMap (fun m => (List.range 4).flatMap (fun i => s.dieEvents (4 * m + i))) ++
    s.md.flatMap (fun x => s.moduleEvents x.1) ++ s.supervision

/-! ### The clock -/

/-- A module's clock: a held one adds to HOLDS and stands still for one cycle (19 R355). -/
def Module.tick (d : Module) : Module × Bool :=
  if d.power ≠ .on then (d, false)
  else if d.hold ∧ d.gts % 4096 = 4095 then ({ d with hold := false, holds := min 0xFFFFFFFF (d.holds + 1) }, false)
  else ({ d with gts := d.gts + 1, cycles := d.cycles + 1 }, true)

/-- Does the chain's time origin come now: has the root booted the chain, and does its next stroke start (19 R356)? -/
def State.originNow (s : State) : Bool :=
  s.md.any (fun x => x.2.root && x.2.bootResult == 1 && !x.2.origin && x.2.gts % 4096 == 0)

/-- Cycles that module m gains on the time base up to cycle `n`: it runs 10 to 50 parts in a million fast (19 R355). -/
def gained (m n : Nat) : Nat := n * (10 + (Config.drift m).val) / 10 ^ 6

/-- Modules in step with a root whose clock takes one more cycle in the present cycle of the time base. -/
def State.fast (s : State) : List Nat :=
  (s.md.filter (fun x => x.2.origin && !x.2.root && gained x.1 (s.now + 1) != gained x.1 s.now)).map (·.1)

/-- Faults of module m that no lockhouse has answered in time (24 R389). -/
def State.lhDue (s : State) (m : Nat) : State :=
  (s.cl.filter (fun x => modOf x.1 == m)).foldl (fun s x => [false, true].foldl (fun s fw =>
    match (s.ctxOf x.1 fw).fault with
    | some (_, .queued t) => s.run (execLhTimeout (dieKey x.1) t)
    | some (_, .claimed t _) => s.run (execLhTimeout (dieKey x.1) t)
    | _ => s.lhExpire x.1 fw) s) s

/-- Beacons reach module m over the links of which both ends are up: what the modules `from_`, whose clocks have advanced, sent
at their stroke start, DELAY cycles ago. A module receives them in a cycle too in which it is held (19 R355). -/
def State.beacons (s : State) (from_ : List Nat) (m : Nat) : State :=
  (s.module m).links.foldl (fun s l => match s.partner m l.1 with
    | none => s
    | some p =>
      let d := s.module (p / 96)
      if from_.contains (p / 96) && l.2.up && (s.link (p / 96) (p % 96)).up && (s.module m).power == .on && d.power == .on &&
          d.gts % 4096 == l.2.delay then
        let t := s.run (execBeaconReceive m l.1 (d.gts - d.gts % 4096))
        if (t.module m).origin && !(s.module m).origin then t.lhDue m else t
      else s) s

/-- What a new cycle brings to a module: its stroke start, or the time origin, faults that no lockhouse has answered, a boot
that nobody acknowledges, the failure of a selected launch one of whose members is fenced (22 R374), the examination of packets that the cycle before has notified (22 R368). -/
def State.newCycle (s : State) (org : Bool) (m : Nat) : State :=
  let orig := org && !(s.module m).origin && s.booted m
  let start : Bool := orig || (s.module m).gts % 4096 == 0
  let s := if orig then s.run (execTimeOrigin m 0) else if start then s.run (execStrokeStart m) else s
  let s := if start then s.lhDue m else s
  let s := (if start then s.run (execBootAckTimeout m) else s).fenceDue m
  s.examineDue m ((s.module m).queues.map (·.1))

/-- SC atomics whose cycle has come are performed, ahead of every other access of the cycle (12 R234). -/
def State.scPerform (s : State) : State :=
  (s.net.filter (fun m => m.grant.isSome)).foldl (fun s m => s.run (execScAtomicPerform m.id)) s

/-- The clocks of these modules advance, and the clusters of those that are not held run next. -/
def State.clock (s : State) (ms : List Nat) : State :=
  let moving := ms.filter (fun m => ((s.module m).tick).2)
  let t := ms.foldl (fun t m => t.updModule m (fun d => d.tick.1)) s
  let org := t.originNow
  let u := moving.foldl (fun u m => u.newCycle org m) t
  let u := ((u.md.map (·.1)).foldl (fun u m => u.beacons moving m) u).scPerform
  let ks := (u.cl.map (·.1)).filter (fun k => moving.contains (modOf k))
  { ks.foldl (fun u k => u.updCluster k Cluster.countReady) u with turn := ks }

/-- The next cycle: of the time base, or first the one more that fast modules take within the present one. -/
def State.tick (s : State) : State :=
  match s.extra with
  | [] =>
    let u := s.modules.foldl (fun u m => u.updModule m id) s
    let t : State := { u with now := s.now + 1, extra := s.fast }
    t.clock s.modules
  | l => { s with extra := [] }.clock l

/-- The next cluster's cycle, or the clock. -/
def State.onward (s : State) : State :=
  match s.turn with
  | [] => s.tick
  | k :: r => { s with turn := r }.clusterCycle k

/-! ### Inputs -/

/-- A request from outside that accesses memory or a register: module, port (2 is management), address, length. -/
structure Request where
  m : Nat
  port : Nat
  pa : Nat
  n : Nat
deriving DecidableEq, Repr

/-- The request that an input is. -/
def requestOf (i : Instr) : Option Request :=
  match i with
  | .hostWrite m port at_ _ data => some ⟨m, port, barPa m at_, data.length⟩
  | .hostRead m port at_ n => some ⟨m, port, barPa m at_, n⟩
  | .hsemTake m owner _ => some ⟨m, owner - 1, ctlPa (4096 * m) 0x4908, 8⟩
  | .hsemRelease m owner => some ⟨m, owner - 1, ctlPa (4096 * m) 0x4908, 8⟩
  | .mgmtSpace2Access k off _ _ => some ⟨modOf k, 2, ctlPa k off, 8⟩
  | .registerWrite pa _ => some ⟨modOf (paCluster pa), 2, pa, 8⟩
  | _ => none

/-- Is a request from outside held: a host's for the stroke (26 R418), or one to a busy tile (14 R288)? -/
def State.inputHeld (s : State) (i : Instr) : Bool :=
  match requestOf i with
  | some x => (decide (x.port < 2) && s.hostHeld x.m x.port) || s.tilesBusy x.pa x.n
  | none => false

/-- The inputs that are due and not held, each the first of its port: a request also waits for the earlier ones of its port,
which are performed in order (26 R418). -/
def State.allDue (s : State) (seen : List (Nat × Nat)) : List (Nat × Instr) → List (Nat × Instr)
  | [] => []
  | x :: r =>
    if x.1 ≤ s.now then
      match requestOf x.2 with
      | some q =>
        if seen.contains (q.m, q.port) ∨ s.inputHeld x.2 then s.allDue ((q.m, q.port) :: seen) r
        else x :: s.allDue ((q.m, q.port) :: seen) r
      | none => x :: s.allDue seen r
    else s.allDue seen r

/-- The banks that an access touches (09 R175); a control block counts as one. -/
def banksOf (pa n : Nat) : List Nat :=
  if paSpace pa = 0 then
    ((List.range 8).filter (fun b => decide ((b + 8 - pa / 8 % 8) % 8 * 8 < pa % 8 + n))).map (fun b => pa / 2 ^ 17 * 8 + b)
  else [2 ^ 48 + pa / 2 ^ 22]

/-- Do two requests contend for one bank through the two host ports of a module? -/
def Request.contends (x y : Request) : Bool :=
  x.m == y.m && decide (x.port < 2) && decide (y.port < 2) && x.port != y.port &&
    (banksOf x.pa x.n).any (fun b => (banksOf y.pa y.n).contains b)

/-- The input that comes next, and the state without it: the first that is due; of two of host ports that contend for one bank
in the cycle, that of the port which lost the last such tie, and the other port has lost this one (26 R418, R420). At the first
tie of a module, which R418 leaves open, port A goes first (DESIGN CHOICE, log 41). -/
def State.dueInput (s : State) : Option (Instr × State) :=
  let drop (x : Nat × Instr) : State := { s with inputs := s.inputs.erase x }
  match s.allDue [] s.inputs with
  | [] => none
  | x :: r =>
    match requestOf x.2 with
    | none => some (x.2, drop x)
    | some q =>
      match r.find? (fun y => (requestOf y.2).any q.contends) with
      | none => some (x.2, drop x)
      | some y =>
        let first := if q.port = (s.module q.m).lastLoser then x else y
        some (first.2, (drop first).updModule q.m (fun d => { d with lastLoser := 1 - d.lastLoser }))

/-- One step of the chain. -/
def State.go (s : State) : Host.Outcome State Fault Refusal :=
  match s.dueInput with
  | some (i, t) => exec i t
  | none =>
    match s.events with
    | [] => .next s.onward
    | es =>
      let t : State := { s with free := s.free + 1 }
      match es[Config.pick s.free % (es.length + 1)]? with
      | some f => f t
      | none => .next t.onward

/-! ### Placing an instruction at the fetch -/

/-- Slot number and context for an instruction of a slot class; block nodes have none. -/
def fetchSlot (c : Nat) : Nat :=
  match c with
  | 0 => 0
  | 1 => 2
  | 2 => 6
  | 3 => 13
  | 4 => 10
  | 5 => 11
  | _ => 12

/-- Instructions of lockhouse firmware contexts. -/
def fwOnly : Instr → Bool
  | .ftrecv .. => true
  | .repair .. => true
  | .ctxsave .. => true
  | .ctxload .. => true
  | _ => false

/-- A header with one slot present (03 R52, R53). -/
def oneSlotHeader (n words : Nat) : Nat := 2 ^ (13 - n) * 2 ^ 14 + words * 2 ^ 9

/-- The block in which node `n` is the one node and its tokens have arrived. -/
def oneNodeBlock (n : BNode) : Block :=
  { addr := 0, chain := 0, trips := 1, S := match n with
      | .chain _ m => m.s.val + 1
      | _ => 0
    ii := 1, nodes := [n], consts := [], cfgEnd := 0, nextK := 1, lastAdmit := some 0
    ports := [1, 2, 3].map (fun p => (n.portKey p, [⟨0, 0, false, 0⟩]))
    fired := [], buf := [], reserved := match n with
      | .chain _ m => m.s.val + 1
      | _ => 0
    ell := 2 ^ 24 - 1, link := none, gap := 0, stuck := 0, outs := [], after := [], blocked := none }

/-- Words of a bundle at code address `a` of cluster `k`, in memory and in the instruction buffer, and the context
ready at it; the cluster's cycle comes next. -/
def State.placeBundle (s : State) (k : Nat) (fw : Bool) (words : List Nat) : State :=
  let a := (s.ctxOf k fw).pc.toNat / 64 * 64
  let bytes := words.flatMap (fun w => toBytes 4 w)
  let s := s.writeMarked (clusterBase k + a) (bytes.map (fun b => (b, false)))
  let s := s.updCluster k (fun c => { c with ibuf := kset c.ibuf (lineIdx a) ⟨lineTag a, s.codeWords k a 16⟩ })
  let s := s.setCtxOf k fw { s.ctxOf k fw with pc := BitVec.ofNat 22 a, park := .run, entry := 0, runLeft := 0 }
  { s with turn := [k] }

/-- The instruction of a table word stands where the next step fetches. -/
def State.placeWord (s : State) (nbits w : Nat) : State :=
  let w := w % 2 ^ nbits
  match decodeTableWord nbits w with
  | none => s.placeBundle 0 false [oneSlotHeader (if nbits ≤ 32 then 0 else 10) ((nbits + 31) / 32), w % 2 ^ 32, w / 2 ^ 32]
  | some i =>
    match slotClass i with
    | some 7 =>
      (match bnodeOf w with
        | some n => { s.updCluster 0 (fun c => { c with block := some (oneNodeBlock n), tch := match n with
            | .plain .trecv m => kset c.tch m.imm.toNat [(⟨0, 0, false, 0⟩, 0)]
            | _ => c.tch }) with turn := [0] }
        | none => s)
    | some c =>
      let n := fetchSlot c
      let ws := if 4 ≤ c then [w % 2 ^ 32, w / 2 ^ 32] else [w]
      s.placeBundle (if fwOnly i then 990 else 0) (fwOnly i) (oneSlotHeader n ws.length :: ws)
    | none => s

end Sys2Proof.Machine
end

