-- ==== Sys2Proof/Machine/Step.lean ====
section
/-! DEFINITION. The step of the machine, and the placing of an instruction where the next step fetches it. -/

namespace Sys2Proof.Machine

/-- One step of the chain. -/
def step (s : State) : Host.Outcome State Fault Refusal := s.go

/-- The state with the instruction of a table word where the next step fetches: a bundle of that one slot at the
program context of cluster (0, 0), die 0, module 0 (the firmware context of lockhouse cluster (30, 30) for an
instruction of firmware), or, for a node word, a running block of that one node with its tokens. -/
def State.withFetchWord (s : State) (nbits w : Nat) : State := s.placeWord nbits w

end Sys2Proof.Machine
end

