-- ==== Sys2Proof/Safety.lean ====
section
/-! DEFINITION. What the statements call well-kept states and good outcomes: the canonical form of the memory and of
its poison marks, the outcomes that go on, and what a bundle's fault leaves. -/

namespace Sys2Proof.Machine

/-- Numbers that rise. -/
def rising : List Nat → Bool
  | [] => true
  | [_] => true
  | a :: b :: r => decide (a < b) && rising (b :: r)

/-- A state whose memory and poison marks are in their canonical form. -/
def State.kept (s : State) : Bool := Memory.wf s.mem && rising s.pmem

/-- An outcome that goes on to a state with `P`. -/
def goesOn (o : Out) (P : State → Prop) : Prop :=
  match o with
  | .next t => P t
  | _ => False

/-- Reading a byte of the chain's scratchpad by its key. -/
def State.byteAt (s : State) (a : Nat) : Byte := memGet s.mem a

/-- The `n` bytes at physical address `pa` of a memory given as a function, as one number, least significant byte first. -/
def wordAt (f : Nat → Byte) (pa n : Nat) : Nat := ofBytes ((List.range n).map (fun j => f (memKey (pa + j))))

/-- A memory given as a function, with the `n` low bytes of `v` stored from `key`. -/
def storedAt (f : Nat → Byte) (key n v : Nat) : Nat → Byte := fun a =>
  if key ≤ a ∧ a < key + n then BitVec.ofNat 8 (v / 2 ^ (8 * (a - key))) else f a

/-- Every byte of the scratchpad and every poison mark is what it was. -/
def State.sameMemory (s t : State) : Prop := (∀ a, t.byteAt a = s.byteAt a) ∧ t.pmem = s.pmem

/-- From an issue cycle of the context in focus to its next one: the cycle is over, so the results in flight are one cycle
nearer, and those due are written as the next cycle starts (04 R80). -/
def State.issueCycle (s : State) : State := (s.updCtx Ctx.age).updMe (fun c => c.landAll s.curFw)

/-- `t` is `s` with one more result in flight, to register `d` under the mask `m` at latency `lat`: its active lanes are
`g`'s, and the flags of the active lanes land with it. -/
def LanesTo (s t : State) (lat : Nat) (d : VReg) (m : Pred) (g : Fin 16 → LaneRes) : Prop :=
  ∃ (v : VVal) (f : Flags), t = (s.push lat (.vreg d m v)).pushFlags lat f ∧
    (∀ i : Fin 16, m.getLsb i = true → v[i] = ⟨(g i).1, (g i).2.2⟩) ∧
    ∀ k : Fin 12, f.getLsb k = true ↔ ∃ i : Fin 16, m.getLsb i = true ∧ (g i).2.1.getLsb k = true

/-! ### Real numbers and their rounding (06 R122 to R129) -/

/-- The real number that a finite value is (06 R135). -/
def FVal.IsReal (x : FVal) (X : ℝ) : Prop :=
  match x with
  | .fin neg m e => X = (if neg then -1 else 1) * (m : ℝ) * (2 : ℝ) ^ e
  | _ => False

/-- The integer that a real number rounds to in a mode (06 R127). -/
def RoundsTo (rm : Rm) (X : ℝ) (n : ℤ) : Prop :=
  match rm with
  | .rne => |X - n| ≤ 1 / 2 ∧ (|X - n| = 1 / 2 → Even n)
  | .rz => |(n : ℝ)| ≤ |X| ∧ |X - n| < 1 ∧ 0 ≤ n * X
  | .rd => (n : ℝ) ≤ X ∧ X < n + 1
  | .ru => X ≤ n ∧ (n : ℝ) < X + 1

/-- The pattern and the flags of a real number other than 0 in a format (06 R127, R128): `y`, its rounding to the format's
precision without a limit on the exponent, where it lies in the range of the format; else Table 6.4's entry. -/
def Rounded (f : Fmt) (rm : Rm) (X : ℝ) (r : Nat × Flags) : Prop :=
  let q : ℤ := max (Int.log 2 |X| - f.fbits) (1 - (f.bias : ℤ) - f.fbits)
  let big : ℝ := if f = fmtE4M3 then 448 else (2 - (2 : ℝ) ^ (-(f.fbits : ℤ))) * (2 : ℝ) ^ ((f.emax : ℤ) - 1 - f.bias)
  let signed (neg : Bool) (p : Nat) : Nat := p + if neg then 2 ^ (f.width - 1) else 0
  let top (neg : Bool) : Nat := signed neg (if f = fmtE4M3 then 0x7E else f.emax * 2 ^ f.fbits - 1)
  let inf (neg : Bool) : Nat := if f = fmtE4M3 then 0x7F else signed neg (f.emax * 2 ^ f.fbits)
  ∃ n : ℤ, RoundsTo rm (X / (2 : ℝ) ^ q) n ∧
    (let y : ℝ := n * (2 : ℝ) ^ q
     (|y| ≤ big → (fpDecode f r.1).IsReal y ∧ r.1 < 2 ^ f.width ∧ ((fpDecode f r.1).negBit = true ↔ X < 0) ∧
       (y = X → r.2 = 0) ∧ (y ≠ X → |X| < (2 : ℝ) ^ (1 - (f.bias : ℤ)) → r.2 = flUF ||| flNX) ∧
       (y ≠ X → (2 : ℝ) ^ (1 - (f.bias : ℤ)) ≤ |X| → r.2 = flNX)) ∧
     (big < |y| → r.2 = flOF ||| flNX ∧
       (rm = .rne → (0 < X → r.1 = inf false) ∧ (X < 0 → r.1 = inf true)) ∧
       (rm = .rz → (0 < X → r.1 = top false) ∧ (X < 0 → r.1 = top true)) ∧
       (rm = .rd → (0 < X → r.1 = top false) ∧ (X < 0 → r.1 = inf true)) ∧
       (rm = .ru → (0 < X → r.1 = inf false) ∧ (X < 0 → r.1 = top true))))

/-- `r` is an exact value written to a lane of type `t`: a NaN as the canonical one, an infinity and a zero with their signs,
any other number rounded; an infinity, which E4M3 has not, gives its NaN and sets NV there (06 R124, R128, R129). -/
def Written (t : ElemTy) (rm : Rm) (x : FVal) (r : Word × Flags) : Prop :=
  let f := fmtOf t
  match x with
  | .nan sig => r = (wrElem t (canonNan f), if sig then flNV else 0)
  | .inf neg => r = if f = fmtE4M3 then (wrElem t 0x7F, flNV) else
      (wrElem t (f.emax * 2 ^ f.fbits + if neg then 2 ^ (f.width - 1) else 0), 0)
  | .fin neg m _ => (m = 0 → r = (wrElem t (if neg then 2 ^ (f.width - 1) else 0), 0)) ∧
      (m ≠ 0 → ∃ p, r.1 = wrElem t p ∧ ∀ X : ℝ, x.IsReal X → Rounded f rm X (p, r.2))

end Sys2Proof.Machine
end

