-- ==== Sys2Proof/Certificates/Slice0/Obligations.lean ====
section
/-! DEFINITION. The statements about the model, for the provers. Each is a Prop of its own; OBLIGATIONS.json gives its
place in the spec. An instruction's statement names the state that `exec` answers: what it leaves out of that state is
what the instruction leaves unchanged. -/

open Sys2Proof Sys2Proof.Machine

/-! ### Scalar instructions (chapter 05) -/

/-- R114, on W-bit vectors: the operands are the low W bits of s[a] and s[b]. That SEL is marked by the source it does not
select is the model's reading of R200 (log 9). -/
def Obligations.ScalarArithmetic : Prop :=
  ∀ (s : State) (d a b c : SReg) (w : Width) (i : BitVec 14),
    let x := s.ctx.rdS a
    let y := s.ctx.rdS b
    let z := s.ctx.rdS c
    let X := x.val.setWidth (wbits w)
    let Y := y.val.setWidth (wbits w)
    let I := (i.signExtend 64).setWidth (wbits w)
    let put (v : BitVec (wbits w)) (p : Bool) : Out := .next (s.pushS 1 d (v.signExtend 64) p)
    let flag (v : Bool) (p : Bool) : Out := .next (s.pushS 1 d (if v then 1 else 0) p)
    let p := x.poison || y.poison
    exec (.add d a b w) s = put (X + Y) p ∧ exec (.sub d a b w) s = put (X - Y) p ∧
    exec (.and d a b w) s = put (X &&& Y) p ∧ exec (.or d a b w) s = put (X ||| Y) p ∧
    exec (.xor d a b w) s = put (X ^^^ Y) p ∧
    exec (.min d a b w) s = put (if X.toInt ≤ Y.toInt then X else Y) p ∧
    exec (.max d a b w) s = put (if X.toInt ≤ Y.toInt then Y else X) p ∧
    exec (.minu d a b w) s = put (if X.toNat ≤ Y.toNat then X else Y) p ∧
    exec (.maxu d a b w) s = put (if X.toNat ≤ Y.toNat then Y else X) p ∧
    exec (.slt d a b w) s = flag (decide (X.toInt < Y.toInt)) p ∧
    exec (.sltu d a b w) s = flag (decide (X.toNat < Y.toNat)) p ∧
    exec (.seq d a b w) s = flag (decide (X = Y)) p ∧
    exec (.sel d a b c) s = .next (s.pushS 1 d (if z.val ≠ 0 then x.val else y.val) (x.poison || y.poison || z.poison)) ∧
    exec (.mov d a) s = .next (s.pushS 1 d x.val x.poison) ∧
    exec (.addi d a w i) s = put (X + I) x.poison ∧ exec (.andi d a w i) s = put (X &&& I) x.poison ∧
    exec (.ori d a w i) s = put (X ||| I) x.poison ∧ exec (.xori d a w i) s = put (X ^^^ I) x.poison

/-- R115. -/
def Obligations.ScalarMultiplies : Prop :=
  ∀ (s : State) (d a b : SReg) (w : Width),
    let x := s.ctx.rdS a
    let y := s.ctx.rdS b
    let X := x.val.setWidth (wbits w)
    let Y := y.val.setWidth (wbits w)
    let put (v : BitVec (wbits w)) : Out := .next (s.pushS 4 d (v.signExtend 64) (x.poison || y.poison))
    exec (.mul d a b w) s = put (X * Y) ∧
    exec (.mulh d a b w) s = put (BitVec.ofInt (wbits w) (X.toInt * Y.toInt / (2 ^ wbits w : Nat))) ∧
    exec (.mulhu d a b w) s = put (BitVec.ofNat (wbits w) (X.toNat * Y.toNat / 2 ^ wbits w))

/-- R116's values and Table 5.12; R113 accepts a divide in S0 alone. -/
def Obligations.ScalarDivides : Prop :=
  ∀ (s : State) (d a b : SReg) (w : Width),
    let x := s.ctx.rdS a
    let y := s.ctx.rdS b
    let X := x.val.setWidth (wbits w)
    let Y := y.val.setWidth (wbits w)
    let lat : Nat := match w with
      | .w8 => 6
      | .w16 => 10
      | .w32 => 18
      | .w64 => 34
    let put (v : BitVec (wbits w)) : Out := .next (s.updCtx (fun c => c.push
      { mkPend lat (.sreg d ⟨v.signExtend 64, x.poison || y.poison⟩) with div := true }))
    (s.slot = 0 →
      exec (.div d a b w) s = put (if Y = 0 then -1 else X.sdiv Y) ∧
      exec (.divu d a b w) s = put (if Y = 0 then -1 else X / Y) ∧
      exec (.rem d a b w) s = put (if Y = 0 then X else X.srem Y) ∧
      exec (.remu d a b w) s = put (if Y = 0 then X else X % Y)) ∧
    (s.slot ≠ 0 →
      exec (.div d a b w) s = .next s.illegalOp ∧ exec (.divu d a b w) s = .next s.illegalOp ∧
      exec (.rem d a b w) s = .next s.illegalOp ∧ exec (.remu d a b w) s = .next s.illegalOp)

/-- R117, by the shifts of W-bit vectors, which are the floors and products of the rule for every count. That a marked count
raises POISON_USE is the model's reading of R200 (log 9). R119, bit by bit. -/
def Obligations.ScalarShiftsAndFields : Prop :=
  (∀ (s : State) (d a b : SReg) (w : Width) (k : Fin 64),
    let x := s.ctx.rdS a
    let y := s.ctx.rdS b
    let X := x.val.setWidth (wbits w)
    let n := y.val.toNat
    let put (v : BitVec (wbits w)) (p : Bool) : Out := .next (s.pushS 1 d (v.signExtend 64) p)
    (y.poison = false →
      exec (.shl d a b w) s = put (X <<< n) x.poison ∧ exec (.shr d a b w) s = put (X >>> n) x.poison ∧
      exec (.sra d a b w) s = put (X.sshiftRight n) x.poison) ∧
    (y.poison = true → exec (.shl d a b w) s = .next s.poisonUse ∧ exec (.shr d a b w) s = .next s.poisonUse ∧
      exec (.sra d a b w) s = .next s.poisonUse) ∧
    exec (.shli d a w k) s = put (X <<< k.val) x.poison ∧ exec (.shri d a w k) s = put (X >>> k.val) x.poison ∧
    exec (.srai d a w k) s = put (X.sshiftRight k.val) x.poison) ∧
  ∀ (s : State) (d a : SReg) (pos lenm1 : Fin 64),
    let x := s.ctx.rdS a
    let old := s.ctx.rdS d
    let len := lenm1.val + 1
    exec (.bfx d a pos lenm1) s = .next (s.pushS 1 d ((x.val.extractLsb' pos.val len).setWidth 64) x.poison) ∧
    ∃ v : DWord, exec (.bfi d a pos lenm1) s = .next (s.pushS 1 d v (old.poison || x.poison)) ∧
      ∀ i < 64, v.getLsbD i = if pos.val ≤ i ∧ i < pos.val + len then x.val.getLsbD (i - pos.val) else old.val.getLsbD i

/-- R118: each count by the property that defines it. -/
def Obligations.ScalarCounts : Prop :=
  ∀ (s : State) (d a : SReg) (w : Width),
    let x := s.ctx.rdS a
    let X := x.val.setWidth (wbits w)
    let put (n : Nat) : Out := .next (s.pushS 1 d (BitVec.ofNat 64 n) x.poison)
    (∃ n, exec (.clz d a w) s = put n ∧ n ≤ wbits w ∧ X.toNat < 2 ^ (wbits w - n) ∧
      (n < wbits w → X.getLsbD (wbits w - 1 - n) = true)) ∧
    (∃ n, exec (.ctz d a w) s = put n ∧ n ≤ wbits w ∧ 2 ^ n ∣ X.toNat ∧ (n < wbits w → X.getLsbD n = true)) ∧
    exec (.popc d a w) s = put ((List.range (wbits w)).filter (fun i => X.getLsbD i)).length

/-- R120. -/
def Obligations.ScalarImmediates : Prop :=
  ∀ (s : State) (d : SReg) (i : BitVec 21),
    let x := s.ctx.rdS d
    exec (.li d i) s = .next (s.pushS 1 d (i.signExtend 64) false) ∧
    exec (.lui d i) s = .next (s.pushS 1 d (x.val * 2 ^ 21 + i.setWidth 64) x.poison)

/-- R121 with R110; the numbers and fields are those of Tables 5.2 to 5.10 and 4.3 to 4.5. That ILLEGAL_FIELD comes before
POISON_USE is the model's reading (log 6). -/
def Obligations.ControlRegisterAccess : Prop :=
  ∀ (s : State) (d a : SReg) (c : BitVec 12),
    let x := s.ctx
    let m := s.me
    let h := s.module (modOf s.cur)
    let w := x.rdS a
    let bit (b : Bool) (n : Nat) : Nat := if b then 2 ^ n else 0
    let reads : List (Nat × Nat) := [
      (0x000, x.status.toNat + bit s.curFw 15), (0x001, x.info.toNat * 2 ^ 32 + x.swcode.toNat * 2 ^ 8 + x.code.toNat),
      (0x002, x.slotres.toNat), (0x008, bit m.det 15 + m.share.toNat * 2 ^ 8), (0x009, m.fwcnt), (0x00A, m.phbase),
      (0x010, h.gts % 2 ^ 64 / 4096), (0x011, h.gts % 4096), (0x012, h.gts), (0x020, x.nseed.toNat), (0x021, x.nstep.toNat),
      (0x030, x.qscale.toNat), (0x031, x.qlimit.toNat * 2 ^ 8 + bit x.qrefit 0), (0x032, x.qclip.toNat), (0x033, x.qzero.toNat),
      (0x034, x.qlast.toNat * 2 ^ 32 + x.qrefits.toNat), (0x040, m.padm.toNat), (0x041, m.fmtcfg.toNat), (0x050, m.chainlim.toNat),
      (0x051, m.waitlim.toNat), (0x060, m.ckpt.toNat), (0x061, h.lease.toNat * 2 ^ 32 + bit h.held 8 + h.owner),
      (0x070, x.lc[(0 : Fin 3)].toNat), (0x071, x.lc[(1 : Fin 3)].toNat), (0x072, x.lc[(2 : Fin 3)].toNat)]
    let writes : List Nat := [0x000, 0x020, 0x021, 0x030, 0x031, 0x032, 0x033, 0x034, 0x070, 0x071, 0x072] ++
      if s.curFw then [0x001, 0x002, 0x008, 0x050, 0x051, 0x060] else []
    (∀ r ∈ reads, c.toNat = r.1 →
      exec (.csrr d c) s = .next (s.pushS 1 d (BitVec.ofNat 64 r.2) false) ∧
      (r.1 ∉ writes → exec (.csrw d a c) s = .next s.illegalField) ∧
      (r.1 ∈ writes → (w.poison = true → exec (.csrw d a c) s = .next s.poisonUse) ∧
        (w.poison = false → exec (.csrw d a c) s = .next ((s.pushS 1 d (BitVec.ofNat 64 r.2) false).push 1 (.csr c w.val))))) ∧
    ((∀ r ∈ reads, c.toNat ≠ r.1) → exec (.csrr d c) s = .next s.illegalField ∧ exec (.csrw d a c) s = .next s.illegalField) ∧
    exec (.rdgts d) s = .next (s.pushS 1 d (BitVec.ofNat 64 h.gts) false)

/-- Latency results (the event LATENCY_RESULT_WRITE), field by field, and cycle by cycle of the issuing context. -/
def Obligations.ResultsLandAtLatency : Prop :=
  (∀ (u : State),
    let due := u.ctx.pend.filter Pend.due
    let c := u.ctx
    let m := u.me
    let last {α : Type} (f : Dest → Option α) : Option α := (due.filterMap (fun p => f p.dest)).getLast?
    let csr (n : Nat) : Option DWord := last (fun
      | .csr k v => if k.toNat = n then some v else none
      | _ => none)
    let field {α : Type} (n : Nat) (old : α) (f : DWord → α) : α := ((csr n).map f).getD old
    let quants := due.filterMap (fun p => match p.dest with
      | .quant nc nz sc g => some (nc, nz, sc, g)
      | _ => none)
    let fits := quants.filterMap (fun q => q.2.2.1.map (fun sc => (sc, q.2.2.2)))
    let adds (n : Nat) (old : Word) (k : Nat) : Word := BitVec.ofNat 32 (min ((field n old (fun v => v.setWidth 32)).toNat + k) 0xFFFFFFFF)
    let status : Flags := field 0x000 c.status (fun v => (v.setWidth 12 &&& 0xF1F) ||| (if u.curFw then 0 else m.statusIn))
    let lc (i : Fin 3) : DWord := due.foldl (fun x p => match p.dest with
      | .lcSet j v => if j = i then v else x
      | .lcStep j st => if j = i then x + BitVec.ofInt 64 st else x
      | _ => x) (field (0x070 + i.val) c.lc[i] id)
    let bar (n : Fin 16) : Barrier := ((last (fun
      | .barInit k count rg => if k = n then some (count, rg) else none
      | _ => none)).map (fun x => { m.bar[n] with count := x.1, arr := 0, rg := x.2 })).getD m.bar[n]
    ∃ t, exec .latencyResultWrite u = .next t ∧ t = { u with cl := t.cl } ∧ (∀ k ≠ u.cur, t.cluster k = u.cluster k) ∧
      (let d := t.ctx
       d.pend = c.pend.filter (fun p => !p.due) ∧
       (∀ r, d.rdS r = (last (fun
         | .sreg x v => if x = r ∧ r ≠ 0 then some v else none
         | _ => none)).getD (c.rdS r)) ∧
       (∀ r, ∀ i : Fin 16, (d.rdV r)[i] = (last (fun
         | .vreg x m v => if x = r ∧ m.getLsb i = true then some v[i] else none
         | _ => none)).getD (c.rdV r)[i]) ∧
       (∀ r, ∀ i : Fin 16, (d.rdP r).getLsb i = (last (fun
         | .preg x m v => if x = r ∧ r ≠ 0 ∧ m.getLsb i = true then some (v.getLsb i) else none
         | _ => none)).getD ((c.rdP r).getLsb i)) ∧
       (∀ i : Fin 12, d.status.getLsb i = (status.getLsb i || due.any (fun p => match p.dest with
         | .flags f => f.getLsb i
         | _ => false))) ∧
       (∀ i : Fin 3, d.lc[i] = lc i) ∧
       d.info = field 0x001 c.info (fun v => v.extractLsb' 32 32) ∧ d.swcode = field 0x001 c.swcode (fun v => v.extractLsb' 8 11) ∧
       d.code = field 0x001 c.code (fun v => v.setWidth 7) ∧ d.slotres = field 0x002 c.slotres (fun v => v.setWidth 4) ∧
       d.nseed = field 0x020 c.nseed id ∧ d.nstep = field 0x021 c.nstep id ∧
       d.qlimit = field 0x031 c.qlimit (fun v => v.extractLsb' 8 16) ∧ d.qrefit = field 0x031 c.qrefit (fun v => v.getLsbD 0) ∧
       d.qclip = (if quants = [] then field 0x032 c.qclip (fun v => v.setWidth 32) else adds 0x032 c.qclip (quants.map (·.1)).sum) ∧
       d.qzero = (if quants = [] then field 0x033 c.qzero (fun v => v.setWidth 32) else adds 0x033 c.qzero (quants.map (·.2.1)).sum) ∧
       d.qrefits = (if fits = [] then field 0x034 c.qrefits (fun v => v.setWidth 32) else adds 0x034 c.qrefits fits.length) ∧
       d.qscale = (fits.getLast?.map (·.1)).getD (field 0x030 c.qscale (fun v => v.setWidth 32)) ∧
       d.qlast = (fits.getLast?.map (·.2)).getD (field 0x034 c.qlast (fun v => v.extractLsb' 32 32)) ∧
       d = { c with pend := d.pend, s := d.s, v := d.v, p := d.p, status := d.status, lc := d.lc, info := d.info, swcode := d.swcode,
                    code := d.code, slotres := d.slotres, nseed := d.nseed, nstep := d.nstep, qlimit := d.qlimit, qrefit := d.qrefit,
                    qclip := d.qclip, qzero := d.qzero, qrefits := d.qrefits, qscale := d.qscale, qlast := d.qlast }) ∧
      (let e := t.me
       e.share = field 0x008 m.share (fun v => v.extractLsb' 8 6) ∧ e.chainlim = field 0x050 m.chainlim (fun v => v.setWidth 16) ∧
       e.waitlim = field 0x051 m.waitlim (fun v => v.setWidth 16) ∧ e.ckpt = field 0x060 m.ckpt (fun v => v.setWidth 16) ∧
       e.semIncs = m.semIncs ++ due.filterMap (fun p => match p.dest with
         | .semAdd n i => some (n, i)
         | _ => none) ∧
       e.semSets = due.foldl (fun l p => match p.dest with
         | .semSet n v o => insSet (o, n, v) l
         | _ => l) m.semSets ∧
       (∀ n : Fin 16, e.bar[n] = bar n) ∧
       e = { m.setCtx u.curFw t.ctx with share := e.share, chainlim := e.chainlim, waitlim := e.waitlim, ckpt := e.ckpt,
                                         semIncs := e.semIncs, semSets := e.semSets, bar := e.bar })) ∧
  ∀ (s : State) (n : Nat), s.ctx.pend = [] →
    (∀ d : Dest, (∀ j ≤ n, ∃ p : Pend, p.dest = d ∧ ((State.issueCycle^[j]) (s.push (n + 1) d)).ctx = { s.ctx with pend := [p] } ∧
        ((State.issueCycle^[j]) (s.push (n + 1) d)).me = s.me.setCtx s.curFw { s.ctx with pend := [p] }) ∧
      ((State.issueCycle^[n + 1]) (s.push (n + 1) d)).me = landDest s.curFw s.me d) ∧
    (∀ (d : SReg) (v : DWord) (p : Bool) (r : SReg),
      (∀ j ≤ n, ((State.issueCycle^[j]) (s.pushS (n + 1) d v p)).ctx.rdS r = s.ctx.rdS r) ∧
      ((State.issueCycle^[n + 1]) (s.pushS (n + 1) d v p)).ctx.rdS r =
        if r = d ∧ d ≠ 0 then ⟨v, p⟩ else s.ctx.rdS r) ∧
    (∀ (d : VReg) (m : Pred) (v : VVal) (r : VReg) (i : Fin 16),
      (∀ j ≤ n, ((State.issueCycle^[j]) (s.push (n + 1) (.vreg d m v))).ctx.rdV r = s.ctx.rdV r) ∧
      (((State.issueCycle^[n + 1]) (s.push (n + 1) (.vreg d m v))).ctx.rdV r)[i] =
        if r = d ∧ m.getLsb i = true then v[i] else (s.ctx.rdV r)[i]) ∧
    (∀ (d : PReg) (m v : Pred) (r : PReg) (i : Fin 16),
      (∀ j ≤ n, ((State.issueCycle^[j]) (s.pushP (n + 1) d m v)).ctx.rdP r = s.ctx.rdP r) ∧
      (((State.issueCycle^[n + 1]) (s.pushP (n + 1) d m v)).ctx.rdP r).getLsb i =
        if r = d ∧ d ≠ 0 ∧ m.getLsb i = true then v.getLsb i else (s.ctx.rdP r).getLsb i)

/-! ### Vector and predicate instructions (chapters 07, 08) -/

/-- Lanes of a and b, and of d for the fused forms, under the governing predicate p. That a marked lane of a vector shift
count marks the result and raises nothing is the model's reading of R200 (log 9). -/
def Obligations.VectorThreeRegister : Prop :=
  ∀ (s : State) (d a b : VReg) (t : ElemTy) (p : PReg), s.fwBad [d, a, b] = false →
    let x := s.ctx.rdV a
    let y := s.ctx.rdV b
    let z := s.ctx.rdV d
    let lanes (i : Instr) (lat : Nat) (useD : Bool) (f : Word → Word → Word → Word × Flags) : Prop :=
      ∃ t', exec i s = .next t' ∧ LanesTo s t' lat d (s.ctx.rdP p) (fun i =>
        ((f x[i].val y[i].val z[i].val).1, (f x[i].val y[i].val z[i].val).2,
          x[i].poison || y[i].poison || (useD && z[i].poison)))
    let lat := if isFloat t then 4 else 2
    lanes (.vadd d a b t p) lat false (laneArith .add t .rne) ∧ lanes (.vsub d a b t p) lat false (laneArith .sub t .rne) ∧
    lanes (.vmul d a b t p) lat false (laneArith .mul t .rne) ∧ lanes (.vfma d a b t p) lat true (laneArith .fma t .rne) ∧
    lanes (.vfms d a b t p) lat true (laneArith .fms t .rne) ∧ lanes (.vfnma d a b t p) lat true (laneArith .fnma t .rne) ∧
    lanes (.vmulh d a b t p) 2 false (fun u v _ => laneMulh t u v) ∧
    lanes (.vmin d a b t p) 2 false (fun u v _ => laneMinMax false t u v) ∧
    lanes (.vmax d a b t p) 2 false (fun u v _ => laneMinMax true t u v) ∧
    lanes (.vshl d a b t p) 2 false (fun u v _ => (laneShift .shl t u v.toNat, 0)) ∧
    lanes (.vshr d a b t p) 2 false (fun u v _ => (laneShift .shr t u v.toNat, 0)) ∧
    lanes (.vsra d a b t p) 2 false (fun u v _ => (laneShift .sra t u v.toNat, 0)) ∧
    lanes (.vand d a b p) 2 false (fun u v _ => (u &&& v, 0)) ∧ lanes (.vor d a b p) 2 false (fun u v _ => (u ||| v, 0)) ∧
    lanes (.vxor d a b p) 2 false (fun u v _ => (u ^^^ v, 0))

/-- R145 to R149 on the integer types. -/
def Obligations.IntegerLanes : Prop :=
  ∀ (t : ElemTy) (rm : Rm) (a b c : Word) (n : Nat), t.isInt = true →
    let W := ebits t
    let A := a.setWidth W
    let B := b.setWidth W
    let C := c.setWidth W
    let num (x : BitVec W) : Int := if isSigned t then x.toInt else x.toNat
    let lane (x : BitVec W) : Word := if isSigned t then x.signExtend 32 else x.setWidth 32
    laneArith .add t rm a b c = (lane (A + B), 0) ∧ laneArith .sub t rm a b c = (lane (A - B), 0) ∧
    laneArith .mul t rm a b c = (lane (A * B), 0) ∧ laneArith .fma t rm a b c = (lane (A * B + C), 0) ∧
    laneArith .fms t rm a b c = (lane (A * B - C), 0) ∧ laneArith .fnma t rm a b c = (lane (C - A * B), 0) ∧
    laneMulh t a b = (lane (BitVec.ofInt W (num A * num B / (2 ^ W : Nat))), 0) ∧
    laneMinMax false t a b = (lane (if num A ≤ num B then A else B), 0) ∧
    laneMinMax true t a b = (lane (if num A ≤ num B then B else A), 0) ∧
    laneAbs t a = lane (if num A < 0 then -A else A) ∧ laneNeg t a = lane (-A) ∧
    laneShift .shl t a n = lane (A <<< n) ∧ laneShift .shr t a n = lane (A >>> n) ∧
    laneShift .sra t a n = lane (A.sshiftRight n)

/-- R145, R147, R150 and R160 over the real numbers that the patterns are; `Written` and `Rounded` are R124 and R127 to R129. -/
def Obligations.FloatLanes : Prop :=
  ∀ (t t2 : ElemTy) (rm : Rm) (a b c : Word), isFloat t = true →
    let x := fpVal t (rdElem t a)
    let y := fpVal t (rdElem t b)
    let z := fpVal t (rdElem t c)
    let sig (l : List FVal) : Flags := if l.any FVal.isSig then flNV else 0
    let canon (g : Flags) : Word × Flags := (wrElem t (canonNan (fmtOf t)), g)
    let pat (p : Nat) (g : Flags) : Word × Flags := (wrElem t p, g)
    let minus (neg : Bool) (p : Nat) : Nat := p + if neg then 2 ^ (ebits t - 1) else 0
    let sum (u w v : FVal) (g : Flags) : Prop :=
      ((u.isNan = true ∨ w.isNan = true) → v = .nan false ∧ g = sig [u, w]) ∧
      (∀ i j, u = .inf i → w = .inf j → (i = j → v = .inf i ∧ g = 0) ∧ (i ≠ j → v = .nan false ∧ g = flNV)) ∧
      (∀ (i : Bool) (A : ℝ), (u = .inf i ∧ w.IsReal A) ∨ (w = .inf i ∧ u.IsReal A) → v = .inf i ∧ g = 0) ∧
      (∀ A B : ℝ, u.IsReal A → w.IsReal B → v.IsReal (A + B) ∧ g = 0 ∧
        (A + B = 0 → v.negBit = if u.isZero && w.isZero && u.negBit == w.negBit then u.negBit else decide (rm = .rd)))
    let product (u w v : FVal) (g : Flags) : Prop :=
      ((u.isNan = true ∨ w.isNan = true) → v = .nan false ∧ g = sig [u, w]) ∧
      (∀ i, ((u = .inf i ∧ w.isZero = true) ∨ (w = .inf i ∧ u.isZero = true)) → v = .nan false ∧ g = flNV) ∧
      (∀ i, ((u = .inf i ∧ w.isZero = false ∧ w.isNan = false) ∨ (w = .inf i ∧ u.isZero = false ∧ u.isNan = false)) →
        v = .inf (u.negBit != w.negBit) ∧ g = 0) ∧
      (∀ A B : ℝ, u.IsReal A → w.IsReal B → v.IsReal (A * B) ∧ v.negBit = (u.negBit != w.negBit) ∧ g = 0)
    let writes (r : Word × Flags) (v : FVal) (g : Flags) : Prop := ∃ h, Written t rm v (r.1, h) ∧ r.2 = g ||| h
    let adds (op : Arith) (w : FVal) : Prop := ∃ v g, sum x w v g ∧ writes (laneArith op t rm a b c) v g
    let fused (op : Arith) (neg : Bool) (w : FVal) : Prop := ∃ p g v h, product x y p g ∧ sum (if neg then p.negate else p) w v h ∧
      writes (laneArith op t rm a b c) v (g ||| h)
    let less (u w : FVal) : Prop := (u = .inf true ∧ w ≠ .inf true) ∨ (w = .inf false ∧ u ≠ .inf false) ∨
      ∃ A B : ℝ, u.IsReal A ∧ w.IsReal B ∧ (A < B ∨ (A = B ∧ u.negBit = true ∧ w.negBit = false))
    let picks (max : Bool) (r : Word × Flags) : Prop :=
      (x.isNan = true → y.isNan = true → r = canon (sig [x, y])) ∧
      (x.isNan = true → y.isNan = false → r = pat (rdElem t b) (sig [x, y])) ∧
      (x.isNan = false → y.isNan = true → r = pat (rdElem t a) (sig [x, y])) ∧
      (x.isNan = false → y.isNan = false → (less x y → r = pat (rdElem t (if max then b else a)) 0) ∧
        (less y x → r = pat (rdElem t (if max then a else b)) 0) ∧ (¬ less x y → ¬ less y x → r = pat (rdElem t a) 0))
    let fn (op : Func) : Word × Flags := laneFunc op t rm a
    let rounds (r : Word × Flags) (X : ℝ) : Prop := ∃ p, r.1 = wrElem t p ∧ Rounded (fmtOf t) rm X (p, r.2)
    let inf (neg : Bool) (g : Flags) : Word × Flags := pat (if t = .e4m3 then 0x7F else minus neg ((fmtOf t).emax * 2 ^ (fmtOf t).fbits)) g
    adds .add y ∧ adds .sub y.negate ∧ (∃ v g, product x y v g ∧ writes (laneArith .mul t rm a b c) v g) ∧
    fused .fma false z ∧ fused .fms false z.negate ∧ fused .fnma true z ∧
    picks false (laneMinMax false t a b) ∧ picks true (laneMinMax true t a b) ∧
    (isFloat t2 = true → Written t2 rm x (laneCvt t t2 rm a)) ∧
    (t2.isInt = true →
      (let lane (n : ℤ) : Word := if isSigned t2 then (BitVec.ofInt (ebits t2) n).signExtend 32 else (BitVec.ofInt (ebits t2) n).setWidth 32
       let i := a.setWidth (ebits t2)
       let num : ℤ := if isSigned t2 then i.toInt else i.toNat
       (∀ s, x = .nan s → laneCvt t t2 rm a = (0, if s then flNANQ ||| flNV else flNANQ)) ∧
       (∀ s, x = .inf s → laneCvt t t2 rm a = (lane (if s then intLo t2 else intHi t2), flNV)) ∧
       (∀ X : ℝ, x.IsReal X → ∃ n : ℤ, RoundsTo rm X n ∧
         (n < intLo t2 → laneCvt t t2 rm a = (lane (intLo t2), flNV)) ∧ (intHi t2 < n → laneCvt t t2 rm a = (lane (intHi t2), flNV)) ∧
         (intLo t2 ≤ n → n ≤ intHi t2 → (X = n → laneCvt t t2 rm a = (lane n, 0)) ∧ (X ≠ n → laneCvt t t2 rm a = (lane n, flNX)))) ∧
       (num = 0 → laneCvt t2 t rm a = pat 0 0) ∧ (num ≠ 0 → rounds (laneCvt t2 t rm a) num))) ∧
    (∀ A : ℝ, x.IsReal A → A ≠ 0 → rounds (fn .rcp) (1 / A) ∧
      (0 < A → rounds (fn .sqrt) (Real.sqrt A) ∧ rounds (fn .rsq) (1 / Real.sqrt A)) ∧
      (A < 0 → fn .sqrt = canon flNV ∧ fn .rsq = canon flNV ∧ fn .log2 = canon flNV) ∧
      (∀ k : ℤ, (A = k → rounds (fn .exp2) ((2 : ℝ) ^ k)) ∧
        (A = (2 : ℝ) ^ k → (k = 0 → fn .log2 = pat 0 0) ∧ (k ≠ 0 → rounds (fn .log2) k)))) ∧
    (∀ s, x = .nan s → ∀ op, fn op = canon (if s then flNV else 0)) ∧
    (x = .inf false → fn .rcp = pat 0 0 ∧ fn .rsq = pat 0 0 ∧ fn .sqrt = inf false 0 ∧ fn .exp2 = inf false 0 ∧ fn .log2 = inf false 0) ∧
    (x = .inf true → fn .rcp = pat (minus true 0) 0 ∧ fn .rsq = canon flNV ∧ fn .sqrt = canon flNV ∧ fn .exp2 = pat 0 0 ∧
      fn .log2 = canon flNV) ∧
    (x.isZero = true → fn .rcp = inf x.negBit flDZ ∧ fn .rsq = inf x.negBit flDZ ∧ fn .sqrt = pat (minus x.negBit 0) 0 ∧
      fn .log2 = inf true flDZ ∧ rounds (fn .exp2) 1)

/-- R122, R123, R127, R128, R131 to R133: the formats, over the real numbers. -/
def Obligations.NumberFormats : Prop :=
  (∀ (f : Fmt) (s : Bool) (e fr : Nat) (rm : Rm), f ∈ [fmtF32, fmtF16, fmtBF16, fmtE4M3, fmtE5M2] → e ≤ f.emax → fr < 2 ^ f.fbits →
    let p := fr + e * 2 ^ f.fbits + if s then 2 ^ (f.width - 1) else 0
    let d := fpDecode f p
    let sgn : ℝ := if s then -1 else 1
    (0 < e → (e < f.emax ∨ (f = fmtE4M3 ∧ fr < 7)) → d.negBit = s ∧
      d.IsReal (sgn * (1 + (fr : ℝ) / 2 ^ f.fbits) * (2 : ℝ) ^ ((e : ℤ) - f.bias))) ∧
    (e = 0 → d.negBit = s ∧ d.IsReal (sgn * ((fr : ℝ) / 2 ^ f.fbits) * (2 : ℝ) ^ (1 - (f.bias : ℤ)))) ∧
    (e = f.emax → f ≠ fmtE4M3 → (fr = 0 → d = .inf s) ∧ (fr ≠ 0 → d = .nan (decide (fr < 2 ^ (f.fbits - 1))))) ∧
    (e = f.emax → f = fmtE4M3 → fr = 7 → d = .nan false) ∧
    (∀ X : ℝ, d.IsReal X → X ≠ 0 → Rounded f rm X (roundFp f rm d)) ∧
    (∀ (neg : Bool) (m : Nat) (k : ℤ), m ≠ 0 → ∀ X : ℝ, (FVal.fin neg m k).IsReal X → Rounded f rm X (roundFp f rm (.fin neg m k))) ∧
    (∀ (neg : Bool) (k : ℤ), roundFp f rm (.fin neg 0 k) = (if neg then 2 ^ (f.width - 1) else 0, 0))) ∧
  canonNan fmtF32 = 0x7FC00000 ∧ canonNan fmtF16 = 0x7E00 ∧ canonNan fmtBF16 = 0x7FC0 ∧ canonNan fmtE4M3 = 0x7F ∧
  canonNan fmtE5M2 = 0x7E ∧
  (∀ (F blk k : Nat), F ∈ [2, 4, 7] → k < 16 →
    let E : Nat := blk % 2 ^ 8
    let d : Nat := blk / 2 ^ (8 + 2 * (k / 4)) % 4
    let m : Nat := blk / 2 ^ (16 + k * (1 + F)) % 2 ^ F
    let s := blk.testBit (16 + k * (1 + F) + F)
    ((E = 0 ∨ E = 255 ∨ m = 0) → (sxDecode blk F k).negBit = false ∧ (sxDecode blk F k).IsReal 0) ∧
    (E ≠ 0 → E ≠ 255 → m ≠ 0 → (sxDecode blk F k).IsReal ((if s then -1 else 1) * (m : ℝ) * (2 : ℝ) ^ ((E : ℤ) - 127 - F - d)))) ∧
  ∀ (F : Nat) (rm : Rm) (xs : List FVal) (v : Nat → ℝ), F ∈ [2, 4, 7] → xs.length = 16 →
    (∀ k < 16, ∀ x, xs[k]? = some x → match x with
      | .nan _ => v k = 0
      | .inf neg => v k = (if neg then -1 else 1) * ((2 : ℝ) ^ F - 1) * (2 : ℝ) ^ (127 - (F : ℤ))
      | .fin .. => x.IsReal (v k)) →
    let r := sxEncode F rm xs
    let nan : Flags := if xs.any FVal.isNan then (if xs.any FVal.isSig then flNANQ ||| flNV else flNANQ) else 0
    ((∀ k < 16, v k = 0) → r = (0, nan)) ∧
    (∀ A : ℝ, 0 < A → (∃ k < 16, |v k| = A) → (∀ k < 16, |v k| ≤ A) →
      let step (E u : ℤ) : ℝ := (2 : ℝ) ^ (E - 127 - F - u)
      let E0 : ℤ := min (max (Int.log 2 A + 128) 1) 254
      ∃ (E : ℤ) (d : Nat → ℤ) (m : Nat → ℤ), 
        (let up := RoundsTo rm (A / step E0 0) (2 ^ F) ∧ E0 < 254
         (up → E = E0 + 1) ∧ (¬ up → E = E0)) ∧
        (∀ j < 4, 0 ≤ d j ∧ d j ≤ 3 ∧
          (let fits (u : ℤ) : Prop := ∀ i < 4, ∀ n : ℤ, RoundsTo rm (v (4 * j + i) / step E u) n → |n| ≤ 2 ^ F - 1
           (∀ u : ℤ, d j < u → u ≤ 3 → ¬ fits u) ∧ (0 < d j → fits (d j)))) ∧
        (∀ k < 16, RoundsTo rm (v k / step E (d (k / 4))) (m k)) ∧
        (let clip (n : ℤ) : ℤ := max (-(2 ^ F - 1)) (min n (2 ^ F - 1))
         let code (n : ℤ) : ℤ := if n < 0 then 2 ^ F - n else n
         let zero := ∀ k < 16, m k = 0
         (zero → r.1 = 0) ∧
         (¬ zero → (r.1 : ℤ) = E + ((List.range 4).map (fun j => d j * 2 ^ (8 + 2 * j))).sum +
           ((List.range 16).map (fun k => code (clip (m k)) * 2 ^ (16 + k * (1 + F)))).sum) ∧
         ∀ i : Fin 12, r.2.getLsb i = true ↔ nan.getLsb i = true ∨
           (i = 2 ∧ ∃ k < 16, 2 ^ F - 1 < |m k|) ∨ (i = 0 ∧ ∃ k < 16, (2 ^ F - 1 < |m k| ∨ m k * step E (d (k / 4)) ≠ v k))))

/-- Lanes of a under the governing predicate p. That VDQ sets NV whatever the lanes is the model's reading (log 15). -/
def Obligations.VectorTwoRegister : Prop :=
  ∀ (s : State) (d a : VReg) (rm : Rm) (t2 t : ElemTy) (qt : QTy) (p : PReg), s.fwBad [d, a] = false →
    let x := s.ctx.rdV a
    let lanes (i : Instr) (lat : Nat) (f : Word → Word × Flags) : Prop :=
      ∃ t', exec i s = .next t' ∧ LanesTo s t' lat d (s.ctx.rdP p) (fun i => ((f x[i].val).1, (f x[i].val).2, x[i].poison))
    lanes (.vabs d a t p) 2 (fun u => (laneAbs t u, 0)) ∧ lanes (.vneg d a t p) 2 (fun u => (laneNeg t u, 0)) ∧
    lanes (.vnot d a p) 2 (fun u => (~~~u, 0)) ∧ lanes (.vmov d a p) 2 (fun u => (u, 0)) ∧
    lanes (.vrcp d a rm t2 t p) 6 (laneFunc .rcp t rm) ∧ lanes (.vrsq d a rm t2 t p) 6 (laneFunc .rsq t rm) ∧
    lanes (.vsqrt d a rm t2 t p) 6 (laneFunc .sqrt t rm) ∧ lanes (.vexp2 d a rm t2 t p) 6 (laneFunc .exp2 t rm) ∧
    lanes (.vlog2 d a rm t2 t p) 6 (laneFunc .log2 t rm) ∧ lanes (.vcvt d a rm t2 t p) 3 (laneCvt t2 t rm) ∧
    ∀ ty, narrowOf s.me.fmtcfg true qt = some ty →
      match posFinite (fpVal .f32 s.ctx.qscale.toNat) with
      | none => ∃ t', exec (.vdq d a rm qt t p) s = .next (t'.pushFlags 3 flNV) ∧
          LanesTo s t' 3 d (s.ctx.rdP p) (fun i => (wrElem t (canonNan (fmtOf t)), 0, x[i].poison))
      | some _ => lanes (.vdq d a rm qt t p) 3 (fun u =>
          putFloat t rm (mulF (codeVal ty (rdElem ty u)) (fpVal .f32 s.ctx.qscale.toNat)))

/-- The instructions of 07 that move lanes or make predicates of them. That VSEL is marked from both its sources and VPERM
from its index is the model's reading of R200 (log 9). -/
def Obligations.VectorMoves : Prop :=
  ∀ (s : State) (d a b : VReg) (r e : SReg) (pd : PReg) (cc : VCond) (t : ElemTy) (l : Fin 16) (pat : Shuf) (p : PReg),
    s.fwBad [d, a, b] = false →
    let x := s.ctx.rdV a
    let y := s.ctx.rdV b
    let v := s.ctx.rdS r
    let m := s.ctx.rdP p
    let lanes (i : Instr) (mask : Pred) (g : Fin 16 → LaneRes) : Prop :=
      ∃ t', exec i s = .next t' ∧ LanesTo s t' 2 d mask g
    (∃ (c : Pred) (f : Flags), exec (.vcmp pd cc a b t) s = .next ((s.pushP 2 pd 0xFFFF c).pushFlags 2 f) ∧
      (∀ i : Fin 16, c.getLsb i = (laneCmp cc t x[i].val y[i].val).1) ∧
      ∀ k : Fin 12, f.getLsb k = true ↔ ∃ i : Fin 16, (laneCmp cc t x[i].val y[i].val).2.getLsb k = true) ∧
    lanes (.vsel d a b p) 0xFFFF (fun i =>
      (if m.getLsb i then x[i].val else y[i].val, 0, x[i].poison || y[i].poison)) ∧
    lanes (.vbcst d r t p) m (fun _ => (wrElem t v.val.toNat, 0, v.poison)) ∧
    lanes (.vins d r l t) (1 <<< l.val) (fun _ => (wrElem t v.val.toNat, 0, v.poison)) ∧
    exec (.vext e a l t) s = .next (s.pushS 2 e (if isSigned t then (x[l].val.setWidth (ebits t)).signExtend 64
      else (x[l].val.setWidth (ebits t)).setWidth 64) x[l].poison) ∧
    lanes (.vperm d a b p) m (fun i =>
      let q := x[Fin.ofNat 16 y[i].val.toNat]
      (q.val, 0, q.poison || y[i].poison)) ∧
    lanes (.vshuf d a b pat p) m (fun i =>
      let q := if (shufLane pat i).1 then y[(shufLane pat i).2] else x[(shufLane pat i).2]
      (q.val, 0, q.poison)) ∧
    lanes (.vrot d a l p) m (fun i => (x[i + l].val, 0, x[i + l].poison))

/-- R155: level by level, neighbours combined; R156. -/
def Obligations.ReductionsAndPredicates : Prop :=
  (∀ (s : State) (d a : VReg) (t : ElemTy) (p : PReg), s.fwBad [d, a] = false →
    let x := s.ctx.rdV a
    let m := s.ctx.rdP p
    let red (i : Instr) (lat : Nat) (op : Red) : Prop :=
      let leaf (i : Fin 16) : Nat × Flags := (if m.getLsb i then redLeaf op t x[i].val else redIdent op t, 0)
      let l0 := (List.finRange 16).map leaf
      let r := redTree op t l0
      ∃ t', exec i s = .next t' ∧ LanesTo s t' lat d 0xFFFF (fun _ =>
        (redWrite op t r.1, r.2, (List.finRange 16).any (fun i => m.getLsb i && x[i].poison)))
    red (.vrsum d a t p) (if isFloat t then 8 else 4) .sum ∧ red (.vrmax d a t p) 4 .max ∧ red (.vrmin d a t p) 4 .min ∧
    red (.vramax d a t p) 4 .amax) ∧
  ∀ (s : State) (pd pa pb : PReg) (d : SReg) (i : BitVec 16),
    let x := s.ctx.rdP pa
    let y := s.ctx.rdP pb
    let put (v : Pred) : Out := .next (s.pushP 1 pd 0xFFFF v)
    exec (.pand pd pa pb) s = put (x &&& y) ∧ exec (.por pd pa pb) s = put (x ||| y) ∧
    exec (.pxor pd pa pb) s = put (x ^^^ y) ∧ exec (.pnot pd pa) s = put (~~~x) ∧ exec (.pset pd i) s = put i ∧
    exec (.pcnt d pa) s = .next (s.pushS 1 d (BitVec.ofNat 64 ((List.finRange 16).filter (fun i => x.getLsb i)).length) false)

/-- Chapter 08's block and scale instructions; hypotheses on the registers named and the type alone. That VQFIT's flags are of
the active lanes alone is the model's reading (log 15), the largest magnitude of nothing but NaNs its choice (log 63). -/
def Obligations.PackingAndQuantising : Prop :=
  ∀ (s : State) (d a : VReg) (rm : Rm) (t2 t : ElemTy) (qt : QTy) (p : PReg),
    let c := s.ctx
    let x := c.rdV a
    let m := c.rdP p
    let bad := (List.finRange 16).any (fun i => m.getLsb i && x[i].poison)
    (s.fwBad [d, a] = false →
      (let ins := (List.finRange 16).map (fun i => if m.getLsb i then fpVal t2 (rdElem t2 x[i].val) else FVal.fin false 0 0)
        let r := sxEncode (sxF t) rm ins
        ∃ t', exec (.vpksx d a rm t2 t p) s = .next t' ∧
          LanesTo s t' 3 d 0xFFFF (fun i => (BitVec.ofNat 32 (r.1 / 2 ^ (32 * i.val)), r.2, bad))) ∧
      (let blk := blockOf (sxF t2) x
        ∃ t', exec (.vupsx d a rm t2 t p) s = .next t' ∧ LanesTo s t' 3 d m (fun i =>
          let r := roundFp (fmtOf t) rm (sxDecode blk (sxF t2) i.val)
          (wrElem t r.1, r.2 ||| (if sxBad blk then flSXE else 0), blockPoison (sxF t2) x))) ∧
      (∀ ty, narrowOf s.me.fmtcfg false qt = some ty →
        let xs : Fin 16 → FVal := fun i => fpVal t2 (rdElem t2 x[i].val)
        let r := fitScale ty (largestMag m xs)
        ∃ t', exec (.vqfit d a t2 qt p) s = .next t' ∧
          LanesTo s t' 4 d 0xFFFF (fun _ => (BitVec.ofNat 32 r.1, r.2 ||| nanFlags m xs, bad))) ∧
      (∀ ty, narrowOf s.me.fmtcfg true qt = some ty → (ty = .z8 → rm = .rne) →
        let xs : Fin 16 → FVal := fun i => fpVal t2 (rdElem t2 x[i].val)
        let s1 := s.updCtx (fun c => { c with qseq := c.qseq + 1 })
        let count (f : Fin 16 → Nat × Flags × Bool × Bool) (g : Nat × Flags × Bool × Bool → Bool) : Nat :=
          ((List.finRange 16).filter (fun i => m.getLsb i && g (f i))).length
        match posFinite (fpVal .f32 c.qscale.toNat) with
        | none => ∃ t', exec (.vqnt d a rm t2 qt p) s = .next (t'.pushFlags 3 flNV) ∧
            LanesTo s1 t' 3 d m (fun i => (0, 0, x[i].poison))
        | some (ms, es) =>
          let q1 : Fin 16 → Nat × Flags × Bool × Bool := fun i => quantLane ty rm ms es (xs i)
          let nc := count q1 (fun r => r.2.2.1)
          let nz := count q1 (fun r => r.2.2.2)
          ¬(c.qrefit = true ∧ ty ≠ .z8 ∧ (nc > c.qlimit.toNat ∨ nz > c.qlimit.toNat)) →
          ∃ t', exec (.vqnt d a rm t2 qt p) s =
              .next ((t'.pushFlags 3 (if nc > 0 then flQSAT else 0)).push 3 (.quant nc nz none c.qseq)) ∧
            LanesTo s1 t' 3 d m (fun i => (wrElem ty (q1 i).1, (q1 i).2.1, x[i].poison)))) ∧
    (s.fwBad [grp d 2, grp a 1] = false →
      let hi := c.rdV (grp a 1)
      let r : Fin 16 → Nat × Nat × Nat × Flags := fun i =>
        quantChannel t rm (fpVal t (rdElem t x[i].val)) (fpVal t (rdElem t hi[i].val))
      let mark : Fin 16 → Bool := fun i => x[i].poison || hi[i].poison
      ∃ t1 t2' t3, exec (.vqch d a rm t2 t p) s = .next t3 ∧
        LanesTo s t1 6 d m (fun i => (wrElem t (r i).1, (r i).2.2.2, mark i)) ∧
        LanesTo t1 t2' 6 (grp d 1) m (fun i => (wrElem t (r i).2.1, 0, mark i)) ∧
        LanesTo t2' t3 6 (grp d 2) m (fun i => (wrElem t (r i).2.2.1, 0, mark i)))

/-- R166: the second pass. -/
def Obligations.QuantiseRefits : Prop :=
  ∀ (s : State) (d a : VReg) (rm : Rm) (t2 ty : ElemTy) (qt : QTy) (p : PReg) (ms : Nat) (es : Int) (mf : Nat) (ef : Int),
    s.fwBad [d, a] = false → narrowOf s.me.fmtcfg true qt = some ty → ty ≠ .z8 → s.ctx.qrefit = true →
    posFinite (fpVal .f32 s.ctx.qscale.toNat) = some (ms, es) →
    let x := s.ctx.rdV a
    let m := s.ctx.rdP p
    let xs : Fin 16 → FVal := fun i => fpVal t2 (rdElem t2 x[i].val)
    let q1 : Fin 16 → Nat × Flags × Bool × Bool := fun i => quantLane ty rm ms es (xs i)
    let nc := ((List.finRange 16).filter (fun i => m.getLsb i && (q1 i).2.2.1)).length
    let nz := ((List.finRange 16).filter (fun i => m.getLsb i && (q1 i).2.2.2)).length
    let fit := fitScale ty (largestMag m xs)
    (nc > s.ctx.qlimit.toNat ∨ nz > s.ctx.qlimit.toNat) → posFinite (fpVal .f32 fit.1) = some (mf, ef) →
    ∃ t', exec (.vqnt d a rm t2 qt p) s =
        .next ((t'.pushFlags 3 (fit.2 ||| flQREF)).push 3 (.quant nc nz (some (BitVec.ofNat 32 fit.1)) s.ctx.qseq)) ∧
      LanesTo (s.updCtx (fun c => { c with qseq := c.qseq + 1 })) t' 3 d m (fun i =>
        (wrElem ty (quantLane ty rm mf ef (xs i)).1, (quantLane ty rm mf ef (xs i)).2.1, x[i].poison))

/-- R169 to R173: the registers of a group one after another. -/
def Obligations.ComplexArithmetic : Prop :=
  ∀ (s : State) (d a b : VReg) (r : SReg) (l : Fin 64) (t : ElemTy) (p : PReg),
    let c := s.ctx
    let m := c.rdP p
    (s.fwBad [grp d 1, grp a 1, grp b 1] = false →
      (∃ t1 t2, exec (.vcmul d a b t p) s = .next t2 ∧
        LanesTo s t1 4 d m (fun i => (wrElem t (cxMul t (cxAt c t a i) (cxAt c t b i)).1.1,
          (cxMul t (cxAt c t a i) (cxAt c t b i)).1.2, (cxAt c t a i).poison || (cxAt c t b i).poison)) ∧
        LanesTo t1 t2 4 (grp d 1) m (fun i => (wrElem t (cxMul t (cxAt c t a i) (cxAt c t b i)).2.1,
          (cxMul t (cxAt c t a i) (cxAt c t b i)).2.2, (cxAt c t a i).poison || (cxAt c t b i).poison))) ∧
      (∃ t1 t2, exec (.vconj d a t p) s = .next t2 ∧
        LanesTo s t1 2 d m (fun i => (wrElem t (rdElem t (c.rdV a)[i].val), 0, (c.rdV a)[i].poison)) ∧
        LanesTo t1 t2 2 (grp d 1) m (fun i => (laneNeg t (c.rdV (grp a 1))[i].val, 0, (c.rdV (grp a 1))[i].poison))) ∧
      ∃ t1 t2, exec (.vtwid d r l t p) s = .next t2 ∧
        let w := (c.rdS r).val.toNat
        let tw (i : Fin 16) := twiddle (fmtOf t) ((w / 2 ^ 40 + w / 2 ^ 8 % 2 ^ 24 * (i.val / 2 ^ (w % 16))) % 2 ^ l.val) (2 ^ l.val)
        LanesTo s t1 6 d m (fun i => (wrElem t (tw i).1.1, (tw i).1.2, (c.rdS r).poison)) ∧
        LanesTo t1 t2 6 (grp d 1) m (fun i => (wrElem t (tw i).2.1, (tw i).2.2, (c.rdS r).poison))) ∧
    (s.fwBad [grp d 3, grp a 1, grp b 1] = false →
      ∃ u : Nat → State, u 0 = s ∧ exec (.vbf2 d a b t p) s = .next (u 4) ∧
        ∀ k < 4, LanesTo (u k) (u (k + 1)) 4 (grp d k) m (fun i =>
          let f := bf2Lane t (cxAt c t d i) (cxAt c t a i) (cxAt c t b i)
          (wrElem t (f.1.getD k (0, 0)).1, (f.1.getD k (0, 0)).2 ||| f.2.1, f.2.2))) ∧
    (s.fwBad [grp d 7, grp a 7, grp b 5] = false →
      ∃ u : Nat → State, u 0 = s ∧ exec (.vbf4 d a b t p) s = .next (u 8) ∧
        ∀ k < 8, LanesTo (u k) (u (k + 1)) 4 (grp d k) m (fun i =>
          let f := bf4Lane t (cxAt c t a i) (cxAt c t (grp a 2) i) (cxAt c t (grp a 4) i) (cxAt c t (grp a 6) i)
            (cxAt c t b i) (cxAt c t (grp b 2) i) (cxAt c t (grp b 4) i)
          (wrElem t (f.1.getD k (0, 0)).1, (f.1.getD k (0, 0)).2 ||| f.2.1, f.2.2)))

/-- R106, instruction by instruction: the numbers of the registers that each names. -/
def Obligations.FirmwareVectorRegisters : Prop :=
  ∀ (s : State) (d a b : VReg) (r rb e : SReg) (t t2 : ElemTy) (rm : Rm) (qt : QTy) (p rp : PReg) (cc : VCond) (l : Fin 16) (pat : Shuf)
    (k : Fin 64) (off : BitVec 7) (o : Aop) (sc : Bool) (acc : Acc) (row : Fin 32) (n : Fin 8) (c : EClause) (g : Graph), s.curFw = true →
    let D := d.val
    let A := a.val
    let B := b.val
    let upTo (x m : Nat) : List Nat := (List.range m).map (x + ·)
    let three : List Instr := [.vadd d a b t p, .vsub d a b t p, .vmul d a b t p, .vmulh d a b t p, .vfma d a b t p, .vfms d a b t p,
      .vfnma d a b t p, .vmin d a b t p, .vmax d a b t p, .vand d a b p, .vor d a b p, .vxor d a b p, .vshl d a b t p,
      .vshr d a b t p, .vsra d a b t p, .vsel d a b p, .vperm d a b p, .vshuf d a b pat p]
    let two : List Instr := [.vabs d a t p, .vneg d a t p, .vnot d a p, .vrcp d a rm t2 t p, .vrsq d a rm t2 t p, .vsqrt d a rm t2 t p,
      .vexp2 d a rm t2 t p, .vlog2 d a rm t2 t p, .vmov d a p, .vrot d a l p, .vrsum d a t p, .vrmax d a t p, .vrmin d a t p,
      .vramax d a t p, .vcvt d a rm t2 t p, .vpksx d a rm t2 t p, .vupsx d a rm t2 t p, .vqnt d a rm t2 qt p, .vdq d a rm qt t p,
      .vqfit d a t2 qt p]
    let dest : List Instr := [.vbcst d r t p, .vins d r l t, .vld d r t rp off, .vlds d r t rp rb, .vldb d r t rp off, .vst d r t off,
      .vsts d r t rb]
    let names : List (Instr × List Nat) := three.map (·, [D, A, B]) ++ two.map (·, [D, A]) ++ dest.map (·, [D]) ++
      [(.vcmp rp cc a b t, [A, B]), (.vext e a l t, [A]), (.vgath d r t rp b, [D, B]), (.vscat d r t b, [D, B]),
       (.vqch d a rm t2 t p, upTo D 3 ++ upTo A 2), (.vbf2 d a b t p, upTo D 4 ++ upTo A 2 ++ upTo B 2),
       (.vbf4 d a b t p, upTo D 8 ++ upTo A 8 ++ upTo B 6), (.vcmul d a b t p, upTo D 2 ++ upTo A 2 ++ upTo B 2),
       (.vconj d a t p, upTo D 2 ++ upTo A 2), (.vtwid d r k t p, upTo D 2), (.mrd acc row d n c, upTo D (2 * (n.val + 1))),
       (.vatom d r t o b sc, D :: upTo B (if o = .cas then 3 else 2)), (.vatomn r t o b sc, upTo B (if o = .cas then 3 else 2))]
    (∀ x ∈ names, x.1.wf = true → (∃ m ∈ x.2, 16 ≤ m) → exec x.1 s = .next s.illegalField) ∧
    (s.usablePlane.find? (fun g => g.n == l) = some g →
      (16 ≤ D ∨ 16 ≤ A ∨ (2 ≤ g.srcs ∧ 16 ≤ B) ∨ (g.results = 2 ∧ 16 ≤ D + 1)) → exec (.xop d a b l p) s = .next s.illegalField)

/-! ### Memory (chapters 09, 11, 12) -/

/-- Scalar loads, by where the bytes are: the conditions are on the state and the operands alone. -/
def Obligations.ScalarLoads : Prop :=
  ∀ (s : State) (d base : SReg) (ty : MemTy) (rp : PReg) (sc : Scope) (off : BitVec 7) (n : Nat) (e : Extent),
    let va := effAddr (s.ctx.rdS base).val off (mbytes ty)
    let len := mbytes ty
    let pa := e.physical s.cur s.me va
    let bytes := s.performRead pa len
    let here : State :=
      if s.reach pa false = true then s.pushS 5 d (mextend ty (ofBytes (bytes.map (·.1)))) (bytes.any (·.2))
      else (s.asyncFault s.cur s.curFw 0x22 (BitVec.ofNat 32 va) va).pushS 5 d 0 false
    let far : State := (s.sendSlot s.stream (paCluster pa) va (.read pa len)).updCtx (fun c =>
      c.push (waitPend 5 (.sreg d ⟨0, false⟩) [(s.nextId, 0)] .z32 (some ty)))
    (s.ctx.rdS base).poison = false → findExtent s.me.table va len = some (n, e) →
    (checkAll s.me.table (.load false) (rp != 0) len len [va] = none →
      exec (.ld d base ty rp off) s = .next (
        if e.res ≠ .resident then (s.pushS 5 d 0 false).pushP 5 rp 0xFFFF 0
        else if paCluster pa ≠ s.cur then far else here)) ∧
    (va % len = 0 → e.kind = .noise → exec (.ld d base ty rp off) s = .next (s.raise 0x22 (BitVec.ofNat 32 va) va) ∧
      exec (.ldacq d base ty sc off) s = .next (s.raise 0x22 (BitVec.ofNat 32 va) va)) ∧
    (checkAll s.me.table (.load false) false len len [va] = none →
      exec (.ldacq d base ty sc off) s = .next (
        if paCluster pa ≠ s.cur then far.updCtx (fun c => { c with fences := c.fences ++ [⟨.acquire, [.perf s.nextId], [], s.slot, 0⟩] })
        else here))

/-- Vector loads, lane by lane. -/
def Obligations.VectorLoads : Prop :=
  ∀ (s : State) (d : VReg) (base b : SReg) (v : VReg) (ty : ElemTy) (rp : PReg) (off : BitVec 7) (i : Instr) (all : Bool)
    (va : Fin 16 → Nat) (e : Fin 16 → Nat × Extent),
    let n := ebytes ty
    let x := (s.ctx.rdS base).val
    let st := (s.ctx.rdS b).val
    let pa (l : Fin 16) : Nat := (e l).2.physical s.cur s.me (va l)
    let noisy_ (l : Fin 16) : Bool := (e l).2.kind == .noise
    let gone (l : Fin 16) : Bool := !noisy_ l && (e l).2.res != .resident
    let far (l : Fin 16) : Bool := !noisy_ l && (e l).2.res == .resident && paCluster (pa l) != s.cur
    (s.ctx.rdS base).poison = false → (s.ctx.rdS b).poison = false → anyPoison (s.ctx.rdV v) = false → s.fwBad [d, v] = false →
    checkAll s.me.table (.load (noisy ty)) (rp != 0) n n ((List.finRange 16).map va) = none →
    (∀ l, findExtent s.me.table (va l) n = some (e l) ∧ (paCluster (pa l) = s.cur → s.reach (pa l) false = true)) →
    (i = .vld d base ty rp off ∧ all = false ∧ (∀ l, va l = (effAddr x off (16 * n) + l.val * n) % 2 ^ 64)) ∨
      (i = .vldb d base ty rp off ∧ all = true ∧ (∀ l, va l = effAddr x off n)) ∨
      (i = .vlds d base ty rp b ∧ all = decide (st = 0) ∧ (∀ l, va l = (x.toNat + l.val * st.toNat) % 2 ^ 64)) ∨
      (i = .vgath d base ty rp v ∧ all = false ∧ (∀ l, va l = (x + ((s.ctx.rdV v)[l].val.signExtend 64)).toNat)) →
    ∃ (t : State) (p : Pend) (lanes : VVal) (m : Pred) (ms : List Msg), exec i s = .next t ∧
      t = { s with cl := t.cl, net := s.net ++ ms, nextId := s.nextId + ms.length } ∧ (∀ k, k ≠ s.cur → t.cluster k = s.cluster k) ∧
      t.me = s.me.setCtx s.curFw t.ctx ∧
      t.ctx = { s.ctx with pend := s.ctx.pend ++ [p] ++ (if (List.finRange 16).any gone then [mkPend 5 (.preg rp m 0)] else []) } ∧
      (∀ l : Fin 16, m.getLsb l = (all || gone l)) ∧ p.left = 5 ∧ p.dest = .vreg d 0xFFFF lanes ∧ p.ty = ty ∧
      (∀ l : Fin 16, (noisy_ l = true →
          lanes[l] = ⟨wrElem ty (noise s.ctx.nseed.toNat s.ctx.nstep.toNat ((va l - (e l).2.vbase) / n) ty), false⟩) ∧
        ((gone l = true ∨ far l = true) → lanes[l] = ⟨0, false⟩) ∧
        (noisy_ l = false → gone l = false → far l = false →
          lanes[l] = ⟨wrElem ty (ofBytes ((s.performRead (pa l) n).map (·.1))), (s.performRead (pa l) n).any (·.2)⟩) ∧
        (far l = true ↔ ∃ id, (id, l.val) ∈ p.waits) ∧
        (far l = true → ∃ q ∈ ms, (q.id, l.val) ∈ p.waits ∧ q.src = s.cur ∧ q.dst = paCluster (pa l) ∧ q.by_ = .slot s.curFw s.stream ∧
          ∃ parts, q.kind = .vread n parts [] ∧ (l.val, pa l) ∈ parts.flatten)) ∧
      (∀ w ∈ p.waits, ∃ q ∈ ms, q.id = w.1) ∧
      ∀ q ∈ ms, s.nextId ≤ q.id ∧ ∃ parts, q.kind = .vread n parts [] ∧ ∀ y ∈ parts.flatten, ∃ l : Fin 16, far l = true ∧ y = (l.val, pa l)

/-- Table 9.4's order for one element. That a marked base comes before its checks is the model's reading (log 9). -/
def Obligations.ScalarAccessFaults : Prop :=
  ∀ (s : State) (d base : SReg) (ty : MemTy) (sc : Scope) (off : BitVec 7) (n : Nat) (e : Extent),
    let va := effAddr (s.ctx.rdS base).val off (mbytes ty)
    let all (rd wr : Bool) (t : State) : Prop :=
      (rd = true → exec (.ld d base ty 0 off) s = .next t ∧ exec (.ldacq d base ty sc off) s = .next t) ∧
      (wr = true → exec (.st d base ty off) s = .next t ∧ exec (.strel d base ty sc off) s = .next t)
    let stop (code : Nat) : State := s.raise code (BitVec.ofNat 32 va) va
    ((s.ctx.rdS base).poison = true → all true true (stop 0x26)) ∧
    ((s.ctx.rdS base).poison = false →
      (va % mbytes ty ≠ 0 → all true true (stop 0x20)) ∧
      (va % mbytes ty = 0 →
        (findExtent s.me.table va (mbytes ty) = none → all true true (stop 0x21)) ∧
        (findExtent s.me.table va (mbytes ty) = some (n, e) →
          (e.kind = .none → all true true (stop 0x21)) ∧
          (e.kind = .noise → all true (!e.w) (stop 0x22) ∧ all false e.w (stop 0x23)) ∧
          ((e.kind = .local ∨ e.kind = .remote) →
            all (!e.r) (!e.w) (stop 0x22) ∧
            (e.res ≠ .resident → all e.r e.w (stop 0x24))))))

/-- The store's address is the translation of its effective address. -/
def Obligations.ScalarStores : Prop :=
  ∀ (s : State) (d base : SReg) (ty : MemTy) (sc : Scope) (off : BitVec 7) (n : Nat) (e : Extent),
    let va := effAddr (s.ctx.rdS base).val off (mbytes ty)
    let pa := e.physical s.cur s.me va
    s.kept = true → (s.ctx.rdS base).poison = false → checkAll s.me.table .store false (mbytes ty) (mbytes ty) [va] = none →
    findExtent s.me.table va (mbytes ty) = some (n, e) → paCluster pa = s.cur → paSpace pa = 0 → s.reach pa true = true →
    let stores (i : Instr) : Prop := ∃ t, exec i s = .next t ∧
      (∀ j < mbytes ty, t.byteAt (memKey pa + j) = BitVec.ofNat 8 ((s.ctx.rdS d).val.toNat / 2 ^ (8 * j))) ∧
      (∀ a, a < memKey pa ∨ memKey pa + mbytes ty ≤ a → t.byteAt a = s.byteAt a) ∧
      (∀ w, w ∈ t.pmem ↔ ((s.ctx.rdS d).poison = true ∧ memKey pa < 8 * w + 8 ∧ 8 * w < memKey pa + mbytes ty) ∨
        (w ∈ s.pmem ∧ ¬ (memKey pa ≤ 8 * w ∧ 8 * w + 8 ≤ memKey pa + mbytes ty))) ∧
      (∀ k fw, t.ctxOf k fw = s.ctxOf k fw) ∧ t.net = s.net ∧ t.md = s.md ∧ t.die = s.die
    stores (.st d base ty off) ∧ (s.releaseDeps s.cur sc = [] → stores (.strel d base ty sc off))

/-- Posted writes. -/
def Obligations.RemoteStores : Prop :=
  ∀ (s : State) (d base : SReg) (ty : MemTy) (sc : Scope) (off : BitVec 7) (n : Nat) (e : Extent),
    let va := effAddr (s.ctx.rdS base).val off (mbytes ty)
    let pa := e.physical s.cur s.me va
    (s.ctx.rdS base).poison = false → checkAll s.me.table .store false (mbytes ty) (mbytes ty) [va] = none →
    findExtent s.me.table va (mbytes ty) = some (n, e) → paCluster pa ≠ s.cur →
    let posts (i : Instr) (ph : MPhase) (cond : List Dep) (strel : Bool) : Prop := ∃ t m, exec i s = .next t ∧ t.net = s.net ++ [m] ∧
      m.kind = .write pa (marked (mbytes ty) (s.ctx.rdS d).val.toNat (s.ctx.rdS d).poison) ∧ m.id = s.nextId ∧ m.src = s.cur ∧
      m.dst = paCluster pa ∧ m.va = va ∧ m.phase = ph ∧ m.cond = cond ∧ m.strel = strel ∧
      m.by_ = .slot s.curFw s.stream ∧ t.nextId = s.nextId + 1 ∧ s.sameMemory t ∧
      ∀ k fw, t.ctxOf k fw = s.ctxOf k fw
    posts (.st d base ty off) .out [] false ∧ (s.releaseDeps s.cur sc = [] → posts (.strel d base ty sc off) .out [] true) ∧
    (s.releaseDeps s.cur sc ≠ [] → posts (.strel d base ty sc off) .held (s.releaseDeps s.cur sc) true)

/-- Vector stores here. -/
def Obligations.VectorStores : Prop :=
  ∀ (s : State) (d : VReg) (base b : SReg) (v : VReg) (ty : ElemTy) (off : BitVec 7) (i : Instr) (va : Fin 16 → Nat)
    (e : Fin 16 → Nat × Extent),
    let n := ebytes ty
    let x := (s.ctx.rdS base).val
    let pa (l : Fin 16) : Nat := (e l).2.physical s.cur s.me (va l)
    s.kept = true → (s.ctx.rdS base).poison = false → (s.ctx.rdS b).poison = false → anyPoison (s.ctx.rdV v) = false →
    s.fwBad [d, v] = false → checkAll s.me.table .store false n n ((List.finRange 16).map va) = none →
    (∀ l, findExtent s.me.table (va l) n = some (e l) ∧ paCluster (pa l) = s.cur ∧ paSpace (pa l) = 0 ∧ paSpace (pa l + n - 1) = 0 ∧
      s.reach (pa l) true = true) →
    (i = .vst d base ty off ∧ (∀ l, va l = (effAddr x off (16 * n) + l.val * n) % 2 ^ 64)) ∨
      (i = .vsts d base ty b ∧ (∀ l, va l = (x.toNat + l.val * (s.ctx.rdS b).val.toNat) % 2 ^ 64)) ∨
      (i = .vscat d base ty v ∧ (∀ l, va l = (x + ((s.ctx.rdV v)[l].val.signExtend 64)).toNat)) →
    ∃ t, exec i s = .next t ∧
      (∀ l : Fin 16, (∀ l' : Fin 16, l < l' → memKey (pa l) + n ≤ memKey (pa l') ∨ memKey (pa l') + n ≤ memKey (pa l)) →
        ∀ j < n, t.byteAt (memKey (pa l) + j) = BitVec.ofNat 8 ((s.ctx.rdV d)[l].val.toNat / 2 ^ (8 * j))) ∧
      (∀ a, (∀ l : Fin 16, a < memKey (pa l) ∨ memKey (pa l) + n ≤ a) → t.byteAt a = s.byteAt a) ∧
      (∀ w, w ∈ t.pmem ↔
        (∃ l : Fin 16, (s.ctx.rdV d)[l].poison = true ∧ memKey (pa l) < 8 * w + 8 ∧ 8 * w < memKey (pa l) + n) ∨
        (w ∈ s.pmem ∧ ¬ ∀ j < 8, ∃ l : Fin 16, memKey (pa l) ≤ 8 * w + j ∧ 8 * w + j < memKey (pa l) + n)) ∧
      ∀ k fw, t.ctxOf k fw = s.ctxOf k fw

/-- The read-modify-write of R193 at one word; Table 9.3 on the 32-bit types. -/
def Obligations.ScalarAtomics : Prop :=
  (∀ (s : State) (d base b : SReg) (ty : ElemTy) (o : Aop) (n : Nat) (e : Extent),
    let x := s.ctx.rdS base
    let u := s.ctx.rdS b
    let w := s.ctx.rdS (Fin.ofNat 32 (b.val + 1))
    let va := x.val.toNat
    let pa := e.physical s.cur s.me va
    let len := ebytes ty
    s.kept = true → x.poison = false →
    s.atomFault [⟨va, u.val.toNat, w.val.toNat, u.poison || (o == .cas && w.poison)⟩] ty false = none →
    findExtent s.me.table va len = some (n, e) → paCluster pa = s.cur → s.reach pa true = true →
    let old := ofBytes ((s.readMarked pa len).map (·.1))
    let stores (t : State) : Prop :=
      (∀ j < len, t.byteAt (memKey pa + j) = BitVec.ofNat 8 ((atomOp o ty old u.val.toNat w.val.toNat).1 / 2 ^ (8 * j))) ∧
      (∀ a, a < memKey pa ∨ memKey pa + len ≤ a → t.byteAt a = s.byteAt a) ∧ t.pmem = s.pmem ∧
      (∀ k fw, (k, fw) ≠ (s.cur, s.curFw) → t.ctxOf k fw = s.ctxOf k fw) ∧
      ∀ k j, kget 0 (t.cluster k).sestat j = if k = s.cur ∧ j = pa / 2 ^ 17 % 32 then
        kget 0 (s.cluster k).sestat j ||| ((atomOp o ty old u.val.toNat w.val.toNat).2 &&& 0x17).setWidth 64
        else kget 0 (s.cluster k).sestat j
    (∃ t, exec (.atom d base ty o b false) s = .next t ∧ stores t ∧
      t.ctx = s.ctx.push (waitPend 5 (.sreg d ⟨if ty = .i32 then (BitVec.ofNat 32 old).signExtend 64 else BitVec.ofNat 64 old, false⟩)
        [] ty none)) ∧
    ∃ t, exec (.atomn base ty o b false) s = .next t ∧ stores t ∧ t.ctx = s.ctx) ∧
  (∀ m x y : BitVec 16, let q := addF .rne (fpVal .bf16 m.toNat) (fpVal .bf16 x.toNat)
    atomOp .fadd .bf16 m.toNat x.toNat y.toNat = ((roundRne fmtBF16 q.1).1, q.2 ||| (roundRne fmtBF16 q.1).2)) ∧
  ∀ (ty : ElemTy) (m x y : Word), (ty = .i32 ∨ ty = .z32 ∨ ty = .f32) →
    let r (o : Aop) := atomOp o ty m.toNat x.toNat y.toNat
    r .add = ((m + x).toNat, 0) ∧ r .sub = ((m - x).toNat, 0) ∧ r .and = ((m &&& x).toNat, 0) ∧ r .or = ((m ||| x).toNat, 0) ∧
    r .xor = ((m ^^^ x).toNat, 0) ∧ r .min = ((if m.toInt ≤ x.toInt then m else x).toNat, 0) ∧
    r .max = ((if m.toInt ≤ x.toInt then x else m).toNat, 0) ∧ r .minu = ((if m.toNat ≤ x.toNat then m else x).toNat, 0) ∧
    r .maxu = ((if m.toNat ≤ x.toNat then x else m).toNat, 0) ∧ r .xchg = (x.toNat, 0) ∧
    r .cas = ((if m = x then y else m).toNat, 0) ∧
    (ty = .f32 → r .fmin = minMaxNum fmtF32 false m.toNat x.toNat ∧ r .fmax = minMaxNum fmtF32 true m.toNat x.toNat ∧
      let q := addF .rne (fpVal .f32 m.toNat) (fpVal .f32 x.toNat)
      r .fadd = ((roundRne fmtF32 q.1).1, q.2 ||| (roundRne fmtF32 q.1).2))

/-- Atomics of more than one lane, and the SC forms. What an SC atomic waits for before its position is the model's reading of
R234 (log 18). -/
def Obligations.AtomicForms : Prop :=
  ∀ (s : State) (d : VReg) (r base : SReg) (ty : ElemTy) (o : Aop) (b : VReg) (sb : SReg) (id g q : Nat) (m : Msg) (ret fw : Bool)
    (lanes : List (Nat × Nat × Nat)),
    let x := s.ctx.rdS base
    let n := ebytes ty
    let k := if o = .cas then 2 else 1
    let u := s.ctx.rdV b
    let w := s.ctx.rdV (grp b 1)
    let f := s.ctx.rdV (grp b k)
    let va (i : Fin 16) : Nat := indexAddr x.val f[i].val
    let pa (i : Fin 16) : Nat := s.atomPa (va i) n
    let ls : List AtomLane := (List.finRange 16).map (fun i =>
      ⟨va i, u[i].val.toNat, w[i].val.toNat, u[i].poison || (o == .cas && w[i].poison)⟩)
    let one : List AtomLane := [⟨x.val.toNat, (s.ctx.rdS sb).val.toNat, (s.ctx.rdS (Fin.ofNat 32 (sb.val + 1))).val.toNat,
      (s.ctx.rdS sb).poison || (o == .cas && (s.ctx.rdS (Fin.ofNat 32 (sb.val + 1))).poison)⟩]
    let sent (i : Instr) (ls : List AtomLane) (back : Bool) : Prop := ∃ t q, exec i s = .next t ∧ t.net = s.net ++ [q] ∧ q.id = s.nextId ∧
      q.kind = .scAtom (ls.map (fun l => (s.atomPa l.va n, l.x, l.y))) o ty back ∧ q.phase = .held ∧ q.cond = s.scDeps ∧
      s.sameMemory t ∧ (back = true → ∃ p : Pend, t.ctx = s.ctx.push p ∧ p.waits = ls.zipIdx.map (fun l => (s.nextId, l.2))) ∧
      (back = false → t.ctx = { s.ctx with holds := s.ctx.holds ++ [⟨s.stream, [.perf s.nextId], s.slot, 0⟩] })
    let elsewhere (i : Fin 16) : Bool := paCluster (pa i) != s.cur
    let of_ (k : Nat) : List (Nat × Nat × Nat × Nat) := ((List.finRange 16).filter (fun i => paCluster (pa i) == k)).map (fun i =>
      (i.val, pa i, u[i].val.toNat, w[i].val.toNat))
    let runs (i : Instr) (back : Bool) : Prop := ∃ (t : State) (M : Nat → Nat → Byte) (ms : List Msg), exec i s = .next t ∧
      M 0 = s.byteAt ∧
      (∀ l : Fin 16, M (l.val + 1) = if elsewhere l then M l.val else storedAt (M l.val) (memKey (pa l)) n
        (atomOp o ty (wordAt (M l.val) (pa l) n) u[l].val.toNat w[l].val.toNat).1) ∧
      (∀ a, t.byteAt a = M 16 a) ∧ t.pmem = s.pmem ∧ t.net = s.net ++ ms ∧
      (∀ l, elsewhere l = true → ∃ q ∈ ms, q.dst = paCluster (pa l)) ∧
      (∀ q ∈ ms, q.dst ≠ s.cur ∧ q.src = s.cur ∧ q.by_ = .slot s.curFw s.stream ∧ q.kind = .vatom o ty back (of_ q.dst) [] ∧ s.nextId ≤ q.id) ∧
      (back = false → t.ctx = s.ctx) ∧
      (back = true → ∃ (p : Pend) (v : VVal), t.ctx = s.ctx.push p ∧ p.left = 5 ∧ p.dest = .vreg d 0xFFFF v ∧ p.ty = ty ∧
        ∀ l : Fin 16, (elsewhere l = false → v[l] = ⟨wrElem ty (wordAt (M l.val) (pa l) n), false⟩) ∧
          (elsewhere l = true ↔ ∃ i, (i, l.val) ∈ p.waits) ∧
          ∀ i, (i, l.val) ∈ p.waits → ∃ q ∈ ms, q.id = i ∧ q.dst = paCluster (pa l))
    (x.poison = false →
      (anyPoison f = false → s.fwBad [d, b, grp b k] = false →
        (s.kept = true → s.atomFault ls ty false = none → (∀ l, elsewhere l = false → s.reach (pa l) true = true) →
          runs (.vatom d base ty o b false) true ∧ runs (.vatomn base ty o b false) false) ∧
        (s.atomFault ls ty true = none → sent (.vatom d base ty o b true) ls true ∧ sent (.vatomn base ty o b true) ls false)) ∧
      (s.atomFault one ty true = none → sent (.atom r base ty o sb true) one true ∧ sent (.atomn base ty o sb true) one false)) ∧
    (s.msg id = some m → m.kind = .scAtom lanes o ty ret → m.grant = some g → m.by_ = .slot fw q → m.phase.performed = false →
      ((s.module (modOf m.src)).gts < g + 64 → exec (.scAtomicPerform id) s = .next s) ∧
      (g + 64 ≤ (s.module (modOf m.src)).gts → s.kept = true → (∀ x ∈ s.net, x.id = id → x = m) → m.deny = false →
        (∀ l ∈ lanes, s.msgAllowed m l.1 true = true ∧ s.poisoned l.1 n = false ∧ paSpace l.1 = 0) →
        ∃ (t : State) (M : Nat → Nat → Byte) (old : Nat → Nat), exec (.scAtomicPerform id) s = .next t ∧ M 0 = s.byteAt ∧
          (∀ i l, lanes[i]? = some l → old i = wordAt (M i) l.1 n ∧
            M (i + 1) = storedAt (M i) (memKey l.1) n (atomOp o ty (old i) l.2.1 l.2.2).1) ∧
          (∀ a, t.byteAt a = M lanes.length a) ∧ t.pmem = s.pmem ∧ (∀ k z, t.ctxOf k z = s.ctxOf k z) ∧
          (∀ l, lanes.getLast? = some l → ∃ w, (q, w) ∈ (t.cluster m.src).windows ∧ w.low ≤ l.1 ∧ l.1 + n - 1 ≤ w.high) ∧
          (ret = false → t.net = s.net.filter (fun x => x.id != id)) ∧
          (ret = true → t.net = s.net.map (fun x => if x.id = id then
            { x with phase := .back ((List.range lanes.length).flatMap (fun i => marked 4 (old i) false)) } else x))))

/-- Ordering instructions: `left` keeps what has not come about. -/
def Obligations.OrderingInstructions : Prop :=
  ∀ (s : State) (sc : Scope) (mask : BitVec 16) (path : Path),
    let left (ds : List Dep) : List Dep := ds.filter (fun d => !s.met s.cur d)
    let all := s.underWay s.cur
    let mine := s.underWayOf s.cur s.curFw
    let acq := left (mine.map .loads)
    let rel := left (all.flatMap (fun i => [.loads i, .wr sc i]))
    let acc := acq ++ left (all.map (.wr sc))
    let named := (s.net.filter (fun m => m.src == s.cur && (List.range 16).any (fun q => mask.getLsbD q && m.inStream q))).map (·.id) ++
      (s.me.streams.filter (fun q => mask.getLsbD q.1)).flatMap (fun q => q.2.map (·.id))
    let bar := left (named.flatMap (fun i => [.perf i, .wr .sys i]))
    let dr := left (all.map (.path path))
    let put (f : FenceRec) : State := s.updCtx (fun c => { c with fences := c.fences ++ [f] })
    exec (.fence sc .acquire) s = .next (if acq = [] then s else put ⟨.acquire, acq, [], s.slot, 0⟩) ∧
    exec (.fence sc .release) s = .next (if rel = [] then s else put ⟨.release, [], rel, s.slot, 0⟩) ∧
    exec (.fence sc .full) s = .next (if acc = [] ∧ rel = [] then s else put ⟨.full, acc, rel, s.slot, 0⟩) ∧
    exec (.sbar mask) s = .next (if bar = [] then s else
      s.updMe (fun c => { c with sbars := c.sbars ++ [⟨mask, bar, s.curFw, s.slot, 0⟩] })) ∧
    exec (.drain path) s = .next (if dr = [] then s else
      s.updCtx (fun c => { c with holds := c.holds ++ [⟨s.slot - 6, dr, s.slot, 0⟩] }))

/-- R187: no byte of memory is read. R224 on 64-bit vectors; the knots' values follow log 8. -/
def Obligations.NoiseLoads : Prop :=
  (∀ (s u : State) (t : ElemTy) (va i : Nat) (e : Extent),
    findExtent s.me.table va (ebytes t) = some (i, e) → e.kind = .noise →
    s.find t va (ebytes t) = .here (noise s.ctx.nseed.toNat s.ctx.nstep.toNat ((va - e.vbase) / ebytes t) t) false ∧
    ({ s with mem := u.mem, pmem := u.pmem } : State).find t va (ebytes t) = s.find t va (ebytes t)) ∧
  ∀ (seed step i : DWord) (t : ElemTy) (e : Nat),
    let x := seed ^^^ (step * 0x8F1BD35A6C27E4D9) ^^^ (i * 0xB5E29A471D8C36F3)
    let h1 := (x ^^^ (x >>> 31)) * 0xE7A35C19B2D48F6B
    let h2 := (h1 ^^^ (h1 >>> 27)) * 0x94C17E2D5B38A9C7
    let h := h2 ^^^ (h2 >>> 33)
    let w := (h.extractLsb' 24 39).toNat
    (w < 2 ^ (39 - e) → (e = 31 ∨ (e < 31 ∧ 2 ^ (38 - e) ≤ w)) →
      let y := w * 2 ^ e % 2 ^ 39
      let f := if e = 31 then 0 else y / 2 ^ 33 % 2 ^ 5
      let u := if e = 31 then 0 else y / 2 ^ 23 % 2 ^ 10
      let K (f : Nat) : FVal := fpVal .f32 (knot e f)
      let D := (roundRne fmtF32 (addF .rne (K (f + 1)) (K f).negate).1).1
      let z := (roundRne fmtF32 (fmaF .rne false (fpVal .f32 D) (.fin false u (-10)) (K f)).1).1 % 2 ^ 31 + if h.getLsbD 63 then 2 ^ 31 else 0
      noise seed.toNat step.toNat i.toNat .f32 = z ∧
      (t ≠ .f32 → noise seed.toNat step.toNat i.toNat t = (roundRne (fmtOf t) (fpVal .f32 z)).1))


/-! ### Faults and control (chapters 03, 04, 24) -/

/-- What State.raise, State.raiseAfter and State.headerFault do. -/
def Obligations.TakingAFault : Prop :=
  ∀ (s : State) (code va : Nat) (info : Word) (sw : BitVec 11),
    let taken (t : State) (slot : Nat) (sw : BitVec 11) (hdr : Bool) (va : Nat) : Prop :=
      (let c := s.ctx; let d := t.ctx
       d.code = BitVec.ofNat 7 code ∧ d.info = info ∧ d.swcode = sw ∧ d.slotres = BitVec.ofNat 4 slot ∧ d.park = .trapped ∧
       d.fault = some (⟨code, info, sw, BitVec.ofNat 4 slot, false, hdr, c.pc, va, (s.module (modOf s.cur)).gts / 4096, c.faultOvf⟩,
         .travelling) ∧
       d.s = c.s ∧ d.v = c.v ∧ d.p = c.p ∧ d.lc = c.lc ∧ d.loops = c.loops ∧ d.pc = c.pc ∧ d.pend = c.pend ∧ d.status = c.status) ∧
      (∀ k fw, (k, fw) ≠ (s.cur, s.curFw) → t.ctxOf k fw = s.ctxOf k fw) ∧ t.mem = s.mem ∧ t.pmem = s.pmem ∧ t.md = s.md ∧
        t.die = s.die ∧ t.net = s.net
    (taken (s.raise code info va) s.slot 0 false va ∧ (s.raise code info va).stop = true) ∧
    (taken (s.raiseAfter code info sw) 14 sw false 0 ∧ (s.raiseAfter code info sw).stop = s.stop) ∧
    (taken (s.headerFault code info) 0 0 true 0 ∧ (s.headerFault code info).stop = true)

/-- The transfers of the B slot. That JMPI and RET test the mark before the alignment is the model's order (log 16). -/
def Obligations.ControlTransfers : Prop :=
  ∀ (s : State) (a : SReg) (p : PReg) (o26 : BitVec 26) (o18 : BitVec 18) (o20 : BitVec 20),
    let c := s.ctx
    let goTo (t : BitVec 22) : Out := .next (s.updCtx (fun c => { c with target := some t }))
    let rel (off : Int) : BitVec 22 := c.pc + BitVec.ofInt 22 (4 * off)
    let x := c.rdS a
    let y := c.rdP p
    let brc (cc : BCond) (holds : Prop) : Prop :=
      (holds → exec (.brc a cc o18) s = goTo (rel o18.toInt)) ∧ (¬ holds → exec (.brc a cc o18) s = .next s)
    let brp (m : BMode) (holds : Prop) : Prop :=
      (holds → exec (.brp p m o20) s = goTo (rel o20.toInt)) ∧ (¬ holds → exec (.brp p m o20) s = .next s)
    let jump (i : Instr) (z : SVal) : Prop :=
      (z.poison = true → exec i s = .next (s.poisonUse z.val.toNat)) ∧
      (z.poison = false →
        ((z.val.getLsbD 0 = true ∨ z.val.getLsbD 1 = true) → exec i s = .next (s.raise 0x06 ((z.val.setWidth 22).setWidth 32))) ∧
        ((z.val.getLsbD 0 = false ∧ z.val.getLsbD 1 = false) → exec i s = goTo (z.val.setWidth 22)))
    exec (.br o26) s = goTo (rel o26.toInt) ∧
    exec (.call o26) s = .next ((s.pushS 1 31 (c.seqPc.setWidth 64) false).updCtx (fun d => { d with target := some (rel o26.toInt) })) ∧
    (x.poison = true → ∀ cc, exec (.brc a cc o18) s = .next s.poisonUse) ∧
    (x.poison = false →
      brc .eq (x.val = 0) ∧ brc .ne (x.val ≠ 0) ∧ brc .lt (x.val.toInt < 0) ∧ brc .ge (0 ≤ x.val.toInt) ∧
      brc .gt (0 < x.val.toInt) ∧ brc .le (x.val.toInt ≤ 0)) ∧
    brp .any (∃ i < 16, y.getLsbD i = true) ∧ brp .all (∀ i < 16, y.getLsbD i = true) ∧ brp .none (∀ i < 16, y.getLsbD i = false) ∧
    (y = 0xFFFF → exec (.bru p false o20) s = goTo (rel o20.toInt) ∧ exec (.bru p true o20) s = .next s) ∧
    (y = 0 → exec (.bru p true o20) s = goTo (rel o20.toInt) ∧ exec (.bru p false o20) s = .next s) ∧
    (y ≠ 0 → y ≠ 0xFFFF → ∀ b, exec (.bru p b o20) s = .next (s.raise 0x10 (y.setWidth 32))) ∧
    jump (.jmpi a) x ∧ jump .ret (c.rdS 31)

/-- R95, R96, R98. -/
def Obligations.HardwareLoops : Prop :=
  ∀ (s : State) (lc : Fin 3) (a : SReg) (step : BitVec 4) (e15 : BitVec 15) (count e10 : BitVec 10) (d : Ctx),
    let c := s.ctx
    let x := c.rdS a
    let words := (c.seqPc - c.pc).toNat / 4
    let rest := c.loops.dropWhile (fun l => l.lc != lc)
    let start (n e : Nat) : State :=
      if n = 0 then s.updCtx (fun c => { c with seqPc := c.pc + BitVec.ofNat 22 (4 * e) })
      else (s.updCtx (fun c => { c with loops := ⟨lc, n, step.toInt, c.pc + BitVec.ofNat 22 (4 * e), c.seqPc⟩ ::
          (if rest = [] then c.loops else rest.tail) })).push 1
        (.lcSet lc (if step.toInt > 0 then 0 else BitVec.ofInt 64 ((n - 1 : Int) * (0 - step.toInt))))
    let loops (i : Instr) (n e : Nat) (marked : Prop) : Prop :=
      (step = 0 → exec i s = .next (s.raise 0x11 0)) ∧
      (step ≠ 0 →
        (e ≤ words → exec i s = .next s.illegalField) ∧
        (words < e → (marked → exec i s = .next s.poisonUse) ∧ (¬ marked → exec i s = .next (start n e))))
    loops (.loop lc a step e15) (x.val.setWidth 32).toNat e15.toNat (x.poison = true) ∧
    loops (.loopi lc count step e10) count.toNat e10.toNat False ∧
    (rest = [] → exec (.lexit lc) s = .next s) ∧
    (∀ l r, rest = l :: r → exec (.lexit lc) s = .next ((s.updCtx (fun c => { c with loops := r })).updCtx
      (fun c => { c with target := some l.loopend }))) ∧
    (∀ t, d.target = some t → d.advance = { d with pc := t, target := none, entry := 0, unstamped := false }) ∧
    (d.target = none →
      (d.loops = [] → d.advance = { d with pc := d.seqPc, entry := 0, unstamped := false }) ∧
      (∀ l r, d.loops = l :: r →
        (l.loopend ≠ d.seqPc → d.advance = { d with pc := d.seqPc, entry := 0, unstamped := false }) ∧
        (l.loopend = d.seqPc → 1 < l.remaining →
          d.advance = { d with pc := l.start, loops := { l with remaining := l.remaining - 1 } :: r, entry := 0, unstamped := false,
                               pend := d.pend ++ [mkPend 1 (.lcStep l.lc l.step)] }) ∧
        (l.loopend = d.seqPc → l.remaining ≤ 1 → d.advance = ({ d with loops := r } : Ctx).advance)))

/-- What ends, holds or fills bundles. -/
def Obligations.PhaseEndsAndHeaders : Prop :=
  ∀ (s : State) (a : SReg) (p : PReg) (m : BMode) (code : BitVec 11) (n : BitVec 16) (w : Word),
    let park (e : PhEnd) : State := s.updCtx (fun c => { c with park := .phase e, entry := 13 })
    let x := s.ctx.rdS a
    let d := (x.val.setWidth 32).toNat
    let sizes := ((s.me.cur).map (fun p => p.buckets.map (·.1))).getD []
    let g := (s.module (modOf s.cur)).gts
    let due := s.me.phbase * 4096 + w.toNat
    exec (.phend p m) s = .next (park (.phend m (decide (∃ i : Fin 16, (s.ctx.rdP p).getLsbD i.val = true)))) ∧
    exec .halt s = .next (park .halt) ∧
    (x.poison = true → exec (.bsel a) s = .next s.poisonUse) ∧
    (x.poison = false →
      ((∃ z ∈ sizes, d ≤ z) → exec (.bsel a) s = .next (park (.bsel d))) ∧
      ((∀ z ∈ sizes, z < d) → exec (.bsel a) s = .next (s.raise 0x12 (x.val.setWidth 32)))) ∧
    exec (.trap code) s = .next (s.raiseAfter 0x70 0 code) ∧
    exec .nop s = .next s ∧ exec .emptyBundle s = .next s ∧
    (n = 0 → exec (.foldedRun n) s = .next (s.headerFault 0x02 s.word)) ∧
    (n ≠ 0 → exec (.foldedRun n) s = .next (s.updCtx (fun c => { c with runLeft :=
      if c.runLeft = 0 then n.toNat - 1 else c.runLeft - 1 }))) ∧
    ((s.ctx.unstamped = true ∨ g ≤ due) → exec (.stampedBundleIssue w) s = .next s) ∧
    (s.ctx.unstamped = false → due < g → ∃ t, exec (.stampedBundleIssue w) s = .next t ∧ t.stop = true ∧
      t.ctx.park = .trapped ∧ t.ctx.code = 0x71 ∧ t.ctx.slotres = 0 ∧ t.ctx.info.toNat = min (g - due) (2 ^ 32 - 1) ∧
      t.ctx.s = s.ctx.s ∧ t.ctx.v = s.ctx.v ∧ t.ctx.p = s.ctx.p ∧ t.mem = s.mem) ∧
    exec (.illegalKindHeader w) s = .next (s.headerFault 0x00 w) ∧
    exec (.unassignedOpcode w) s = .next (s.raise 0x01 w)

/-! ### Semaphores, barriers, words (chapters 16, 18) -/

/-- R309's order and the S-class semaphore instructions. -/
def Obligations.Semaphores : Prop :=
  ∀ (s : State) (a d : SReg) (n thr : Fin 256) (imm : BitVec 8) (e : Bool) (c : Cluster) (slot : Nat),
    let x := s.ctx.rdS a
    let named := s.curFw = true ∨ n.val < 240
    let changes (i : Instr) (w : Dest) (marked : Prop) : Prop :=
      (¬ (named ∧ ¬ (s.curFw = true ∧ s.me.semLocal.getLsbD n.val = true)) → exec i s = .next s.illegalField) ∧
      (named → ¬ (s.curFw = true ∧ s.me.semLocal.getLsbD n.val = true) →
        (marked → exec i s = .next s.poisonUse) ∧ (¬ marked → exec i s = .next (s.push 1 w)))
    let last (l : List (Fin 256 × Int)) : Option Int := ((l.filter (fun y => y.1 = n)).map (·.2)).getLast?
    let sum (c : Cluster) : Int := (last c.semWords).getD ((last (c.semSets.map (·.2))).getD c.sem[n]) +
      ((c.semIncs.filter (fun y => y.1 = n)).map (·.2)).sum
    let count := max (-32768) (min (sum s.me) 32767)
    let pos (m : Fin 256) (i : Int) : Int := if m = n ∧ 0 < i then i else 0
    let landing (l : List Pend) : Int := (l.map (fun p => match p.dest with
      | .semAdd m i => pos m i
      | _ => 0)).sum
    let pending := landing s.me.prog.pend + landing s.me.fw.pend + (s.me.semNext.map (fun x => pos x.1 x.2)).sum +
      (s.me.streams.map (fun q => (q.2.map (fun m => if m.bad then 0 else pos m.gsem m.ginc)).sum)).sum +
      (s.me.mx.queue.map (fun m => if m.bad then 0 else pos m.gsem m.ginc)).sum +
      ((s.me.mapreqs.filter (fun q => q.sem == some n)).length : Int) + s.pendingStores s.cur n
    let hold := s.instrHold slot (.semwait d e n thr) []
    let order := 16 * (s.module (modOf s.cur)).cycles + s.slot
    changes (.semsigImm n imm) (.semAdd n imm.toInt) False ∧
    changes (.semsigReg a n) (.semAdd n (x.val.setWidth 16).toInt) (x.poison = true) ∧
    changes (.semsetImm n imm) (.semSet n imm.toInt order) False ∧
    changes (.semsetReg a n) (.semSet n (x.val.setWidth 16).toInt order) (x.poison = true) ∧
    (¬ named → exec (.semrd d n) s = .next s.illegalField ∧ exec (.semwait d e n thr) s = .next s.illegalField) ∧
    (named →
      exec (.semrd d n) s = .next (s.pushS 1 d (BitVec.ofInt 64 count) false) ∧
      ((e = true ∧ s.curFw = true ∧ s.me.semLocal.getLsbD n.val = true) → exec (.semwait d e n thr) s = .next s.illegalField) ∧
      (¬ (e = true ∧ s.curFw = true ∧ s.me.semLocal.getLsbD n.val = true) →
        (count < thr.val → exec (.semwait d e n thr) s = .next s) ∧
        ((thr.val : Int) ≤ count →
          (let t := s.pushS 1 d (BitVec.ofInt 64 count) false
           exec (.semwait d e n thr) s = .next (if e then t.updMe (fun c => { c with semIncs := c.semIncs ++ [(n, -(thr.val : Int))] })
             else t))))) ∧
    (named →
      ((thr.val : Int) ≤ count → hold.1 = none) ∧
      (count < thr.val → (s.curFw = true ∨ s.me.semLocal.getLsbD n.val = false) → hold.1 = some (.sem slot n.val count)) ∧
      (count < thr.val → s.curFw = false → s.me.semLocal.getLsbD n.val = true →
        (thr.val ≤ count + pending → hold.1 = some (.quiet slot)) ∧ (count + pending < thr.val → hold.1 = some (.dead slot n.val count)))) ∧
    (∀ lim, s.ctx.holdFault lim (.dead slot n.val count) = some 0x40 ∧ s.ctx.holdFault lim (.quiet slot) = none) ∧
    (Hold.dead slot n.val count).info = BitVec.ofInt 16 count ++ BitVec.ofNat 16 (0x1000 + n.val) ∧
    (let f := c.flushSems
     f.sem[n] = sum c ∧ f.semIncs = c.semNext ∧ f.semNext = [] ∧ f.semSets = [] ∧ f.semWords = []) ∧ c.clampSems.sem[n] = max (-32768) (min c.sem[n] 32767)

/-- R318 to R321. -/
def Obligations.Barriers : Prop :=
  ∀ (s : State) (d : SReg) (sc : Scope) (n m : Fin 16) (count : Fin 256) (k slot : Nat),
    let b := s.me.bar[n]
    let bad : Out := .next (s.raise 0x42 (BitVec.ofNat 32 (0x2000 + n.val)))
    let wrong := b.count = 0 ∨ sc ≠ (if b.rg then Scope.rg else Scope.cl) ∨ (s.curFw = true ∧ sc = .rg)
    let ms := s.membersOf k
    let all := ms ≠ [] ∧ ∀ x ∈ ms, (s.cluster x).bar[n].rp = true
    ((count.val = 0 ∨ (sc ≠ .cl ∧ sc ≠ .rg) ∨ b.rp = true) → exec (.barinit sc n count) s = bad) ∧
    (count.val ≠ 0 → (sc = .cl ∨ sc = .rg) → b.rp = false → exec (.barinit sc n count) s =
      .next (s.push 1 (.barInit n count.val (decide (sc = .rg))))) ∧
    (∀ g, landDest s.curFw s.me (.barInit n count.val g) = { s.me with bar := s.me.bar.set n ⟨count.val, 0, g, b.ph, b.rp⟩ }) ∧
    (wrong → exec (.bara d sc n) s = bad) ∧
    (¬ wrong → b.rp = true → exec (.bara d sc n) s = .next s) ∧
    (¬ wrong → b.rp = false → ∃ t, exec (.bara d sc n) s = .next t ∧
      t.me.bar[n] = (if b.arr + 1 ≠ b.count then { b with arr := b.arr + 1 }
        else if b.rg then { b with arr := 0, rp := true } else { b with arr := 0, ph := !b.ph }) ∧
      (m ≠ n → t.me.bar[m] = s.me.bar[m]) ∧
      (∀ i < 16, t.ctx.barArr.getLsbD i = if i = n.val then b.ph else s.ctx.barArr.getLsbD i) ∧
      t.ctx.pend = s.ctx.pend ++ (if d = 0 then [] else [mkPend 1 (.sreg d ⟨if b.ph then 1 else 0, false⟩)]) ∧
      t.ctx.s = s.ctx.s ∧ t.ctx.v = s.ctx.v ∧ t.ctx.p = s.ctx.p ∧ t.mem = s.mem ∧ t.md = s.md) ∧
    exec (.barw n) s = .next s ∧
    (b.ph = s.ctx.barArr.getLsbD n.val → s.instrHold slot (.barw n) [] = (some (.bar slot n.val), [])) ∧
    (b.ph ≠ s.ctx.barArr.getLsbD n.val → s.instrHold slot (.barw n) [] = (none, [])) ∧
    (all → ms.Nodup → ∃ t, exec (.barrierRegionFlip k n) s = .next t ∧ t.mem = s.mem ∧ t.md = s.md ∧
      ∀ x, ((x ∈ ms → (t.cluster x).bar[n] = { (s.cluster x).bar[n] with ph := !(s.cluster x).bar[n].ph, rp := false }) ∧
        (x ∉ ms → t.cluster x = s.cluster x)) ∧ (m ≠ n → (t.cluster x).bar[m] = (s.cluster x).bar[m])) ∧
    (¬ all → exec (.barrierRegionFlip k n) s = .next s)

/-- Words of spaces 1 and 2 written from outside a cluster's program. -/
def Obligations.ControlWords : Prop :=
  ∀ (s : State) (k : Nat) (n : Fin 256) (w : Fin 16) (v : Word) (x : DWord) (pa : Nat),
    let c := s.cluster k
    let p := paCluster pa
    let off := pa % 2 ^ 22
    let on := (s.module (modOf p)).power = .on
    let may := on ∧ (s.cluster p).acctab.getLsbD 37 = true
    let at_ (o : Nat) (f : Cluster → Cluster) : Prop := paSpace pa = 2 → off = o → may → exec (.registerWrite pa x) s = .next (s.updCluster p f)
    let tile := 0x8000 ≤ off + 7 ∧ off < 0x10000
    (c.semLocal.getLsbD n.val = false →
      exec (.semSignalWordWrite k n v) s = .next (s.updCluster k (fun c => { c with semIncs := c.semIncs ++ [(n, (v.setWidth 16).toInt)] })) ∧
      exec (.semSetWordWrite k n v) s = .next (s.updCluster k (fun c => { c with semWords := c.semWords ++ [(n, (v.setWidth 16).toInt)] }))) ∧
    (c.semLocal.getLsbD n.val = true →
      exec (.semSignalWordWrite k n v) s = .next (s.updCluster k (fun c => { c with sync := c.sync ||| 4 })) ∧
      exec (.semSetWordWrite k n v) s = .next (s.updCluster k (fun c => { c with sync := c.sync ||| 4 }))) ∧
    (∃ t, exec (.wakeWordWrite k w x) s = .next t ∧ t.mem = s.mem ∧ (∀ j, j ≠ k → t.cluster j = s.cluster j) ∧
      kget ⟨0, false, 0⟩ (t.cluster k).wake w.val = ⟨x, true, min 255 ((kget ⟨0, false, 0⟩ c.wake w.val).count + 1)⟩ ∧
      ∀ j, j ≠ w.val → kget ⟨0, false, 0⟩ (t.cluster k).wake j = kget ⟨0, false, 0⟩ c.wake j) ∧
    at_ 0x300 (fun c => { c with fenced := x.getLsbD 0 }) ∧
    at_ 0x2800 (fun c => { c with sync := x.setWidth 4 }) ∧
    at_ 0x800 (fun c => { c with acctab := x &&& 0x0003FFFF0003FFFF }) ∧
    (∀ o, 0x2000 ≤ o → o < 0x2800 → at_ o (fun c => { c with sync := c.sync ||| 8 })) ∧
    (paSpace pa = 2 → p % 4096 = 0 → off = 0x4400 → may → exec (.registerWrite pa x) s =
      .next (s.updModule (modOf p) (fun d => { d with migbud := (x.setWidth 32).toNat }))) ∧
    (paSpace pa = 2 → (off = 0x400 ∨ off = 0x688 ∨ off = 0x700) → exec (.registerWrite pa x) s = .next s) ∧
    (¬ tile → ¬ (p % 4096 = 0 ∧ 0x5000 ≤ off ∧ off < 0x6000) → ¬ may → exec (.registerWrite pa x) s = .next s) ∧
    (paSpace pa = 2 → tile → pa % 4 = 0 → pa % 0x1000 ≤ 0xFF8 → (s.cluster p).mx.busy (Fin.ofNat 8 ((off - 0x8000) / 0x1000)) = true →
      exec (.registerWrite pa x) s = .next { s with inputs := (s.now, .registerWrite pa x) :: s.inputs }) ∧
    ((paSpace pa ≠ 2 ∨ (pa % 8 ≠ 0 ∧ ¬ tile ∧ ¬ (0x2000 ≤ off ∧ off < 0x2800))) →
      exec (.registerWrite pa x) s = .next s)

/-! ### Extents (chapter 11) -/

/-- R209, R217. -/
def Obligations.Extents : Prop :=
  ∀ (s : State) (d a b c : SReg) (i : Nat) (e : Extent),
    let x := s.ctx.rdS a
    let y := s.ctx.rdS b
    let z := s.ctx.rdS c
    let va := x.val.toNat
    let hits := if va < 2 ^ 48 then hitsOf s.me.table va 1 else []
    let hit := if y.val.toNat = 0 ∨ 2 ^ 40 < y.val.toNat then none else findExtent s.me.table va y.val.toNat
    let answer (w : DWord) : State := s.pushS 1 d w false
    let sem := Fin.ofNat 256 z.val.toNat
    let mayName := c = 0 ∨ ((s.curFw = true ∨ sem.val < 240) ∧ ¬ (s.curFw = true ∧ s.me.semLocal.getLsbD sem.val = true))
    (x.poison = true → exec (.extq d a) s = .next s.poisonUse ∧ exec (.mapreq d a b c) s = .next s.poisonUse) ∧
    (x.poison = false → ∃ w, exec (.extq d a) s = .next (answer w) ∧ (hits = [] → w = 0) ∧ (1 < hits.length → w = 2) ∧
      (hits = [(i, e)] → i < 16 → w.extractLsb' 32 32 = e.epoch ∧ w.getLsbD 16 = true ∧ w.getLsbD 15 = e.fail ∧ w.getLsbD 14 = e.pend ∧
        w.extractLsb' 8 6 = BitVec.ofNat 6 i ∧ w.extractLsb' 6 2 = BitVec.ofNat 2 (resCode e.res) ∧
        w.extractLsb' 4 2 = BitVec.ofNat 2 (kindCode e.kind) ∧ w.getLsbD 3 = e.w ∧ w.getLsbD 2 = e.r)) ∧
    (x.poison = false → y.poison = false → (c = 0 ∨ z.poison = false) →
      (¬ mayName → exec (.mapreq d a b c) s = .next s.illegalField) ∧
      (mayName →
      (hit = none → exec (.mapreq d a b c) s = .next (answer 2)) ∧
      (hit = some (i, e) →
        ((e.kind = .none ∨ e.kind = .noise) → exec (.mapreq d a b c) s = .next (answer 2)) ∧
        ((e.kind = .local ∨ e.kind = .remote) →
          (e.pend = true → exec (.mapreq d a b c) s = .next (answer 4)) ∧
          (e.pend = false → e.res = .resident → exec (.mapreq d a b c) s = .next (if c = 0 then answer 1 else
            (answer 1).push 1 (.semAdd sem 1))) ∧
          (e.pend = false → e.res ≠ .resident → 8 ≤ s.me.mapreqs.length → exec (.mapreq d a b c) s = .next (answer 3)) ∧
          (e.pend = false → e.res ≠ .resident → s.me.mapreqs.length < 8 → ∃ t, exec (.mapreq d a b c) s = .next t ∧
            t.ctx = (answer 0).ctx ∧ t.mem = s.mem ∧ (∀ j, j ≠ s.cur → t.cluster j = s.cluster j) ∧
            t.me.mapreqs = s.me.mapreqs ++ [⟨s.me.phase, i, if c = 0 then none else some sem⟩] ∧
            ∀ j, t.me.table[j]? = if j = i then some { e with pend := true, fail := false } else s.me.table[j]?)))))

/-- R214 to R218; `to_` is the state asked for. -/
def Obligations.ResidencyService : Prop :=
  ∀ (s : State) (k ext res idx : Nat) (e : Extent) (q : MapReq) (c : Cluster),
    let cl := s.cluster k
    let entry (c : Cluster) : Option Extent := c.phases[if ext < 16 then c.phase else ext / 16 - 1]? >>= (fun p => p.ext[ext % 16]?)
    let to_ : Res := if res % 4 = 0 then .resident else if res % 4 = 1 then .migrating else .absent
    let allowed (x : Extent) : Bool := match x.res, res % 4 with
      | .resident, 1 => true
      | .migrating, 0 => true
      | .migrating, 2 => true
      | .absent, 1 => true
      | _, _ => false
    let moves (x : Extent) : Bool := x.v && (x.kind == .local || x.kind == .remote)
    let at_ (x : Extent) : Nat × Nat := (x.physical k cl x.vbase, x.len)
    let maps (x : Extent) : Bool := moves x && rangesMeet (at_ x) (at_ e)
    let n := if s.copyable (at_ e) then min e.left ((s.module (modOf k)).migbud - (s.module (modOf k)).migUsed) else 0
    let run := exec (.residencyChange k ext res) s
    let place := (res / 4 - 1 : Nat)
    let new : Extent := { e with pbase := place }
    let a := e.physical k cl e.vbase
    let b := new.physical k cl new.vbase
    let d : Int := (b : Int) - a
    let nmod := (s.module (modOf k)).nmod
    let stays := res % 4 = 0 → e.moved.getD 0 = 0
    let inside := match regionOf k cl with
      | (r0, c0, rows, cols) => r0 ≤ rowOf k ∧ rowOf k < r0 + rows ∧ c0 ≤ colOf k ∧ colOf k < c0 + cols
    (entry cl = none → run = .next s) ∧
    (entry cl = some e → ¬ (moves e = true ∧ allowed e = true) → run = .next s) ∧
    (entry cl = some e → moves e = true → allowed e = true →
      (res < 4 → stays → (e.res = .migrating → e.left = 0) → ∃ u, u ≤ (e.len + 63) / 64 ∧ (e.res = .resident → u = (e.len + 63) / 64) ∧
        run = .next (s.setCluster k
        ({ cl with phases := cl.phases.map (fun p => { p with ext := p.ext.map (fun x =>
          if maps x && allowed x then { x with res := to_, epoch := x.epoch + 1, left := if to_ = .migrating then u else 0, moved := none } else x) }) } :
          Cluster).settleResident)) ∧
      (e.res = .migrating → e.left ≠ 0 → 0 < e.len →
        (n = 0 → run = .next s) ∧
        (0 < n → n < e.left → ∃ t, run = .next t ∧ t.mem = s.mem ∧ entry (t.cluster k) = some { e with left := e.left - n } ∧
          (t.module (modOf k)).migUsed = (s.module (modOf k)).migUsed + n ∧ (t.cluster k).mapreqs = cl.mapreqs) ∧
        (n = e.left → res < 4 → stays → ∃ t, run = .next t ∧ t.mem = s.mem ∧
          (entry (t.cluster k)).map (fun x => (x.res, x.epoch)) = some (to_, e.epoch + 1))) ∧
      (e.res = .migrating → e.left = 0 → 4 ≤ res → res % 4 = 0 →
        ((new.pbaseOk nmod = false ∨ e.moved.getD d ≠ d) → run = .next s) ∧
        (new.pbaseOk nmod = true → a ≠ b → 0 < e.len → (e.rel = true → inside) → cl.shiftable k e nmod d = true →
          (e.moved = none ∨ e.moved = some d) → ∃ t, run = .next t ∧
            (∃ x, entry (t.cluster k) = some x ∧ x.res = .resident ∧ x.epoch = e.epoch + 1 ∧ x.physical k (t.cluster k) x.vbase = b) ∧
            (e.moved = some d → t.mem = s.mem) ∧
            (e.moved = none → s.kept = true → (∀ i < e.len, t.byteAt (memKey b + i) = s.byteAt (memKey a + i)) ∧
              ∀ x, (x < memKey b ∨ memKey b + e.len ≤ x) → t.byteAt x = s.byteAt x)))) ∧
    (let here (q : MapReq) : Bool := (c.phases[q.phase]? >>= (fun p => p.ext[q.ext]?)).any (fun x => x.res == .resident)
      let done := c.mapreqs.filter here
      let t := c.settleResident
      t.mapreqs = c.mapreqs.filter (fun q => !here q) ∧
      t.semIncs = c.semIncs ++ done.flatMap (fun q => q.sem.toList.map (fun n => (n, 1))) ∧
      ∀ i j, (t.phases[i]? >>= (fun p => p.ext[j]?)) = (c.phases[i]? >>= (fun p => p.ext[j]?)).map (fun x =>
        if done.any (fun q => q.phase == i && q.ext == j) then { x with pend := false, fail := false } else x)) ∧
    (cl.mapreqs[idx]? = none → exec (.mapreqSettle k idx res) s = .next s) ∧
    (cl.mapreqs[idx]? = some q →
      (res = 0 → (cl.phases[q.phase]? >>= (fun p => p.ext[q.ext]?)).isSome = true →
        exec (.mapreqSettle k idx res) s = exec (.residencyChange k (16 * (q.phase + 1) + q.ext) 0) s) ∧
      ((res ≠ 0 ∨ (cl.phases[q.phase]? >>= (fun p => p.ext[q.ext]?)).isNone = true) → ∃ t, exec (.mapreqSettle k idx res) s = .next t ∧
        t.mem = s.mem ∧ (∀ j, j ≠ k → t.cluster j = s.cluster j) ∧ (t.cluster k).mapreqs = cl.mapreqs.eraseIdx idx ∧
        (t.cluster k).semIncs = cl.semIncs ++ (q.sem.toList.map (fun n => (n, 1))) ∧
        ∀ i j, ((t.cluster k).phases[i]? >>= (fun p => p.ext[j]?)) = (cl.phases[i]? >>= (fun p => p.ext[j]?)).map (fun x =>
          if i = q.phase ∧ j = q.ext then { x with pend := false, fail := true } else x)))

/-! ### Custom opcodes and queues (chapters 15, 22) -/

/-- Chapter 15's instructions. -/
def Obligations.CustomOpcodes : Prop :=
  ∀ (s : State) (d a : SReg) (n : Fin 16) (vd va vb : VReg) (p : PReg) (g : Graph) (k line res : Nat) (fw : Bool) (v : DWord)
    (rest : List Post) (keep out : List (Fin 16)) (pl : List Graph) (rep : Bool) (o : Pend) (w : SVal),
    let c := s.ctx
    let x := c.rdS a
    let addr := x.val.setWidth 22
    let src (i : Fin 16) (j : Nat) : Lane := if j = 0 then (c.rdV va)[i] else if j = 1 then (c.rdV vb)[i] else (c.rdV vd)[i]
    let h := s.cluster k
    let lost := s.me.bad.contains (if s.curFw then 260 else 3)
    let may := (s.module (modOf k)).power = .on ∧ h.acctab.getLsbD 41 = true
    let owed : List Pend := if d = 0 then [] else [{ mkPend 0 (.sreg d ⟨0, false⟩) with owed := true }]
    (lost = false → ∃ w : DWord, exec (.xqry d) s = .next (s.pushS 1 d w false) ∧
      ((c.plane.length ≤ 4 ∧ cellsUsed c.plane ≤ 16) → w.toNat / 2 ^ 20 = 16 - cellsUsed c.plane ∧ w.toNat / 2 ^ 16 % 16 = c.plane.length ∧
        ∀ i : Fin 16, w.getLsbD i.val = c.plane.any (fun g => g.n == i))) ∧
    (x.poison = true → exec (.xld d a) s = .next (s.poisonUse x.val.toNat)) ∧
    (x.poison = false →
      (addr.toNat % 64 ≠ 0 → exec (.xld d a) s = .next (s.raise 0x06 (addr.setWidth 32))) ∧
      (addr.toNat % 64 = 0 → exec (.xld d a) s = .next (s.updCtx (fun c =>
        { c with pend := c.pend ++ owed, post := c.post ++ [.xld d addr.toNat (s.coreOps s.cur) none 0] })))) ∧
    exec (.xdrop d n) s = .next (s.updCtx (fun c => { c with pend := c.pend ++ owed, post := c.post ++ [.xdrop d n] })) ∧
    (∀ l r : List Pend, h.bad.contains (if fw then 260 else 3) = false → (∀ p ∈ l, p.owed = false) → o.owed = true →
      o.dest = .sreg d w → (s.ctxOf k fw).pend = l ++ (if d = 0 then [] else [o]) ++ r →
      (s.ctxOf k fw).rest = [] → (s.ctxOf k fw).post = .xdrop d n :: rest → (s.ctxOf k fw).xopBusy = false →
      let c := s.ctxOf k fw
      (s.postStep k fw).ctxOf k fw = { c with
        post := rest, plane := c.plane.filter (fun g => g.n != n),
        pend := l ++ (if d = 0 then [] else
          [{ o with owed := false, dest := .sreg d ⟨if c.plane.any (fun g => g.n == n) then 1 else 0, false⟩ }]) ++ r }) ∧
    (install keep c.plane g = some (pl, out, rep) → pl.getLast? = some g ∧ pl.length ≤ 4 ∧ cellsUsed pl ≤ 16 ∧
      ∀ f ∈ pl, f = g ∨ (f ∈ c.plane ∧ f.n ∉ out)) ∧
    ((lost = true ∨ c.plane.find? (fun g => g.n == n) = none) → exec (.xop vd va vb n p) s = .next (s.raise 0x68 (BitVec.ofNat 32 n.val))) ∧
    (lost = false → c.plane.find? (fun g => g.n == n) = some g → ¬ (g.srcs = 1 ∧ vb ≠ 0) → ¬ (g.results = 2 ∧ vd = 63) →
      s.fwBad ([vd, va] ++ (if 2 ≤ g.srcs then [vb] else []) ++ (if g.results = 2 then [grp vd 1] else [])) = false →
      (∀ i : Fin 16, (c.rdP p).getLsbD i.val = true → (g.eval (src i)).2.2.2 = false) →
      ∃ (t : State) (l1 l2 : VVal) (f : Flags), exec (.xop vd va vb n p) s = .next t ∧ t.mem = s.mem ∧ t.net = s.net ∧
        t.ctx = { c with
          plane := c.plane.filter (fun h => h.n != n) ++ [g],
          pend := c.pend ++ [{ mkPend g.latency (.vreg vd (c.rdP p) l1) with xop := true }] ++
            (if g.results = 2 then [{ mkPend g.latency (.vreg (grp vd 1) (c.rdP p) l2) with xop := true }] else []) ++
            (if f = 0 then [] else [mkPend g.latency (.flags f)]) } ∧
        ∀ i : Fin 16, (c.rdP p).getLsbD i.val = true → l1[i] = (g.eval (src i)).1 ∧ l2[i] = (g.eval (src i)).2.1) ∧
    (k < 2 ^ 23 → ¬ may → exec (.plreqWrite k v) s = .next s) ∧
    (k < 2 ^ 23 → may → h.plBusy = true → ∃ t, exec (.plreqWrite k v) s = .next t ∧ ∀ j, t.cluster j = s.cluster j) ∧
    (k < 2 ^ 23 → may → h.plBusy = false → exec (.plreqWrite k v) s =
      .next (s.updCluster k (fun c => { c with plBusy := true, plAddr := (v.extractLsb' 6 16).toNat * 64 }))) ∧
    ((h.plBusy = false ∨ s.coreOps k ≠ []) → exec (.plreqInstallEnd k res) s = .next s) ∧
    (h.plBusy = true → s.coreOps k = [] →
      ((res ≠ 0 ∨ h.bad.contains 3 = true ∨ s.readGraph k h.plAddr = none) → exec (.plreqInstallEnd k res) s = .next (s.updCluster k (fun c =>
        { c with plBusy := false, plFail := true, plRepl := false, plEvict := 0 }))) ∧
      (res = 0 → h.bad.contains 3 = false → s.readGraph k h.plAddr = some g → install (s.sparedXops k) h.prog.plane g = some (pl, out, rep) →
        ∃ t, exec (.plreqInstallEnd k res) s = .next t ∧ t.mem = s.mem ∧ (t.cluster k).prog = { h.prog with plane := pl } ∧
          (t.cluster k).plBusy = false ∧ (t.cluster k).plFail = false ∧ (t.cluster k).plRepl = rep ∧
          ∀ i : Fin 16, (t.cluster k).plEvict.getLsbD i.val = out.contains i)) ∧
    (line < 2 ^ 16 → ∃ t, exec (.icacheLineFill k line) s = .next t ∧ t.mem = s.mem ∧ (t.cluster k).prog = h.prog ∧
      (∀ i < 16, (t.cluster k).ibufWord (64 * line + 4 * i) = some (s.codeWord k (64 * line + 4 * i))) ∧
      ∀ b, lineIdx b ≠ line % 256 → (t.cluster k).ibufWord b = h.ibufWord b)

/-- R379, R380. -/
def Obligations.QueuePostsAndSignals : Prop :=
  ∀ (s : State) (d a b : SReg) (i : Nat) (e : Extent) (n : DWord) (bytes : List (Byte × Bool)),
    let x := s.ctx.rdS a
    let y := s.ctx.rdS b
    let va := x.val.toNat
    let pa := e.physical s.cur s.me va
    let m := modOf s.cur
    let q := s.queue m n.toNat
    let owed : List Pend := if d = 0 then [] else [{ mkPend 0 (.sreg d ⟨0, false⟩) with owed := true }]
    (x.poison = true → exec (.qpost d a b) s = .next (s.poisonUse va) ∧ exec (.sigadd d a b) s = .next (s.poisonUse va)) ∧
    (x.poison = false → y.poison = true → exec (.qpost d a b) s = .next s.poisonUse ∧ exec (.sigadd d a b) s = .next s.poisonUse) ∧
    (x.poison = false → y.poison = false →
      (∀ code f, checkAll s.me.table (.load false) false 64 64 [va] = some (code, f) →
        exec (.qpost d a b) s = .next (s.raise code (BitVec.ofNat 32 f) f)) ∧
      (∀ code f, checkAll s.me.table .atomic false 8 8 [va] = some (code, f) →
        exec (.sigadd d a b) s = .next (s.raise code (BitVec.ofNat 32 f) f)) ∧
      (checkAll s.me.table (.load false) false 64 64 [va] = none → findExtent s.me.table va 64 = some (i, e) →
        (paCluster pa = s.cur → s.reach pa false = true → exec (.qpost d a b) s = .next (s.updCtx (fun c => { c with
          pend := c.pend ++ owed, post := c.post ++ [.qpost d y.val none (s.performRead pa 64) (s.releaseDeps s.cur .sys) s.slot] }))) ∧
        (paCluster pa = s.cur → s.reach pa false = false → exec (.qpost d a b) s = .next (
          (s.asyncFault s.cur s.curFw 0x22 (BitVec.ofNat 32 va) va).updCtx (fun c => { c with
            pend := c.pend ++ owed, post := c.post ++ [.qpost d y.val none (List.replicate 64 (0, false)) (s.releaseDeps s.cur .sys) s.slot] }))) ∧
        (paCluster pa ≠ s.cur → exec (.qpost d a b) s = .next ((s.sendSlot 0 (paCluster pa) va (.read pa 64)).updCtx (fun c => { c with
          pend := c.pend ++ owed, post := c.post ++ [.qpost d y.val (some s.nextId) [] (s.releaseDeps s.cur .sys) s.slot] })))) ∧
      (checkAll s.me.table .atomic false 8 8 [va] = none → findExtent s.me.table va 8 = some (i, e) →
        (paSpace pa ≠ 0 → exec (.sigadd d a b) s = .next (s.raise 0x22 (BitVec.ofNat 32 va) va)) ∧
        (paSpace pa = 0 → s.poisoned pa 8 = true → exec (.sigadd d a b) s = .next (s.raise 0x25 (BitVec.ofNat 32 va) va)) ∧
        (paSpace pa = 0 → s.poisoned pa 8 = false → ∃ t w, exec (.sigadd d a b) s = .next t ∧ t.net = s.net ++ [w] ∧
          w.kind = .sigadd pa y.val ∧ w.by_ = .slot s.curFw 0 ∧ w.dst = paCluster pa ∧
          (let sc : Scope := if modOf (paCluster pa) = modOf s.cur then .mod else .sys
           let ds := s.releaseDeps s.cur sc ++ (s.streamOrder s.cur 0 (paCluster pa) true).1
           (ds.all (s.met s.cur) = true → w.phase = .out ∧ w.cond = []) ∧ (ds.all (s.met s.cur) = false → w.phase = .held ∧ w.cond = ds)) ∧
          t.ctx = s.ctx.push (waitPend 5 (.sreg d ⟨0, false⟩) [(s.nextId, 0)] .z32 (some .s64)) ∧ s.sameMemory t))) ∧
    (let fresh := s.qpostRefusal m n = none
      let full := (q.write + 2 ^ 32 - q.read) % 2 ^ 32 = 2 ^ q.log2n
      (63 < n.toNat → s.qpostRefusal m n = some (-3)) ∧
      (n.toNat ≤ 63 → (q.en = false ∨ q.dev = false) → s.qpostRefusal m n = some (-2)) ∧
      (n.toNat ≤ 63 → q.en = true → q.dev = true → (full → s.qpostRefusal m n = some (-1)) ∧ (¬ full → fresh)) ∧
      ∀ (fw : Bool) (after : List Dep) (sl : Nat) (rest : List Post), (s.ctxOf s.cur fw).post = .qpost d n none bytes after sl :: rest →
        let give (u : State) (v : DWord) : State := u.setCtxOf s.cur fw { (u.ctxOf s.cur fw).pay d ⟨v, false⟩ with post := rest }
        (∀ v, s.qpostRefusal m n = some v → s.qpostGo s.cur fw = give s v) ∧
        (fresh → s.allMet s.cur after = false → s.qpostGo s.cur fw = s) ∧
        (fresh → s.allMet s.cur after = true → s.qpostGo s.cur fw = give
          ((s.writeMarked (q.base + 64 * (q.write % 2 ^ q.log2n)) bytes).updQueue m n.toNat (fun q =>
            { q with write := (q.write + 1) % 2 ^ 32 })) (BitVec.ofNat 64 q.write)))

/-! ### The matrix engine (chapter 14) -/

/-- Chapter 14's commands at issue. -/
def Obligations.MatrixCommands : Prop :=
  ∀ (s : State) (r : SReg) (km1 nm1 : Fin 32) (nsel : Fin 8) (acc src : Acc) (rows : Fin 512) (slot : EngSlot) (c : EClause)
    (a w : Fin 16),
    let m := s.me
    let x := s.ctx.rdS r
    let v := x.val.toNat
    let at_ (n f : Nat) : Fin 16 := Fin.ofNat 16 (if n % 16 = 15 then f else n)
    let ta := at_ v m.fmtcfg.toNat
    let tw := at_ (v / 16) (m.fmtcfg.toNat / 16)
    let quiet (t : State) : Prop := t.ctx = s.ctx ∧ t.mem = s.mem ∧ t.pmem = s.pmem ∧ t.net = s.net ∧ t.md = s.md ∧
      ∀ j, j ≠ s.cur → t.cluster j = s.cluster j
    let tiles (op : MOp) : List Acc := match op with
      | .run t .. => [t]
      | .zero t => [t]
      | .add d t => [d, t]
      | _ => []
    let behind (ts : List Acc) : List Dep := (s.net.filter (fun x => x.src == s.cur && !x.phase.performed && [0, 1, 2, 3].any x.ofSlot &&
      x.kind.ranges.any (fun r => ts.any (fun t => rangesMeet r (2 * 2 ^ 45 + clusterBase s.cur + 0x8000 + 0x1000 * t.val, 0x1000))))).map
      (fun x => .perf x.id)
    let joins (i : Instr) (op : MOp) (f : Mx → Mx) : Prop := ∃ t, exec i s = .next t ∧ quiet t ∧ t.nextId = s.nextId + 1 ∧
      t.me = { m with mx := { f m.mx with queue := m.mx.queue ++
        [⟨s.nextId, op, c.gsem, c.ginc.toInt, s.curFw, behind (tiles op), none, 0, 0, false, s.slotWord⟩] } }
    let signals (i : Instr) : Prop := ∃ t, exec i s = .next t ∧ quiet t ∧
      t.me = { m with semNext := m.semNext ++ (if c.ginc = 0 then [] else [(c.gsem, c.ginc.toInt)]) }
    let R := rows.val + 1
    let mine : List Instr := [.mcfg r c, .mldw km1 nm1 c, .mldwSp km1 nm1 nsel c, .mrun acc rows c, .mrunSpan acc rows c,
      .mzero acc c, .madd acc src c]
    (s.curFw = true → (∀ i ∈ mine, exec i s = .next s.illegalOp) ∧ exec (.mscl r c) s = .next s.illegalOp) ∧
    (s.clauseBad c = true → (s.curFw = false → ∀ i ∈ mine, exec i s = .next s.illegalField) ∧
      exec (.mwait acc c) s = .next s.illegalField ∧ exec (.engineNop slot c) s = .next s.illegalField) ∧
    (s.clauseBad c = false →
      (m.mx.busy acc = false → signals (.mwait acc c)) ∧ (m.mx.busy acc = true → exec (.mwait acc c) s = .next s) ∧
      signals (.engineNop slot c)) ∧
    (s.curFw = false → s.clauseBad c = false →
      (x.poison = true → exec (.mcfg r c) s = .next s.poisonUse) ∧
      (x.poison = false →
        ((v < 512 ∧ mxRate ta tw ≠ none) → joins (.mcfg r c) (.cfg ta tw (v.testBit 8)) id) ∧
        (¬ (v < 512 ∧ mxRate ta tw ≠ none) → exec (.mcfg r c) s = .next (s.raise 0x61 (x.val.setWidth 32)))) ∧
      joins (.mldw km1 nm1 c) (.ldw (km1.val + 1) (nm1.val + 1) 0) id ∧
      joins (.mldwSp km1 nm1 nsel c) (.ldw 128 (nm1.val + 1) nsel.val) id ∧
      (m.mx.hasLoad = false → exec (.mrun acc rows c) s = .next (s.raise 0x64 0) ∧ exec (.mrunSpan acc rows c) s = .next (s.raise 0x64 0)) ∧
      (m.mx.hasLoad = true →
        joins (.mrun acc rows c) (.run acc R m.padm.toNat false R m.mx.scale) id ∧
        ∀ r0 c0 nr nc, regionOf s.cur m = (r0, c0, nr, nc) →
          ((nr ≤ 16 ∧ nc ≤ 24 ∧ R ≤ 32 * nr) → joins (.mrunSpan acc rows c)
            (.run acc (min 32 (R - 32 * (rowOf s.cur - r0))) m.padm.toNat true R m.mx.scale) (fun x => { x with spans := x.spans + 1 })) ∧
          (¬ (nr ≤ 16 ∧ nc ≤ 24 ∧ R ≤ 32 * nr) → exec (.mrunSpan acc rows c) s = .next (s.raise 0x65 (BitVec.ofNat 32 R)))) ∧
      joins (.mzero acc c) (.zero acc) id ∧ joins (.madd acc src c) (.add acc src) id) ∧
    mxRate a w = (if (a ∈ [7, 10, 14] ∧ w ∈ [7, 10, 14]) ∨ (a = w ∧ a ∈ [1, 2, 13]) then some 1
      else if (a ∈ [3, 4] ∧ w ∈ [3, 4]) ∨ (a = 12 ∧ w = 12) then some 2 else if a = 11 ∧ w = 11 then some 4 else none) ∧
    (∀ z : Mx, (z.queue = [] → z.hasLoad = z.loaded) ∧ ∀ d : MCmd, ({ z with queue := z.queue ++ [d] } : Mx).hasLoad = match d.op with
      | .cfg .. => false
      | .ldw .. => z.hasLoad || !d.bad
      | _ => z.hasLoad)

/-- R275, R279 to R287. -/
def Obligations.MatrixEffects : Prop :=
  ∀ (s : State) (acc dst : Acc) (row0 : Fin 32) (vd : VReg) (rowsm1 : Fin 8) (a : SReg) (c : EClause) (k : Nat) (m : MCmd)
    (r : List MCmd) (e : Nat × Extent) (y : Mx) (i j : Nat) (t : Acc),
    let x := s.me.mx
    let n := rowsm1.val + 1
    let b := s.ctx.rdS a
    let va := b.val.toNat
    let pa := e.2.physical s.cur s.me va
    let bytes := s.performRead pa 32
    let tab := (List.range 16).map (fun j => ((bytes.map (·.1)).getD (2 * j) 0).toNat + 256 * ((bytes.map (·.1)).getD (2 * j + 1) 0).toNat)
    let ck := s.cluster k
    (s.clauseBad c = false → (s.curFw = true → vd.val + 2 * n ≤ 16) →
      (x.busy acc = true → exec (.mrd acc row0 vd rowsm1 c) s = .next (s.raise 0x60 (BitVec.ofNat 32 acc.val))) ∧
      (x.busy acc = false → ∃ t, exec (.mrd acc row0 vd rowsm1 c) s = .next t ∧ t.mem = s.mem ∧ t.me.mx = x ∧
        t.nextId = s.nextId + 1 ∧
        t.ctx = { s.ctx with pend := s.ctx.pend ++ (List.range (2 * n)).map (fun i =>
          { mkPend 4 (.vreg (Fin.ofNat 64 (vd.val + i)) 0xFFFF (Vector.ofFn (fun l => x.elem acc (row0.val + i / 2) (16 * (i % 2) + l.val))))
            with mrd := some (s.nextId, acc) }) ++
          (if c.ginc = 0 then [] else [mkPend 4 (.semAdd c.gsem c.ginc.toInt)]) })) ∧
    (s.curFw = false → s.clauseBad c = false → b.poison = false → checkAll s.me.table (.load false) false 32 32 [va] = none →
      findExtent s.me.table va 32 = some e →
      (paCluster pa ≠ s.cur → exec (.mscl a c) s = .next ((s.sendSlot 0 (paCluster pa) va (.read pa 32)).updCtx (fun d =>
        { d with post := .mscl va c (some s.nextId) [] :: d.post }))) ∧
      (paCluster pa = s.cur → s.reach pa false = false →
        exec (.mscl a c) s = .next (s.asyncFault s.cur s.curFw 0x22 (BitVec.ofNat 32 va) va)) ∧
      (paCluster pa = s.cur → s.reach pa false = true → bytes.any (·.2) = true → exec (.mscl a c) s = .next (s.poisonUse va)) ∧
      (paCluster pa = s.cur → s.reach pa false = true → bytes.any (·.2) = false →
        ((∃ v ∈ tab, 2 ^ 15 ≤ v ∨ v / 128 % 256 = 255 ∨ v = 0) → exec (.mscl a c) s = .next (s.raise 0x62 (BitVec.ofNat 32 va) va)) ∧
        ((∀ v ∈ tab, v < 2 ^ 15 ∧ v / 128 % 256 ≠ 255 ∧ v ≠ 0) → ∃ t, exec (.mscl a c) s = .next t ∧ t.ctx = s.ctx ∧ t.mem = s.mem ∧
          t.me = { s.me with mx := { x with scale := tab },
                             semIncs := s.me.semIncs ++ (if c.ginc = 0 then [] else [(c.gsem, c.ginc.toInt)]) }))) ∧
    (ck.mx.queue = [m] → m.age = none → s.allMet k m.after = true → ck.readsBefore m.id = [] → (s.stopping k = false ∨ m.fw = true) →
      m.popped = 0 → m.waited = 0 → ∃ t, exec (.matrixCmdStart k) s = .next t ∧ t.mem = s.mem ∧
      (∀ j, j ≠ k → t.cluster j = s.cluster j) ∧
      ((∀ kk nn ns, m.op ≠ .ldw kk nn ns) → (∀ ac rs pd sp M tb, m.op ≠ .run ac rs pd sp M tb) →
        t.cluster k = { ck with mx := { ck.mx with queue := [{ m with age := some 0 }] } }) ∧
      (∀ kk nn, m.op = .ldw kk nn 0 → 0 < nn → rowBytes ck.mx.wtype (kpOf kk) ≤ ck.mx.fifoB.length →
        (t.cluster k).mx.fifoB = ck.mx.fifoB.drop (rowBytes ck.mx.wtype (kpOf kk)) ∧ (t.cluster k).mx.k = kk ∧
        (t.cluster k).mx.cols = [rowDecode ck.mx.wtype (kpOf kk) (ck.mx.fifoB.take (rowBytes ck.mx.wtype (kpOf kk)))] ∧
        (t.cluster k).mx.tiles = ck.mx.tiles) ∧
      (∀ ac rs tb, m.op = .run ac rs 0 false rs tb → 0 < rs →
        (ck.mx.wvalid = false → (t.cluster k).mx = { ck.mx with queue := [] } ∧ t.cluster k = { ck with
          mx := { ck.mx with queue := [] }, prog := ck.prog.recordFault ⟨0x64, 0, 0, 0, true, false, ck.prog.pc, 0, s.strokeOf (modOf k), false⟩ }) ∧
        (ck.mx.wvalid = true → mxInt ck.mx.atype = true → mxInt ck.mx.wtype = true → ck.mx.nsel = 0 →
          let len := rowBytes ck.mx.atype (kpOf ck.mx.k)
          let row := rowDecode ck.mx.atype (kpOf ck.mx.k) (ck.mx.fifoA.take len)
          len ≤ ck.mx.fifoA.length →
          (t.cluster k).mx.fifoA = ck.mx.fifoA.drop len ∧
          ∀ q w, ck.mx.cols[q]? = some w → (t.cluster k).mx.elem ac 0 q =
            ⟨BitVec.ofNat 32 (matAccI ck.mx.k row w (ck.mx.elem ac 0 q).val.toNat), row.poison || w.poison⟩))) ∧
    (ck.mx.queue = m :: r → ck.mx.due m = true → (∀ z ∈ r, z.id ≠ m.id) → (∀ z ∈ r, ({ (ck.mx.finish m).1 with queue := r } : Mx).due z = false) →
      ∃ t, exec (.matrixCmdComplete k) s = .next t ∧ t.mem = s.mem ∧ (∀ j, j ≠ k → t.cluster j = s.cluster j) ∧
        t.cluster k = { ck with
          mx := { (ck.mx.finish m).1 with queue := r }
          prog := { ck.prog with status := ck.prog.status ||| (ck.mx.finish m).2 }
          statusIn := ck.statusIn ||| (ck.mx.finish m).2
          semIncs := ck.semIncs ++ (if m.bad = true ∨ m.ginc = 0 then [] else [(m.gsem, m.ginc)]) }) ∧
    ((∀ z ∈ ck.mx.queue, ck.mx.due z = false) → exec (.matrixCmdComplete k) s = .next s) ∧
    (i < 32 → j < 32 →
      (m.op = .zero acc → (y.finish m).1.elem t i j = if t = acc then ⟨0, false⟩ else y.elem t i j) ∧
      (m.op = .add dst acc → dst ≠ acc → (y.finish m).1.elem t i j = if t ≠ dst then y.elem t i j else
        ⟨if mxInt (y.atypeAt m.id) then BitVec.ofInt 32 (max (-(2 ^ 31)) (min ((y.elem dst i j).val.toInt + (y.elem acc i j).val.toInt) (2 ^ 31 - 1)))
          else BitVec.ofNat 32 (roundRne fmtF32 (addF .rne (fpVal .f32 (y.elem dst i j).val.toNat) (fpVal .f32 (y.elem acc i j).val.toNat)).1).1,
          (y.elem dst i j).poison || (y.elem acc i j).poison⟩))

/-! ### The stream engine (chapter 18) -/

/-- Chapter 18's commands at issue. -/
def Obligations.StreamCommands : Prop :=
  ∀ (s : State) (d a l : SReg) (fifo : Bool) (ch q : Fin 16) (c : EClause),
    let m := s.me
    let x := s.ctx.rdS d
    let y := s.ctx.rdS a
    let z := s.ctx.rdS l
    let n := (z.val.setWidth 32).toNat
    let lost := m.bad.contains 5
    let o := if lost then Och.reset else kget Och.reset m.och ch.val
    let h := if lost then Ich.reset else kget Ich.reset m.ich ch.val
    let all (w : Bool) : List Dep := s.scOut ++ s.ctx.fences.flatMap (fun f => f.acc ++ if w then f.writes else []) ++
      (s.me.sbars.filter (fun b => b.mask.getLsbD q.val)).flatMap (·.deps)
    let held (op : SOp) : List Dep := match op with
      | .close => []
      | .free _ _ => []
      | .fill _ => all false
      | _ => all true
    let joins (i : Instr) (op : SOp) (dst src : DWord) (len : Nat) (behind : List Dep) (ich : KMap Ich) : Prop :=
      ∃ t, exec i s = .next t ∧ t.ctx = s.ctx ∧ t.mem = s.mem ∧ t.pmem = s.pmem ∧ t.net = s.net ∧ t.md = s.md ∧
        (∀ j, j ≠ s.cur → t.cluster j = s.cluster j) ∧ t.nextId = s.nextId + 1 ∧ t.me.mx = m.mx ∧ t.me.ich = ich ∧ t.me.och = m.och ∧
        t.me.stream q.val = m.stream q.val ++ [⟨s.nextId, op, dst, src, len, c.gsem, c.ginc.toInt, s.curFw, held op ++ behind,
          false, 0, false, [], none, [], [], false, s.slotWord⟩] ∧
        ∀ p, p ≠ q.val → t.me.stream p = m.stream p
    (s.curFw = true → ∀ i ∈ ([.sfill a l fifo q c, .ssend ch a l q c, .sfree ch a q c] : List Instr), exec i s = .next s.illegalOp) ∧
    (s.clauseBad c = true → ∀ i ∈ ([.scopy d a l q c, .spost d a l q c, .sget d a l q c, .swake d a q c, .sclose q c] : List Instr),
      exec i s = .next s.illegalField) ∧
    (s.clauseBad c = true → s.curFw = false → ∀ i ∈ ([.sfill a l fifo q c, .ssend ch a l q c, .sfree ch a q c] : List Instr),
      exec i s = .next s.illegalField) ∧
    (s.clauseBad c = false →
      joins (.sclose q c) .close 0 0 0 [] m.ich ∧
      ((x.poison = true ∨ y.poison = true ∨ z.poison = true) → ∀ i ∈ ([.scopy d a l q c, .spost d a l q c, .sget d a l q c] : List Instr),
        exec i s = .next s.poisonUse) ∧
      (x.poison = false → y.poison = false → joins (.swake d a q c) .wake x.val y.val 8 [] m.ich) ∧
      (x.poison = false → y.poison = false → z.poison = false →
        joins (.spost d a l q c) .post x.val y.val n [] m.ich ∧ joins (.sget d a l q c) .get x.val y.val n [] m.ich ∧
        ((0 < n ∧ x.val.toNat < y.val.toNat + n ∧ y.val.toNat < x.val.toNat + n) →
          exec (.scopy d a l q c) s = .next (s.raise 0x52 (y.val.setWidth 32) y.val.toNat)) ∧
        (¬ (0 < n ∧ x.val.toNat < y.val.toNat + n ∧ y.val.toNat < x.val.toNat + n) →
          joins (.scopy d a l q c) .copy x.val y.val n [] m.ich)) ∧
      (s.curFw = false →
        (y.poison = false → z.poison = false →
          joins (.sfill a l fifo q c) (.fill fifo) 0 y.val n [] m.ich ∧
          (o.v = false → exec (.ssend ch a l q c) s = .next (s.raise 0x50 (BitVec.ofNat 32 ch.val))) ∧
          (o.v = true →
            ((y.val.toNat % 32 = 0 ∧ n % 32 = 0 ∧ 32 ≤ n ∧ n ≤ o.sbytes) → joins (.ssend ch a l q c) (.send ch) 0 y.val n [] m.ich) ∧
            (¬ (y.val.toNat % 32 = 0 ∧ n % 32 = 0 ∧ 32 ≤ n ∧ n ≤ o.sbytes) →
              exec (.ssend ch a l q c) s = .next (s.raise 0x52 (y.val.setWidth 32) y.val.toNat)))) ∧
        (y.poison = false →
          (h.v = false → exec (.sfree ch a q c) s = .next (s.raise 0x50 (BitVec.ofNat 32 ch.val))) ∧
          (h.v = true →
            ((h.nheld = 0 ∨ y.val.toNat ≠ h.rbase + h.head * h.sbytes) → exec (.sfree ch a q c) s = .next (s.raise 0x51 (y.val.setWidth 32))) ∧
            ((h.nheld ≠ 0 ∧ y.val.toNat = h.rbase + h.head * h.sbytes) →
              joins (.sfree ch a q c) (.free ((h.tags.head?.map (fun t => t.2.1)).getD 0) h.src) 0 y.val 0
                (s.slotDeps (h.phys + h.head * h.sbytes) h.sbytes)
                (kset m.ich ch.val { h with head := (h.head + 1) % h.slots, nheld := h.nheld - 1, tags := h.tags.drop 1 }))))))

/-- R333 to R338. -/
def Obligations.StreamProgress : Prop :=
  ∀ (s : State) (k : Nat) (q ch : Fin 16) (c : SCmd) (r : List SCmd) (e f : Nat × Extent),
    let m := s.cluster k
    let ps := e.2.physical k m c.src.toNat
    let pd := f.2.physical k m c.dst.toNat
    let fw := s.masterOf k c.fw (modOf k)
    ((m.headCmd q.val = none ∨ (m.headCmd q.val = some c ∧ s.cmdReady k c = false)) → exec (.streamCmdStart k q) s = .next s) ∧
    (m.headCmd q.val = some c → s.cmdReady k c = true → m.bad.contains 5 = false → c.started = false → c.reading = none → c.done = 0 → c.got = [] → c.buf = [] → ((m.stream q.val).map (·.id)).Nodup →
      ∃ t, exec (.streamCmdStart k q) s = .next t ∧
      (c.op = .copy → s.kept = true → 0 < c.len → c.len ≤ 64 - ps % 64 →
        findExtent m.table c.src.toNat c.len = some e → findExtent m.table c.dst.toNat c.len = some f →
        (∀ i < c.len, findExtent m.table (c.src.toNat + i) 1 = some e ∧ findExtent m.table (c.dst.toNat + i) 1 = some f) →
        pd % 2 ^ 22 + c.len ≤ 2 ^ 22 → checkElem m.table (.load false) false c.src.toNat c.len 1 = none → checkElem m.table .store false c.dst.toNat c.len 1 = none →
        e.2.kind = .local → f.2.kind = .local → paCluster ps = k → paCluster pd = k → paSpace ps = 0 → paSpace pd = 0 →
        s.accOk fw ps false = true → s.accOk fw pd true = true →
        (∀ i < c.len, t.byteAt (memKey pd + i) = s.byteAt (memKey (ps + i))) ∧
        (∀ a, a < memKey pd ∨ memKey pd + c.len ≤ a → t.byteAt a = s.byteAt a) ∧
        ((t.cluster k).stream q.val).find? (fun x => x.id == c.id) = some { c with started := true, done := c.len, ended := true }) ∧
      (c.op = .wake → checkElem m.table .store false c.dst.toNat 8 8 = none → findExtent m.table c.dst.toNat 8 = some f →
        f.2.kind = .remote → f.2.rel = false → paSpace f.2.pbase = 1 → paSpace pd = 1 → paCluster pd = k → pd % 2 ^ 22 < 0x80 → pd % 8 = 0 →
        s.accOk fw pd true = true →
        (let w := kget ⟨0, false, 0⟩ m.wake (pd % 2 ^ 22 / 8)
         kget ⟨0, false, 0⟩ (t.cluster k).wake (pd % 2 ^ 22 / 8) = ⟨c.src, true, min 255 (w.count + 1)⟩ ∧ t.mem = s.mem)) ∧
      (c.op = .close → t.mem = s.mem ∧ (t.cluster k).windows.find? (fun w => w.1 == q.val) = none) ∧
      (c.op = .send ch → let o := kget Och.reset m.och ch.val
        let o1 := kget Och.reset (t.cluster k).och ch.val
        o1.credit = o.credit - 1 ∧ o1.seq = o.seq + 1)) ∧
    (m.headCmd q.val = some c → s.cmdReady k c = true → m.bad.contains 5 = true → ((m.stream q.val).map (·.id)).Nodup →
      ((∃ o, c.op = .send o) ∨ ∃ n a, c.op = .free n a) → ∃ t, exec (.streamCmdStart k q) s = .next t ∧ t.mem = s.mem ∧ t.net = s.net ∧
        ((t.cluster k).stream q.val).find? (fun x => x.id == c.id) = some { c with started := true, ended := true, bad := true }) ∧
    (m.stream q.val = c :: r →
      (m.cmdDone c = false → exec (.streamCmdComplete k q) s = .next s) ∧
      (m.cmdDone c = true → ∃ t, exec (.streamCmdComplete k q) s = .next t ∧ t.mem = s.mem ∧ t.net = s.net ∧
        (∀ j, j ≠ k → t.cluster j = s.cluster j) ∧ (t.cluster k).stream q.val = r ∧ (t.cluster k).prog = m.prog ∧
        (t.cluster k).semIncs = m.semIncs ++ (if c.bad = true ∨ c.ginc = 0 then [] else [(c.gsem, c.ginc)]))) ∧
    (m.stream q.val = [] → exec (.streamCmdComplete k q) s = .next s)

/-! ### Array mode (chapters 13, 18) -/

/-- R246 to R258. -/
def Obligations.NodesFire : Prop :=
  ∀ (s : State) (b : Block) (n : Node) (h : ChainNode) (i : Nat) (tok : Nat → Token) (iter : Nat) (j : Nat) (u : Token) (ch : Nat)
    (r : List (Token × Nat)),
    let now := s.cyc s.cur
    s.me.block = some b → b.blocked = none → b.cfgEnd ≤ now →
    let here (bn : BNode) : Prop := b.nodes.zipIdx.find? (fun x => x.1 == bn) = some (bn, i)
    let got (bn : BNode) (ps : List Nat) : Prop := ∀ p ∈ ps, b.head now (bn.portKey p) = some (tok p)
    let tag (t : Token) : Nat := t.iter % 2 ^ 16
    let tags (ps : List Nat) : Prop := (∀ p ∈ ps, tag (tok p) = iter % 2 ^ 16) ∧ ∀ p, ps.head? = some p → (tok p).iter = iter
    let marks (ps : List Nat) : Bool := ps.any (fun p => (tok p).poison)
    let fired (bn : BNode) (ps : List Nat) : Block := (b.take bn ps).count i
    let sent (bn : BNode) (ps : List Nat) (ds : List NDest) (lat : Nat) (v : Word) (f : Flags) : State :=
      (s.updMe (fun c => { c with block := some ((fired bn ps).emit n.y n.x ds (now + lat) v iter (marks ps)) })).updMe (fun c => c.unitFlags f)
    let d := [n.d0, n.d1]
    let two : List (Instr × NOp × List Nat) := [(.dadd n, .dadd, [1, 2]), (.dsub n, .dsub, [1, 2]), (.dmul n, .dmul, [1, 2]),
      (.dfma n, .dfma, [1, 2, 3]), (.dmin n, .dmin, [1, 2]), (.dmax n, .dmax, [1, 2]), (.dand n, .dand, [1, 2]), (.dor n, .dor, [1, 2]),
      (.dxor n, .dxor, [1, 2]), (.dshl n, .dshl, [1, 2]), (.dshr n, .dshr, [1, 2]), (.dsra n, .dsra, [1, 2]), (.dcmp n, .dcmp, [1, 2]),
      (.dsel n, .dsel, [1, 2, 3]), (.dcvt n, .dcvt, [1]), (.dmov n, .dmov, [1]), (.daddk n, .daddk, [1]), (.dshlk n, .dshlk, [1]),
      (.dshrk n, .dshrk, [1]), (.dandk n, .dandk, [1])]
    let chains : List (Instr × NOp × List Nat) := [(.cld h, .cld, [1]), (.cst h, .cst, [1, 2]),
      (.catom h, .catom, if h.aop.val = 13 then [1, 2, 3] else [1, 2])]
    (∀ x ∈ two, here (.plain x.2.1 n) → got (.plain x.2.1 n) x.2.2 →
      let a (p : Nat) : Word := if p ∈ x.2.2 then (tok p).data else 0
      let v := nodeForm x.2.1 (nodeTy n.t) n.rm n.imm.toInt n.imm.toNat (a 1) (a 2) (a 3)
      (tags x.2.2 → (x.2.1 = .dsel → (tok 3).poison = false) → b.room d = true →
        exec x.1 s = .next (sent (.plain x.2.1 n) x.2.2 d (nopLat x.2.1 n.t) v.1 v.2)) ∧
      (tags x.2.2 → (x.2.1 = .dsel → (tok 3).poison = false) → b.room d = false → exec x.1 s = .next s) ∧
      ((∃ p ∈ x.2.2, tag (tok p) ≠ tag (tok 1)) → exec x.1 s = .next (s.abortBlock s.cur 0x32
        (skewInfo b.chain.toNat (8 * n.y.val + n.x.val) n.stage.val)))) ∧
    (∀ x ∈ two, here (.plain x.2.1 n) → (∃ p ∈ x.2.2, b.head now ((BNode.plain x.2.1 n).portKey p) = none) → exec x.1 s = .next s) ∧
    (here (.plain .dsel n) → got (.plain .dsel n) [1, 2, 3] → tags [1, 2, 3] → (tok 3).poison = true →
      exec (.dsel n) s = .next (s.abortBlock s.cur 0x26 0)) ∧
    (here (.plain .steer n) → got (.plain .steer n) [1, 2] → tags [1, 2] →
      let to1 := if (tok 2).data = 0 then [n.d1] else [n.d0]
      ((tok 2).poison = true → exec (.steer n) s = .next (s.abortBlock s.cur 0x26 0)) ∧
      ((tok 2).poison = false → b.room to1 = true → exec (.steer n) s = .next (sent (.plain .steer n) [1, 2] to1 1 (tok 1).data 0))) ∧
    (here (.plain .merge n) → b.head now ((BNode.plain .merge n).portKey 3) = some (tok 3) →
      let p := if (tok 3).data = 0 then 2 else 1
      b.head now ((BNode.plain .merge n).portKey p) = some (tok p) → tags [3, p] →
      ((tok 3).poison = true → exec (.merge n) s = .next (s.abortBlock s.cur 0x26 0)) ∧
      ((tok 3).poison = false → b.room d = true → exec (.merge n) s = .next (sent (.plain .merge n) [3, p] d 1 (tok p).data 0))) ∧
    (∀ x ∈ chains, here (.chain x.2.1 h) → got (.chain x.2.1 h) x.2.2 → tags x.2.2 → b.room [h.d0, h.d1] = true →
      let a (p : Nat) : Token := if p ∈ x.2.2 then tok p else ⟨0, 0, false, 0⟩
      exec x.1 s = .next (s.updMe (fun c => { c with block := some { fired (.chain x.2.1 h) x.2.2 with buf := b.buf ++
        [⟨h, x.2.1, iter, (a 1).data, (a 1).poison, (a 2).data, (a 3).data, (a 2).poison || (a 3).poison⟩] } }))) ∧
    (here (.plain .tsend n) → got (.plain .tsend n) [1] → s.neighbour s.cur n.imm.toNat = some j →
      let q := (n.imm.toNat + 4) % 8
      (4 ≤ (kget [] (s.cluster j).tch q).length ∨ s.spanTakes j n.imm.toNat = true → exec (.tsend n) s = .next s) ∧
      ((kget [] (s.cluster j).tch q).length < 4 → s.spanTakes j n.imm.toNat = false → ∃ t, exec (.tsend n) s = .next t ∧ t.mem = s.mem ∧
        kget [] (t.cluster j).tch q = kget [] (s.cluster j).tch q ++ [(⟨(tok 1).data, (tok 1).iter, (tok 1).poison, now + 2⟩, b.chain.toNat)] ∧
        t.me.block = some (fired (.plain .tsend n) [1]))) ∧
    (here (.plain .trecv n) → kget [] s.me.tch n.imm.toNat = (u, ch) :: r → u.due ≤ now → kget 0 b.fired i < b.nextK → b.room d = true →
      (ch ≠ b.chain.toNat → exec (.trecv n) s = .next (s.abortBlock s.cur 0x33 (skewInfo ch (8 * n.y.val + n.x.val) n.stage.val))) ∧
      (ch = b.chain.toNat → exec (.trecv n) s = .next (s.updMe (fun c => { c with
        tch := kset c.tch n.imm.toNat r
        block := some ((b.emit n.y n.x d (now + 1) u.data (kget 0 b.fired i) u.poison).count i) }))))

/-- The life of a block; that `chainHeld` may hold an operation back is the model's reading (log 55). -/
def Obligations.BlockLife : Prop :=
  ∀ (s : State) (a y : SReg) (chain : BitVec 8) (k : Nat) (b : Block) (w : BlockWords) (o : ChainOp) (ns : List BNode) (code va : Nat)
    (info : Word) (e : Nat × Extent),
    let x := s.ctx.rdS a
    let z := s.ctx.rdS y
    let addr := (x.val.setWidth 22).toNat
    let m := s.cluster k
    let quiet (t : State) : Prop := t.mem = s.mem ∧ t.md = s.md ∧ ∀ j, j ≠ k → t.cluster j = s.cluster j
    let dead := s.outsideWait k b = true ∧ (b.trips ≤ b.nextK ∨ 64 < b.reserved + b.S) ∧ s.sendsDead k = true ∧ match b.choice with
      | none => b.buf = []
      | some o => s.chainHeld k b o = true
    (s.curFw = true → exec (.array a y chain) s = .next s.illegalOp ∧ exec .arwait s = .next s.illegalOp) ∧
    (s.curFw = false → s.me.block = none → x.poison = false → z.poison = false →
      exec .arwait s = .next s ∧
      (addr % 16 ≠ 0 → exec (.array a y chain) s = .next (s.raise 0x06 ((x.val.setWidth 22).setWidth 32))) ∧
      (addr % 16 = 0 → s.readBlock s.cur addr = none → exec (.array a y chain) s = .next (s.raise 0x05 ((x.val.setWidth 22).setWidth 32))) ∧
      (addr % 16 = 0 → s.readBlock s.cur addr = some w → s.readNodes s.cur w w.words [] = .inl ns → (z.val.setWidth 32) ≠ 0 →
        ∃ t c, exec (.array a y chain) s = .next t ∧ t.mem = s.mem ∧ t.me.block = some c ∧ t.ctx = s.ctx ∧ c.addr = addr ∧ c.chain = chain ∧
          c.trips = (z.val.setWidth 32).toNat ∧ c.S = w.S ∧ c.ii = w.ii ∧ c.nodes = ns ∧ c.cfgEnd = s.cyc s.cur + 4 + w.n ∧ c.nextK = 0 ∧
          c.buf = [] ∧ c.ell = 2 ^ 24 - 1 ∧ c.link = none ∧ c.blocked = none) ∧
      (∀ u, addr % 16 = 0 → s.readBlock s.cur addr = some w → s.readNodes s.cur w w.words [] = .inr u → (z.val.setWidth 32) ≠ 0 →
        ∃ t c, exec (.array a y chain) s = .next t ∧ t.me.block = some c ∧ c.nodes = [] ∧ c.blocked = some (blockedReport s.cur u))) ∧
    (s.curFw = false → s.me.block = some b → exec .arwait s = .next (s.updCtx (fun c => { c with park := .arwait, entry := 13 }))) ∧
    (m.block = some b →
      ((s.mayAdmit k b = true ∧ s.stopping k = false) → ∃ t c, exec (.iterationAdmit k) s = .next t ∧ quiet t ∧ (t.cluster k).block = some c ∧
        c.nextK = b.nextK + 1 ∧ c.lastAdmit = some (s.cyc k) ∧ c.reserved = b.reserved + b.S ∧ c.nodes = b.nodes ∧ c.buf = b.buf) ∧
      (¬ (s.mayAdmit k b = true ∧ s.stopping k = false) → exec (.iterationAdmit k) s = .next s) ∧
      (b.choice = none → exec (.chainOpSend k) s = .next s) ∧
      (b.choice = some o → s.chainHeld k b o = true → exec (.chainOpSend k) s = .next s) ∧
      (s.chainHeld k b o = true → b.link = none ∧ (s.quiet k b = false ∨ s.outsideWait k b = true) ∧ 1 < b.dist o) ∧
      (b.choice = some o → s.chainHeld k b o = false →
        (s.chainFault k o (nodeTy o.node.t) = some code → exec (.chainOpSend k) s = .next (s.abortBlock k code o.addr o.addr.toNat)) ∧
        (s.chainFault k o (nodeTy o.node.t) = none → ∃ t c, exec (.chainOpSend k) s = .next t ∧ (t.cluster k).block = some c ∧
          c.ell = b.own o ∧ c.link = b.succOf o ∧ c.buf = b.buf.erase o ∧ c.reserved = b.reserved - b.dist o ∧
          (o.op = .cst → s.kept = true → findExtent m.table o.addr.toNat (ebytes (nodeTy o.node.t)) = some e → e.2.kind = .local →
            let pa := e.2.physical k m o.addr.toNat
            let len := ebytes (nodeTy o.node.t)
            paCluster pa = k → paSpace pa = 0 →
            (∀ i < len, t.byteAt (memKey pa + i) = BitVec.ofNat 8 (o.data.toNat / 2 ^ (8 * i))) ∧
            ∀ q, q < memKey pa ∨ memKey pa + len ≤ q → t.byteAt q = s.byteAt q))) ∧
      ((b.gapped = true ∧ m.chainlim.toNat < b.gap) → exec (.chainGap k) s = .next (s.abortBlock k 0x30 b.gapInfo)) ∧
      (¬ (b.gapped = true ∧ m.chainlim.toNat < b.gap) → s.overflow k b = true → exec (.chainGap k) s = .next (s.abortBlock k 0x31 b.gapInfo)) ∧
      (¬ (b.gapped = true ∧ m.chainlim.toNat < b.gap) → s.overflow k b = false → exec (.chainGap k) s = .next s) ∧
      ((b.blocked = none ∧ b.trips = 0) → exec (.blockEnd k) s = .next (s.updCluster k (fun c => { c with block := none }))) ∧
      ((b.blocked ≠ none ∨ (b.trips ≠ 0 ∧ (s.quiet k b = false ∨ (¬ dead ∧ (b.nextK < b.trips ∨ b.buf ≠ [] ∨ s.outsideWait k b = true))))) →
        exec (.blockEnd k) s = .next s) ∧
      ((b.blocked = none ∧ b.trips ≠ 0 ∧ s.quiet k b = true ∧ (dead ∨ (b.trips ≤ b.nextK ∧ b.buf = [] ∧ s.outsideWait k b = false))) →
        (b.ports = [] → exec (.blockEnd k) s = .next (s.updCluster k (fun c => { c with block := none }))) ∧
        (∀ p r, b.ports = p :: r → exec (.blockEnd k) s = .next (s.abortBlock k 0x32 (skewInfo b.chain.toNat (p.1 / 8 % 64) (p.1 / 512)))))) ∧
    (m.block = none → exec (.iterationAdmit k) s = .next s ∧ exec (.chainOpSend k) s = .next s ∧ exec (.chainGap k) s = .next s ∧
      exec (.blockEnd k) s = .next s) ∧
    (b.choice = some o → o ∈ b.buf ∧
      (∀ l, b.link = some l → b.own o = l) ∧ (b.link = none → b.own o = (b.ell + 1) % 2 ^ 24 ∨ b.predOf o = some b.ell) ∧
      ∀ o' ∈ b.buf, b.eligible o' = true → b.dist o ≤ b.dist o') ∧
    (s.mayAdmit k b = true ↔ b.blocked = none ∧ b.cfgEnd ≤ s.cyc k ∧ (∀ d ∈ b.after, s.met k d = true) ∧ b.nextK < b.trips ∧
      (∀ t, b.lastAdmit = some t → t + b.ii ≤ s.cyc k) ∧ b.reserved + b.S ≤ 64) ∧
    ((s.abortBlock k code info va).cluster k).block = none ∧
    ((s.abortBlock k code info va).cluster k).prog =
      m.prog.recordFault ⟨code, info, 0, 0, true, false, m.prog.pc, va, s.strokeOf (modOf k), false⟩

/-- R329 to R331, R315. -/
def Obligations.WaitsAndTimeouts : Prop :=
  ∀ (s : State) (d a : SReg) (k j m t0 : Nat) (h : Hold) (l r : List Hold) (b : Block),
    let x := s.ctx.rdS a
    let mask := (x.val.setWidth 32).toNat
    let c := s.me
    let d1 : SReg := Fin.ofNat 32 (d.val + 1)
    let ich (i : Nat) : Ich := if c.bad.contains 5 then Ich.reset else kget Ich.reset c.ich i
    let valid := ∀ i < 16, mask.testBit i = true → (ich i).v = true
    let u (c : Cluster) : Ich := kget Ich.reset c.ich j
    let tag (c : Cluster) : Nat × Word × Bool := (u c).tags.getD (u c).nheld (0, 0, false)
    let w (c : Cluster) : Wake := kget ⟨0, false, 0⟩ c.wake (j - 16)
    let lo (c : Cluster) : DWord := if j < 16 then BitVec.ofNat 64 ((tag c).2.1.toNat * 2 ^ 32 + (tag c).1 * 2 ^ 16 + j) else
      BitVec.ofNat 64 ((w c).count * 2 ^ 8 + j)
    let hi (c : Cluster) : DWord := if j < 16 then BitVec.ofNat 64 ((u c).rbase + ((u c).head + (u c).nheld) % (u c).slots * (u c).sbytes) else (w c).val
    let claimed (c e : Cluster) : Prop := e.last = j ∧ (j < 16 → kget Ich.reset e.ich j = { u c with narr := (u c).narr - 1, nheld := (u c).nheld + 1 }) ∧
      (16 ≤ j → kget ⟨0, false, 0⟩ e.wake (j - 16) = { w c with pending := false, count := 0 })
    (s.curFw = true → exec (.waitarr d a) s = .next s.illegalOp) ∧
    (s.curFw = false → (d.val = 0 ∨ d.val = 31) → exec (.waitarr d a) s = .next s.illegalField) ∧
    (s.curFw = false → d.val ≠ 0 → d.val ≠ 31 → x.poison = true → exec (.waitarr d a) s = .next s.poisonUse) ∧
    (s.curFw = false → d.val ≠ 0 → d.val ≠ 31 → x.poison = false →
      (mask = 0 → exec (.waitarr d a) s = .next (s.raise 0x54 0)) ∧
      (mask ≠ 0 → (∃ i < 16, mask.testBit i = true ∧ (ich i).v = false ∧ (∀ l < i, mask.testBit l = true → (ich l).v = true) ∧
        exec (.waitarr d a) s = .next (s.raise 0x50 (BitVec.ofNat 32 i))) ∨ valid) ∧
      (mask ≠ 0 → valid →
        (c.pickSource mask = none → exec (.waitarr d a) s = .next (s.updCtx (fun c => { c with park := .waitarr d mask none, entry := 13 }))) ∧
        (c.pickSource mask = some j → ∃ t, exec (.waitarr d a) s = .next t ∧ t.mem = s.mem ∧ claimed c t.me ∧ t.ctx.s = s.ctx.s ∧
          t.ctx.pend = s.ctx.pend ++ (if d = 0 then [] else [mkPend 1 (.sreg d ⟨lo c, false⟩)]) ++
            (if d1 = 0 then [] else [mkPend 1 (.sreg d1 ⟨hi c, false⟩)]) ∧
          ((j < 16 ∧ (tag c).2.2 = true) → t.ctx.park = .trapped ∧ t.ctx.code = 0x53 ∧ t.ctx.info = (tag c).2.1 ∧ t.ctx.slotres = 14) ∧
          ((16 ≤ j ∨ (tag c).2.2 = false) → t.ctx.park = s.ctx.park)))) ∧
    (c.last < 32 → (c.pickSource m = some j ↔ j < 32 ∧ c.sourceReady m j = true ∧
      ∀ i < 32, (i + 31 - c.last) % 32 < (j + 31 - c.last) % 32 → c.sourceReady m i = false)) ∧
    (let p := s.cluster k
     p.prog.park = .waitarr d m (some t0) →
      ((t0 < 3 ∨ p.prog.pend ≠ [] ∨ s.stopping k = true ∨ p.pickSource m = none) → ∃ t, exec (.waitarrRelease k) s = .next t ∧ t.mem = s.mem ∧ ∀ l, t.cluster l = s.cluster l) ∧
      (3 ≤ t0 → p.prog.pend = [] → s.stopping k = false → p.pickSource m = some j → ∃ t, exec (.waitarrRelease k) s = .next t ∧ t.mem = s.mem ∧ claimed p (t.cluster k) ∧
        (t.cluster k).prog.entry = 14 ∧ (d ≠ 0 → d1 ≠ d → (t.cluster k).prog.rdS d = ⟨lo p, false⟩) ∧ (d1 ≠ 0 → (t.cluster k).prog.rdS d1 = ⟨hi p, false⟩) ∧
        (∀ r, r ≠ d → r ≠ d1 → (t.cluster k).prog.rdS r = p.prog.rdS r) ∧
        ((j < 16 ∧ (tag p).2.2 = true) → (t.cluster k).prog.park = .trapped) ∧
        ((16 ≤ j ∨ (tag p).2.2 = false) → (t.cluster k).prog.park = .run))) ∧
    (s.cur = k →
      let engine (n : Nat) : Prop := 10 ≤ n ∧ n ≤ 12
      let late (h : Hold) : Prop := (∃ (n i : Nat) (v : Int), h = .sem n i v ∨ h = .bar n i ∨ h = .tile n i ∨ h = .ack n) ∧
        ∃ x ∈ s.ctx.strokes, c.waitlim.toNat < x.2 ∧ (x.1 = h.slot ∨ (engine x.1 ∧ engine h.slot))
      let stuck := ∃ b, c.block = some b ∧ c.waitlim.toNat < b.stuck ∧ b.recvWait c.tch = true
      (c.block = some b → stuck → exec (.waitTimeout k) s = .next (s.abortBlock k 0x41 (BitVec.ofNat 32 (b.chain.toNat * 2 ^ 24)))) ∧
      (¬ stuck → s.holdsNow k s.curFw = l ++ h :: r → (∀ x ∈ l, ¬ late x) → late h →
        exec (.waitTimeout k) s = .next (({ s with slot := h.slot } : State).raise 0x41 h.info)) ∧
      (¬ stuck → (∀ x ∈ s.holdsNow k s.curFw, ¬ late x) →
        exec (.waitTimeout k) s = .next s))


/-! ### The lockhouse (chapter 24) -/

/-- R384 to R393. -/
def Obligations.FaultTokens : Prop :=
  ∀ (s : State) (d a b : SReg) (k j tag : Nat) (fw : Bool) (f : FaultRec) (st : TokState) (r : List (Nat × Nat × Bool))
    (since : Option Nat) (q : List FaultRec),
    let g := dieKey s.cur
    let c := s.ctxOf k fw
    let words (t : State) (lat : Nat) (old : List Pend) (p : List Pend) : Prop := ∃ w : Fin 4 → DWord,
      p = old ++ (List.finRange 4).map (fun i => mkPend lat (.sreg (Fin.ofNat 32 (d.val + i.val)) ⟨w i, false⟩)) ∧ t.mem = s.mem ∧
      ((w 0).toNat / 2 ^ 48 = tag % 2 ^ 16 ∧ (w 0).toNat % 2 ^ 24 = f.code ∧ (w 0).toNat / 2 ^ 32 % 2 ^ 12 = j % 4096 ∧
        (w 0).getLsbD 31 = fw ∧ (w 0).getLsbD 30 = f.ovf ∧ (w 0).getLsbD 29 = f.async ∧ (w 0).getLsbD 28 = f.hdr ∧
        (w 0).extractLsb' 24 4 = f.slot ∧
      (w 1).toNat = f.info.toNat * 2 ^ 32 + f.pc.toNat ∧ (w 2).toNat = f.va % 2 ^ 48 ∧ (w 3).toNat = f.stroke % 2 ^ 52)
    let heads (g : Nat) : Prop := (s.dieAt g).towq = (tag, j, fw) :: r ∧ f.code < 2 ^ 7 ∧
      ((s.ghost g tag = none ∧ (s.ctxOf j fw).fault = some (f, st)) ∨ s.ghost g tag = some (j, fw, f, some tag))
    (∀ i ∈ ([.ftrecv d, .repair a b, .ctxsave a, .ctxload a] : List Instr), s.curFw = false → exec i s = .next (s.raise 0x04 s.word)) ∧
    (∀ i ∈ ([.ftrecv d, .repair a b] : List Instr), s.curFw = true → isLockhouse s.cur = false → exec i s = .next s.illegalOp) ∧
    (s.curFw = true → isLockhouse s.cur = true →
      ((d.val = 0 ∨ 28 < d.val) → exec (.ftrecv d) s = .next s.illegalField) ∧
      ((1 ≤ d.val ∧ d.val ≤ 28) →
        ((s.dieAt g).towq = [] → exec (.ftrecv d) s = .next (s.updCtx (fun c => { c with park := .ftrecv d none, entry := 13 }))) ∧
        (heads g → ∃ t, exec (.ftrecv d) s = .next t ∧ (t.dieAt g).towq = r ∧
          (s.ghost g tag = none → (t.ctxOf j fw).fault = some (f, .claimed tag s.cur)) ∧ words t 1 s.ctx.pend t.ctx.pend))) ∧
    (((lockhousesOf (dieKey k)).find? s.waitsToken ≠ some k ∨ (s.dieAt (dieKey k)).towq = [] ∨ (s.ctxOf k true).pend ≠ []) →
      exec (.ftrecvRelease k) s = .next s) ∧
    ((lockhousesOf (dieKey k)).find? s.waitsToken = some k → (s.ctxOf k true).park = .ftrecv d since → (1 ≤ d.val ∧ d.val ≤ 28) →
      (s.ctxOf k true).pend = [] → heads (dieKey k) → ∃ t, exec (.ftrecvRelease k) s = .next t ∧
        (t.dieAt (dieKey k)).towq = r ∧ (t.ctxOf k true).park = .run ∧ (t.ctxOf k true).entry = 14 ∧
        words t 0 ((s.ctxOf k true).closeAt 0).pend (t.ctxOf k true).pend) ∧
    ((s.dieAt (dieKey k)).ghosts.all (fun x => x.2.2.2.isSome) = true → c.fault = some (f, .travelling) → (s.ctxOf k (!fw)).fault = none →
      ¬ (fw = true ∧ isLockhouse k = true) →
      (let d := s.dieAt (dieKey k)
       let place := 2 * k + (if fw then 1 else 0)
       let later := d.tokAt.1 = s.now ∧ place < d.tokAt.2
       let n := d.nextTag
      ((64 ≤ d.towq.length ∨ later) → exec (.faultTokenEnqueue k) s = .next s) ∧
      (d.towq.length < 64 → ¬ later → ∃ t, exec (.faultTokenEnqueue k) s = .next t ∧ t.mem = s.mem ∧
         (t.ctxOf k fw) = { c with fault := some (f, .queued n) } ∧ (t.dieAt (dieKey k)).towq = d.towq ++ [(n, k, fw)] ∧
         (t.dieAt (dieKey k)).nextTag = (n + 1) % 2 ^ 16 ∧ (t.dieAt (dieKey k)).tokAt = (s.now, place)))) ∧
    ((s.dieAt (dieKey k)).ghosts.find? (fun x => x.1 == k && x.2.1 == fw && x.2.2.2.isNone) = some (k, fw, f, none) →
      (s.dieAt (dieKey k)).ghosts.all (fun x => x.1 != k || x.2.1 == fw) = true → (s.ctxOf k true).fault = none → (s.ctxOf k false).fault = none →
      s.mayEnter k fw = true → ∃ t, exec (.faultTokenEnqueue k) s = .next t ∧ t.mem = s.mem ∧ (∀ j z, t.ctxOf j z = s.ctxOf j z) ∧
        (t.dieAt (dieKey k)).towq = (s.dieAt (dieKey k)).towq ++ [((s.dieAt (dieKey k)).nextTag, k, fw)]) ∧
    ((s.dieAt (dieKey k)).ghosts.all (fun x => x.2.2.2.isSome) = true → (s.ctxOf k true).fault = some (f, .travelling) →
      (s.ctxOf k false).fault = none → isLockhouse k = true → ∃ t, exec (.faultTokenEnqueue k) s = .next t ∧ t.mem = s.mem ∧ (t.ctxOf k true).park = .halted ∧ (t.ctxOf k true).fault = none) ∧
    (c.fault = some (f, .answered) → (s.ctxOf k (!fw)).fault = none →
      (c.pend ≠ [] → exec (.contextReentry k) s = .next s) ∧
      (c.pend = [] → c.faultQ = [] → (s.cluster k).lost fw = none →
        exec (.contextReentry k) s = .next (s.setCtxOf k fw { c with fault := none, park := .run, given := [], pend := c.given.map (mkPend 5) })) ∧
      (∀ x l, c.pend = [] → c.faultQ = x :: l → ∃ t, exec (.contextReentry k) s = .next t ∧ t.mem = s.mem ∧ (t.ctxOf k fw).park = .trapped ∧
        (t.ctxOf k fw).code = BitVec.ofNat 7 x.code ∧ (t.ctxOf k fw).faultQ = l ∧ (t.ctxOf k fw).given = c.given ∧ (t.ctxOf k fw).pend = [])) ∧
    ((s.ctxOf k false).fault = none → (s.ctxOf k true).fault = none → exec (.contextReentry k) s = .next s) ∧
    (s.asyncDue k fw = true → c.faultQ = f :: q → (s.ctxOf k (!fw)).faultQ = [] → ∃ t, exec (.asyncFaultTake k) s = .next t ∧
      t.mem = s.mem ∧ (t.ctxOf k fw).code = BitVec.ofNat 7 f.code ∧ (t.ctxOf k fw).info = f.info ∧
      (t.ctxOf k fw).slotres = BitVec.ofNat 4 c.entry ∧ (t.ctxOf k fw).park = .trapped ∧ (t.ctxOf k fw).faultQ = q ∧
      (t.ctxOf k fw).s = c.s ∧ (t.ctxOf k fw).pc = c.pc) ∧
    (s.asyncDue k false = false → s.asyncDue k true = false → exec (.asyncFaultTake k) s = .next s)

/-- R389 to R400, R435. -/
def Obligations.Repairs : Prop :=
  ∀ (s : State) (a b : SReg) (w : DWord) (v : SVal) (g k tag : Nat) (fw : Bool) (f : FaultRec) (st : TokState) (n addr el : Nat)
    (u : State) (out : List (Fin 16)) (rep : Bool) (info : Word) (r : SReg) (vr : VReg) (lane : Fin 16) (acc : Acc) (row col : Fin 32)
    (word : Fin (2 ^ 19)) (reg : Nat),
    let x := s.ctx.rdS a
    let y := s.ctx.rdS b
    let kind (w : DWord) : Nat := (w.extractLsb' 8 3).toNat
    let legal (w : DWord) : Prop := w.extractLsb' 44 4 = 0 ∧ w.extractLsb' 11 13 = 0 ∧ w.getLsbD 7 = false ∧ kind w < 6
    let c := s.ctxOf k fw
    let t := s.applyRepair g w v
    let answered (t : State) (entry : Nat) : Prop := t.mem = s.mem ∧
      t.ctxOf k fw = { c with fault := some (f, .answered), entry := entry, unstamped := true }
    let aborted (t : State) : Prop := t.mem = s.mem ∧ (t.ctxOf k fw).fault = none ∧ (t.ctxOf k fw).faultQ = [] ∧ (t.ctxOf k fw).s = c.s ∧
      (t.ctxOf k fw).park = (if fw then .halted else .phase .abort)
    let here := s.taggedOn g tag = some (k, fw, f, .queued tag) ∧ tag < 2 ^ 16 ∧ c.fault = some (f, .queued tag) ∧ dieKey k = g ∧ f.code < 2 ^ 7
    (s.curFw = true → isLockhouse s.cur = true →
      ((x.poison = true ∨ (y.poison = true ∧ kind x.val ≠ 2)) → exec (.repair a b) s = .next s.poisonUse) ∧
      (x.poison = false → (y.poison = false ∨ kind x.val = 2) →
        (¬ legal x.val → exec (.repair a b) s = .next s.illegalField) ∧
        (legal x.val → (let ids := s.ownWrites s.cur true ++ s.releaseDeps s.cur .die
          (ids = [] → exec (.repair a b) s = .next (s.applyRepair (dieKey s.cur) x.val y)) ∧
          (ids ≠ [] → exec (.repair a b) s = .next (s.updCtx (fun c => { c with post := c.post ++ [.repair x.val y ids s.slot] }))))))) ∧
    (s.named g w = none → t.mem = s.mem ∧ ∀ j fw, t.ctxOf j fw = s.ctxOf j fw) ∧
    (s.named g w = some (k, fw, f) → c.fault = some (f, st) →
      ((kind w = 0 ∨ kind w = 3) → answered t c.entry) ∧
      (kind w = 1 → f.hdr = false → answered t (if f.async then c.entry else s.afterSlot k f.pc.toNat f.slot.toNat)) ∧
      ((kind w = 4 ∨ (kind w = 1 ∧ f.hdr = true)) → aborted t) ∧
      (kind w = 5 → aborted t ∧ (fw = false → ∀ j ∈ s.launchMembers k, (t.cluster j).fenced = true)) ∧
      (kind w ≠ 2 → ∀ z ∈ (t.dieAt g).towq, z.1 ≠ (w.extractLsb' 48 16).toNat)) ∧
    (here →
      (c.faultAge < 256 → exec (.lhTimeout g tag) s = .next s) ∧
      (256 ≤ c.faultAge → ∃ t, exec (.lhTimeout g tag) s = .next t ∧ aborted t ∧
        (t.dieAt g).towq = (s.dieAt g).towq ∧ (k, fw, f, some tag) ∈ (t.dieAt g).ghosts) ∧
      ((fw = true ∨ f.code ≠ 0x68 ∨ s.coreOps k ≠ []) → s.ghost g tag = none → exec (.lockhouseLoader g tag) s = .next s) ∧
      (f.code = 0x68 → fw = false → s.ghost g tag = none → s.coreOps k = [] →
        (let i : Fin 16 := Fin.ofNat 16 f.info.toNat
         let keep := (s.sparedXops k).filter (fun m => m != i)
         ((s.cluster k).cotAddr i = none → ∃ t, exec (.lockhouseLoader g tag) s = .next t ∧ aborted t) ∧
         ((s.cluster k).cotAddr i = some addr → (∀ h ∈ c.plane, h.n ≠ i) → s.loadGraph k false addr keep = some (u, out, rep) →
          ∃ t, exec (.lockhouseLoader g tag) s = .next t ∧ t.mem = s.mem ∧ (t.ctxOf k false).plane = (u.ctxOf k false).plane ∧
            (t.ctxOf k false).fault = some (f, .answered) ∧ (t.cluster k).plFail = false))) ∧
      ((f.code ≠ 0x68 ∨ fw = true) → s.ghost g tag = none →
        (s.policy g f.code = 4 → ∃ t, exec (.lockhousePolicy g tag) s = .next t ∧ aborted t) ∧
        (s.policy g f.code = 0 → ∃ t, exec (.lockhousePolicy g tag) s = .next t ∧ answered t c.entry))) ∧
    (s.taggedOn g tag = none → exec (.lhTimeout g tag) s = .next s ∧
      (s.ghost g tag = none → exec (.lockhouseLoader g tag) s = .next s ∧ exec (.lockhousePolicy g tag) s = .next s)) ∧
    (s.ghost g tag = some (k, fw, f, some tag) → fw = false → f.code = 0x68 → exec (.lockhousePolicy g tag) s = .next s) ∧
    (s.ghost g tag = some (k, fw, f, some tag) → ¬ (fw = false ∧ f.code = 0x68) → ∃ t, exec (.lockhousePolicy g tag) s = .next t ∧ t.mem = s.mem ∧
      (∀ j z, t.ctxOf j z = s.ctxOf j z) ∧ (t.dieAt g).towq = (s.dieAt g).towq.filter (fun x => x.1 != tag)) ∧
    ((info.toNat < 1 ∨ 6 < info.toNat) → exec (.stateErrDetect k fw info) s = .next s) ∧
    ((1 ≤ info.toNat ∧ info.toNat ≤ 6) →
      (let o := decide (info = 4) || (decide (info = 6) && fw)
       ∃ t, exec (.stateErrDetect k fw info) s = .next t ∧ t.mem = s.mem ∧
        (t.cluster k).bad = (s.cluster k).bad ++ [info.toNat + (if o then 256 else 0)] ∧
        t.ctxOf k o = ({ s.ctxOf k o with loops := if info = 6 then [] else (s.ctxOf k o).loops } : Ctx).recordFault ⟨0x73, info, 0, 0, true, false, (s.ctxOf k o).pc, 0, s.strokeOf (modOf k), false⟩)) ∧
    (r ≠ 0 → ∃ t, exec (.registerSoftError k fw r.val el) s = .next t ∧ t.mem = s.mem ∧
      t.ctxOf k fw = c.wrS r ⟨(c.rdS r).val, true⟩) ∧
    (∃ t, exec (.registerSoftError k fw (32 + vr.val) lane.val) s = .next t ∧ t.mem = s.mem ∧ (t.ctxOf k fw).s = c.s ∧
      ∀ l : Fin 16, ((t.ctxOf k fw).rdV vr)[l] = ⟨(c.rdV vr)[l].val, (c.rdV vr)[l].poison || decide (l = lane)⟩) ∧
    (∃ t, exec (.registerSoftError k fw (96 + acc.val) (32 * row.val + col.val)) s = .next t ∧ t.mem = s.mem ∧
      (t.cluster k).mx.elem acc row.val col.val = ⟨((s.cluster k).mx.elem acc row.val col.val).val, true⟩) ∧
    (let key := k * 2 ^ 19 + word.val
     let lost := decide (reg = 105)
     let e := kget 0 (s.cluster k).sestat (word.val / 2 ^ 14)
     (reg = 104 ∨ reg = 105) → (key ∈ s.pmem → exec (.registerSoftError k fw reg word.val) s = .next s) ∧
       (key ∉ s.pmem → ∃ t, exec (.registerSoftError k fw reg word.val) s = .next t ∧ t.mem = s.mem ∧ t.ctxOf k fw = c ∧
        (∀ z, z ∈ t.pmem ↔ z ∈ s.pmem ∨ (lost = true ∧ z = key)) ∧
        (let v := kget 0 (t.cluster k).sestat (word.val / 2 ^ 14)
         (v.extractLsb' 48 16).toNat = min 0xFFFF ((e.extractLsb' 48 16).toNat + if lost then 0 else 1) ∧
         (v.extractLsb' 32 16).toNat = min 0xFFFF ((e.extractLsb' 32 16).toNat + if lost then 1 else 0) ∧
         v.extractLsb' 0 32 = e.extractLsb' 0 32)))

/-! ### Messages and links (chapters 09, 12, 18, 19) -/

/-- Every event of a message. -/
def Obligations.Messages : Prop :=
  ∀ (s : State) (id : Nat) (m : Msg) (pa n x y l p : Nat) (bs : List (Byte × Bool)) (ao : Aop) (ty : ElemTy) (v : DWord) (q c st : Nat)
    (part : List (Nat × Nat)) (rest : List (List (Nat × Nat))) (got : List (Nat × List (Byte × Bool))) (fw : Bool) (ich och : Fin 16) (seq : Word) (mark : Bool) (d : Pend) (r : SReg) (w : SVal) (mt : MemTy),
    s.msg id = some m →
    let answered (t : State) (b : List (Byte × Bool)) (deny : Bool) : Prop := t.net = s.net.map (fun z => if z.id = id then
      { z with phase := .back b, hop := 0, via := none, left := 0, came := none, deny := z.deny || deny } else z)
    let dropped (t : State) : Prop := t.net = s.net.filter (fun z => z.id != id)
    let word (t : State) (pa len : Nat) (v : Nat → Byte) : Prop := (∀ i < len, t.byteAt (memKey pa + i) = v i) ∧
      ∀ a, a < memKey pa ∨ memKey pa + len ≤ a → t.byteAt a = s.byteAt a
    let old := ofBytes ((s.readMarked pa (ebytes ty)).map (·.1))
    let h := kget Ich.reset (s.cluster m.dst).ich ich.val
    let gone := h.v = false ∨ (s.cluster m.dst).bad.contains 5 = true
    let o := kget Och.reset (s.cluster m.dst).och och.val
    let k := s.link m.loc l
    let room := min (k.budOf m.vc - k.useOf m.vc) (s.bufferFree m.loc l m.vc m.hop)
    let arrives (z : Msg) : Msg := if z.id = id then
      { z with loc := p / 96, hop := z.hop + 1, via := none, left := 0, route := z.route.drop 1, came := some (96 * m.loc + l) } else z
    let crosses (left : Nat) : Prop := k.up = true → s.linkTaken m l = false → s.partner m.loc l = some p → m.vc < k.use.length →
      ((room = 0 ∨ s.accepts m (p / 96) = false) → exec (.packetForward id) s = .next s) ∧
      (0 < room → s.accepts m (p / 96) = true → ∃ t, exec (.packetForward id) s = .next t ∧ t.mem = s.mem ∧ (t.link m.loc l).useOf m.vc = k.useOf m.vc + min left room ∧
        (room < left → t.net = s.net.map (fun z => if z.id = id then { z with via := some l, left := left - room } else z)) ∧
        (left ≤ room → t.net = s.net.map arrives))
    let first := 0 < m.hop ∨ s.net.any (fun x => x.loc == m.loc && decide (0 < x.hop) && x.vc == m.vc && s.canCross x) = false
    let limit := m.loc = modOf m.src ∧ m.phase.performed = false ∧ m.posted = true ∧ m.begun = false ∧ 256 ≤ s.postedOut m.src
    let dead := (s.module m.loc).failed.contains m.goal = true ∧ s.upTo m.loc m.goal = [] ∧ m.fixed = false
    let asks := isReadKind m.kind = true ∧ isScKind m.kind = false
    (s.msgReady m = false → exec (.remoteWritePerform id) s = .next s ∧ exec (.remoteReadServe id) s = .next s ∧
      exec (.packetArrive id) s = .next s ∧ exec (.freeReturnArrive id) s = .next s) ∧
    (s.msgReady m = true → s.kept = true →
      (m.kind = .write pa bs → paSpace pa = 0 →
        (s.msgAllowed m pa true = true → ∃ t, exec (.remoteWritePerform id) s = .next t ∧ answered t [] false ∧
          word t pa bs.length (fun i => (bs.getD i (0, false)).1)) ∧
        (s.msgAllowed m pa true = false → ∃ t, exec (.remoteWritePerform id) s = .next t ∧ answered t [] true ∧ s.sameMemory t)) ∧
      (m.kind = .atom pa ao ty x y false → s.msgAllowed m pa true = true → ∃ t, exec (.remoteWritePerform id) s = .next t ∧ answered t [] false ∧
        (s.poisoned pa (ebytes ty) = true → s.sameMemory t) ∧
        (s.poisoned pa (ebytes ty) = false → word t pa (ebytes ty) (fun i => BitVec.ofNat 8 ((atomOp ao ty old x y).1 / 2 ^ (8 * i))))) ∧
      (m.kind = .read pa n → s.tileBusy pa = false →
        (s.msgAllowed m pa false = true → ∃ t, exec (.remoteReadServe id) s = .next t ∧ answered t (s.performRead pa n) false ∧ s.sameMemory t) ∧
        (s.msgAllowed m pa false = false → ∃ t, exec (.remoteReadServe id) s = .next t ∧ answered t (marked n 0 false) true ∧ s.sameMemory t)) ∧
      (m.kind = .vread n (part :: rest) got → s.tileBusy ((part.head?.map (·.2)).getD 0) = false →
        s.msgAllowed m ((part.head?.map (·.2)).getD 0) false = true →
        (let now := got ++ part.map (fun c => (c.1, s.performRead c.2 n))
         ∃ t, exec (.remoteReadServe id) s = .next t ∧ s.sameMemory t ∧
          (rest ≠ [] → t.net = s.net.map (fun z => if z.id = id then { z with kind := .vread n rest now } else z)) ∧
          (rest = [] → t.net = s.net.map (fun z => if z.id = id then { z with
            kind := .vread n rest now, phase := .back (now.flatMap (·.2)), hop := 0, via := none, left := 0, came := none } else z)))) ∧
      (m.kind = .atom pa ao ty x y true → s.msgAllowed m pa true = true → s.poisoned pa (ebytes ty) = false →
        ∃ t, exec (.remoteReadServe id) s = .next t ∧ answered t (marked (ebytes ty) old false) false ∧
          word t pa (ebytes ty) (fun i => BitVec.ofNat 8 ((atomOp ao ty old x y).1 / 2 ^ (8 * i)))) ∧
      (m.kind = .sigadd pa v → s.msgAllowed m pa true = true → s.poisoned pa 8 = false → ∃ t, exec (.remoteReadServe id) s = .next t ∧
        answered t (marked 8 (s.readWord pa).toNat false) false ∧ word t pa 8 (fun i => BitVec.ofNat 8 ((s.readWord pa + v).toNat / 2 ^ (8 * i)))) ∧
      (m.kind = .packet ich seq bs mark → ∃ t, exec (.packetArrive id) s = .next t ∧ answered t [] false ∧
        (gone → t.mem = s.mem ∧ t.cl = s.cl) ∧
        (¬ gone → seq = h.expseq → word t (h.phys + (h.head + h.nheld + h.narr) % h.slots * h.sbytes) bs.length (fun i => (bs.getD i (0, false)).1) ∧
          kget Ich.reset (t.cluster m.dst).ich ich.val = { h with narr := h.narr + 1, expseq := h.expseq + 1, tags := h.tags ++ [(bs.length, seq, mark)] }) ∧
        (¬ gone → (1 ≤ (h.expseq - seq).toNat ∧ (h.expseq - seq).toNat ≤ 2 ^ 31) → t.mem = s.mem ∧
          kget Ich.reset (t.cluster m.dst).ich ich.val = { h with dup := min 0xFFFF (h.dup + 1) }) ∧
        (¬ gone → 2 ^ 31 < (h.expseq - seq).toNat → t.mem = s.mem ∧ kget Ich.reset (t.cluster m.dst).ich ich.val = h ∧
          t.ctxOf m.dst true = (s.ctxOf m.dst true).recordFault ⟨0x55, seq, 0, 0, true, false, (s.ctxOf m.dst true).pc, ich.val,
            s.strokeOf (modOf m.dst), false⟩)) ∧
      (m.kind = .freeRet och seq → ∃ t, exec (.freeReturnArrive id) s = .next t ∧ dropped t ∧ t.mem = s.mem ∧
        ((s.cluster m.dst).bad.contains 5 = true → ∀ j, t.cluster j = s.cluster j) ∧
        ((s.cluster m.dst).bad.contains 5 = false →
          kget Och.reset (t.cluster m.dst).och och.val = { o with credit := o.credit + 1, ackseq := seq + 1 }))) ∧
    ((m.phase.performed = false ∨ isReadKind m.kind = true ∨ m.loc ≠ modOf m.src) → exec (.ackArrive id) s = .next s) ∧
    (m.phase.performed = true → isReadKind m.kind = false → m.loc = modOf m.src → m.deny = false → ∃ t, exec (.ackArrive id) s = .next t ∧ dropped t ∧
      t.mem = s.mem ∧ (∀ k fw, t.ctxOf k fw = s.ctxOf k fw) ∧
      (m.by_ = .engine q c → (t.cluster m.src).stream q = ((s.cluster m.src).stream q).map (fun z =>
        if z.id = c then { z with outs := z.outs.filter (fun i => i != id) } else z))) ∧
    (m.phase = .back bs → isReadKind m.kind = true → m.loc = modOf m.src → m.by_ = .slot fw st → m.deny = false →
      ∃ t, exec (.readResponseArrive id) s = .next t ∧ dropped t ∧ t.mem = s.mem ∧
        t.ctxOf m.src fw = (s.ctxOf m.src fw).fill id m.kind bs false ∧
        (m.kind = .read pa n → d ∈ (s.ctxOf m.src fw).pend → d.waits = [(id, 0)] → d.dest = .sreg r w → d.mty = some mt →
          { d with waits := [], dest := .sreg r ⟨mextend mt (ofBytes (bs.map (·.1))), bs.any (·.2)⟩ } ∈ (t.ctxOf m.src fw).pend)) ∧
    (m.phase.performed = false → exec (.readResponseArrive id) s = .next s) ∧
    ((m.loc = m.goal ∨ m.phase = .dead ∨ (m.phase = .held ∧ ¬ (dead ∧ asks)) ∨ ¬ first) → exec (.packetForward id) s = .next s) ∧
    (m.loc ≠ m.goal → m.phase ≠ .dead → (m.phase ≠ .held ∨ (dead ∧ asks)) → first →
      (¬ dead → limit → exec (.packetForward id) s = .next s) ∧
      (¬ dead → ¬ limit →
        (m.via = some l → (m.fixed = false ∨ (m.route.head? = some (96 * m.loc + l) ∧ l < 96)) → crosses m.left) ∧
        (m.via = none → m.fixed = true → m.route.head? = some (96 * m.loc + l) → l < 96 → crosses m.flits) ∧
        (m.via = none → m.fixed = false → (s.upTo m.loc m.goal).filter (fun j => (s.link m.loc j).budOf m.vc != 0) = [l] → crosses m.flits) ∧
        (m.via = none → m.fixed = false → s.upTo m.loc m.goal = [] → exec (.packetForward id) s = .next s)) ∧
      (dead →
        (m.phase.performed = true → ∃ t, exec (.packetForward id) s = .next t ∧ dropped t ∧ s.sameMemory t) ∧
        (m.phase.performed = false → m.kind = .read pa n → ∃ t, exec (.packetForward id) s = .next t ∧ answered t (marked n 0 true) false ∧
          s.sameMemory t) ∧
        (m.phase.performed = false → m.kind = .write pa bs → ∃ t, exec (.packetForward id) s = .next t ∧
          (∀ i, t.msg i = if i = id then some { m with phase := .dead, via := none, left := 0 } else s.msg i) ∧
          s.sameMemory t ∧ exec (.packetForward id) t = .next t)))

/-- Chapter 19's events of a module. -/
def Obligations.LinksAndStrokes : Prop :=
  ∀ (s : State) (m l p gts : Nat) (v : DWord),
    let k := s.link m l
    let d := s.module m
    let field (i : Nat) : Nat := (v.extractLsb' (11 * i) 11).toNat
    let legal := field 0 + field 1 + field 2 + field 3 + field 4 ≤ 1616 ∧ 16 ≤ field 1 ∧ 16 ≤ field 2 ∧ 16 ≤ field 3
    let root := (s.md.find? (fun x => x.2.root)).map (·.1)
    let starts (t : State) : Prop := t.mem = s.mem ∧ (t.module m).migUsed = 0 ∧ (t.module m).hpUsedA = 0 ∧ (t.module m).hpUsedB = 0 ∧
      (∀ j, (t.link m j).prev = (s.link m j).use ∧ (t.link m j).use = [0, 0, 0, 0, 0]) ∧
      (∀ j, modOf j = m → (t.cluster j).fwcnt = 0) ∧ ∀ j, modOf j ≠ m → { t.cluster j with och := [] } = { s.cluster j with och := [] }
    let may := d.power = .on ∧ (s.cluster (4096 * m + 1024 * (l / 24))).acctab.getLsbD 37 = true
    (96 ≤ l → exec (.lnkbudWrite m l v) s = .next s ∧ exec (.linkDown m l) s = .next s) ∧
    (l < 96 → m < 2048 → ¬ may → exec (.lnkbudWrite m l v) s = .next s) ∧
    (l < 96 → m < 2048 → may → ∃ t, exec (.lnkbudWrite m l v) s = .next t ∧ t.mem = s.mem ∧ t.cl = s.cl ∧
      (legal → t.link m l = { k with bud := [field 0, field 1, field 2, field 3, field 4] }) ∧ (¬ legal → t.link m l = { k with buderr := true }) ∧
      ∀ j, j ≠ l → t.link m j = s.link m j) ∧
    (l < 96 → k.up = false → exec (.linkDown m l) s = .next s) ∧
    (l < 96 → k.up = true → ∃ t, exec (.linkDown m l) s = .next t ∧ t.mem = s.mem ∧ t.link m l = { k with up := false } ∧
      (∀ j, t.cluster j = { s.cluster j with och := (t.cluster j).och } ∧ ∀ c, kget Och.reset (t.cluster j).och c =
        { kget Och.reset (s.cluster j).och c with route := (kget Och.reset (s.cluster j).och c).route.map (breakLink (96 * m + l)) }) ∧
      ((root = some m ∨ root = none) → t.outputs = s.outputs ++ [.linkReport m l]) ∧
      (∀ r, root = some r → r ≠ m → ∃ w ∈ t.net, w.kind = .report m l ∧ w.src = 4096 * m ∧ w.dst = 4096 * r ∧ w.phase = .out) ∧
      (∀ x, l ∉ t.upTo m x ∧ ∀ j, j ≠ l → (j ∈ t.upTo m x ↔ j ∈ s.upTo m x)) ∧
      (t.dieAt (4 * m + l / 24)).bbCount = (s.dieAt (4 * m + l / 24)).bbCount + 1) ∧
    (s.partner m l = none → exec (.linkTrain m l) s = .next s) ∧
    (s.partner m l = some p → k.up = false → d.power = .on → (s.module (p / 96)).power = .on → (p / 96, p % 96) ≠ (m, l) →
      ∃ t, exec (.linkTrain m l) s = .next t ∧ t.mem = s.mem ∧ t.cl = s.cl ∧
        (t.link m l).up = true ∧ (t.link m l).miss = 0 ∧ (t.link (p / 96) (p % 96)).up = true ∧
        (s.booted m = true → s.booted (p / 96) = true → (t.link m l).partner = p / 96 ∧ (t.link m l).plink = p % 96 ∧
          (l < 96 → s.partner (p / 96) (p % 96) = some (96 * m + l) →
            (t.link (p / 96) (p % 96)).partner = m ∧ (t.link (p / 96) (p % 96)).plink = l)) ∧
        ((s.booted m = false ∨ s.booted (p / 96) = false) → (t.link m l).partner = k.partner ∧ (t.link m l).plink = k.plink)) ∧
    (k.up = false → exec (.frameReceive m l true) s = .next s ∧ exec (.frameReceive m l false) s = .next s ∧ exec (.beaconReceive m l gts) s = .next s) ∧
    (k.up = true → ∃ t, exec (.frameReceive m l true) s = .next t ∧ t.mem = s.mem ∧ t.link m l = { k with tries := 0 }) ∧
    (k.up = true → s.partner m l = some p → (p / 96, p % 96) ≠ (m, l) → ∃ t, exec (.frameReceive m l false) s = .next t ∧ t.mem = s.mem ∧
      (t.link m l).crcerr = min 0xFFFF (k.crcerr + 1) ∧ (t.link m l).tries = k.tries + 1 ∧ (t.link m l).up = decide (k.tries + 1 ≤ 8) ∧
      (t.link (p / 96) (p % 96)).replays = min 0xFFFF ((s.link (p / 96) (p % 96)).replays + 1)) ∧
    (k.up = true → s.partner m l = some p →
      (let s1 := s.updLink m l (fun k => { k with heard := true, miss := 0, hops := (s.module (p / 96)).rootHops })
      ((d.root = true ∨ (s1.module m).aligned ≠ some l) → exec (.beaconReceive m l gts) s = .next s1) ∧
      (d.root = false → (s1.module m).aligned = some l →
        (d.origin = true → ∃ t, exec (.beaconReceive m l gts) s = .next t ∧ t.mem = s.mem ∧ t.cl = s.cl ∧ t.link m l = s1.link m l ∧
          (t.module m).err = (d.gts : Int) - (gts + k.delay) ∧ (t.module m).hold = decide (gts + k.delay < d.gts)) ∧
        (d.origin = false → s.booted m = true → (s.module (p / 96)).origin = true →
          exec (.beaconReceive m l gts) s = exec (.timeOrigin m (gts + k.delay)) s1) ∧
        (d.origin = false → (s.booted m = false ∨ (s.module (p / 96)).origin = false) → exec (.beaconReceive m l gts) s = .next s1)))) ∧
    (∃ t, exec (.strokeStart m) s = .next t ∧ starts t ∧ (t.module m).gts = d.gts) ∧
    (∃ t, exec (.timeOrigin m gts) s = .next t ∧ starts t ∧ (t.module m).gts = gts ∧ (t.module m).origin = true ∧
      (t.module m).lease = d.lease + BitVec.ofInt 32 ((gts / 4096 : Nat) - (d.gts / 4096 : Nat)))

/-! ### Queues and launches (chapters 04, 22) -/

/-- R363 to R371. -/
def Obligations.Queues : Prop :=
  ∀ (s : State) (m n off : Nat) (v : DWord) (p : Pkt),
    let q := s.queue m n
    let legal := (v.extractLsb' 55 2) ≠ 3 ∧ (v.extractLsb' 48 4).toNat ≤ 12 ∧ (q.en = true ∨ (v.extractLsb' 45 3 = 0 ∧
      (v.extractLsb' 34 11).toNat = m))
    let only (t : State) : Prop := t.mem = s.mem ∧ t.cl = s.cl ∧ ∀ i, i ≠ n → t.queue m i = s.queue m i
    let word (a : Nat) : DWord := s.readWord a
    let idx := (q.read + q.window.length) % 2 ^ 32
    let open_ := q.en = true ∧ (q.window.filter (fun p => p.st != .done)).length < 8 ∧ idx ≠ q.write ∧
      ∀ p ∈ q.window, p.bar = true → p.st = .done
    let new : Pkt := ⟨idx, s.ringWords q idx, .pending, false⟩
    let stands (t : State) (p : Pkt) (st : PSt) : Prop := ∀ y ∈ (t.queue m n).window, y.idx = p.idx → y.st = st
    let examined (p : Pkt) (t : State) : Prop :=
      let dep := if p.w 1 = 0 then 0 else (word (p.w 1)).toInt
      let sigs := ([3, 4, 5, 6].map p.w).filter (fun a => a != 0)
      (p.kind = 2 → (∀ a ∈ sigs, word a = 0) → only t ∧ stands t p .finished) ∧
      (p.kind = 2 → (∃ a ∈ sigs, (word a).toInt < 0) → p.bar = false → (t.queue m n).ecode = 0x02) ∧
      (p.kind = 2 → (∃ a ∈ sigs, word a ≠ 0) → (∀ a ∈ sigs, 0 ≤ (word a).toInt) →
        only t ∧ ∀ y ∈ (t.queue m n).window, y.idx = p.idx → y.exam = false) ∧
      (p.kind ≠ 2 → dep < 0 → p.bar = false → (t.queue m n).ecode = 0x02) ∧
      (p.kind ≠ 2 → 0 < dep → only t ∧ ∀ y ∈ (t.queue m n).window, y.idx = p.idx → y.exam = false) ∧
      (p.kind = 1 → dep = 0 → t.mem = s.mem ∧ stands t p .busy ∧
        (t.module m).ready = (s.module m).ready ++ [launchOf n (t.queue m n) p (s.module m).cycles]) ∧
      (p.kind = 3 ∨ p.kind = 4 → dep = 0 → only t ∧ stands t p .ready)
    let len := min (p.w 5) (64 - p.w 3 % 64)
    let may := (s.module m).power = .on ∧ (kget 0x3FF (s.module m).qacc n).testBit 5 = true
    (64 ≤ n → exec (.qcfgWrite m n off v) s = .next s ∧ exec (.qwriteWrite m n v) s = .next s) ∧
    (n < 64 → m < 2048 → ¬ may → exec (.qcfgWrite m n off v) s = .next s ∧ exec (.qwriteWrite m n v) s = .next s) ∧
    (n < 64 → m < 2048 → may → ∃ t, exec (.qcfgWrite m n 0 v) s = .next t ∧ only t ∧ (¬ legal → t.queue m n = q) ∧
      (legal → q.en = true → t.queue m n = { q with en := v.getLsbD 63, pclass := (v.extractLsb' 55 2).toNat, prio := (v.extractLsb' 52 3).toNat }) ∧
      (legal → q.en = false → t.queue m n = { q with
        en := v.getLsbD 63, dev := v.getLsbD 62, pclass := (v.extractLsb' 55 2).toNat, prio := (v.extractLsb' 52 3).toNat,
        log2n := (v.extractLsb' 48 4).toNat, base := 64 * (v.extractLsb' 6 42).toNat })) ∧
    (n < 64 → m < 2048 → may → ∃ t, exec (.qwriteWrite m n v) s = .next t ∧ only t ∧
      (let w := (v.setWidth 32).toNat
       let fits := (w + 2 ^ 32 - q.write) % 2 ^ 32 ≤ 2 ^ q.log2n ∧ (w + 2 ^ 32 - q.read) % 2 ^ 32 ≤ 2 ^ q.log2n
       (q.dev = true → t.queue m n = q) ∧ (q.dev = false → fits → t.queue m n = { q with write := w }) ∧
       (q.dev = false → ¬ fits → t.queue m n = { q with ecode := 0x0C }))) ∧
    (¬ open_ → exec (.queueFetch m n) s = .next s) ∧
    (open_ → new.ok m = true → ∃ t, exec (.queueFetch m n) s = .next t ∧ examined new t) ∧
    (open_ → new.ok m = false → new.bar = false → ∃ t, exec (.queueFetch m n) s = .next t ∧ (t.queue m n).ecode = 0x01 ∧
      (t.queue m n).aborts = min 0xFFFFFFFF (q.aborts + 1) ∧ (t.queue m n).eindex = idx % 2 ^ 16) ∧
    (q.window.filter (fun p => p.exam && p.st == .pending) = [] → exec (.packetExamine m n) s = .next s) ∧
    (q.window.filter (fun p => p.exam && p.st == .pending) = [p] → (q.window.map (·.idx)).Nodup → ∃ t, exec (.packetExamine m n) s = .next t ∧ examined p t) ∧
    (q.window.filter Pkt.copies = [] → exec (.copyPacket m n) s = .next s) ∧
    (q.window.filter Pkt.copies = [p] → s.kept = true →
      inModule m (p.w 3) 1 = true → inModule m (p.w 3 + len - 1) 1 = true → inModule m (p.w 4) 1 = true → inModule m (p.w 4 + len - 1) 1 = true →
      0 < p.w 5 → ∃ t, exec (.copyPacket m n) s = .next t ∧
        (∀ i < len, t.byteAt (p.w 4 + i) = s.byteAt (p.w 3 + i)) ∧
        (∀ a, a < p.w 4 ∨ p.w 4 + len ≤ a → t.byteAt a = s.byteAt a) ∧ (p.w 5 = len → stands t p .finished) ∧ (p.w 5 ≠ len → stands t p .ready)) ∧
    (q.window.filter Pkt.completes = [] → exec (.packetComplete m n) s = .next s) ∧
    (q.window.filter Pkt.completes = [p] → p.kind ≠ 4 → s.kept = true → ∃ t, exec (.packetComplete m n) s = .next t ∧ stands t p .done ∧
      (p.w 2 = 0 → t.mem = s.mem) ∧
      (p.w 2 ≠ 0 → p.w 2 % 8 = 0 → p.w 2 < 2 ^ 45 → s.poisoned (p.w 2) 8 = false → t.readWord (p.w 2) = s.readWord (p.w 2) - 1 ∧
        ∀ a, a < p.w 2 ∨ p.w 2 + 8 ≤ a → t.byteAt a = s.byteAt a))

/-- R99, R372 to R377. -/
def Obligations.Launches : Prop :=
  ∀ (s : State) (m g cox k j j' : Nat) (l l' : Launch) (d : Desc) (pos : List (Nat × List Nat)) (b : Binding) (x : Cox) (mode : BMode) (ph : Phase)
    (e : PhEnd),
    let md := s.module m
    let dg := s.dieAt g
    let ms := l.members (g / 4)
    let kept (t : State) : Prop := t.mem = s.mem ∧ t.pmem = s.pmem
    let idle := dg.sel.isSome = true ∨ g / 4 ≠ m ∨ md.fwBusy = true ∨ md.best (g % 4) = none
    let coxIs (t : State) (c : Cox) : Prop := (t.dieAt g).coxes.find? (fun y => y.1 == cox) = some (cox, c)
    (idle → exec (.launchSelect m g) s = .next s) ∧
    (¬ idle → md.best (g % 4) = some l → ∃ t, exec (.launchSelect m g) s = .next t ∧ kept t ∧ t.cl = s.cl ∧
      (t.dieAt g).sel = some { l with prio := (s.queue m l.q).prio, pclass := (s.queue m l.q).pclass } ∧
      (t.module m).ready = md.ready.erase l) ∧
    (md.best (g % 4) = some l → l ∈ md.ready ∧ l.die = g % 4 ∧
      (l' ∈ md.ready → l'.die = g % 4 → (s.queue m l'.q).prio ≤ (s.queue m l.q).prio)) ∧
    ((dg.sel = none ∨ (dg.sel = some l ∧ l.tr.isSome = true)) → exec (.launchTranslate g) s = .next s) ∧
    (dg.sel = some l → l.tr = none →
      (s.translate (g / 4) l = .inl d → ∃ t, exec (.launchTranslate g) s = .next t ∧ kept t ∧ t.cl = s.cl ∧ (t.dieAt g).sel = some { l with tr := some d }) ∧
      (∀ f : Failure, s.translate (g / 4) l = .inr f →
        (f.at_ = none → exec (.launchTranslate g) s = .next (s.failSel g l f.code)) ∧
        (f.at_ = some (j, j') → (let u := s.failSel g l f.code
          exec (.launchTranslate g) s = .next { u with outputs := u.outputs ++ [.extentBad (g / 4) l.q l.idx j j'] })))) ∧
    ((dg.sel = none ∨ (dg.sel = some l ∧ l.tr = none)) → exec (.launchBind g) s = .next s) ∧
    (dg.sel = some l → l.tr = some d →
      ((∃ k ∈ ms, (s.cluster k).fenced = true) → exec (.launchBind g) s = .next (s.failSel g l 0x06)) ∧
      ((∀ k ∈ ms, (s.cluster k).fenced = false ∧ (s.cluster k).bind = none ∧ (s.cluster k).mx.queue = []) → ms.Nodup → l.saved = none →
        (s.module (g / 4)).fwBusy = false → dg.freeCox = some cox → wheelAllot d.scpos (s.wheelUsed (g / 4)) ms = some pos →
        d.phases[0]? = some ph → ∃ t, exec (.launchBind g) s = .next t ∧ kept t ∧ (t.dieAt g).sel = none ∧
          kget ⟨l, 1, [], none, none, .run⟩ (t.dieAt g).coxes cox = ⟨l, 0, ms, none, none, .run⟩ ∧
          (k ∈ ms → (let c := t.cluster k
            c.bind = some ⟨cox, l.row0, l.col0, l.rows, l.cols, l.index k, l.key⟩ ∧ c.prog.pc = ph.code ∧ c.prog.park = .run ∧ c.prog.loops = [] ∧
            c.prog.v = Ctx.reset.v ∧ c.prog.p = Ctx.reset.p ∧ c.det = ph.det ∧ c.fmtcfg = ph.fmt ∧ c.phases = d.phases ∧ c.phase = 0 ∧
            (∀ i : Fin 256, c.sem[i] = if i.val < 240 then 0 else (s.cluster k).sem[i]) ∧ c.semLocal = d.localsem ∧ c.mx = Mx.reset ∧ c.ibuf = [] ∧
            c.padm = (s.cluster k).padm ∧ c.windows = (s.cluster k).windows ∧
            c.fw.s = (s.cluster k).fw.s ∧ c.fw.pc = (s.cluster k).fw.pc ∧ c.fw.park = (s.cluster k).fw.park)))) ∧
    ((s.cluster k).prog.park = .phase e → (s.cluster k).bind = some b →
      (((s.cluster k).done = true ∨ s.drained k = false) → exec (.memberDone k) s = .next s) ∧
      ((s.cluster k).done = false → s.drained k = true → ∃ t, exec (.memberDone k) s = .next t ∧ kept t ∧ (t.cluster k).done = true ∧
        (t.cluster k).prog = (s.cluster k).prog ∧ ∀ i, i ≠ k → t.cluster i = s.cluster i)) ∧
    (dg.coxes.find? (fun y => y.1 == cox) = none → exec (.phaseStep g cox) s = .next s ∧ exec (.launchEnd g cox) s = .next s) ∧
    (dg.coxes.find? (fun y => y.1 == cox) = some (cox, x) →
      ((x.fail.isSome = true ∨ 8 ≤ x.phase ∨ x.mode ≠ .run ∨ ∃ k ∈ x.members, (s.cluster k).done = false) → exec (.phaseStep g cox) s = .next s) ∧
      (x.fail = none → x.phase < 8 → x.mode = .run → (∀ k ∈ x.members, (s.cluster k).done = true) →
        ((∃ k ∈ x.members, s.phEnd k = .halt) → ∃ t, exec (.phaseStep g cox) s = .next t ∧ kept t ∧ t.cl = s.cl ∧ coxIs t { x with phase := 8 }) ∧
        ((∀ k ∈ x.members, ∃ bit, s.phEnd k = .phend mode bit) → x.members.Nodup → x.members.head?.bind (fun k => (s.cluster k).cur) = some ph →
          (∀ k ∈ x.members, ∃ p, (s.cluster k).phases[j]? = some p) →
          (let bits := x.members.map (fun k => decide (s.phEnd k = .phend mode true))
           let r := match mode with
             | .any => bits.any id
             | .all => bits.all id
             | .none => !bits.any id
           (if r then ph.taken else ph.other) = some j → ∃ t, exec (.phaseStep g cox) s = .next t ∧ kept t ∧
            coxIs t { x with phase := j, lastDone := none } ∧
            (k ∈ x.members → (t.cluster k).phase = j ∧ (t.cluster k).done = false ∧ (t.cluster k).prog.park = .run ∧
              (s.cluster k).phases[j]?.map (·.code) = some (t.cluster k).prog.pc))) ∧
        ((∃ i ∈ x.members, ∃ bit, s.phEnd i = .phend mode bit) → (∃ i ∈ x.members, ∃ n, s.phEnd i = .bsel n) → (∀ i ∈ x.members, s.phEnd i ≠ .halt) →
          (∀ i ∈ x.members, s.phEnd i ≠ .abort) → (∀ i ∈ x.members, (s.cluster i).cur = some ph) →
          ∃ t, exec (.phaseStep g cox) s = .next t ∧ kept t ∧ t.cl = s.cl ∧ coxIs t { x with fail := some 0x07 })) ∧
      (((x.phase < 8 ∧ x.fail = none) ∨ ∃ k ∈ x.members, (s.cluster k).done = false) → exec (.launchEnd g cox) s = .next s) ∧
      (8 ≤ x.phase → x.fail = none → (∀ k ∈ x.members, (s.cluster k).done = true) → ∃ t, exec (.launchEnd g cox) s = .next t ∧ kept t ∧
        (t.dieAt g).coxes.find? (fun y => y.1 == cox) = none ∧
        (x.launch.moved = false → ∀ y ∈ (t.queue (g / 4) x.launch.q).window, y.idx = x.launch.idx → y.st = .finished) ∧
        (k ∈ x.members → (t.cluster k).bind = none ∧ (t.cluster k).prog.park = .halted ∧ (t.cluster k).scPos = [] ∧
          (t.cluster k).sem = (s.cluster k).sem)))

/-! ### Pre-emption, checkpoints, the outside (chapters 25, 26) -/

/-- R403 to R416 (model's choices: logs 20, 39, 57, 64). -/
def Obligations.ContextsMoved : Prop :=
  ∀ (s : State) (a : SReg) (g cox k m i h p : Nat) (x : Cox) (n l : Launch) (d : Desc) (ms : List Nat) (sv : Saved) (pos : List (Nat × List Nat))
    (img : Image) (st : Stage) (b : Binding) (bs cv : List Byte),
    let y := s.ctx.rdS a
    let v := y.val.toNat
    let dg := s.dieAt g
    let c := s.cluster k
    let kept (t : State) : Prop := t.mem = s.mem ∧ t.pmem = s.pmem
    let swaps (i : Instr) (save : Bool) : Prop := exec i s = .next (s.updCtx (fun c => { c with swap := some ⟨v, save, s.slot, none⟩ }))
    let find (t : State) : Option (Nat × Cox) := (t.dieAt g).coxes.find? (fun z => z.1 == cox)
    let gives (z : Cox) : Prop := z.mode = .run ∧
      (z.launch.pclass = 2 ∨ (z.launch.pclass = 1 ∧ z.launch.prio < n.prio)) ∧ z.fail = none ∧ z.phase < 8 ∧
        ∀ k ∈ z.members, (s.cluster k).det = false ∧ (s.cluster k).prog.fault = none ∧ (s.cluster k).fw.fault = none ∧
          kget 0 (s.cluster k).savearea z.launch.q ≠ 0 ∧ ∀ q ∈ s.saves, q.1 ≠ kget 0 (s.cluster k).savearea z.launch.q
    let w := s.module m
    let local_ (c : Cluster) (o : Nat) : Prop := ∃ f ∈ c.phases, ∃ e ∈ f.ext, e.v = true ∧ e.kind = .local ∧ e.w = true ∧ e.pbase ≤ o ∧ o < e.pbase + e.len
    let known := ∃ z ∈ s.images, z.1 = k ∧ ∃ b, c.bind = some b ∧ b.key = z.2.launch.key
    let lay := s.imageField w.fwaddr 16 2
    let accepts (z : List Byte) : Prop := (s.imageField w.fwaddr 24 8).testBit (layoutOf z) = true
    let converts (z : List Byte) : Prop := layoutOf z < 8 ∧ s.imageField w.fwaddr (32 + 8 * layoutOf z) 8 ≠ 0
    let image := s.imageBytes w.fwaddr
    (s.curFw = true →
      (y.poison = true → ∀ i ∈ ([.ctxsave a, .ctxload a] : List Instr), exec i s = .next (s.poisonUse v)) ∧
      (y.poison = false → ∀ i ∈ ([.ctxsave a, .ctxload a] : List Instr),
        ((2 ^ 45 ≤ v ∨ v / 2 ^ 34 ≠ s.cur / 4096) → exec i s = .next (s.raise 0x21 (y.val.setWidth 32) (v % 2 ^ 48))) ∧
        (v < 2 ^ 45 → v / 2 ^ 34 = s.cur / 4096 → v % 65536 ≠ 0 → exec i s = .next (s.raise 0x20 (y.val.setWidth 32) v))) ∧
      (y.poison = false → v < 2 ^ 45 → v / 2 ^ 34 = s.cur / 4096 → v % 65536 = 0 →
        (s.me.bind = none → exec (.ctxsave a) s = .next s.illegalField) ∧ (s.me.bind ≠ none → swaps (.ctxsave a) true) ∧
        (let h := s.readWord v
         let fits := (h.setWidth 16).toNat = (s.module (s.cur / 4096)).active ∧ (h.extractLsb' 32 32).toNat = 65536
         (¬ fits → exec (.ctxload a) s = .next (s.raise 0x02 (BitVec.ofNat 32 (h.setWidth 16).toNat))) ∧
         (fits → s.rebound s.cur v = false → exec (.ctxload a) s = .next s.illegalField) ∧
         (fits → s.rebound s.cur v = true → swaps (.ctxload a) false)))) ∧
    (find s = none → exec (.preempt g cox) s = .next s) ∧
    (find s = some (cox, x) →
      (x.mode = .run → (dg.sel = none → exec (.preempt g cox) s = .next s) ∧
        (dg.sel = some n → (∃ z ∈ dg.coxes, overlaps z.2.launch n = true ∧ ¬ gives z.2) → exec (.preempt g cox) s = .next s) ∧
        (dg.sel = some n → n.tr.isSome = true → (s.module (g / 4)).fwBusy = false → overlaps x.launch n = true →
          (dg.coxes.map (·.1)).Nodup → (∀ z ∈ dg.coxes, overlaps z.2.launch n = true → gives z.2) →
          ∃ t, exec (.preempt g cox) s = .next t ∧ kept t ∧ find t = some (cox, { x with mode := .saving [] }) ∧
            (k ∈ x.members → (∀ z ∈ dg.coxes, k ∈ z.2.members → z.1 = cox) → (t.cluster k).prog = c.prog ∧
              (t.cluster k).fw.swap = if c.fw.park = .halted then some ⟨kget 0 c.savearea x.launch.q, true, 13, none⟩ else c.fw.swap))) ∧
      (x.mode = .saving ms → ((∃ k ∈ x.members, k ∉ ms) → exec (.preempt g cox) s = .next s) ∧
        ((∀ k ∈ x.members, k ∈ ms) → ∃ t, exec (.preempt g cox) s = .next t ∧ (x.fail = none → kept t) ∧ find t = none ∧
          (k ∈ x.members → (t.cluster k).bind = none ∧ (t.cluster k).block = none ∧ (t.cluster k).prog = { c.prog with park := .halted }) ∧
          (x.fail = none → (t.module (g / 4)).ready = (s.module (g / 4)).ready ++ [{ x.launch with
            saved := some ⟨x.members, x.phase, x.members.map (fun k => (k, (s.cluster k).padm, (s.cluster k).phbase))⟩, tr := none }]) ∧
          (x.fail ≠ none → k ∈ x.members → ∀ z ∈ t.saves, z.1 ≠ kget 0 c.savearea x.launch.q))) ∧
      (x.mode = .loading ms → exec (.preempt g cox) s = .next s ∧
        ((∃ k ∈ x.members, k ∉ ms) → exec (.preemptRebind g cox) s = .next s) ∧
        ((∀ k ∈ x.members, k ∈ ms) → ∃ t, exec (.preemptRebind g cox) s = .next t ∧ kept t ∧ t.cl = s.cl ∧
          find t = some (cox, { x with mode := .run })))) ∧
    (dg.coxes.find? (fun z => z.1 == i) = none →
      ((dg.sel = none ∨ (dg.sel = some l ∧ l.saved = none)) → exec (.preemptRebind g i) s = .next s) ∧
      (dg.sel = some l → l.saved = some sv → (∃ k ∈ sv.members, (s.cluster k).fenced = true) →
        exec (.preemptRebind g i) s = .next (s.failSel g l 0x06)) ∧
      (dg.sel = some l → l.saved = some sv → l.tr = some d → dg.freeCox = some cox → (s.module (g / 4)).fwBusy = false →
        (∀ k ∈ sv.members, (s.cluster k).bind = none ∧ (s.cluster k).fenced = false) →
        wheelAllot d.scpos (s.wheelUsed (g / 4)) sv.members = some pos →
        ∃ t, exec (.preemptRebind g i) s = .next t ∧ kept t ∧ (t.dieAt g).sel = none ∧
          find t = some (cox, ⟨l, sv.phase, sv.members, none, none, .loading []⟩) ∧
          (k ∈ sv.members → (t.cluster k).bind = some ⟨cox, l.row0, l.col0, l.rows, l.cols, l.index k, l.key⟩ ∧ (t.cluster k).phases = d.phases ∧
            (t.cluster k).phase = sv.phase ∧ (t.cluster k).launch = l.q ∧ (t.cluster k).prog = c.prog ∧ (t.cluster k).ibuf = [] ∧ (t.cluster k).ich = c.ich ∧
            (∀ z, sv.keep.find? (fun e => e.1 == k) = some (k, z) → (t.cluster k).padm = z.1 ∧ (t.cluster k).phbase = z.2) ∧
            (t.cluster k).fw.swap = if c.fw.park = .halted then some ⟨kget 0 c.savearea l.q, false, 13, none⟩ else c.fw.swap))) ∧
    (c.ckptHold = false → exec (.checkpoint k) s = .next s) ∧
    (c.ckptHold = true →
      ((c.prog.park ≠ .run ∨ c.prog.entry ≠ 13) → exec (.checkpoint k) s = .next (s.updCluster k (fun c => { c with ckptHold := false }))) ∧
      (c.prog.park = .run → c.prog.entry = 13 → s.progStopped k = false → exec (.checkpoint k) s = .next s) ∧
      (c.prog.park = .run → c.prog.entry = 13 → s.progStopped k = true → s.coxOf k = some (cox, x) → c.buddy = some m →
        ∃ (t : State) (img : Image), exec (.checkpoint k) s = .next t ∧
          (let u := t.cluster k
           let n := (u.drlSeq - c.ckptDrl).toNat
           let noted (o : Nat) : Prop := ∃ i < n, let r := kget (0, 0, 0, 0, 0) u.drl ((u.drlHead + 128 - (n - i)) % 64)
             r.2.1 ≤ clusterBase k + o ∧ clusterBase k + o ≤ r.2.2.1
           let now (o : Nat) (z : Byte) : Prop := (clusterBase k + o, z) ∈ s.mem ∧ o < 2 ^ 22 ∧ local_ c o
           let old (o : Nat) (z : Byte) : Prop := ∃ e, s.images.find? (fun z => z.1 == k) = some (k, e) ∧ (o, z) ∈ e.mem
           u.prog = c.prog ∧ u.ckptHold = false ∧ u.ckptOut = true ∧ u.drlOvf = false ∧ u.ckptSeq = c.ckptSeq + 1 ∧ u.ckptDrl = u.drlSeq ∧
           u.ckptAt = s.strokeOf (modOf k) ∧ t.staged.find? (fun z => z.1 == k) = some (k, img) ∧
           img.launch = x.launch ∧ img.holder = m ∧ img.ctx.prog = c.prog ∧ img.ctx.phases = c.phases ∧
           (∀ (o : Nat) (z : Byte), ((o, z) ∈ img.mem → now o z ∨ old o z) ∧
             (n ≤ 64 → noted o → o < 2 ^ 22 → local_ c o → ((o, z) ∈ img.mem ↔ now o z)) ∧
             ((c.drlOvf = true ∨ ¬ known ∨ 64 < n) → local_ c o → ((o, z) ∈ img.mem ↔ now o z)) ∧
             (c.drlOvf = false → known → c.windows = [] → c.drlNew = [] → n ≤ 64 → ¬ noted o → ((o, z) ∈ img.mem ↔ old o z))) ∧
           (s.kept = true → clusterBase k ≤ c.staging → c.staging + 65536 ≤ clusterBase k + 2 ^ 22 → clusterBase k + 2 ^ 22 ≤ 2 ^ 45 →
             c.mx.fifoA.length ≤ 4096 → c.mx.fifoB.length ≤ 4096 → c.mx.cols.length ≤ 32 → c.mx.scale.length ≤ 16 →
             (∀ z ∈ c.mx.tiles, z.1 < 8192) → (∀ z ∈ c.streams, z.1 < 16) →
             img.area = t.readBytes c.staging 65536 ∧
             ∀ a, a < c.staging ∨ clusterBase k + 2 ^ 22 ≤ a → t.byteAt a = s.byteAt a)))) ∧
    (s.staged.find? (fun z => z.1 == k) = none → exec (.checkpointCommit k) s = .next (s.updCluster k (fun c => { c with ckptOut := false }))) ∧
    (s.staged.find? (fun z => z.1 == k) = some (k, img) →
      (let d := s.module (modOf k)
       let n := min (min img.left 4) (d.migbud - d.migUsed)
       (img.left = 0 → s.copyOut k = true → exec (.checkpointCommit k) s = .next s) ∧
       (img.left ≠ 0 → n = 0 → exec (.checkpointCommit k) s = .next s) ∧
       (img.left = 0 → s.copyOut k = false → ∃ t, exec (.checkpointCommit k) s = .next t ∧ kept t ∧ (t.cluster k).ckptOut = false ∧
         t.images.find? (fun z => z.1 == k) = some (k, img) ∧ t.staged.find? (fun z => z.1 == k) = none) ∧
       (img.left ≠ 0 → n ≠ 0 → ∃ t, exec (.checkpointCommit k) s = .next t ∧ kept t ∧ t.cl = s.cl ∧ t.images = s.images ∧
         (t.module (modOf k)).migUsed = d.migUsed + n ∧ t.staged.find? (fun z => z.1 == k) = some (k, { img with left := img.left - n }) ∧
         ∃ x, t.net = s.net ++ [x] ∧ x.kind = .ckpt (64 * n) ∧ x.src = k ∧ modOf x.dst = img.holder))) ∧
    ((s.gone m = false ∨ ∃ z ∈ s.md, z.1 ≠ m ∧ m ∈ z.2.failed) → exec (.moduleFailed m) s = .next s) ∧
    (s.gone m = true → (∀ z ∈ s.md, z.1 ≠ m → m ∉ z.2.failed) →
      (w.stages = [] → ∃ t, exec (.moduleFailed m) s = .next t ∧ kept t ∧ (∀ z ∈ s.md, z.1 ≠ m → m ∈ (t.module z.1).failed) ∧
        ∀ z ∈ t.images, z.2.holder ≠ m) ∧
      (w.stages = [st] → st.home.head? = some k → st.spare = [] → c.bind = some b →
        (s.dieAt (dieKey k)).coxes.find? (fun z => z.1 == b.cox) = some (b.cox, x) → x.fail = none →
        ∃ t, exec (.moduleFailed m) s = .next t ∧ kept t ∧
          (t.dieAt (dieKey k)).coxes.find? (fun z => z.1 == b.cox) = some (b.cox, { x with fail := some 0x0A })) ∧
      (w.stages = [⟨[h], [p]⟩] → s.images.find? (fun z => z.1 == h) = some (h, img) → img.holder ≠ m →
        layoutOf img.area = (s.module (modOf p)).active → (s.cluster p).bind = none → (s.module (modOf p)).fwBusy = false →
        (s.dieAt (dieKey p)).freeCox = some cox → wheelAllot ((img.launch.tr.map (·.scpos)).getD 0) (s.wheelUsed (modOf p)) [p] = some pos →
        ∃ (t : State) (l : Launch), exec (.moduleFailed m) s = .next t ∧ l.moved = true ∧ l.key = img.launch.key ∧
          l.rows = img.launch.rows ∧ l.cols = img.launch.cols ∧ (rowOf h ≤ img.launch.row0 + rowOf p → l.row0 + rowOf h = img.launch.row0 + rowOf p) ∧
          (colOf h ≤ img.launch.col0 + colOf p → l.col0 + colOf h = img.launch.col0 + colOf p) ∧
          (t.dieAt (dieKey p)).coxes.find? (fun z => z.1 == cox) = some (cox, ⟨l, img.ctx.phase, [p], none, none, .run⟩) ∧
          (t.cluster p).bind = some ⟨cox, l.row0, l.col0, l.rows, l.cols, (img.ctx.bind.map (·.index)).getD 0, l.key⟩ ∧
          (t.cluster p).phases = img.ctx.phases ∧ (t.cluster p).phase = img.ctx.phase ∧
          (s.kept = true → (img.mem.map (·.1)).Nodup → (∀ z ∈ img.mem, z.1 < 2 ^ 22 ∧ local_ img.ctx z.1) →
            (∀ a, a / 2 ^ 22 ≠ p → t.byteAt a = s.byteAt a) ∧ (∀ z ∈ img.mem, t.byteAt (clusterBase p + z.1) = z.2) ∧
            ∀ o < 2 ^ 22, local_ img.ctx o → o ∉ img.mem.map (·.1) → t.byteAt (clusterBase p + o) = 0))) ∧
    ((w.fwBusy = false ∨ s.settled m = false) → exec (.firmwareActivation m) s = .next s) ∧
    (w.fwBusy = true → s.settled m = true → ∃ t, exec (.firmwareActivation m) s = .next t ∧ (t.module m).fwBusy = false ∧
      (s.imageOk m w.fwaddr = false → t.cl = s.cl ∧ kept t ∧ t.module m = { w with fwBusy := false, fwResult := 4 }) ∧
      (s.imageOk m w.fwaddr = true →
        ((∃ z ∈ s.areasOf m, ¬ accepts z.2 ∧ ¬ converts z.2) → t.cl = s.cl ∧ kept t ∧ (t.module m).fwResult = 2 ∧
          ∃ z ∈ s.areasOf m, ¬ accepts z.2 ∧ ¬ converts z.2 ∧ (t.module m).badLayout = layoutOf z.2) ∧
        ((∀ z ∈ s.areasOf m, accepts z.2 ∨ converts z.2) →
          ((∃ z ∈ s.areasOf m, ¬ accepts z.2 ∧ Config.convert image (layoutOf z.2) z.2 = none) →
            t.cl = s.cl ∧ kept t ∧ t.module m = { w with fwBusy := false, fwResult := 3 }) ∧
          ((∀ z ∈ s.areasOf m, accepts z.2 ∨ Config.convert image (layoutOf z.2) z.2 ≠ none) →
            (t.module m).fwResult = 1 ∧ (t.module m).active = lay ∧ (t.module m).image = image ∧ t.ctxOf k false = s.ctxOf k false ∧
            (modOf k = m → t.ctxOf k true = if c.fw.park = .halted then Ctx.reset else
              { Ctx.reset with park := .run, pc := Config.fwEntry image k }) ∧
            ((∀ z ∈ s.areasOf m, accepts z.2) → kept t ∧ t.images = s.images) ∧
            (s.kept = true → s.areasOf m = [(.area i, bs)] → ¬ accepts bs → Config.convert image (layoutOf bs) bs = some cv → i + 65536 ≤ 2 ^ 45 →
              (∀ a, a < i ∨ i + 65536 ≤ a → t.byteAt a = s.byteAt a) ∧
              ofBytes (t.readBytes i 8) = lay + 65536 * 2 ^ 32 ∧
              ∀ o, 8 ≤ o → o < 65536 → t.byteAt (i + o) = cv.getD o 0)))))

/-- R182, R353, R401, R417 to R429 (model's choices: logs 27, 41, 49). -/
def Obligations.PortsBootAndSupplies : Prop :=
  ∀ (s : State) (m owner len port size k off n msg nonce l p root : Nat) (bar2 ep : Bool) (data : List Byte) (v : DWord) (rd : Module)
    (r : List (Nat × Nat)),
    let d := s.module m
    let host := owner = 1 ∨ owner = 2
    let good := 1 ≤ len ∧ len < 2 ^ 24
    let free := d.held = false ∨ d.owner = owner ∨ (BitVec.ofNat 32 (s.strokeOf m) - d.lease).msb = false
    let pa := (if bar2 then (1 + off / 2 ^ 34) * 2 ^ 45 else 0) + m * 2 ^ 34 + off % 2 ^ 34
    let fits (n max : Nat) : Prop := 1 ≤ n ∧ n ≤ max ∧ off + n ≤ (if bar2 then 2 ^ 35 else 2 ^ 34) ∧ off % 4096 + n ≤ 4096
    let on := port < 2 ∧ d.power = .on
    let held (n : Nat) : Prop := s.hostHeld m port = true ∨ s.tilesBusy pa n = true
    let back (i : Instr) : Prop := exec i s = .next { s with inputs := (s.now, i) :: s.inputs }
    let charge (port : Nat) : Module := if port = 0 then { d with hpUsedA := d.hpUsedA + 1 } else { d with hpUsedB := d.hpUsedB + 1 }
    let shown (t : State) (o : Output) : Prop := t.outputs = s.outputs ++ [o]
    let same (t : State) : Prop := t.mem = s.mem ∧ t.pmem = s.pmem ∧ t.cl = s.cl ∧ t.die = s.die
    let hs := 2 * 2 ^ 45 + m * 2 ^ 34 + 0x4908
    let hsem (i : Instr) (e : Module → Module) (does : Prop) : Prop :=
      (d.power ≠ .on → exec i s = .next s) ∧ (d.power = .on → s.hostHeld m (owner - 1) = true → back i) ∧
      (d.power = .on → s.hostHeld m (owner - 1) = false → ∃ t, exec i s = .next t ∧ same t ∧
        (s.accOk (owner - 1) hs true = true → does → t.module m = e (charge (owner - 1))) ∧
        (¬ (s.accOk (owner - 1) hs true = true ∧ does) → t.module m = charge (owner - 1)))
    let at2 := 2 * 2 ^ 45 + clusterBase k + off
    let e := kget (0, 0, 0, 0) (s.dieAt (4 * m + n / 512 % 4)).bb (n % 512)
    let img := s.imageBytes d.bootaddr
    let passes := d.record.verifies img = true ∧ d.bootlen = img.length
    let ended (t : State) (r : Nat) : Prop := (t.module 0).bootBusy = false ∧ (t.module 0).bootResult = r ∧ (t.module 0).failmod = 0 ∧
      (t.module 0).nmod = 1 ∧ (m = 0 → same t)
    let joins := rd.nmod < 2048 ∧ d.record.verifies rd.image = true ∧ ∀ x ∈ s.md, ∀ y ∈ s.md, (s.booted x.1 = true ∨ x.1 = m) →
      (s.booted y.1 = true ∨ y.1 = m) → s.hopsFrom x.1 y.1 ≠ none
    let blank (t : State) (q : Power) : Prop := (∀ a, t.byteAt a = if a / 2 ^ 34 = m then 0 else s.byteAt a) ∧
      (∀ a, a ∈ t.pmem ↔ a ∈ s.pmem ∧ a / 2 ^ 31 ≠ m) ∧
      t.module m = { Module.reset with record := d.record, counter := d.counter, power := q } ∧
      (modOf k = m → t.cluster k = Cluster.reset) ∧ (modOf k ≠ m → t.cluster k = s.cluster k)
    let box (t : State) : Prop := ∀ g, g / 4 = m → t.dieAt g = { Die.reset with
      bb := (s.dieAt g).bb, bbHead := (s.dieAt g).bbHead, bbTail := (s.dieAt g).bbTail, bbOvf := (s.dieAt g).bbOvf, bbCount := (s.dieAt g).bbCount }
    (¬ host → exec (.hsemTake m owner len) s = .next s ∧ exec (.hsemRelease m owner) s = .next s) ∧
    (host → m < 2048 → len < 2 ^ 62 →
      hsem (.hsemTake m owner len) (fun d => { d with held := true, owner := owner, lease := BitVec.ofNat 32 (s.strokeOf m + len) }) (good ∧ free) ∧
      hsem (.hsemRelease m owner) (fun d => { d with held := false }) (d.held = true ∧ d.owner = owner)) ∧
    (¬ (on ∧ fits data.length 512) → exec (.hostWrite m port ⟨bar2, off⟩ ep data) s = .next s) ∧
    (¬ (on ∧ fits size 4096) → exec (.hostRead m port ⟨bar2, off⟩ size) s = .next s) ∧
    (on → fits data.length 512 → held data.length → back (.hostWrite m port ⟨bar2, off⟩ ep data)) ∧
    (on → fits size 4096 → held size → back (.hostRead m port ⟨bar2, off⟩ size)) ∧
    (on → fits data.length 512 → ¬ held data.length → m < 2048 → ∃ t, exec (.hostWrite m port ⟨bar2, off⟩ ep data) s = .next t ∧
      (s.accOk port pa true = false → t.module m = charge port ∧ same t) ∧
      (s.accOk port pa true = true → bar2 = true → t = (s.hostCount m port).performWrite port false pa (data.map (fun b => (b, ep)))) ∧
      (s.kept = true → s.accOk port pa true = true → bar2 = false → t.module m = charge port ∧ t.cl = s.cl ∧
        (∀ i < data.length, t.byteAt (pa + i) = data.getD i 0) ∧ (∀ a, a < pa ∨ pa + data.length ≤ a → t.byteAt a = s.byteAt a) ∧
        ∀ w, (ep = true → (w ∈ t.pmem ↔ w ∈ s.pmem ∨ (pa / 8 ≤ w ∧ w ≤ (pa + data.length - 1) / 8))) ∧
          (ep = false → (w ∈ t.pmem ↔ w ∈ s.pmem ∧ ¬ (pa ≤ 8 * w ∧ 8 * w + 8 ≤ pa + data.length))))) ∧
    (on → fits size 4096 → ¬ held size → m < 2048 → ∃ t, exec (.hostRead m port ⟨bar2, off⟩ size) s = .next t ∧ t.module m = charge port ∧ same t ∧
      (s.accOk port pa false = false → shown t (.hostUnsupported m port)) ∧
      (s.accOk port pa false = true → bar2 = false → shown t (.hostData m port ((List.range size).map (fun i => s.byteAt (pa + i))) (s.poisoned pa size))) ∧
      (s.accOk port pa false = true → bar2 = true → let b := (s.hostCount m port).performRead pa size; shown t (.hostData m port (b.map (·.1)) (b.any (·.2))))) ∧
    ((s.module (modOf k)).power ≠ .on → ∀ b, exec (.mgmtSpace2Access k off b v) s = .next s) ∧
    ((s.module (modOf k)).power = .on → off < 2 ^ 22 → k < 2 ^ 23 → s.tilesBusy at2 8 = true → ∀ b, back (.mgmtSpace2Access k off b v)) ∧
    ((s.module (modOf k)).power = .on → off < 2 ^ 22 → k < 2 ^ 23 → s.tilesBusy at2 8 = false → ∃ t u,
      exec (.mgmtSpace2Access k off false v) s = .next t ∧ exec (.mgmtSpace2Access k off true v) s = .next u ∧ same t ∧
      (s.accOk 2 at2 false = false → shown t .mgmtDiscarded) ∧ (s.accOk 2 at2 true = false → same u ∧ shown u .mgmtDiscarded) ∧
      (s.accOk 2 at2 false = true → ∃ x : DWord, shown t (.mgmtData x) ∧
        ∀ i < 8, x.extractLsb' (8 * i) 8 = BitVec.ofNat 8 (s.ctlByte k (off + i))) ∧
      (s.accOk 2 at2 true = true → 0x2000 ≤ off → off < 0x2800 → u = s.updCluster k (fun c => { c with sync := c.sync ||| 8 })) ∧
      (s.accOk 2 at2 true = true → ¬ (0x2000 ≤ off ∧ off < 0x2800) → ¬ (0x8000 ≤ off ∧ off < 0x10000) → off % 8 ≠ 0 → u = s) ∧
      (s.accOk 2 at2 true = true → off = 0x800 → u = s.updCluster k (fun c => { c with acctab := v &&& 0x0003FFFF0003FFFF }))) ∧
    (d.power = .off → exec (.blackBoxRead m n) s = .next s ∧ exec (.mctpControlMessage m msg) s = .next s) ∧
    (d.power ≠ .off → ∃ t u, exec (.blackBoxRead m n) s = .next t ∧ same t ∧ shown t (.blackBox e.1 e.2.1 e.2.2.1 e.2.2.2) ∧
      exec (.mctpControlMessage m msg) s = .next u ∧ same u ∧ shown u (.mctp m (Config.mctpReply m msg))) ∧
    (d.power ≠ .on → exec (.attestationRequest m nonce) s = .next s) ∧
    (d.power = .on → ∃ t, exec (.attestationRequest m nonce) s = .next t ∧ same t ∧
      (2 ^ 20 - 1 ≤ d.counter → t.module m = d ∧ shown t (.exhausted m)) ∧
      (d.counter < 2 ^ 20 - 1 → t.outputs = s.outputs ∧
        t.module m = { d with counter := d.counter + 1, attest := d.attest ++ [(d.counter + 1, nonce % 2 ^ 256)] })) ∧
    (d.attest = (n, nonce) :: r → ∃ sig, (s.attestSign m).module m = { d with attest := r } ∧ same (s.attestSign m) ∧
      shown (s.attestSign m) (.report nonce (shake256 d.image) (shake256 (d.record.body ++ d.record.sig)) m d.gts d.active n sig)) ∧
    (d.bootBusy = false → exec (.boot m) s = .next s ∧ exec (.bootAckTimeout m) s = .next s) ∧
    (s.strokeOf m < d.bootSince + 4096 → exec (.bootAckTimeout m) s = .next s) ∧
    (d.bootBusy = true → s.neighbours m = [] →
      (¬ passes → ∃ t, exec (.boot m) s = .next t ∧ ended t 2) ∧
      (passes → d.power ≠ .on → exec (.boot m) s = .next s) ∧
      (passes → d.power = .on → ∃ t, exec (.boot m) s = .next t ∧ ended t 1 ∧ (t.module 0).root = true ∧ (t.module 0).image = img ∧
        (t.module 0).active = ofBytes ((img.drop 16).take 2) ∧ (t.module 0).rootHops = 0) ∧
      (d.bootSince + 4096 ≤ s.strokeOf m → ∃ t, exec (.bootAckTimeout m) s = .next t ∧ ended t 5)) ∧
    (((s.neighbours m).find? (fun x => s.booted x.2) = none ∨ s.booted m = true ∨ d.power ≠ .on) → exec (.moduleJoin m) s = .next s) ∧
    ((s.neighbours m).find? (fun x => s.booted x.2) = some (l, p) → s.md.find? (fun x => x.2.root) = some (root, rd) → s.booted m = false →
      d.power = .on →
      (rd.bootBusy = true → exec (.moduleJoin m) s = .next s) ∧
      (rd.bootBusy = false → ¬ joins → ∃ o, exec (.moduleJoin m) s =
        .next ((s.updLink m l (fun k => { k with up := false })).linkDown p o) ∧ ∀ q, s.partner m l = some q → o = q % 96) ∧
      (rd.bootBusy = false → joins → ∃ t, exec (.moduleJoin m) s = .next t ∧ (rd.nmod = m → t.mem = s.mem) ∧
        (t.module rd.nmod).image = rd.image ∧ (t.module rd.nmod).active = rd.active ∧ (t.module rd.nmod).nmod = rd.nmod + 1)) ∧
    (d.power ≠ .on → exec (.moduleReset m) s = .next s ∧ exec (.logicSupplyLoss m) s = .next s) ∧
    (d.power = .on → exec (.logicSupplyReturn m) s = .next s) ∧
    (s.kept = true →
      (d.power = .on → ∃ t u, exec (.moduleReset m) s = .next t ∧ blank t .on ∧ box t ∧
        exec (.logicSupplyLoss m) s = .next u ∧ blank u .logicLost ∧ box u) ∧
      (d.power ≠ .on → ∃ t, exec (.logicSupplyReturn m) s = .next t ∧ blank t .on ∧ box t) ∧
      (∃ t, exec (.sramSupplyLoss m) s = .next t ∧ blank t .off ∧ ∀ g, g / 4 = m → t.dieAt g = Die.reset))

/-! ### The machine as a whole -/

/-- 03 Tables 3.2 to 3.18. -/
def Obligations.SpecWords : Prop :=
  decS 0xA0200010 = .ok (.li 1 16) ∧ decS 0x80A3C080 = .ok (.addi 5 3 .w64 128) ∧ decS 0xB1000030 = .ok (.rdgts 8) ∧
  decS 0x9142C002 = .ok (.shli 10 2 .w64 2) ∧ decS 0xC2E30000 = .ok (.extq 23 3) ∧ decS 0xD0000501 = .ok (.semsigImm 5 1) ∧
  decS 0xD4610502 = .ok (.semwait 3 true 5 2) ∧ decS 0xE0010201 = .ok (.barinit .rg 2 1) ∧ decS 0xEE8F0000 = .ok (.xld 20 15) ∧
  decS 0xFA83A800 = .ok (.qpost 20 3 21) ∧ decV 0x0C000200 = .ok (.vmul 0 0 2 .f32 0) ∧ decV 0xDCE30D30 = .ok (.xop 14 12 13 3 0) ∧
  decM 0x4000_0080 = .ok (.fence .rg .acquire) ∧ decM 0x4400_8400 = .ok (.sbar 0x21) ∧ decM 0x38000060 = .ok (.drain .link) ∧
  decB 0x34000000 = .ok .halt ∧ decB 0x25193C06 = .ok (.loopi 1 100 15 6) ∧ decB 0x400E0801 = .ok (.array 14 1 1) ∧
  decB 0xE4044000 = .ok (.repair 4 8) ∧ decB 0xE8040000 = .ok (.ctxsave 4) ∧
  decX 0x0400000014000000 = .ok (.mcfg 20 ⟨false, 0, 0, 0, 0⟩) ∧ decX 0x0C00000220020000 = .ok (.mrun 0 1 ⟨false, 0, 0, 1, 1⟩) ∧
  decE 0x040000000531C004 = .ok (.scopy 5 6 7 4 ⟨false, 0, 0, 0, 0⟩) ∧
  decBlockNode 0xB042030863000200 = .ok (.dcmp ⟨0, 4, 1, 0, ⟨0, 6, 0, 2⟩, ⟨0, 6, 1, 2⟩, 4, .rne⟩) ∧
  decBlockNode 0x14100214628003F8 = .ok (.cld ⟨0, 1, 0, 0, ⟨0, 4, 1, 1⟩, ⟨0, 6, 1, 1⟩, 0, 0, 0, 127⟩) ∧
  decBlockNode 0x1C30000240020000 = .ok (.catom ⟨0, 3, 0, 0, ⟨0, 0, 0, 0⟩, ⟨0, 0, 0, 0⟩, 9, 1, 0, 0⟩) ∧
  decHeader 0x0C000400 = .bundle 0x3000 false 2 ∧ decHeader 0x1000FFFF = .folded 0xFFFF

/-- Decode and encode agree. -/
def Obligations.DecodeEncode : Prop :=
  ∀ (i : Instr) (c : Nat), i.wf = true → slotClass i = some c →
    decClass c (encode i) = .ok i

/-- The step, as the cycle of a cluster that issues a bundle (model's choices: logs 5, 59, 70). -/
def Obligations.StepRunsDecodedInstruction : Prop :=
  ∀ (s t : State) (i : Instr) (k n w code : Nat) (p : Bool) (r : List Nat) (fw : Bool) (b b' : Bundle) (h : Hold) (e : State → Out) (y z : Ready),
    let x := s.plan k
    let u := (s.focus k fw).start b.words
    let entry (s : State) (fw : Bool) : Nat := (s.ctxOf k fw).entry
    let at_ (s : State) (fw : Bool) : State :=
      { s with curFw := fw, slot := n, word := BitVec.ofNat 32 w, slotWord := BitVec.ofNat 64 w, stop := false }
    let v := at_ s fw
    let plain := (∀ z, (s.ctxOf k z).rest = [] ∧ (x.st.ctxOf k z).faultQ = [] ∧ (x.st.ctxOf k z).strokes = []) ∧ x.st.checkpointDue k = false
    let c := s.cluster k
    let window (s : State) : Prop := (s.cluster k).det = true ∧ 4096 - 64 * (s.cluster k).share.toNat ≤ s.cisOf (modOf k)
    let behind := 64 * c.fwcnt < c.share.toNat * (s.cisOf (modOf k) + 1)
    let collide := ∃ m ∈ y.mask (entry s false), m ∈ z.mask (entry s true)
    (s.dueInput = some (i, t) → step s = exec i t) ∧
    (s.dueInput = none → s.events = [] → s.turn = k :: r →
      step s = .next ((({ s with turn := r }.early k).issue k).late k)) ∧
    (s.dueInput = none → s.events = [e] → Config.pick s.free % 2 = 0 → step s = e { s with free := s.free + 1 }) ∧
    (s.dueInput = none → s.events = [e] → Config.pick s.free % 2 = 1 → s.turn = k :: r →
      step s = .next ((({ s with free := s.free + 1, turn := r }.early k).issue k).late k)) ∧
    ((∀ z, (s.ctxOf k z).pend.any Pend.due = false) → s.plan k = s.planWith k true true) ∧
    ((s.merge k y z).1 = true ↔ y.isReady = true ∧ (¬ window s ∨ y.isLate = true) ∧ ¬ (z.isReady = true ∧ collide ∧ c.det = false ∧ behind)) ∧
    ((s.merge k y z).2 = true ↔ z.isReady = true ∧
      ¬ (y.isReady = true ∧ (¬ window s ∨ y.isLate = true) ∧ collide ∧ (c.det = true ∨ ¬ behind))) ∧
    (y.isReady = false ↔ y = .stall ∨ y = .count) ∧
    ((x.st.merge k x.p x.f ≠ (true, true) ∨ ({ x.st with cur := k } : State).allHolds
        (bySlot (x.p.instrs false (entry x.st false) ++ x.f.instrs true (entry x.st true))) [] = []) →
      (x.goP, x.goF) = x.st.merge k x.p x.f) ∧
    (x.counts k false = true ↔ x.goP = true ∨ x.p = .count ∨ window x.st) ∧ (x.counts k true = true ↔ x.goF = true ∨ x.f = .count) ∧
    (plain → x.goP = true → x.goF = false → x.p = .issue b →
      s.issue k = ((x.st.issueCtx k false true (.issue b)).ageIf k false true false).ageIf k true (x.counts k true) false) ∧
    (plain → x.goP = false → x.goF = true → x.f = .issue b →
      s.issue k = (((x.st.issueCtx k true true (.issue b)).updCluster k (fun c => { c with fwcnt := c.fwcnt + 1 })).ageIf k false
        (x.counts k false) false).ageIf k true true false) ∧
    (plain → x.goP = true → x.goF = true → x.p = .issue b → x.f = .issue b' →
      s.issue k =
        (let a := (((x.st.focus k false).start b.words).focus k true).start b'.words
         let d := ((a.commit (bySlot (b.from false (entry x.st false) ++ b'.from true (entry x.st true)))).closeBundle k false).closeBundle k true
         ((d.updCluster k (fun c => { c with fwcnt := c.fwcnt + 1 })).ageIf k false true false).ageIf k true true false)) ∧
    (s.readiness k fw = .issue b → (s.ctxOf k fw).park = .run ∧ (s.ctxOf k fw).rest = [] ∧ (s.ctxOf k fw).post = [] ∧
      c.fetch (s.ctxOf k fw).pc.toNat = .bundle b ∧
      ∀ q, b.stamp = some q → (s.ctxOf k fw).unstamped = false → s.gtsOf (modOf k) = stampTime c q) ∧
    (s.readiness k fw = .late b → c.fetch (s.ctxOf k fw).pc.toNat = .bundle b ∧ ∃ q, b.stamp = some q ∧ stampTime c q < s.gtsOf (modOf k)) ∧
    (b.from fw (entry s fw) ≠ [] → s.issueCtx k fw true (.issue b) = (u.commit (b.from fw (entry s fw))).closeBundle k fw) ∧
    (b.poisonAt = none → b.slots = [(n, w)] → entry s fw ≤ n → n < 14 → (s.ctxOf k fw).park = .run →
      (s.ctxOf k fw).rest = [] → (s.ctxOf k fw).post = [] → decSlot n w = .ok i → ((at_ u fw).instrHold n i []).1 = none →
      exec i (at_ u fw) = .next t → s.issueCtx k fw true (.issue b) = t.closeBundle k fw) ∧
    ((t.ctxOf k fw).park = .run → (t.ctxOf k fw).rest = [] → (t.ctxOf k fw).post = [] → (t.ctxOf k fw).swap = none →
      t.closeBundle k fw = t.setCtxOf k fw (t.ctxOf k fw).advance) ∧
    (let l := (b.from fw (entry s fw)).filter (fun x => decide (x.2.1 < h.slot))
     l ≠ [] → s.issueCtx k fw true (.waitFault b code h) =
      ((((s.focus k fw).updMe (fun c => c.readAhead (s.ctxOf k fw).pc.toNat)).open b.words).commit l).endWait k fw code h) ∧
    ((t.ctxOf k fw).park ≠ .run → t.endWait k fw code h = t) ∧
    ((t.ctxOf k fw).park = .run → (t.ctxOf k fw).rest = [] → (t.ctxOf k fw).tabling = false → code ≠ 0x41 → t.endWait k fw code h =
      (((t.focus k fw).updCtx (fun c => { c with entry := h.slot })).raiseWait code h).updCtx (fun c => { c with strokes := [] })) ∧
    (v.ctx.park = .trapped → s.commitSlot (fw, n, w, p) = v) ∧
    (v.ctx.park ≠ .trapped → (v.ctx.rest ≠ [] ∨ v.ctx.tabling = true) →
      s.commitSlot (fw, n, w, p) = v.updCtx (fun c => { c with rest := c.rest ++ [(n, w, p)] })) ∧
    (v.ctx.park ≠ .trapped → v.ctx.rest = [] → v.ctx.tabling = false → n < 14 →
      (p = true → s.commitSlot (fw, n, w, p) = v.raise 0x72 (BitVec.ofNat 32 v.ctx.pc.toNat)) ∧
      (p = false →
        (decSlot n w = .ok i → (v.instrHold n i []).1 = none → exec i v = .next t → s.commitSlot (fw, n, w, p) = t) ∧
        (decSlot n w = .ok i → (v.instrHold n i []).1 = some h →
          ((∃ a m q, h = .dead a m q) → s.commitSlot (fw, n, w, p) = v.raiseWait 0x40 h) ∧
          ((∀ a m q, h ≠ .dead a m q) → v.ctx.outlasted v.me.waitlim.toNat h = false →
            s.commitSlot (fw, n, w, p) = v.updCtx (fun c => { c with rest := [(n, w, p)] })) ∧
          (v.ctx.outlasted v.me.waitlim.toNat h = true → s.commitSlot (fw, n, w, p) = v.raiseWait 0x41 h)) ∧
        (decSlot n w = .illegalOp → s.commitSlot (fw, n, w, p) = v.illegalOp) ∧
        (decSlot n w = .illegalField → s.commitSlot (fw, n, w, p) = v.illegalField)))

/-- The invariant of the memory (its form is the model's own). -/
def Obligations.StepKeepsMemory : Prop :=
  ∀ s t : State, s.kept = true → step s = .next t → t.kept = true

/-- R182 and the reset values. -/
def Obligations.Reset : Prop :=
  State.reset.kept = true ∧ (∀ a, State.reset.byteAt a = 0) ∧ State.reset.pmem = [] ∧ State.reset.net = [] ∧
  ∀ (k : Nat) (fw : Bool) (m g : Nat), let c := State.reset.cluster k
    c.fmtcfg = 0x777 ∧ c.chainlim = 0x10 ∧ c.waitlim = 0x40 ∧ c.share = 4 ∧ c.last = 31 ∧ c.acctab = 0x3FF000003FF ∧ c.bind = none ∧
    (c.ctx fw).qscale = 0x3F800000 ∧ (c.ctx fw).pend = [] ∧ (c.ctx fw).park = .halted ∧ (c.ctx fw).fault = none ∧
    (∀ (r : VReg) (l : Fin 16), ((c.ctx fw).rdV r)[l].poison = false) ∧
    (State.reset.link m g).bud = [0x500, 0x80, 0x40, 0x80, 0x10] ∧ (State.reset.link m g).up = false ∧
    (State.reset.module m).migbud = 0x800 ∧ (State.reset.dieAt g).bb = [] ∧ (State.reset.dieAt g).towq = []
end

