-- ==== Sys2Proof/Laws/Bits.lean ====
section
/-! SUPPORT. The readings and the writing of 05 R112 as operations on bit vectors of W bits, and what the scalar
operations over them compute. -/

namespace Sys2Proof.Machine

theorem wbits_pos (w : Width) : 0 < wbits w := by cases w <;> decide

theorem wbits_le (w : Width) : wbits w ≤ 64 := by cases w <;> decide

/-- A signed reading of the low n bits is the signed value of the n-bit vector. -/
theorem sext_eq_toInt (n x : Nat) (hn : 0 < n) : sext n x = (BitVec.ofNat n x).toInt := by
  rw [BitVec.toInt_eq_toNat_cond, BitVec.toNat_ofNat]
  have hpow : 2 ^ n = 2 * 2 ^ (n - 1) := by rw [← pow_succ']; congr 1; omega
  unfold sext
  simp only
  split_ifs <;> omega

/-- An integer modulo 2^n is the n-bit vector of that integer. -/
theorem wrapNat_eq_toNat (n : Nat) (y : Int) : wrapNat n y = (BitVec.ofInt n y).toNat := by
  simp [wrapNat, BitVec.toNat_ofInt]

/-- sv of R112. -/
theorem sv_eq (w : Width) (x : DWord) : sv w x = (x.setWidth (wbits w)).toInt := by
  rw [sv, sext_eq_toInt _ _ (wbits_pos w), BitVec.ofNat_toNat]

/-- uv of R112. -/
theorem uv_eq (w : Width) (x : DWord) : uv w x = (x.setWidth (wbits w)).toNat := by
  simp [uv]

/-- put of R112: the W-bit vector, sign-extended to all 64 bits. -/
theorem put_eq (w : Width) (y : Int) : put w y = (BitVec.ofInt (wbits w) y).signExtend 64 := by
  rw [put, wrapNat_eq_toNat, sext_eq_toInt _ _ (wbits_pos w), BitVec.ofNat_toNat, BitVec.setWidth_eq, BitVec.signExtend]

/-- The signed immediate of the S slots. -/
theorem imm14_eq (i : BitVec 14) : imm14 i = i.signExtend 64 := rfl

theorem opAdd_eq (w : Width) (x y : DWord) :
    opAdd w x y = (x.setWidth (wbits w) + y.setWidth (wbits w)).signExtend 64 := by
  rw [opAdd, put_eq, sv_eq, sv_eq, BitVec.ofInt_add, BitVec.ofInt_toInt, BitVec.ofInt_toInt]

theorem opSub_eq (w : Width) (x y : DWord) :
    opSub w x y = (x.setWidth (wbits w) - y.setWidth (wbits w)).signExtend 64 := by
  rw [opSub, put_eq, sv_eq, sv_eq, Int.sub_eq_add_neg, BitVec.ofInt_add, BitVec.ofInt_neg, BitVec.ofInt_toInt,
    BitVec.ofInt_toInt, BitVec.sub_eq_add_neg]

theorem opMul_eq (w : Width) (x y : DWord) :
    opMul w x y = (x.setWidth (wbits w) * y.setWidth (wbits w)).signExtend 64 := by
  rw [opMul, put_eq, sv_eq, sv_eq, BitVec.ofInt_mul, BitVec.ofInt_toInt, BitVec.ofInt_toInt]

theorem opAnd_eq (w : Width) (x y : DWord) :
    opAnd w x y = (x.setWidth (wbits w) &&& y.setWidth (wbits w)).signExtend 64 := by
  rw [opAnd, put_eq, BitVec.ofInt_natCast, BitVec.ofNat_toNat, BitVec.setWidth_and]

theorem opOr_eq (w : Width) (x y : DWord) :
    opOr w x y = (x.setWidth (wbits w) ||| y.setWidth (wbits w)).signExtend 64 := by
  rw [opOr, put_eq, BitVec.ofInt_natCast, BitVec.ofNat_toNat, BitVec.setWidth_or]

theorem opXor_eq (w : Width) (x y : DWord) :
    opXor w x y = (x.setWidth (wbits w) ^^^ y.setWidth (wbits w)).signExtend 64 := by
  rw [opXor, put_eq, BitVec.ofInt_natCast, BitVec.ofNat_toNat, BitVec.setWidth_xor]

end Sys2Proof.Machine
end

