-- ==== Sys2Proof/Laws/State.lean ====
section
/-! SUPPORT. The small lemmas of the state: reading a sparse map after a write, and each field of the state after each
update of a cluster, a context, a die, a module and a result in flight. -/

namespace Sys2Proof.Machine

/-! ### Sparse maps -/

@[simp] theorem kget_nil {α : Type} (d : α) (k : Nat) : kget d [] k = d := rfl

@[simp] theorem kget_kset_self {α : Type} (d : α) (m : KMap α) (k : Nat) (x : α) : kget d (kset m k x) k = x := by
  induction m with
  | nil => simp [kset, kget]
  | cons e r ih =>
    obtain ⟨j, y⟩ := e
    rcases lt_trichotomy k j with h | h | h
    · simp [kset, kget, h]
    · simp [kset, kget, h]
    · simp [kset, kget, Nat.not_lt.mpr h.le, h.ne', h.ne, ih]

theorem kget_kset_of_ne {α : Type} (d : α) (m : KMap α) {k j : Nat} (x : α) (h : j ≠ k) :
    kget d (kset m k x) j = kget d m j := by
  induction m with
  | nil => simp [kset, kget, h.symm]
  | cons e r ih =>
    obtain ⟨i, y⟩ := e
    rcases lt_trichotomy k i with h1 | h1 | h1
    · simp [kset, kget, h1, h.symm]
    · subst h1; simp [kset, kget, h.symm]
    · simp [kset, Nat.not_lt.mpr h1.le, h1.ne', kget, ih]

/-- A second write to a key replaces the first. -/
@[simp] theorem kset_kset {α : Type} (m : KMap α) (k : Nat) (x y : α) : kset (kset m k x) k y = kset m k y := by
  induction m with
  | nil => simp [kset]
  | cons e r ih =>
    obtain ⟨j, z⟩ := e
    rcases lt_trichotomy k j with h | h | h
    · simp [kset, h]
    · simp [kset, h]
    · simp [kset, Nat.not_lt.mpr h.le, h.ne', ih]

/-- A key that a write did not name keeps its place and its entry; a missing key is found nowhere. -/
theorem kget_kset {α : Type} (d : α) (m : KMap α) (k j : Nat) (x : α) :
    kget d (kset m k x) j = if j = k then x else kget d m j := by
  split
  · next h => rw [h, kget_kset_self]
  · next h => exact kget_kset_of_ne d m x h

/-! ### Clusters -/

@[simp] theorem State.cluster_setCluster_self (s : State) (k : Nat) (c : Cluster) : (s.setCluster k c).cluster k = c := by
  simp [State.setCluster, State.cluster]

theorem State.cluster_setCluster_of_ne (s : State) {k j : Nat} (c : Cluster) (h : j ≠ k) :
    (s.setCluster k c).cluster j = s.cluster j := by
  simp [State.setCluster, State.cluster, kget_kset_of_ne _ _ _ h]

@[simp] theorem State.setCluster_setCluster (s : State) (k : Nat) (c e : Cluster) :
    (s.setCluster k c).setCluster k e = s.setCluster k e := by
  simp [State.setCluster]

@[simp] theorem State.cluster_updCluster_self (s : State) (k : Nat) (f : Cluster → Cluster) :
    (s.updCluster k f).cluster k = f (s.cluster k) := by
  simp [State.updCluster]

theorem State.cluster_updCluster_of_ne (s : State) {k j : Nat} (f : Cluster → Cluster) (h : j ≠ k) :
    (s.updCluster k f).cluster j = s.cluster j := s.cluster_setCluster_of_ne _ h

@[simp] theorem State.updCluster_updCluster (s : State) (k : Nat) (f g : Cluster → Cluster) :
    (s.updCluster k f).updCluster k g = s.updCluster k (fun c => g (f c)) := by
  simp [State.updCluster]

@[simp] theorem Cluster.ctx_setCtx_self (c : Cluster) (fw : Bool) (x : Ctx) : (c.setCtx fw x).ctx fw = x := by
  cases fw <;> rfl

@[simp] theorem Cluster.ctx_setCtx_not (c : Cluster) (fw : Bool) (x : Ctx) : (c.setCtx fw x).ctx (!fw) = c.ctx (!fw) := by
  cases fw <;> rfl

@[simp] theorem Cluster.setCtx_setCtx (c : Cluster) (fw : Bool) (x y : Ctx) : (c.setCtx fw x).setCtx fw y = c.setCtx fw y := by
  cases fw <;> rfl

/-! ### Fields of a cluster after a context is replaced -/

@[simp] theorem Cluster.setCtx_det (c : Cluster) (b : Bool) (x : Ctx) : (c.setCtx b x).det = c.det := by
  cases b <;> rfl
@[simp] theorem Cluster.setCtx_share (c : Cluster) (b : Bool) (x : Ctx) : (c.setCtx b x).share = c.share := by
  cases b <;> rfl
@[simp] theorem Cluster.setCtx_fwcnt (c : Cluster) (b : Bool) (x : Ctx) : (c.setCtx b x).fwcnt = c.fwcnt := by
  cases b <;> rfl
@[simp] theorem Cluster.setCtx_phbase (c : Cluster) (b : Bool) (x : Ctx) : (c.setCtx b x).phbase = c.phbase := by
  cases b <;> rfl
@[simp] theorem Cluster.setCtx_padm (c : Cluster) (b : Bool) (x : Ctx) : (c.setCtx b x).padm = c.padm := by
  cases b <;> rfl
@[simp] theorem Cluster.setCtx_fmtcfg (c : Cluster) (b : Bool) (x : Ctx) : (c.setCtx b x).fmtcfg = c.fmtcfg := by
  cases b <;> rfl
@[simp] theorem Cluster.setCtx_chainlim (c : Cluster) (b : Bool) (x : Ctx) : (c.setCtx b x).chainlim = c.chainlim := by
  cases b <;> rfl
@[simp] theorem Cluster.setCtx_waitlim (c : Cluster) (b : Bool) (x : Ctx) : (c.setCtx b x).waitlim = c.waitlim := by
  cases b <;> rfl
@[simp] theorem Cluster.setCtx_ckpt (c : Cluster) (b : Bool) (x : Ctx) : (c.setCtx b x).ckpt = c.ckpt := by
  cases b <;> rfl
@[simp] theorem Cluster.setCtx_sem (c : Cluster) (b : Bool) (x : Ctx) : (c.setCtx b x).sem = c.sem := by
  cases b <;> rfl
@[simp] theorem Cluster.setCtx_semLocal (c : Cluster) (b : Bool) (x : Ctx) : (c.setCtx b x).semLocal = c.semLocal := by
  cases b <;> rfl
@[simp] theorem Cluster.setCtx_semSets (c : Cluster) (b : Bool) (x : Ctx) : (c.setCtx b x).semSets = c.semSets := by
  cases b <;> rfl
@[simp] theorem Cluster.setCtx_semWords (c : Cluster) (b : Bool) (x : Ctx) : (c.setCtx b x).semWords = c.semWords := by
  cases b <;> rfl
@[simp] theorem Cluster.setCtx_semIncs (c : Cluster) (b : Bool) (x : Ctx) : (c.setCtx b x).semIncs = c.semIncs := by
  cases b <;> rfl
@[simp] theorem Cluster.setCtx_semNext (c : Cluster) (b : Bool) (x : Ctx) : (c.setCtx b x).semNext = c.semNext := by
  cases b <;> rfl
@[simp] theorem Cluster.setCtx_statusIn (c : Cluster) (b : Bool) (x : Ctx) : (c.setCtx b x).statusIn = c.statusIn := by
  cases b <;> rfl
@[simp] theorem Cluster.setCtx_sync (c : Cluster) (b : Bool) (x : Ctx) : (c.setCtx b x).sync = c.sync := by
  cases b <;> rfl
@[simp] theorem Cluster.setCtx_lastSat (c : Cluster) (b : Bool) (x : Ctx) : (c.setCtx b x).lastSat = c.lastSat := by
  cases b <;> rfl
@[simp] theorem Cluster.setCtx_bar (c : Cluster) (b : Bool) (x : Ctx) : (c.setCtx b x).bar = c.bar := by
  cases b <;> rfl
@[simp] theorem Cluster.setCtx_bind (c : Cluster) (b : Bool) (x : Ctx) : (c.setCtx b x).bind = c.bind := by
  cases b <;> rfl
@[simp] theorem Cluster.setCtx_phases (c : Cluster) (b : Bool) (x : Ctx) : (c.setCtx b x).phases = c.phases := by
  cases b <;> rfl
@[simp] theorem Cluster.setCtx_phase (c : Cluster) (b : Bool) (x : Ctx) : (c.setCtx b x).phase = c.phase := by
  cases b <;> rfl
@[simp] theorem Cluster.setCtx_launch (c : Cluster) (b : Bool) (x : Ctx) : (c.setCtx b x).launch = c.launch := by
  cases b <;> rfl
@[simp] theorem Cluster.setCtx_mapreqs (c : Cluster) (b : Bool) (x : Ctx) : (c.setCtx b x).mapreqs = c.mapreqs := by
  cases b <;> rfl
@[simp] theorem Cluster.setCtx_scPos (c : Cluster) (b : Bool) (x : Ctx) : (c.setCtx b x).scPos = c.scPos := by
  cases b <;> rfl
@[simp] theorem Cluster.setCtx_done (c : Cluster) (b : Bool) (x : Ctx) : (c.setCtx b x).done = c.done := by
  cases b <;> rfl
@[simp] theorem Cluster.setCtx_sestat (c : Cluster) (b : Bool) (x : Ctx) : (c.setCtx b x).sestat = c.sestat := by
  cases b <;> rfl
@[simp] theorem Cluster.setCtx_windows (c : Cluster) (b : Bool) (x : Ctx) : (c.setCtx b x).windows = c.windows := by
  cases b <;> rfl
@[simp] theorem Cluster.setCtx_drlHead (c : Cluster) (b : Bool) (x : Ctx) : (c.setCtx b x).drlHead = c.drlHead := by
  cases b <;> rfl
@[simp] theorem Cluster.setCtx_drlNew (c : Cluster) (b : Bool) (x : Ctx) : (c.setCtx b x).drlNew = c.drlNew := by
  cases b <;> rfl
@[simp] theorem Cluster.setCtx_drlTail (c : Cluster) (b : Bool) (x : Ctx) : (c.setCtx b x).drlTail = c.drlTail := by
  cases b <;> rfl
@[simp] theorem Cluster.setCtx_drlOvf (c : Cluster) (b : Bool) (x : Ctx) : (c.setCtx b x).drlOvf = c.drlOvf := by
  cases b <;> rfl
@[simp] theorem Cluster.setCtx_drlSeq (c : Cluster) (b : Bool) (x : Ctx) : (c.setCtx b x).drlSeq = c.drlSeq := by
  cases b <;> rfl
@[simp] theorem Cluster.setCtx_drl (c : Cluster) (b : Bool) (x : Ctx) : (c.setCtx b x).drl = c.drl := by
  cases b <;> rfl
@[simp] theorem Cluster.setCtx_ich (c : Cluster) (b : Bool) (x : Ctx) : (c.setCtx b x).ich = c.ich := by
  cases b <;> rfl
@[simp] theorem Cluster.setCtx_och (c : Cluster) (b : Bool) (x : Ctx) : (c.setCtx b x).och = c.och := by
  cases b <;> rfl
@[simp] theorem Cluster.setCtx_wake (c : Cluster) (b : Bool) (x : Ctx) : (c.setCtx b x).wake = c.wake := by
  cases b <;> rfl
@[simp] theorem Cluster.setCtx_last (c : Cluster) (b : Bool) (x : Ctx) : (c.setCtx b x).last = c.last := by
  cases b <;> rfl
@[simp] theorem Cluster.setCtx_streams (c : Cluster) (b : Bool) (x : Ctx) : (c.setCtx b x).streams = c.streams := by
  cases b <;> rfl
@[simp] theorem Cluster.setCtx_sbars (c : Cluster) (b : Bool) (x : Ctx) : (c.setCtx b x).sbars = c.sbars := by
  cases b <;> rfl
@[simp] theorem Cluster.setCtx_mx (c : Cluster) (b : Bool) (x : Ctx) : (c.setCtx b x).mx = c.mx := by
  cases b <;> rfl
@[simp] theorem Cluster.setCtx_block (c : Cluster) (b : Bool) (x : Ctx) : (c.setCtx b x).block = c.block := by
  cases b <;> rfl
@[simp] theorem Cluster.setCtx_tch (c : Cluster) (b : Bool) (x : Ctx) : (c.setCtx b x).tch = c.tch := by
  cases b <;> rfl
@[simp] theorem Cluster.setCtx_ibuf (c : Cluster) (b : Bool) (x : Ctx) : (c.setCtx b x).ibuf = c.ibuf := by
  cases b <;> rfl
@[simp] theorem Cluster.setCtx_wanted (c : Cluster) (b : Bool) (x : Ctx) : (c.setCtx b x).wanted = c.wanted := by
  cases b <;> rfl
@[simp] theorem Cluster.setCtx_fenced (c : Cluster) (b : Bool) (x : Ctx) : (c.setCtx b x).fenced = c.fenced := by
  cases b <;> rfl
@[simp] theorem Cluster.setCtx_plAddr (c : Cluster) (b : Bool) (x : Ctx) : (c.setCtx b x).plAddr = c.plAddr := by
  cases b <;> rfl
@[simp] theorem Cluster.setCtx_plBusy (c : Cluster) (b : Bool) (x : Ctx) : (c.setCtx b x).plBusy = c.plBusy := by
  cases b <;> rfl
@[simp] theorem Cluster.setCtx_plFail (c : Cluster) (b : Bool) (x : Ctx) : (c.setCtx b x).plFail = c.plFail := by
  cases b <;> rfl
@[simp] theorem Cluster.setCtx_plRepl (c : Cluster) (b : Bool) (x : Ctx) : (c.setCtx b x).plRepl = c.plRepl := by
  cases b <;> rfl
@[simp] theorem Cluster.setCtx_plEvict (c : Cluster) (b : Bool) (x : Ctx) : (c.setCtx b x).plEvict = c.plEvict := by
  cases b <;> rfl
@[simp] theorem Cluster.setCtx_lhpol (c : Cluster) (b : Bool) (x : Ctx) : (c.setCtx b x).lhpol = c.lhpol := by
  cases b <;> rfl
@[simp] theorem Cluster.setCtx_acctab (c : Cluster) (b : Bool) (x : Ctx) : (c.setCtx b x).acctab = c.acctab := by
  cases b <;> rfl
@[simp] theorem Cluster.setCtx_bad (c : Cluster) (b : Bool) (x : Ctx) : (c.setCtx b x).bad = c.bad := by
  cases b <;> rfl
@[simp] theorem Cluster.setCtx_staging (c : Cluster) (b : Bool) (x : Ctx) : (c.setCtx b x).staging = c.staging := by
  cases b <;> rfl
@[simp] theorem Cluster.setCtx_savearea (c : Cluster) (b : Bool) (x : Ctx) : (c.setCtx b x).savearea = c.savearea := by
  cases b <;> rfl
@[simp] theorem Cluster.setCtx_ckptOut (c : Cluster) (b : Bool) (x : Ctx) : (c.setCtx b x).ckptOut = c.ckptOut := by
  cases b <;> rfl
@[simp] theorem Cluster.setCtx_ckptSeq (c : Cluster) (b : Bool) (x : Ctx) : (c.setCtx b x).ckptSeq = c.ckptSeq := by
  cases b <;> rfl
@[simp] theorem Cluster.setCtx_ckptAt (c : Cluster) (b : Bool) (x : Ctx) : (c.setCtx b x).ckptAt = c.ckptAt := by
  cases b <;> rfl
@[simp] theorem Cluster.setCtx_ckptDrl (c : Cluster) (b : Bool) (x : Ctx) : (c.setCtx b x).ckptDrl = c.ckptDrl := by
  cases b <;> rfl
@[simp] theorem Cluster.setCtx_ckptHold (c : Cluster) (b : Bool) (x : Ctx) : (c.setCtx b x).ckptHold = c.ckptHold := by
  cases b <;> rfl
@[simp] theorem Cluster.setCtx_buddy (c : Cluster) (b : Bool) (x : Ctx) : (c.setCtx b x).buddy = c.buddy := by
  cases b <;> rfl

/-! ### Fields of the state after each update -/

@[simp] theorem State.setCluster_now (s : State) (k : Nat) (c : Cluster) : (s.setCluster k c).now = s.now := rfl
@[simp] theorem State.setCluster_mem (s : State) (k : Nat) (c : Cluster) : (s.setCluster k c).mem = s.mem := rfl
@[simp] theorem State.setCluster_pmem (s : State) (k : Nat) (c : Cluster) : (s.setCluster k c).pmem = s.pmem := rfl
@[simp] theorem State.setCluster_die (s : State) (k : Nat) (c : Cluster) : (s.setCluster k c).die = s.die := rfl
@[simp] theorem State.setCluster_md (s : State) (k : Nat) (c : Cluster) : (s.setCluster k c).md = s.md := rfl
@[simp] theorem State.setCluster_net (s : State) (k : Nat) (c : Cluster) : (s.setCluster k c).net = s.net := rfl
@[simp] theorem State.setCluster_nextId (s : State) (k : Nat) (c : Cluster) : (s.setCluster k c).nextId = s.nextId := rfl
@[simp] theorem State.setCluster_wires (s : State) (k : Nat) (c : Cluster) : (s.setCluster k c).wires = s.wires := rfl
@[simp] theorem State.setCluster_saves (s : State) (k : Nat) (c : Cluster) : (s.setCluster k c).saves = s.saves := rfl
@[simp] theorem State.setCluster_staged (s : State) (k : Nat) (c : Cluster) : (s.setCluster k c).staged = s.staged := rfl
@[simp] theorem State.setCluster_images (s : State) (k : Nat) (c : Cluster) : (s.setCluster k c).images = s.images := rfl
@[simp] theorem State.setCluster_cur (s : State) (k : Nat) (c : Cluster) : (s.setCluster k c).cur = s.cur := rfl
@[simp] theorem State.setCluster_curFw (s : State) (k : Nat) (c : Cluster) : (s.setCluster k c).curFw = s.curFw := rfl
@[simp] theorem State.setCluster_slot (s : State) (k : Nat) (c : Cluster) : (s.setCluster k c).slot = s.slot := rfl
@[simp] theorem State.setCluster_word (s : State) (k : Nat) (c : Cluster) : (s.setCluster k c).word = s.word := rfl
@[simp] theorem State.setCluster_slotWord (s : State) (k : Nat) (c : Cluster) : (s.setCluster k c).slotWord = s.slotWord := rfl
@[simp] theorem State.setCluster_stop (s : State) (k : Nat) (c : Cluster) : (s.setCluster k c).stop = s.stop := rfl
@[simp] theorem State.setCluster_turn (s : State) (k : Nat) (c : Cluster) : (s.setCluster k c).turn = s.turn := rfl
@[simp] theorem State.setCluster_extra (s : State) (k : Nat) (c : Cluster) : (s.setCluster k c).extra = s.extra := rfl
@[simp] theorem State.setCluster_inputs (s : State) (k : Nat) (c : Cluster) : (s.setCluster k c).inputs = s.inputs := rfl
@[simp] theorem State.setCluster_outputs (s : State) (k : Nat) (c : Cluster) : (s.setCluster k c).outputs = s.outputs := rfl
@[simp] theorem State.setCluster_free (s : State) (k : Nat) (c : Cluster) : (s.setCluster k c).free = s.free := rfl

@[simp] theorem State.updCluster_now (s : State) (k : Nat) (g : Cluster → Cluster) : (s.updCluster k g).now = s.now := rfl
@[simp] theorem State.updCluster_mem (s : State) (k : Nat) (g : Cluster → Cluster) : (s.updCluster k g).mem = s.mem := rfl
@[simp] theorem State.updCluster_pmem (s : State) (k : Nat) (g : Cluster → Cluster) : (s.updCluster k g).pmem = s.pmem := rfl
@[simp] theorem State.updCluster_die (s : State) (k : Nat) (g : Cluster → Cluster) : (s.updCluster k g).die = s.die := rfl
@[simp] theorem State.updCluster_md (s : State) (k : Nat) (g : Cluster → Cluster) : (s.updCluster k g).md = s.md := rfl
@[simp] theorem State.updCluster_net (s : State) (k : Nat) (g : Cluster → Cluster) : (s.updCluster k g).net = s.net := rfl
@[simp] theorem State.updCluster_nextId (s : State) (k : Nat) (g : Cluster → Cluster) : (s.updCluster k g).nextId = s.nextId := rfl
@[simp] theorem State.updCluster_wires (s : State) (k : Nat) (g : Cluster → Cluster) : (s.updCluster k g).wires = s.wires := rfl
@[simp] theorem State.updCluster_saves (s : State) (k : Nat) (g : Cluster → Cluster) : (s.updCluster k g).saves = s.saves := rfl
@[simp] theorem State.updCluster_staged (s : State) (k : Nat) (g : Cluster → Cluster) : (s.updCluster k g).staged = s.staged := rfl
@[simp] theorem State.updCluster_images (s : State) (k : Nat) (g : Cluster → Cluster) : (s.updCluster k g).images = s.images := rfl
@[simp] theorem State.updCluster_cur (s : State) (k : Nat) (g : Cluster → Cluster) : (s.updCluster k g).cur = s.cur := rfl
@[simp] theorem State.updCluster_curFw (s : State) (k : Nat) (g : Cluster → Cluster) : (s.updCluster k g).curFw = s.curFw := rfl
@[simp] theorem State.updCluster_slot (s : State) (k : Nat) (g : Cluster → Cluster) : (s.updCluster k g).slot = s.slot := rfl
@[simp] theorem State.updCluster_word (s : State) (k : Nat) (g : Cluster → Cluster) : (s.updCluster k g).word = s.word := rfl
@[simp] theorem State.updCluster_slotWord (s : State) (k : Nat) (g : Cluster → Cluster) : (s.updCluster k g).slotWord = s.slotWord := rfl
@[simp] theorem State.updCluster_stop (s : State) (k : Nat) (g : Cluster → Cluster) : (s.updCluster k g).stop = s.stop := rfl
@[simp] theorem State.updCluster_turn (s : State) (k : Nat) (g : Cluster → Cluster) : (s.updCluster k g).turn = s.turn := rfl
@[simp] theorem State.updCluster_extra (s : State) (k : Nat) (g : Cluster → Cluster) : (s.updCluster k g).extra = s.extra := rfl
@[simp] theorem State.updCluster_inputs (s : State) (k : Nat) (g : Cluster → Cluster) : (s.updCluster k g).inputs = s.inputs := rfl
@[simp] theorem State.updCluster_outputs (s : State) (k : Nat) (g : Cluster → Cluster) : (s.updCluster k g).outputs = s.outputs := rfl
@[simp] theorem State.updCluster_free (s : State) (k : Nat) (g : Cluster → Cluster) : (s.updCluster k g).free = s.free := rfl

@[simp] theorem State.updMe_now (s : State) (g : Cluster → Cluster) : (s.updMe g).now = s.now := rfl
@[simp] theorem State.updMe_mem (s : State) (g : Cluster → Cluster) : (s.updMe g).mem = s.mem := rfl
@[simp] theorem State.updMe_pmem (s : State) (g : Cluster → Cluster) : (s.updMe g).pmem = s.pmem := rfl
@[simp] theorem State.updMe_die (s : State) (g : Cluster → Cluster) : (s.updMe g).die = s.die := rfl
@[simp] theorem State.updMe_md (s : State) (g : Cluster → Cluster) : (s.updMe g).md = s.md := rfl
@[simp] theorem State.updMe_net (s : State) (g : Cluster → Cluster) : (s.updMe g).net = s.net := rfl
@[simp] theorem State.updMe_nextId (s : State) (g : Cluster → Cluster) : (s.updMe g).nextId = s.nextId := rfl
@[simp] theorem State.updMe_wires (s : State) (g : Cluster → Cluster) : (s.updMe g).wires = s.wires := rfl
@[simp] theorem State.updMe_saves (s : State) (g : Cluster → Cluster) : (s.updMe g).saves = s.saves := rfl
@[simp] theorem State.updMe_staged (s : State) (g : Cluster → Cluster) : (s.updMe g).staged = s.staged := rfl
@[simp] theorem State.updMe_images (s : State) (g : Cluster → Cluster) : (s.updMe g).images = s.images := rfl
@[simp] theorem State.updMe_cur (s : State) (g : Cluster → Cluster) : (s.updMe g).cur = s.cur := rfl
@[simp] theorem State.updMe_curFw (s : State) (g : Cluster → Cluster) : (s.updMe g).curFw = s.curFw := rfl
@[simp] theorem State.updMe_slot (s : State) (g : Cluster → Cluster) : (s.updMe g).slot = s.slot := rfl
@[simp] theorem State.updMe_word (s : State) (g : Cluster → Cluster) : (s.updMe g).word = s.word := rfl
@[simp] theorem State.updMe_slotWord (s : State) (g : Cluster → Cluster) : (s.updMe g).slotWord = s.slotWord := rfl
@[simp] theorem State.updMe_stop (s : State) (g : Cluster → Cluster) : (s.updMe g).stop = s.stop := rfl
@[simp] theorem State.updMe_turn (s : State) (g : Cluster → Cluster) : (s.updMe g).turn = s.turn := rfl
@[simp] theorem State.updMe_extra (s : State) (g : Cluster → Cluster) : (s.updMe g).extra = s.extra := rfl
@[simp] theorem State.updMe_inputs (s : State) (g : Cluster → Cluster) : (s.updMe g).inputs = s.inputs := rfl
@[simp] theorem State.updMe_outputs (s : State) (g : Cluster → Cluster) : (s.updMe g).outputs = s.outputs := rfl
@[simp] theorem State.updMe_free (s : State) (g : Cluster → Cluster) : (s.updMe g).free = s.free := rfl

@[simp] theorem State.setCtxOf_now (s : State) (k : Nat) (b : Bool) (x : Ctx) : (s.setCtxOf k b x).now = s.now := rfl
@[simp] theorem State.setCtxOf_mem (s : State) (k : Nat) (b : Bool) (x : Ctx) : (s.setCtxOf k b x).mem = s.mem := rfl
@[simp] theorem State.setCtxOf_pmem (s : State) (k : Nat) (b : Bool) (x : Ctx) : (s.setCtxOf k b x).pmem = s.pmem := rfl
@[simp] theorem State.setCtxOf_die (s : State) (k : Nat) (b : Bool) (x : Ctx) : (s.setCtxOf k b x).die = s.die := rfl
@[simp] theorem State.setCtxOf_md (s : State) (k : Nat) (b : Bool) (x : Ctx) : (s.setCtxOf k b x).md = s.md := rfl
@[simp] theorem State.setCtxOf_net (s : State) (k : Nat) (b : Bool) (x : Ctx) : (s.setCtxOf k b x).net = s.net := rfl
@[simp] theorem State.setCtxOf_nextId (s : State) (k : Nat) (b : Bool) (x : Ctx) : (s.setCtxOf k b x).nextId = s.nextId := rfl
@[simp] theorem State.setCtxOf_wires (s : State) (k : Nat) (b : Bool) (x : Ctx) : (s.setCtxOf k b x).wires = s.wires := rfl
@[simp] theorem State.setCtxOf_saves (s : State) (k : Nat) (b : Bool) (x : Ctx) : (s.setCtxOf k b x).saves = s.saves := rfl
@[simp] theorem State.setCtxOf_staged (s : State) (k : Nat) (b : Bool) (x : Ctx) : (s.setCtxOf k b x).staged = s.staged := rfl
@[simp] theorem State.setCtxOf_images (s : State) (k : Nat) (b : Bool) (x : Ctx) : (s.setCtxOf k b x).images = s.images := rfl
@[simp] theorem State.setCtxOf_cur (s : State) (k : Nat) (b : Bool) (x : Ctx) : (s.setCtxOf k b x).cur = s.cur := rfl
@[simp] theorem State.setCtxOf_curFw (s : State) (k : Nat) (b : Bool) (x : Ctx) : (s.setCtxOf k b x).curFw = s.curFw := rfl
@[simp] theorem State.setCtxOf_slot (s : State) (k : Nat) (b : Bool) (x : Ctx) : (s.setCtxOf k b x).slot = s.slot := rfl
@[simp] theorem State.setCtxOf_word (s : State) (k : Nat) (b : Bool) (x : Ctx) : (s.setCtxOf k b x).word = s.word := rfl
@[simp] theorem State.setCtxOf_slotWord (s : State) (k : Nat) (b : Bool) (x : Ctx) : (s.setCtxOf k b x).slotWord = s.slotWord := rfl
@[simp] theorem State.setCtxOf_stop (s : State) (k : Nat) (b : Bool) (x : Ctx) : (s.setCtxOf k b x).stop = s.stop := rfl
@[simp] theorem State.setCtxOf_turn (s : State) (k : Nat) (b : Bool) (x : Ctx) : (s.setCtxOf k b x).turn = s.turn := rfl
@[simp] theorem State.setCtxOf_extra (s : State) (k : Nat) (b : Bool) (x : Ctx) : (s.setCtxOf k b x).extra = s.extra := rfl
@[simp] theorem State.setCtxOf_inputs (s : State) (k : Nat) (b : Bool) (x : Ctx) : (s.setCtxOf k b x).inputs = s.inputs := rfl
@[simp] theorem State.setCtxOf_outputs (s : State) (k : Nat) (b : Bool) (x : Ctx) : (s.setCtxOf k b x).outputs = s.outputs := rfl
@[simp] theorem State.setCtxOf_free (s : State) (k : Nat) (b : Bool) (x : Ctx) : (s.setCtxOf k b x).free = s.free := rfl

@[simp] theorem State.updCtx_now (s : State) (g : Ctx → Ctx) : (s.updCtx g).now = s.now := rfl
@[simp] theorem State.updCtx_mem (s : State) (g : Ctx → Ctx) : (s.updCtx g).mem = s.mem := rfl
@[simp] theorem State.updCtx_pmem (s : State) (g : Ctx → Ctx) : (s.updCtx g).pmem = s.pmem := rfl
@[simp] theorem State.updCtx_die (s : State) (g : Ctx → Ctx) : (s.updCtx g).die = s.die := rfl
@[simp] theorem State.updCtx_md (s : State) (g : Ctx → Ctx) : (s.updCtx g).md = s.md := rfl
@[simp] theorem State.updCtx_net (s : State) (g : Ctx → Ctx) : (s.updCtx g).net = s.net := rfl
@[simp] theorem State.updCtx_nextId (s : State) (g : Ctx → Ctx) : (s.updCtx g).nextId = s.nextId := rfl
@[simp] theorem State.updCtx_wires (s : State) (g : Ctx → Ctx) : (s.updCtx g).wires = s.wires := rfl
@[simp] theorem State.updCtx_saves (s : State) (g : Ctx → Ctx) : (s.updCtx g).saves = s.saves := rfl
@[simp] theorem State.updCtx_staged (s : State) (g : Ctx → Ctx) : (s.updCtx g).staged = s.staged := rfl
@[simp] theorem State.updCtx_images (s : State) (g : Ctx → Ctx) : (s.updCtx g).images = s.images := rfl
@[simp] theorem State.updCtx_cur (s : State) (g : Ctx → Ctx) : (s.updCtx g).cur = s.cur := rfl
@[simp] theorem State.updCtx_curFw (s : State) (g : Ctx → Ctx) : (s.updCtx g).curFw = s.curFw := rfl
@[simp] theorem State.updCtx_slot (s : State) (g : Ctx → Ctx) : (s.updCtx g).slot = s.slot := rfl
@[simp] theorem State.updCtx_word (s : State) (g : Ctx → Ctx) : (s.updCtx g).word = s.word := rfl
@[simp] theorem State.updCtx_slotWord (s : State) (g : Ctx → Ctx) : (s.updCtx g).slotWord = s.slotWord := rfl
@[simp] theorem State.updCtx_stop (s : State) (g : Ctx → Ctx) : (s.updCtx g).stop = s.stop := rfl
@[simp] theorem State.updCtx_turn (s : State) (g : Ctx → Ctx) : (s.updCtx g).turn = s.turn := rfl
@[simp] theorem State.updCtx_extra (s : State) (g : Ctx → Ctx) : (s.updCtx g).extra = s.extra := rfl
@[simp] theorem State.updCtx_inputs (s : State) (g : Ctx → Ctx) : (s.updCtx g).inputs = s.inputs := rfl
@[simp] theorem State.updCtx_outputs (s : State) (g : Ctx → Ctx) : (s.updCtx g).outputs = s.outputs := rfl
@[simp] theorem State.updCtx_free (s : State) (g : Ctx → Ctx) : (s.updCtx g).free = s.free := rfl

@[simp] theorem State.updDie_now (s : State) (k : Nat) (g : Die → Die) : (s.updDie k g).now = s.now := rfl
@[simp] theorem State.updDie_mem (s : State) (k : Nat) (g : Die → Die) : (s.updDie k g).mem = s.mem := rfl
@[simp] theorem State.updDie_pmem (s : State) (k : Nat) (g : Die → Die) : (s.updDie k g).pmem = s.pmem := rfl
@[simp] theorem State.updDie_cl (s : State) (k : Nat) (g : Die → Die) : (s.updDie k g).cl = s.cl := rfl
@[simp] theorem State.updDie_md (s : State) (k : Nat) (g : Die → Die) : (s.updDie k g).md = s.md := rfl
@[simp] theorem State.updDie_net (s : State) (k : Nat) (g : Die → Die) : (s.updDie k g).net = s.net := rfl
@[simp] theorem State.updDie_nextId (s : State) (k : Nat) (g : Die → Die) : (s.updDie k g).nextId = s.nextId := rfl
@[simp] theorem State.updDie_wires (s : State) (k : Nat) (g : Die → Die) : (s.updDie k g).wires = s.wires := rfl
@[simp] theorem State.updDie_saves (s : State) (k : Nat) (g : Die → Die) : (s.updDie k g).saves = s.saves := rfl
@[simp] theorem State.updDie_staged (s : State) (k : Nat) (g : Die → Die) : (s.updDie k g).staged = s.staged := rfl
@[simp] theorem State.updDie_images (s : State) (k : Nat) (g : Die → Die) : (s.updDie k g).images = s.images := rfl
@[simp] theorem State.updDie_cur (s : State) (k : Nat) (g : Die → Die) : (s.updDie k g).cur = s.cur := rfl
@[simp] theorem State.updDie_curFw (s : State) (k : Nat) (g : Die → Die) : (s.updDie k g).curFw = s.curFw := rfl
@[simp] theorem State.updDie_slot (s : State) (k : Nat) (g : Die → Die) : (s.updDie k g).slot = s.slot := rfl
@[simp] theorem State.updDie_word (s : State) (k : Nat) (g : Die → Die) : (s.updDie k g).word = s.word := rfl
@[simp] theorem State.updDie_slotWord (s : State) (k : Nat) (g : Die → Die) : (s.updDie k g).slotWord = s.slotWord := rfl
@[simp] theorem State.updDie_stop (s : State) (k : Nat) (g : Die → Die) : (s.updDie k g).stop = s.stop := rfl
@[simp] theorem State.updDie_turn (s : State) (k : Nat) (g : Die → Die) : (s.updDie k g).turn = s.turn := rfl
@[simp] theorem State.updDie_extra (s : State) (k : Nat) (g : Die → Die) : (s.updDie k g).extra = s.extra := rfl
@[simp] theorem State.updDie_inputs (s : State) (k : Nat) (g : Die → Die) : (s.updDie k g).inputs = s.inputs := rfl
@[simp] theorem State.updDie_outputs (s : State) (k : Nat) (g : Die → Die) : (s.updDie k g).outputs = s.outputs := rfl
@[simp] theorem State.updDie_free (s : State) (k : Nat) (g : Die → Die) : (s.updDie k g).free = s.free := rfl

@[simp] theorem State.updModule_now (s : State) (k : Nat) (g : Module → Module) : (s.updModule k g).now = s.now := rfl
@[simp] theorem State.updModule_mem (s : State) (k : Nat) (g : Module → Module) : (s.updModule k g).mem = s.mem := rfl
@[simp] theorem State.updModule_pmem (s : State) (k : Nat) (g : Module → Module) : (s.updModule k g).pmem = s.pmem := rfl
@[simp] theorem State.updModule_cl (s : State) (k : Nat) (g : Module → Module) : (s.updModule k g).cl = s.cl := rfl
@[simp] theorem State.updModule_die (s : State) (k : Nat) (g : Module → Module) : (s.updModule k g).die = s.die := rfl
@[simp] theorem State.updModule_net (s : State) (k : Nat) (g : Module → Module) : (s.updModule k g).net = s.net := rfl
@[simp] theorem State.updModule_nextId (s : State) (k : Nat) (g : Module → Module) : (s.updModule k g).nextId = s.nextId := rfl
@[simp] theorem State.updModule_wires (s : State) (k : Nat) (g : Module → Module) : (s.updModule k g).wires = s.wires := rfl
@[simp] theorem State.updModule_saves (s : State) (k : Nat) (g : Module → Module) : (s.updModule k g).saves = s.saves := rfl
@[simp] theorem State.updModule_staged (s : State) (k : Nat) (g : Module → Module) : (s.updModule k g).staged = s.staged := rfl
@[simp] theorem State.updModule_images (s : State) (k : Nat) (g : Module → Module) : (s.updModule k g).images = s.images := rfl
@[simp] theorem State.updModule_cur (s : State) (k : Nat) (g : Module → Module) : (s.updModule k g).cur = s.cur := rfl
@[simp] theorem State.updModule_curFw (s : State) (k : Nat) (g : Module → Module) : (s.updModule k g).curFw = s.curFw := rfl
@[simp] theorem State.updModule_slot (s : State) (k : Nat) (g : Module → Module) : (s.updModule k g).slot = s.slot := rfl
@[simp] theorem State.updModule_word (s : State) (k : Nat) (g : Module → Module) : (s.updModule k g).word = s.word := rfl
@[simp] theorem State.updModule_slotWord (s : State) (k : Nat) (g : Module → Module) : (s.updModule k g).slotWord = s.slotWord := rfl
@[simp] theorem State.updModule_stop (s : State) (k : Nat) (g : Module → Module) : (s.updModule k g).stop = s.stop := rfl
@[simp] theorem State.updModule_turn (s : State) (k : Nat) (g : Module → Module) : (s.updModule k g).turn = s.turn := rfl
@[simp] theorem State.updModule_extra (s : State) (k : Nat) (g : Module → Module) : (s.updModule k g).extra = s.extra := rfl
@[simp] theorem State.updModule_inputs (s : State) (k : Nat) (g : Module → Module) : (s.updModule k g).inputs = s.inputs := rfl
@[simp] theorem State.updModule_outputs (s : State) (k : Nat) (g : Module → Module) : (s.updModule k g).outputs = s.outputs := rfl
@[simp] theorem State.updModule_free (s : State) (k : Nat) (g : Module → Module) : (s.updModule k g).free = s.free := rfl

@[simp] theorem State.push_now (s : State) (n : Nat) (d : Dest) : (s.push n d).now = s.now := rfl
@[simp] theorem State.push_mem (s : State) (n : Nat) (d : Dest) : (s.push n d).mem = s.mem := rfl
@[simp] theorem State.push_pmem (s : State) (n : Nat) (d : Dest) : (s.push n d).pmem = s.pmem := rfl
@[simp] theorem State.push_die (s : State) (n : Nat) (d : Dest) : (s.push n d).die = s.die := rfl
@[simp] theorem State.push_md (s : State) (n : Nat) (d : Dest) : (s.push n d).md = s.md := rfl
@[simp] theorem State.push_net (s : State) (n : Nat) (d : Dest) : (s.push n d).net = s.net := rfl
@[simp] theorem State.push_nextId (s : State) (n : Nat) (d : Dest) : (s.push n d).nextId = s.nextId := rfl
@[simp] theorem State.push_wires (s : State) (n : Nat) (d : Dest) : (s.push n d).wires = s.wires := rfl
@[simp] theorem State.push_saves (s : State) (n : Nat) (d : Dest) : (s.push n d).saves = s.saves := rfl
@[simp] theorem State.push_staged (s : State) (n : Nat) (d : Dest) : (s.push n d).staged = s.staged := rfl
@[simp] theorem State.push_images (s : State) (n : Nat) (d : Dest) : (s.push n d).images = s.images := rfl
@[simp] theorem State.push_cur (s : State) (n : Nat) (d : Dest) : (s.push n d).cur = s.cur := rfl
@[simp] theorem State.push_curFw (s : State) (n : Nat) (d : Dest) : (s.push n d).curFw = s.curFw := rfl
@[simp] theorem State.push_slot (s : State) (n : Nat) (d : Dest) : (s.push n d).slot = s.slot := rfl
@[simp] theorem State.push_word (s : State) (n : Nat) (d : Dest) : (s.push n d).word = s.word := rfl
@[simp] theorem State.push_slotWord (s : State) (n : Nat) (d : Dest) : (s.push n d).slotWord = s.slotWord := rfl
@[simp] theorem State.push_stop (s : State) (n : Nat) (d : Dest) : (s.push n d).stop = s.stop := rfl
@[simp] theorem State.push_turn (s : State) (n : Nat) (d : Dest) : (s.push n d).turn = s.turn := rfl
@[simp] theorem State.push_extra (s : State) (n : Nat) (d : Dest) : (s.push n d).extra = s.extra := rfl
@[simp] theorem State.push_inputs (s : State) (n : Nat) (d : Dest) : (s.push n d).inputs = s.inputs := rfl
@[simp] theorem State.push_outputs (s : State) (n : Nat) (d : Dest) : (s.push n d).outputs = s.outputs := rfl
@[simp] theorem State.push_free (s : State) (n : Nat) (d : Dest) : (s.push n d).free = s.free := rfl

@[simp] theorem State.pushS_now (s : State) (n : Nat) (d : SReg) (v : DWord) (p : Bool) : (s.pushS n d v p).now = s.now := by
  unfold State.pushS; split <;> rfl
@[simp] theorem State.pushS_mem (s : State) (n : Nat) (d : SReg) (v : DWord) (p : Bool) : (s.pushS n d v p).mem = s.mem := by
  unfold State.pushS; split <;> rfl
@[simp] theorem State.pushS_pmem (s : State) (n : Nat) (d : SReg) (v : DWord) (p : Bool) : (s.pushS n d v p).pmem = s.pmem := by
  unfold State.pushS; split <;> rfl
@[simp] theorem State.pushS_die (s : State) (n : Nat) (d : SReg) (v : DWord) (p : Bool) : (s.pushS n d v p).die = s.die := by
  unfold State.pushS; split <;> rfl
@[simp] theorem State.pushS_md (s : State) (n : Nat) (d : SReg) (v : DWord) (p : Bool) : (s.pushS n d v p).md = s.md := by
  unfold State.pushS; split <;> rfl
@[simp] theorem State.pushS_net (s : State) (n : Nat) (d : SReg) (v : DWord) (p : Bool) : (s.pushS n d v p).net = s.net := by
  unfold State.pushS; split <;> rfl
@[simp] theorem State.pushS_nextId (s : State) (n : Nat) (d : SReg) (v : DWord) (p : Bool) : (s.pushS n d v p).nextId = s.nextId := by
  unfold State.pushS; split <;> rfl
@[simp] theorem State.pushS_wires (s : State) (n : Nat) (d : SReg) (v : DWord) (p : Bool) : (s.pushS n d v p).wires = s.wires := by
  unfold State.pushS; split <;> rfl
@[simp] theorem State.pushS_saves (s : State) (n : Nat) (d : SReg) (v : DWord) (p : Bool) : (s.pushS n d v p).saves = s.saves := by
  unfold State.pushS; split <;> rfl
@[simp] theorem State.pushS_staged (s : State) (n : Nat) (d : SReg) (v : DWord) (p : Bool) : (s.pushS n d v p).staged = s.staged := by
  unfold State.pushS; split <;> rfl
@[simp] theorem State.pushS_images (s : State) (n : Nat) (d : SReg) (v : DWord) (p : Bool) : (s.pushS n d v p).images = s.images := by
  unfold State.pushS; split <;> rfl
@[simp] theorem State.pushS_cur (s : State) (n : Nat) (d : SReg) (v : DWord) (p : Bool) : (s.pushS n d v p).cur = s.cur := by
  unfold State.pushS; split <;> rfl
@[simp] theorem State.pushS_curFw (s : State) (n : Nat) (d : SReg) (v : DWord) (p : Bool) : (s.pushS n d v p).curFw = s.curFw := by
  unfold State.pushS; split <;> rfl
@[simp] theorem State.pushS_slot (s : State) (n : Nat) (d : SReg) (v : DWord) (p : Bool) : (s.pushS n d v p).slot = s.slot := by
  unfold State.pushS; split <;> rfl
@[simp] theorem State.pushS_word (s : State) (n : Nat) (d : SReg) (v : DWord) (p : Bool) : (s.pushS n d v p).word = s.word := by
  unfold State.pushS; split <;> rfl
@[simp] theorem State.pushS_slotWord (s : State) (n : Nat) (d : SReg) (v : DWord) (p : Bool) : (s.pushS n d v p).slotWord = s.slotWord := by
  unfold State.pushS; split <;> rfl
@[simp] theorem State.pushS_stop (s : State) (n : Nat) (d : SReg) (v : DWord) (p : Bool) : (s.pushS n d v p).stop = s.stop := by
  unfold State.pushS; split <;> rfl
@[simp] theorem State.pushS_turn (s : State) (n : Nat) (d : SReg) (v : DWord) (p : Bool) : (s.pushS n d v p).turn = s.turn := by
  unfold State.pushS; split <;> rfl
@[simp] theorem State.pushS_extra (s : State) (n : Nat) (d : SReg) (v : DWord) (p : Bool) : (s.pushS n d v p).extra = s.extra := by
  unfold State.pushS; split <;> rfl
@[simp] theorem State.pushS_inputs (s : State) (n : Nat) (d : SReg) (v : DWord) (p : Bool) : (s.pushS n d v p).inputs = s.inputs := by
  unfold State.pushS; split <;> rfl
@[simp] theorem State.pushS_outputs (s : State) (n : Nat) (d : SReg) (v : DWord) (p : Bool) : (s.pushS n d v p).outputs = s.outputs := by
  unfold State.pushS; split <;> rfl
@[simp] theorem State.pushS_free (s : State) (n : Nat) (d : SReg) (v : DWord) (p : Bool) : (s.pushS n d v p).free = s.free := by
  unfold State.pushS; split <;> rfl
@[simp] theorem State.pushFlags_now (s : State) (n : Nat) (g : Flags) : (s.pushFlags n g).now = s.now := by
  unfold State.pushFlags; split <;> rfl
@[simp] theorem State.pushFlags_mem (s : State) (n : Nat) (g : Flags) : (s.pushFlags n g).mem = s.mem := by
  unfold State.pushFlags; split <;> rfl
@[simp] theorem State.pushFlags_pmem (s : State) (n : Nat) (g : Flags) : (s.pushFlags n g).pmem = s.pmem := by
  unfold State.pushFlags; split <;> rfl
@[simp] theorem State.pushFlags_die (s : State) (n : Nat) (g : Flags) : (s.pushFlags n g).die = s.die := by
  unfold State.pushFlags; split <;> rfl
@[simp] theorem State.pushFlags_md (s : State) (n : Nat) (g : Flags) : (s.pushFlags n g).md = s.md := by
  unfold State.pushFlags; split <;> rfl
@[simp] theorem State.pushFlags_net (s : State) (n : Nat) (g : Flags) : (s.pushFlags n g).net = s.net := by
  unfold State.pushFlags; split <;> rfl
@[simp] theorem State.pushFlags_nextId (s : State) (n : Nat) (g : Flags) : (s.pushFlags n g).nextId = s.nextId := by
  unfold State.pushFlags; split <;> rfl
@[simp] theorem State.pushFlags_wires (s : State) (n : Nat) (g : Flags) : (s.pushFlags n g).wires = s.wires := by
  unfold State.pushFlags; split <;> rfl
@[simp] theorem State.pushFlags_saves (s : State) (n : Nat) (g : Flags) : (s.pushFlags n g).saves = s.saves := by
  unfold State.pushFlags; split <;> rfl
@[simp] theorem State.pushFlags_staged (s : State) (n : Nat) (g : Flags) : (s.pushFlags n g).staged = s.staged := by
  unfold State.pushFlags; split <;> rfl
@[simp] theorem State.pushFlags_images (s : State) (n : Nat) (g : Flags) : (s.pushFlags n g).images = s.images := by
  unfold State.pushFlags; split <;> rfl
@[simp] theorem State.pushFlags_cur (s : State) (n : Nat) (g : Flags) : (s.pushFlags n g).cur = s.cur := by
  unfold State.pushFlags; split <;> rfl
@[simp] theorem State.pushFlags_curFw (s : State) (n : Nat) (g : Flags) : (s.pushFlags n g).curFw = s.curFw := by
  unfold State.pushFlags; split <;> rfl
@[simp] theorem State.pushFlags_slot (s : State) (n : Nat) (g : Flags) : (s.pushFlags n g).slot = s.slot := by
  unfold State.pushFlags; split <;> rfl
@[simp] theorem State.pushFlags_word (s : State) (n : Nat) (g : Flags) : (s.pushFlags n g).word = s.word := by
  unfold State.pushFlags; split <;> rfl
@[simp] theorem State.pushFlags_slotWord (s : State) (n : Nat) (g : Flags) : (s.pushFlags n g).slotWord = s.slotWord := by
  unfold State.pushFlags; split <;> rfl
@[simp] theorem State.pushFlags_stop (s : State) (n : Nat) (g : Flags) : (s.pushFlags n g).stop = s.stop := by
  unfold State.pushFlags; split <;> rfl
@[simp] theorem State.pushFlags_turn (s : State) (n : Nat) (g : Flags) : (s.pushFlags n g).turn = s.turn := by
  unfold State.pushFlags; split <;> rfl
@[simp] theorem State.pushFlags_extra (s : State) (n : Nat) (g : Flags) : (s.pushFlags n g).extra = s.extra := by
  unfold State.pushFlags; split <;> rfl
@[simp] theorem State.pushFlags_inputs (s : State) (n : Nat) (g : Flags) : (s.pushFlags n g).inputs = s.inputs := by
  unfold State.pushFlags; split <;> rfl
@[simp] theorem State.pushFlags_outputs (s : State) (n : Nat) (g : Flags) : (s.pushFlags n g).outputs = s.outputs := by
  unfold State.pushFlags; split <;> rfl
@[simp] theorem State.pushFlags_free (s : State) (n : Nat) (g : Flags) : (s.pushFlags n g).free = s.free := by
  unfold State.pushFlags; split <;> rfl
@[simp] theorem State.pushP_now (s : State) (n : Nat) (r : PReg) (m v : Pred) : (s.pushP n r m v).now = s.now := by
  unfold State.pushP; split <;> rfl
@[simp] theorem State.pushP_mem (s : State) (n : Nat) (r : PReg) (m v : Pred) : (s.pushP n r m v).mem = s.mem := by
  unfold State.pushP; split <;> rfl
@[simp] theorem State.pushP_pmem (s : State) (n : Nat) (r : PReg) (m v : Pred) : (s.pushP n r m v).pmem = s.pmem := by
  unfold State.pushP; split <;> rfl
@[simp] theorem State.pushP_die (s : State) (n : Nat) (r : PReg) (m v : Pred) : (s.pushP n r m v).die = s.die := by
  unfold State.pushP; split <;> rfl
@[simp] theorem State.pushP_md (s : State) (n : Nat) (r : PReg) (m v : Pred) : (s.pushP n r m v).md = s.md := by
  unfold State.pushP; split <;> rfl
@[simp] theorem State.pushP_net (s : State) (n : Nat) (r : PReg) (m v : Pred) : (s.pushP n r m v).net = s.net := by
  unfold State.pushP; split <;> rfl
@[simp] theorem State.pushP_nextId (s : State) (n : Nat) (r : PReg) (m v : Pred) : (s.pushP n r m v).nextId = s.nextId := by
  unfold State.pushP; split <;> rfl
@[simp] theorem State.pushP_wires (s : State) (n : Nat) (r : PReg) (m v : Pred) : (s.pushP n r m v).wires = s.wires := by
  unfold State.pushP; split <;> rfl
@[simp] theorem State.pushP_saves (s : State) (n : Nat) (r : PReg) (m v : Pred) : (s.pushP n r m v).saves = s.saves := by
  unfold State.pushP; split <;> rfl
@[simp] theorem State.pushP_staged (s : State) (n : Nat) (r : PReg) (m v : Pred) : (s.pushP n r m v).staged = s.staged := by
  unfold State.pushP; split <;> rfl
@[simp] theorem State.pushP_images (s : State) (n : Nat) (r : PReg) (m v : Pred) : (s.pushP n r m v).images = s.images := by
  unfold State.pushP; split <;> rfl
@[simp] theorem State.pushP_cur (s : State) (n : Nat) (r : PReg) (m v : Pred) : (s.pushP n r m v).cur = s.cur := by
  unfold State.pushP; split <;> rfl
@[simp] theorem State.pushP_curFw (s : State) (n : Nat) (r : PReg) (m v : Pred) : (s.pushP n r m v).curFw = s.curFw := by
  unfold State.pushP; split <;> rfl
@[simp] theorem State.pushP_slot (s : State) (n : Nat) (r : PReg) (m v : Pred) : (s.pushP n r m v).slot = s.slot := by
  unfold State.pushP; split <;> rfl
@[simp] theorem State.pushP_word (s : State) (n : Nat) (r : PReg) (m v : Pred) : (s.pushP n r m v).word = s.word := by
  unfold State.pushP; split <;> rfl
@[simp] theorem State.pushP_slotWord (s : State) (n : Nat) (r : PReg) (m v : Pred) : (s.pushP n r m v).slotWord = s.slotWord := by
  unfold State.pushP; split <;> rfl
@[simp] theorem State.pushP_stop (s : State) (n : Nat) (r : PReg) (m v : Pred) : (s.pushP n r m v).stop = s.stop := by
  unfold State.pushP; split <;> rfl
@[simp] theorem State.pushP_turn (s : State) (n : Nat) (r : PReg) (m v : Pred) : (s.pushP n r m v).turn = s.turn := by
  unfold State.pushP; split <;> rfl
@[simp] theorem State.pushP_extra (s : State) (n : Nat) (r : PReg) (m v : Pred) : (s.pushP n r m v).extra = s.extra := by
  unfold State.pushP; split <;> rfl
@[simp] theorem State.pushP_inputs (s : State) (n : Nat) (r : PReg) (m v : Pred) : (s.pushP n r m v).inputs = s.inputs := by
  unfold State.pushP; split <;> rfl
@[simp] theorem State.pushP_outputs (s : State) (n : Nat) (r : PReg) (m v : Pred) : (s.pushP n r m v).outputs = s.outputs := by
  unfold State.pushP; split <;> rfl
@[simp] theorem State.pushP_free (s : State) (n : Nat) (r : PReg) (m v : Pred) : (s.pushP n r m v).free = s.free := by
  unfold State.pushP; split <;> rfl
@[simp] theorem State.raise_now (s : State) (c : Nat) (i : Word) (a : Nat) : (s.raise c i a).now = s.now := rfl
@[simp] theorem State.raise_mem (s : State) (c : Nat) (i : Word) (a : Nat) : (s.raise c i a).mem = s.mem := rfl
@[simp] theorem State.raise_pmem (s : State) (c : Nat) (i : Word) (a : Nat) : (s.raise c i a).pmem = s.pmem := rfl
@[simp] theorem State.raise_die (s : State) (c : Nat) (i : Word) (a : Nat) : (s.raise c i a).die = s.die := rfl
@[simp] theorem State.raise_md (s : State) (c : Nat) (i : Word) (a : Nat) : (s.raise c i a).md = s.md := rfl
@[simp] theorem State.raise_net (s : State) (c : Nat) (i : Word) (a : Nat) : (s.raise c i a).net = s.net := rfl
@[simp] theorem State.raise_nextId (s : State) (c : Nat) (i : Word) (a : Nat) : (s.raise c i a).nextId = s.nextId := rfl
@[simp] theorem State.raise_wires (s : State) (c : Nat) (i : Word) (a : Nat) : (s.raise c i a).wires = s.wires := rfl
@[simp] theorem State.raise_saves (s : State) (c : Nat) (i : Word) (a : Nat) : (s.raise c i a).saves = s.saves := rfl
@[simp] theorem State.raise_staged (s : State) (c : Nat) (i : Word) (a : Nat) : (s.raise c i a).staged = s.staged := rfl
@[simp] theorem State.raise_images (s : State) (c : Nat) (i : Word) (a : Nat) : (s.raise c i a).images = s.images := rfl
@[simp] theorem State.raise_cur (s : State) (c : Nat) (i : Word) (a : Nat) : (s.raise c i a).cur = s.cur := rfl
@[simp] theorem State.raise_curFw (s : State) (c : Nat) (i : Word) (a : Nat) : (s.raise c i a).curFw = s.curFw := rfl
@[simp] theorem State.raise_slot (s : State) (c : Nat) (i : Word) (a : Nat) : (s.raise c i a).slot = s.slot := rfl
@[simp] theorem State.raise_word (s : State) (c : Nat) (i : Word) (a : Nat) : (s.raise c i a).word = s.word := rfl
@[simp] theorem State.raise_slotWord (s : State) (c : Nat) (i : Word) (a : Nat) : (s.raise c i a).slotWord = s.slotWord := rfl
@[simp] theorem State.raise_turn (s : State) (c : Nat) (i : Word) (a : Nat) : (s.raise c i a).turn = s.turn := rfl
@[simp] theorem State.raise_extra (s : State) (c : Nat) (i : Word) (a : Nat) : (s.raise c i a).extra = s.extra := rfl
@[simp] theorem State.raise_inputs (s : State) (c : Nat) (i : Word) (a : Nat) : (s.raise c i a).inputs = s.inputs := rfl
@[simp] theorem State.raise_outputs (s : State) (c : Nat) (i : Word) (a : Nat) : (s.raise c i a).outputs = s.outputs := rfl
@[simp] theorem State.raise_free (s : State) (c : Nat) (i : Word) (a : Nat) : (s.raise c i a).free = s.free := rfl
@[simp] theorem State.raise_stop (s : State) (c : Nat) (i : Word) (a : Nat) : (s.raise c i a).stop = true := rfl

@[simp] theorem Ctx.push_s (c : Ctx) (p : Pend) : (c.push p).s = c.s := rfl
@[simp] theorem Ctx.push_v (c : Ctx) (p : Pend) : (c.push p).v = c.v := rfl
@[simp] theorem Ctx.push_p (c : Ctx) (p : Pend) : (c.push p).p = c.p := rfl
@[simp] theorem Ctx.push_lc (c : Ctx) (p : Pend) : (c.push p).lc = c.lc := rfl
@[simp] theorem Ctx.push_loops (c : Ctx) (p : Pend) : (c.push p).loops = c.loops := rfl
@[simp] theorem Ctx.push_pc (c : Ctx) (p : Pend) : (c.push p).pc = c.pc := rfl
@[simp] theorem Ctx.push_seqPc (c : Ctx) (p : Pend) : (c.push p).seqPc = c.seqPc := rfl
@[simp] theorem Ctx.push_target (c : Ctx) (p : Pend) : (c.push p).target = c.target := rfl
@[simp] theorem Ctx.push_runLeft (c : Ctx) (p : Pend) : (c.push p).runLeft = c.runLeft := rfl
@[simp] theorem Ctx.push_entry (c : Ctx) (p : Pend) : (c.push p).entry = c.entry := rfl
@[simp] theorem Ctx.push_unstamped (c : Ctx) (p : Pend) : (c.push p).unstamped = c.unstamped := rfl
@[simp] theorem Ctx.push_park (c : Ctx) (p : Pend) : (c.push p).park = c.park := rfl
@[simp] theorem Ctx.push_rest (c : Ctx) (p : Pend) : (c.push p).rest = c.rest := rfl
@[simp] theorem Ctx.push_holds (c : Ctx) (p : Pend) : (c.push p).holds = c.holds := rfl
@[simp] theorem Ctx.push_post (c : Ctx) (p : Pend) : (c.push p).post = c.post := rfl
@[simp] theorem Ctx.push_fences (c : Ctx) (p : Pend) : (c.push p).fences = c.fences := rfl
@[simp] theorem Ctx.push_status (c : Ctx) (p : Pend) : (c.push p).status = c.status := rfl
@[simp] theorem Ctx.push_code (c : Ctx) (p : Pend) : (c.push p).code = c.code := rfl
@[simp] theorem Ctx.push_info (c : Ctx) (p : Pend) : (c.push p).info = c.info := rfl
@[simp] theorem Ctx.push_swcode (c : Ctx) (p : Pend) : (c.push p).swcode = c.swcode := rfl
@[simp] theorem Ctx.push_slotres (c : Ctx) (p : Pend) : (c.push p).slotres = c.slotres := rfl
@[simp] theorem Ctx.push_nseed (c : Ctx) (p : Pend) : (c.push p).nseed = c.nseed := rfl
@[simp] theorem Ctx.push_nstep (c : Ctx) (p : Pend) : (c.push p).nstep = c.nstep := rfl
@[simp] theorem Ctx.push_qscale (c : Ctx) (p : Pend) : (c.push p).qscale = c.qscale := rfl
@[simp] theorem Ctx.push_qlimit (c : Ctx) (p : Pend) : (c.push p).qlimit = c.qlimit := rfl
@[simp] theorem Ctx.push_qrefit (c : Ctx) (p : Pend) : (c.push p).qrefit = c.qrefit := rfl
@[simp] theorem Ctx.push_qclip (c : Ctx) (p : Pend) : (c.push p).qclip = c.qclip := rfl
@[simp] theorem Ctx.push_qzero (c : Ctx) (p : Pend) : (c.push p).qzero = c.qzero := rfl
@[simp] theorem Ctx.push_qlast (c : Ctx) (p : Pend) : (c.push p).qlast = c.qlast := rfl
@[simp] theorem Ctx.push_qrefits (c : Ctx) (p : Pend) : (c.push p).qrefits = c.qrefits := rfl
@[simp] theorem Ctx.push_qseq (c : Ctx) (p : Pend) : (c.push p).qseq = c.qseq := rfl
@[simp] theorem Ctx.push_strokes (c : Ctx) (p : Pend) : (c.push p).strokes = c.strokes := rfl
@[simp] theorem Ctx.push_barArr (c : Ctx) (p : Pend) : (c.push p).barArr = c.barArr := rfl
@[simp] theorem Ctx.push_fault (c : Ctx) (p : Pend) : (c.push p).fault = c.fault := rfl
@[simp] theorem Ctx.push_faultQ (c : Ctx) (p : Pend) : (c.push p).faultQ = c.faultQ := rfl
@[simp] theorem Ctx.push_given (c : Ctx) (p : Pend) : (c.push p).given = c.given := rfl
@[simp] theorem Ctx.push_faultAge (c : Ctx) (p : Pend) : (c.push p).faultAge = c.faultAge := rfl
@[simp] theorem Ctx.push_faultOvf (c : Ctx) (p : Pend) : (c.push p).faultOvf = c.faultOvf := rfl
@[simp] theorem Ctx.push_plane (c : Ctx) (p : Pend) : (c.push p).plane = c.plane := rfl
@[simp] theorem Ctx.push_swap (c : Ctx) (p : Pend) : (c.push p).swap = c.swap := rfl
@[simp] theorem Ctx.push_pend (c : Ctx) (p : Pend) : (c.push p).pend = c.pend ++ [p] := rfl
@[simp] theorem Ctx.takeFault_s (c : Ctx) (r : FaultRec) : (c.takeFault r).s = c.s := rfl
@[simp] theorem Ctx.takeFault_v (c : Ctx) (r : FaultRec) : (c.takeFault r).v = c.v := rfl
@[simp] theorem Ctx.takeFault_p (c : Ctx) (r : FaultRec) : (c.takeFault r).p = c.p := rfl
@[simp] theorem Ctx.takeFault_lc (c : Ctx) (r : FaultRec) : (c.takeFault r).lc = c.lc := rfl
@[simp] theorem Ctx.takeFault_loops (c : Ctx) (r : FaultRec) : (c.takeFault r).loops = c.loops := rfl
@[simp] theorem Ctx.takeFault_pc (c : Ctx) (r : FaultRec) : (c.takeFault r).pc = c.pc := rfl
@[simp] theorem Ctx.takeFault_seqPc (c : Ctx) (r : FaultRec) : (c.takeFault r).seqPc = c.seqPc := rfl
@[simp] theorem Ctx.takeFault_runLeft (c : Ctx) (r : FaultRec) : (c.takeFault r).runLeft = c.runLeft := rfl
@[simp] theorem Ctx.takeFault_unstamped (c : Ctx) (r : FaultRec) : (c.takeFault r).unstamped = c.unstamped := rfl
@[simp] theorem Ctx.takeFault_pend (c : Ctx) (r : FaultRec) : (c.takeFault r).pend = c.pend := rfl
@[simp] theorem Ctx.takeFault_rest (c : Ctx) (r : FaultRec) : (c.takeFault r).rest = c.rest := rfl
@[simp] theorem Ctx.takeFault_holds (c : Ctx) (r : FaultRec) : (c.takeFault r).holds = c.holds := rfl
@[simp] theorem Ctx.takeFault_post (c : Ctx) (r : FaultRec) : (c.takeFault r).post = c.post := rfl
@[simp] theorem Ctx.takeFault_fences (c : Ctx) (r : FaultRec) : (c.takeFault r).fences = c.fences := rfl
@[simp] theorem Ctx.takeFault_status (c : Ctx) (r : FaultRec) : (c.takeFault r).status = c.status := rfl
@[simp] theorem Ctx.takeFault_nseed (c : Ctx) (r : FaultRec) : (c.takeFault r).nseed = c.nseed := rfl
@[simp] theorem Ctx.takeFault_nstep (c : Ctx) (r : FaultRec) : (c.takeFault r).nstep = c.nstep := rfl
@[simp] theorem Ctx.takeFault_qscale (c : Ctx) (r : FaultRec) : (c.takeFault r).qscale = c.qscale := rfl
@[simp] theorem Ctx.takeFault_qlimit (c : Ctx) (r : FaultRec) : (c.takeFault r).qlimit = c.qlimit := rfl
@[simp] theorem Ctx.takeFault_qrefit (c : Ctx) (r : FaultRec) : (c.takeFault r).qrefit = c.qrefit := rfl
@[simp] theorem Ctx.takeFault_qclip (c : Ctx) (r : FaultRec) : (c.takeFault r).qclip = c.qclip := rfl
@[simp] theorem Ctx.takeFault_qzero (c : Ctx) (r : FaultRec) : (c.takeFault r).qzero = c.qzero := rfl
@[simp] theorem Ctx.takeFault_qlast (c : Ctx) (r : FaultRec) : (c.takeFault r).qlast = c.qlast := rfl
@[simp] theorem Ctx.takeFault_qrefits (c : Ctx) (r : FaultRec) : (c.takeFault r).qrefits = c.qrefits := rfl
@[simp] theorem Ctx.takeFault_qseq (c : Ctx) (r : FaultRec) : (c.takeFault r).qseq = c.qseq := rfl
@[simp] theorem Ctx.takeFault_strokes (c : Ctx) (r : FaultRec) : (c.takeFault r).strokes = c.strokes := rfl
@[simp] theorem Ctx.takeFault_barArr (c : Ctx) (r : FaultRec) : (c.takeFault r).barArr = c.barArr := rfl
@[simp] theorem Ctx.takeFault_faultQ (c : Ctx) (r : FaultRec) : (c.takeFault r).faultQ = c.faultQ := rfl
@[simp] theorem Ctx.takeFault_faultAge (c : Ctx) (r : FaultRec) : (c.takeFault r).faultAge = 0 := rfl
@[simp] theorem Ctx.takeFault_given (c : Ctx) (r : FaultRec) : (c.takeFault r).given = c.given := rfl
@[simp] theorem Ctx.takeFault_plane (c : Ctx) (r : FaultRec) : (c.takeFault r).plane = c.plane := rfl
@[simp] theorem Ctx.takeFault_swap (c : Ctx) (r : FaultRec) : (c.takeFault r).swap = c.swap := rfl

/-! ### Contexts -/

@[simp] theorem State.ctxOf_setCtxOf_self (s : State) (k : Nat) (b : Bool) (x : Ctx) : (s.setCtxOf k b x).ctxOf k b = x := by
  simp [State.setCtxOf, State.ctxOf]

@[simp] theorem State.ctxOf_setCtxOf_not (s : State) (k : Nat) (b : Bool) (x : Ctx) :
    (s.setCtxOf k b x).ctxOf k (!b) = s.ctxOf k (!b) := by
  simp [State.setCtxOf, State.ctxOf]

theorem State.ctxOf_setCtxOf_of_ne (s : State) {k j : Nat} (b e : Bool) (x : Ctx) (h : j ≠ k) :
    (s.setCtxOf k b x).ctxOf j e = s.ctxOf j e := by
  simp [State.setCtxOf, State.ctxOf, s.cluster_setCluster_of_ne _ h]

@[simp] theorem State.setCtxOf_setCtxOf (s : State) (k : Nat) (b : Bool) (x y : Ctx) :
    (s.setCtxOf k b x).setCtxOf k b y = s.setCtxOf k b y := by
  simp [State.setCtxOf]

@[simp] theorem State.ctx_updCtx (s : State) (g : Ctx → Ctx) : (s.updCtx g).ctx = g s.ctx := by
  show (s.setCtxOf s.cur s.curFw (g s.ctx)).ctxOf s.cur s.curFw = g s.ctx
  simp

@[simp] theorem State.updCtx_updCtx (s : State) (f g : Ctx → Ctx) : (s.updCtx f).updCtx g = s.updCtx (fun c => g (f c)) := by
  show (s.setCtxOf s.cur s.curFw (f s.ctx)).setCtxOf s.cur s.curFw (g (s.updCtx f).ctx) = _
  rw [State.ctx_updCtx, State.setCtxOf_setCtxOf]
  rfl

@[simp] theorem State.me_updMe (s : State) (g : Cluster → Cluster) : (s.updMe g).me = g s.me := by
  show ((s.setCluster s.cur (g s.me)).cluster s.cur) = g s.me
  simp

@[simp] theorem State.updMe_updMe (s : State) (f g : Cluster → Cluster) : (s.updMe f).updMe g = s.updMe (fun c => g (f c)) := by
  show (s.setCluster s.cur (f s.me)).setCluster s.cur (g (s.updMe f).me) = _
  rw [State.me_updMe, State.setCluster_setCluster]
  rfl

@[simp] theorem State.me_updCtx (s : State) (g : Ctx → Ctx) : (s.updCtx g).me = s.me.setCtx s.curFw (g s.ctx) := by
  show ((s.setCtxOf s.cur s.curFw (g s.ctx)).cluster s.cur) = _
  simp [State.setCtxOf, State.me]

@[simp] theorem State.dieAt_updDie_self (s : State) (k : Nat) (g : Die → Die) : (s.updDie k g).dieAt k = g (s.dieAt k) := by
  simp [State.updDie, State.dieAt]

@[simp] theorem State.module_updModule_self (s : State) (k : Nat) (g : Module → Module) :
    (s.updModule k g).module k = g (s.module k) := by
  simp [State.updModule, State.module]

theorem State.dieAt_updDie_of_ne (s : State) {k j : Nat} (g : Die → Die) (h : j ≠ k) : (s.updDie k g).dieAt j = s.dieAt j := by
  simp [State.updDie, State.dieAt, kget_kset_of_ne _ _ _ h]

theorem State.module_updModule_of_ne (s : State) {k j : Nat} (g : Module → Module) (h : j ≠ k) :
    (s.updModule k g).module j = s.module j := by
  simp [State.updModule, State.module, kget_kset_of_ne _ _ _ h]

@[simp] theorem State.cluster_updDie (s : State) (k j : Nat) (g : Die → Die) : (s.updDie k g).cluster j = s.cluster j := rfl
@[simp] theorem State.cluster_updModule (s : State) (k j : Nat) (g : Module → Module) :
    (s.updModule k g).cluster j = s.cluster j := rfl
@[simp] theorem State.dieAt_updCluster (s : State) (k j : Nat) (g : Cluster → Cluster) :
    (s.updCluster k g).dieAt j = s.dieAt j := rfl
@[simp] theorem State.dieAt_setCluster (s : State) (k j : Nat) (c : Cluster) : (s.setCluster k c).dieAt j = s.dieAt j := rfl
@[simp] theorem State.dieAt_updModule (s : State) (k j : Nat) (g : Module → Module) :
    (s.updModule k g).dieAt j = s.dieAt j := rfl
@[simp] theorem State.module_updCluster (s : State) (k j : Nat) (g : Cluster → Cluster) :
    (s.updCluster k g).module j = s.module j := rfl
@[simp] theorem State.module_setCluster (s : State) (k j : Nat) (c : Cluster) : (s.setCluster k c).module j = s.module j := rfl
@[simp] theorem State.module_updDie (s : State) (k j : Nat) (g : Die → Die) : (s.updDie k g).module j = s.module j := rfl

/-! ### Registers -/

@[simp] theorem Ctx.rdS_zero (c : Ctx) : c.rdS 0 = ⟨0, false⟩ := rfl
@[simp] theorem Ctx.rdP_zero (c : Ctx) : c.rdP 0 = 0xFFFF := rfl
@[simp] theorem Ctx.wrS_zero (c : Ctx) (x : SVal) : c.wrS 0 x = c := rfl
@[simp] theorem Ctx.wrP_zero (c : Ctx) (m x : Pred) : c.wrP 0 m x = c := rfl

theorem Ctx.rdS_wrS_self (c : Ctx) (r : SReg) (x : SVal) (h : r ≠ 0) : (c.wrS r x).rdS r = x := by
  simp [Ctx.rdS, Ctx.wrS, h]

theorem Ctx.rdS_wrS_of_ne (c : Ctx) {r q : SReg} (x : SVal) (h : q ≠ r) : (c.wrS r x).rdS q = c.rdS q := by
  unfold Ctx.rdS Ctx.wrS
  split
  · rfl
  · split
    · rfl
    · exact Vector.getElem_set_ne r.isLt q.isLt (fun e => h (Fin.ext e.symm))

theorem Ctx.rdV_wrV_self (c : Ctx) (r : VReg) (m : Pred) (x : VVal) : (c.wrV r m x).rdV r = mergeLanes m x (c.rdV r) := by
  simp [Ctx.rdV, Ctx.wrV]

theorem Ctx.rdV_wrV_of_ne (c : Ctx) {r q : VReg} (m : Pred) (x : VVal) (h : q ≠ r) : (c.wrV r m x).rdV q = c.rdV q := by
  exact Vector.getElem_set_ne r.isLt q.isLt (fun e => h (Fin.ext e.symm))

theorem mergeLanes_get (m : Pred) (new old : VVal) (i : Fin 16) :
    (mergeLanes m new old)[i] = if m.getLsb i then new[i] else old[i] := by
  simp [mergeLanes]

end Sys2Proof.Machine
end

