-- ==== Sys2Proof/Laws/Memory.lean ====
section
/-! SUPPORT. The laws of the memory: its canonical form is kept by every operation over it, a read after a write gives
what was written, and a write leaves every other byte alone. The same for the list of poisoned words. -/

namespace Sys2Proof.Machine

/-! ### The canonical form -/

theorem memSorted_iff (m : List Host.Cell) :
    memSorted m = true ↔ m.Pairwise (fun a b => a.1 < b.1) ∧ ∀ c ∈ m, c.2 ≠ memDefault := by
  induction m with
  | nil => simp [memSorted]
  | cons c r ih =>
    cases r with
    | nil => simp [memSorted]
    | cons d r =>
      rw [memSorted, Bool.and_eq_true, Bool.and_eq_true, ih]
      simp only [List.pairwise_cons, List.mem_cons, bne_iff_ne, decide_eq_true_eq, forall_eq_or_imp]
      constructor
      · rintro ⟨⟨h1, h2⟩, ⟨h3, h4⟩, h5, h6⟩
        exact ⟨⟨⟨h2, fun x hx => h2.trans (h3 x hx)⟩, h3, h4⟩, h1, h5, h6⟩
      · rintro ⟨⟨⟨h2, -⟩, h3, h4⟩, h1, h5, h6⟩
        exact ⟨⟨h1, h2⟩, ⟨h3, h4⟩, h5, h6⟩

theorem Memory.wf_iff (m : List Host.Cell) :
    Memory.wf m = true ↔ m.Pairwise (fun a b => a.1 < b.1) ∧ ∀ c ∈ m, c.2 ≠ memDefault := memSorted_iff m

/-- An address below every listed one reads as an unlisted one. -/
theorem memGet_below (m : List Host.Cell) (a : Nat) (h : ∀ c ∈ m, a < c.1) : memGet m a = memDefault := by
  induction m with
  | nil => rfl
  | cons c r ih =>
    have h1 : c.1 ≠ a := (h c (by simp)).ne'
    obtain ⟨b, x⟩ := c
    simpa [memGet, h1] using ih (fun c hc => h c (by simp [hc]))

theorem mem_memIns (m : List Host.Cell) (a : Nat) (v : Byte) (c : Host.Cell) (h : c ∈ memIns m a v) : c = (a, v) ∨ c ∈ m := by
  induction m with
  | nil => simpa [memIns] using h
  | cons e r ih =>
    obtain ⟨b, x⟩ := e
    unfold memIns at h
    split at h
    · simpa using h
    · split at h
      · simp only [List.mem_cons] at h ⊢; tauto
      · simp only [List.mem_cons] at h ⊢
        rcases h with h | h
        · exact .inr (.inl h)
        · exact (ih h).imp id .inr

theorem mem_memDel (m : List Host.Cell) (a : Nat) (c : Host.Cell) (h : c ∈ memDel m a) : c ∈ m := by
  induction m with
  | nil => exact h
  | cons e r ih =>
    obtain ⟨b, x⟩ := e
    unfold memDel at h
    split at h
    · simp [h]
    · split at h
      · exact h
      · simp only [List.mem_cons] at h ⊢
        exact h.imp id ih

theorem pairwise_memIns (m : List Host.Cell) (a : Nat) (v : Byte) (h : m.Pairwise (fun a b => a.1 < b.1)) :
    (memIns m a v).Pairwise (fun a b => a.1 < b.1) := by
  induction m with
  | nil => simp [memIns]
  | cons e r ih =>
    obtain ⟨b, x⟩ := e
    rw [List.pairwise_cons] at h
    unfold memIns
    split
    · next h1 =>
      refine List.pairwise_cons.mpr ⟨fun c hc => ?_, List.pairwise_cons.mpr h⟩
      rcases List.mem_cons.mp hc with rfl | hc
      · exact h1
      · exact h1.trans (h.1 c hc)
    · split
      · next h1 => subst h1; exact List.pairwise_cons.mpr h
      · next h1 h2 =>
        refine List.pairwise_cons.mpr ⟨fun c hc => ?_, ih h.2⟩
        rcases mem_memIns _ _ _ _ hc with rfl | hc
        · show b < a; omega
        · exact h.1 c hc

theorem pairwise_memDel (m : List Host.Cell) (a : Nat) (h : m.Pairwise (fun a b => a.1 < b.1)) :
    (memDel m a).Pairwise (fun a b => a.1 < b.1) := by
  induction m with
  | nil => exact h
  | cons e r ih =>
    obtain ⟨b, x⟩ := e
    have h' := List.pairwise_cons.mp h
    unfold memDel
    split
    · exact h'.2
    · split
      · exact h
      · exact List.pairwise_cons.mpr ⟨fun c hc => h'.1 c (mem_memDel _ _ _ hc), ih h'.2⟩

/-- Writing a byte keeps the canonical form. -/
theorem Memory.wf_memSet (m : List Host.Cell) (a : Nat) (v : Byte) (h : Memory.wf m = true) :
    Memory.wf (memSet m a v) = true := by
  rw [Memory.wf_iff] at h ⊢
  unfold memSet
  split
  · exact ⟨pairwise_memDel m a h.1, fun c hc => h.2 c (mem_memDel _ _ _ hc)⟩
  · next hv =>
    refine ⟨pairwise_memIns m a v h.1, fun c hc => ?_⟩
    rcases mem_memIns _ _ _ _ hc with rfl | hc
    · exact hv
    · exact h.2 c hc

theorem Memory.wf_memSetBytes (m : List Host.Cell) (a : Nat) (bs : List Byte) (h : Memory.wf m = true) :
    Memory.wf (memSetBytes m a bs) = true := by
  induction bs generalizing m a with
  | nil => exact h
  | cons b bs ih => exact ih _ _ (Memory.wf_memSet m a b h)

theorem Memory.wf_filter (m : List Host.Cell) (p : Host.Cell → Bool) (h : Memory.wf m = true) :
    Memory.wf (m.filter p) = true := by
  rw [Memory.wf_iff] at h ⊢
  exact ⟨h.1.filter p, fun c hc => h.2 c (List.mem_of_mem_filter hc)⟩

/-! ### Reading after writing -/

theorem memGet_memIns (m : List Host.Cell) (a b : Nat) (v : Byte) (h : m.Pairwise (fun a b => a.1 < b.1)) :
    memGet (memIns m a v) b = if b = a then v else memGet m b := by
  induction m with
  | nil => simp [memIns, memGet, eq_comm]
  | cons e r ih =>
    obtain ⟨c, x⟩ := e
    rw [List.pairwise_cons] at h
    unfold memIns
    split
    · simp [memGet, eq_comm]
    · split
      · next h1 => subst h1; by_cases hb : b = a <;> simp [memGet, hb, Ne.symm]
      · next h1 h2 =>
        by_cases hb : c = b
        · subst hb; simp [memGet, Ne.symm h2]
        · simp [memGet, hb, ih h.2]

theorem memGet_memDel (m : List Host.Cell) (a b : Nat) (h : m.Pairwise (fun a b => a.1 < b.1)) :
    memGet (memDel m a) b = if b = a then memDefault else memGet m b := by
  induction m with
  | nil => simp [memDel, memGet]
  | cons e r ih =>
    obtain ⟨c, x⟩ := e
    have h' := List.pairwise_cons.mp h
    unfold memDel
    split
    · next h1 =>
      subst h1
      by_cases hb : b = a
      · subst hb; simpa using memGet_below r b h'.1
      · simp [memGet, hb, Ne.symm hb]
    · split
      · next h1 h2 =>
        by_cases hb : b = a
        · subst hb
          simpa using memGet_below ((c, x) :: r) b (by
            intro e he
            rcases List.mem_cons.mp he with rfl | he
            · exact h2
            · exact h2.trans (h'.1 e he))
        · simp [hb]
      · next h1 h2 =>
        by_cases hb : c = b
        · subst hb; simp [memGet, Ne.symm h1]
        · simp [memGet, hb, ih h'.2]

/-- A read after a write: the byte written, or the byte that was there. -/
theorem memGet_memSet (m : List Host.Cell) (a b : Nat) (v : Byte) (h : Memory.wf m = true) :
    memGet (memSet m a v) b = if b = a then v else memGet m b := by
  have hp := ((Memory.wf_iff m).mp h).1
  unfold memSet
  split
  · next hv => rw [memGet_memDel m a b hp, hv]
  · exact memGet_memIns m a b v hp

/-- A byte outside the bytes written is what it was. -/
theorem memGet_memSetBytes_outside (m : List Host.Cell) (a b : Nat) (bs : List Byte) (h : Memory.wf m = true)
    (hb : b < a ∨ a + bs.length ≤ b) : memGet (memSetBytes m a bs) b = memGet m b := by
  induction bs generalizing m a with
  | nil => rfl
  | cons x bs ih =>
    simp only [List.length_cons] at hb
    rw [memSetBytes, ih _ _ (Memory.wf_memSet m a x h) (by omega), memGet_memSet m a b x h, if_neg (by omega)]

/-- A byte of the bytes written is the one written there. -/
theorem memGet_memSetBytes_inside (m : List Host.Cell) (a i : Nat) (bs : List Byte) (h : Memory.wf m = true)
    (hi : i < bs.length) : memGet (memSetBytes m a bs) (a + i) = bs[i] := by
  induction bs generalizing m a i with
  | nil => simp at hi
  | cons x bs ih =>
    have hw := Memory.wf_memSet m a x h
    cases i with
    | zero =>
      rw [memSetBytes, memGet_memSetBytes_outside _ _ _ _ hw (by omega), Nat.add_zero, memGet_memSet m a a x h]
      simp
    | succ i =>
      have hi' : i < bs.length := by simpa using hi
      rw [memSetBytes, show a + (i + 1) = a + 1 + i by omega, ih _ _ _ hw hi']
      rfl

/-! ### Poisoned words -/

theorem rising_iff (l : List Nat) : rising l = true ↔ l.Pairwise (· < ·) := by
  induction l with
  | nil => simp [rising]
  | cons a r ih =>
    cases r with
    | nil => simp [rising]
    | cons b r =>
      rw [rising, Bool.and_eq_true, ih, decide_eq_true_eq]
      simp only [List.pairwise_cons, List.mem_cons, forall_eq_or_imp]
      constructor
      · rintro ⟨h1, h2, h3⟩; exact ⟨⟨h1, fun x hx => h1.trans (h2 x hx)⟩, h2, h3⟩
      · rintro ⟨⟨h1, -⟩, h2, h3⟩; exact ⟨h1, h2, h3⟩

theorem mem_setIns (l : List Nat) (a x : Nat) : x ∈ setIns l a ↔ x = a ∨ x ∈ l := by
  induction l with
  | nil => simp [setIns]
  | cons b r ih =>
    unfold setIns
    split
    · simp
    · split
      · next h => subst h; simp
      · simp only [List.mem_cons, ih]; tauto

theorem rising_setIns (l : List Nat) (a : Nat) (h : rising l = true) : rising (setIns l a) = true := by
  rw [rising_iff] at h ⊢
  induction l with
  | nil => simp [setIns]
  | cons b r ih =>
    have h' := List.pairwise_cons.mp h
    unfold setIns
    split
    · next h1 =>
      refine List.pairwise_cons.mpr ⟨fun x hx => ?_, h⟩
      rcases List.mem_cons.mp hx with rfl | hx
      · exact h1
      · exact h1.trans (h'.1 x hx)
    · split
      · exact h
      · next h1 h2 =>
        refine List.pairwise_cons.mpr ⟨fun x hx => ?_, ih h'.2⟩
        rcases (mem_setIns r a x).mp hx with rfl | hx
        · omega
        · exact h'.1 x hx

theorem rising_foldl_setIns (ws l : List Nat) (h : rising l = true) : rising (ws.foldl setIns l) = true := by
  induction ws generalizing l with
  | nil => exact h
  | cons w ws ih => exact ih _ (rising_setIns l w h)

theorem rising_filter (l : List Nat) (p : Nat → Bool) (h : rising l = true) : rising (l.filter p) = true := by
  rw [rising_iff] at h ⊢
  exact h.filter p

/-! ### States -/

theorem State.kept_iff (s : State) : s.kept = true ↔ Memory.wf s.mem = true ∧ rising s.pmem = true := by
  simp [State.kept]

/-- A state whose memory and marks are those of another is kept as it is. -/
theorem State.kept_of_eq (s t : State) (hm : t.mem = s.mem) (hp : t.pmem = s.pmem) : t.kept = s.kept := by
  simp [State.kept, hm, hp]

/-- Writing marked bytes keeps the canonical form. -/
theorem State.kept_writeMarked (s : State) (pa : Nat) (bs : List (Byte × Bool)) (h : s.kept = true) :
    (s.writeMarked pa bs).kept = true := by
  rw [State.kept_iff] at h ⊢
  exact ⟨Memory.wf_memSetBytes _ _ _ h.1, rising_foldl_setIns _ _ (rising_filter _ _ h.2)⟩

/-- Writing bytes keeps the canonical form. -/
theorem State.kept_writeBytes (s : State) (pa : Nat) (bs : List Byte) (p : Bool) (h : s.kept = true) :
    (s.writeBytes pa bs p).kept = true := by
  rw [State.kept_iff] at h ⊢
  refine ⟨Memory.wf_memSetBytes _ _ _ h.1, ?_⟩
  show rising (if p then _ else _) = true
  split
  · exact rising_foldl_setIns _ _ h.2
  · exact rising_filter _ _ h.2

/-- Every byte outside the bytes written reads as it did. -/
theorem State.byteAt_writeMarked_outside (s : State) (pa a : Nat) (bs : List (Byte × Bool)) (h : s.kept = true)
    (ha : a < memKey pa ∨ memKey pa + bs.length ≤ a) : (s.writeMarked pa bs).byteAt a = s.byteAt a := by
  have hw := ((State.kept_iff s).mp h).1
  exact memGet_memSetBytes_outside s.mem (memKey pa) a _ hw (by simpa using ha)

/-- A byte of the bytes written reads as written. -/
theorem State.byteAt_writeMarked_inside (s : State) (pa i : Nat) (bs : List (Byte × Bool)) (h : s.kept = true)
    (hi : i < bs.length) : (s.writeMarked pa bs).byteAt (memKey pa + i) = bs[i].1 := by
  have hw := ((State.kept_iff s).mp h).1
  have := memGet_memSetBytes_inside s.mem (memKey pa) i (bs.map (fun b => b.1)) hw (by simpa using hi)
  simpa [State.byteAt, State.writeMarked] using this

end Sys2Proof.Machine
end

