-- ==== Sys2Proof/Laws/PerInstr.lean ====
section
/-! SUPPORT. One lemma per constructor of Instr, made per instruction: the word of an instruction fits the bits of its
slot class, 32 for the S, V, M and B slots and 64 for the X, E and K slots and the block nodes (03 Tables 3.2, 3.14 and
3.17). An event has no word. -/

open Sys2Proof

/-- The word of an instruction fits its slot class. -/
def Sys2Proof.Laws.Encode.Statement (i : Instr) : Prop :=
  ∀ c, slotClass i = some c → encode i < 2 ^ (if c < 4 then 32 else 64)

/-! ### Codes and packed fields -/

theorem Sys2Proof.widthCode_lt (x : Width) : widthCode x < 4 := by cases x <;> decide
theorem Sys2Proof.elemCode_lt (x : ElemTy) : elemCode x < 16 := by cases x <;> decide
theorem Sys2Proof.memTyCode_lt (x : MemTy) : memTyCode x < 16 := by cases x <;> decide
theorem Sys2Proof.rmCode_lt (x : Rm) : rmCode x < 4 := by cases x <;> decide
theorem Sys2Proof.scopeCode_lt (x : Scope) : scopeCode x < 8 := by cases x <;> decide
theorem Sys2Proof.aopCode_lt (x : Aop) : aopCode x < 16 := by cases x <;> decide
theorem Sys2Proof.bcondCode_lt (x : BCond) : bcondCode x < 8 := by cases x <;> decide
theorem Sys2Proof.vcondCode_lt (x : VCond) : vcondCode x < 16 := by cases x <;> decide
theorem Sys2Proof.shufCode_lt (x : Shuf) : shufCode x < 16 := by cases x <;> decide
theorem Sys2Proof.qtyCode_lt (x : QTy) : qtyCode x < 16 := by cases x <;> decide
theorem Sys2Proof.pathCode_lt (x : Path) : pathCode x < 4 := by cases x <;> decide
theorem Sys2Proof.fenceCode_lt (x : FenceKind) : fenceCode x < 4 := by cases x <;> decide
theorem Sys2Proof.brpModeCode_lt (x : BMode) : brpModeCode x < 4 := by cases x <;> decide
theorem Sys2Proof.phModeCode_lt (x : BMode) : phModeCode x < 4 := by cases x <;> decide
theorem Sys2Proof.bit_lt (x : Bool) : (if x then 1 else 0) < 2 := by cases x <;> decide

theorem Sys2Proof.engWord_lt (op : Nat) (c : EClause) (l : List (Nat × Nat)) (ho : op < 64) (hl : pack l < 2 ^ 29) :
    engWord op c l < 2 ^ 64 := by
  have h1 := bit_lt c.wv
  have h2 := c.wsem.isLt
  have h3 := c.wthr.isLt
  have h4 := c.gsem.isLt
  have h5 := c.ginc.isLt
  simp only [engWord, pack]
  omega

theorem Sys2Proof.encDest_lt (d : NDest) : encDest d < 2 ^ 11 := by
  have h1 := d.y.isLt
  have h2 := d.x.isLt
  have h3 := d.stage.isLt
  have h4 := d.port.isLt
  simp only [encDest, pack]
  omega

theorem Sys2Proof.encNode_lt (op : Nat) (n : Node) (ho : op < 64) : encNode op n < 2 ^ 64 := by
  have h1 := n.y.isLt
  have h2 := n.x.isLt
  have h3 := n.stage.isLt
  have h4 := n.t.isLt
  have h5 := encDest_lt n.d0
  have h6 := encDest_lt n.d1
  have h7 := n.imm.isLt
  have h8 := rmCode_lt n.rm
  simp only [encNode, pack]
  omega

theorem Sys2Proof.encChain_lt (op : Nat) (n : ChainNode) (ho : op < 64) : encChain op n < 2 ^ 64 := by
  have h1 := n.y.isLt
  have h2 := n.x.isLt
  have h3 := n.stage.isLt
  have h4 := n.t.isLt
  have h5 := encDest_lt n.d0
  have h6 := encDest_lt n.d1
  have h7 := n.aop.isLt
  have h8 := n.s.isLt
  have h9 := n.pred.isLt
  have ha := n.succ.isLt
  by_cases h : op = 7
  · simp only [encChain, pack, h, if_pos]
    omega
  · simp only [encChain, pack, h, if_false]
    omega

theorem Sys2Proof.Laws.Encode.Statement.of_lt32 {i : Instr} (c : Nat) (h : slotClass i = some c) (hc : c < 4)
    (hl : encode i < 4294967296) : Statement i := by
  intro d hd
  rw [h] at hd
  cases hd
  rw [if_pos hc]
  exact hl

theorem Sys2Proof.Laws.Encode.Statement.of_lt64 {i : Instr} (c : Nat) (h : slotClass i = some c) (hc : ¬ c < 4)
    (hl : encode i < 18446744073709551616) : Statement i := by
  intro d hd
  rw [h] at hd
  cases hd
  rw [if_neg hc]
  exact hl

theorem Sys2Proof.Laws.Encode.Statement.of_none {i : Instr} (h : slotClass i = none) : Statement i := by
  intro c hc
  rw [h] at hc
  cases hc

/-! ### One lemma per constructor -/

theorem Sys2Proof.Laws.Encode.nop : Sys2Proof.Laws.Encode.Statement (.nop) := .of_lt32 0 rfl (by decide) (by decide)

theorem Sys2Proof.Laws.Encode.emptyBundle : Sys2Proof.Laws.Encode.Statement (.emptyBundle) := .of_none rfl

theorem Sys2Proof.Laws.Encode.foldedRun (n : BitVec 16) : Sys2Proof.Laws.Encode.Statement (.foldedRun n) := .of_none rfl

theorem Sys2Proof.Laws.Encode.stampedBundleIssue (stamp : Word) : Sys2Proof.Laws.Encode.Statement (.stampedBundleIssue stamp) := .of_none rfl

theorem Sys2Proof.Laws.Encode.add (d : SReg) (a : SReg) (b : SReg) (w : Width) : Sys2Proof.Laws.Encode.Statement (.add d a b w) := by
  have h0 := d.isLt
  have h1 := a.isLt
  have h2 := b.isLt
  have h3 := widthCode_lt w
  refine .of_lt32 0 rfl (by decide) ?_
  show pack _ < _
  simp only [pack]
  omega

theorem Sys2Proof.Laws.Encode.sub (d : SReg) (a : SReg) (b : SReg) (w : Width) : Sys2Proof.Laws.Encode.Statement (.sub d a b w) := by
  have h0 := d.isLt
  have h1 := a.isLt
  have h2 := b.isLt
  have h3 := widthCode_lt w
  refine .of_lt32 0 rfl (by decide) ?_
  show pack _ < _
  simp only [pack]
  omega

theorem Sys2Proof.Laws.Encode.mul (d : SReg) (a : SReg) (b : SReg) (w : Width) : Sys2Proof.Laws.Encode.Statement (.mul d a b w) := by
  have h0 := d.isLt
  have h1 := a.isLt
  have h2 := b.isLt
  have h3 := widthCode_lt w
  refine .of_lt32 0 rfl (by decide) ?_
  show pack _ < _
  simp only [pack]
  omega

theorem Sys2Proof.Laws.Encode.mulh (d : SReg) (a : SReg) (b : SReg) (w : Width) : Sys2Proof.Laws.Encode.Statement (.mulh d a b w) := by
  have h0 := d.isLt
  have h1 := a.isLt
  have h2 := b.isLt
  have h3 := widthCode_lt w
  refine .of_lt32 0 rfl (by decide) ?_
  show pack _ < _
  simp only [pack]
  omega

theorem Sys2Proof.Laws.Encode.mulhu (d : SReg) (a : SReg) (b : SReg) (w : Width) : Sys2Proof.Laws.Encode.Statement (.mulhu d a b w) := by
  have h0 := d.isLt
  have h1 := a.isLt
  have h2 := b.isLt
  have h3 := widthCode_lt w
  refine .of_lt32 0 rfl (by decide) ?_
  show pack _ < _
  simp only [pack]
  omega

theorem Sys2Proof.Laws.Encode.div (d : SReg) (a : SReg) (b : SReg) (w : Width) : Sys2Proof.Laws.Encode.Statement (.div d a b w) := by
  have h0 := d.isLt
  have h1 := a.isLt
  have h2 := b.isLt
  have h3 := widthCode_lt w
  refine .of_lt32 0 rfl (by decide) ?_
  show pack _ < _
  simp only [pack]
  omega

theorem Sys2Proof.Laws.Encode.divu (d : SReg) (a : SReg) (b : SReg) (w : Width) : Sys2Proof.Laws.Encode.Statement (.divu d a b w) := by
  have h0 := d.isLt
  have h1 := a.isLt
  have h2 := b.isLt
  have h3 := widthCode_lt w
  refine .of_lt32 0 rfl (by decide) ?_
  show pack _ < _
  simp only [pack]
  omega

theorem Sys2Proof.Laws.Encode.rem (d : SReg) (a : SReg) (b : SReg) (w : Width) : Sys2Proof.Laws.Encode.Statement (.rem d a b w) := by
  have h0 := d.isLt
  have h1 := a.isLt
  have h2 := b.isLt
  have h3 := widthCode_lt w
  refine .of_lt32 0 rfl (by decide) ?_
  show pack _ < _
  simp only [pack]
  omega

theorem Sys2Proof.Laws.Encode.remu (d : SReg) (a : SReg) (b : SReg) (w : Width) : Sys2Proof.Laws.Encode.Statement (.remu d a b w) := by
  have h0 := d.isLt
  have h1 := a.isLt
  have h2 := b.isLt
  have h3 := widthCode_lt w
  refine .of_lt32 0 rfl (by decide) ?_
  show pack _ < _
  simp only [pack]
  omega

theorem Sys2Proof.Laws.Encode.and (d : SReg) (a : SReg) (b : SReg) (w : Width) : Sys2Proof.Laws.Encode.Statement (.and d a b w) := by
  have h0 := d.isLt
  have h1 := a.isLt
  have h2 := b.isLt
  have h3 := widthCode_lt w
  refine .of_lt32 0 rfl (by decide) ?_
  show pack _ < _
  simp only [pack]
  omega

theorem Sys2Proof.Laws.Encode.or (d : SReg) (a : SReg) (b : SReg) (w : Width) : Sys2Proof.Laws.Encode.Statement (.or d a b w) := by
  have h0 := d.isLt
  have h1 := a.isLt
  have h2 := b.isLt
  have h3 := widthCode_lt w
  refine .of_lt32 0 rfl (by decide) ?_
  show pack _ < _
  simp only [pack]
  omega

theorem Sys2Proof.Laws.Encode.xor (d : SReg) (a : SReg) (b : SReg) (w : Width) : Sys2Proof.Laws.Encode.Statement (.xor d a b w) := by
  have h0 := d.isLt
  have h1 := a.isLt
  have h2 := b.isLt
  have h3 := widthCode_lt w
  refine .of_lt32 0 rfl (by decide) ?_
  show pack _ < _
  simp only [pack]
  omega

theorem Sys2Proof.Laws.Encode.shl (d : SReg) (a : SReg) (b : SReg) (w : Width) : Sys2Proof.Laws.Encode.Statement (.shl d a b w) := by
  have h0 := d.isLt
  have h1 := a.isLt
  have h2 := b.isLt
  have h3 := widthCode_lt w
  refine .of_lt32 0 rfl (by decide) ?_
  show pack _ < _
  simp only [pack]
  omega

theorem Sys2Proof.Laws.Encode.shr (d : SReg) (a : SReg) (b : SReg) (w : Width) : Sys2Proof.Laws.Encode.Statement (.shr d a b w) := by
  have h0 := d.isLt
  have h1 := a.isLt
  have h2 := b.isLt
  have h3 := widthCode_lt w
  refine .of_lt32 0 rfl (by decide) ?_
  show pack _ < _
  simp only [pack]
  omega

theorem Sys2Proof.Laws.Encode.sra (d : SReg) (a : SReg) (b : SReg) (w : Width) : Sys2Proof.Laws.Encode.Statement (.sra d a b w) := by
  have h0 := d.isLt
  have h1 := a.isLt
  have h2 := b.isLt
  have h3 := widthCode_lt w
  refine .of_lt32 0 rfl (by decide) ?_
  show pack _ < _
  simp only [pack]
  omega

theorem Sys2Proof.Laws.Encode.min (d : SReg) (a : SReg) (b : SReg) (w : Width) : Sys2Proof.Laws.Encode.Statement (.min d a b w) := by
  have h0 := d.isLt
  have h1 := a.isLt
  have h2 := b.isLt
  have h3 := widthCode_lt w
  refine .of_lt32 0 rfl (by decide) ?_
  show pack _ < _
  simp only [pack]
  omega

theorem Sys2Proof.Laws.Encode.max (d : SReg) (a : SReg) (b : SReg) (w : Width) : Sys2Proof.Laws.Encode.Statement (.max d a b w) := by
  have h0 := d.isLt
  have h1 := a.isLt
  have h2 := b.isLt
  have h3 := widthCode_lt w
  refine .of_lt32 0 rfl (by decide) ?_
  show pack _ < _
  simp only [pack]
  omega

theorem Sys2Proof.Laws.Encode.minu (d : SReg) (a : SReg) (b : SReg) (w : Width) : Sys2Proof.Laws.Encode.Statement (.minu d a b w) := by
  have h0 := d.isLt
  have h1 := a.isLt
  have h2 := b.isLt
  have h3 := widthCode_lt w
  refine .of_lt32 0 rfl (by decide) ?_
  show pack _ < _
  simp only [pack]
  omega

theorem Sys2Proof.Laws.Encode.maxu (d : SReg) (a : SReg) (b : SReg) (w : Width) : Sys2Proof.Laws.Encode.Statement (.maxu d a b w) := by
  have h0 := d.isLt
  have h1 := a.isLt
  have h2 := b.isLt
  have h3 := widthCode_lt w
  refine .of_lt32 0 rfl (by decide) ?_
  show pack _ < _
  simp only [pack]
  omega

theorem Sys2Proof.Laws.Encode.slt (d : SReg) (a : SReg) (b : SReg) (w : Width) : Sys2Proof.Laws.Encode.Statement (.slt d a b w) := by
  have h0 := d.isLt
  have h1 := a.isLt
  have h2 := b.isLt
  have h3 := widthCode_lt w
  refine .of_lt32 0 rfl (by decide) ?_
  show pack _ < _
  simp only [pack]
  omega

theorem Sys2Proof.Laws.Encode.sltu (d : SReg) (a : SReg) (b : SReg) (w : Width) : Sys2Proof.Laws.Encode.Statement (.sltu d a b w) := by
  have h0 := d.isLt
  have h1 := a.isLt
  have h2 := b.isLt
  have h3 := widthCode_lt w
  refine .of_lt32 0 rfl (by decide) ?_
  show pack _ < _
  simp only [pack]
  omega

theorem Sys2Proof.Laws.Encode.seq (d : SReg) (a : SReg) (b : SReg) (w : Width) : Sys2Proof.Laws.Encode.Statement (.seq d a b w) := by
  have h0 := d.isLt
  have h1 := a.isLt
  have h2 := b.isLt
  have h3 := widthCode_lt w
  refine .of_lt32 0 rfl (by decide) ?_
  show pack _ < _
  simp only [pack]
  omega

theorem Sys2Proof.Laws.Encode.sel (d : SReg) (a : SReg) (b : SReg) (c : SReg) : Sys2Proof.Laws.Encode.Statement (.sel d a b c) := by
  have h0 := d.isLt
  have h1 := a.isLt
  have h2 := b.isLt
  have h3 := c.isLt
  refine .of_lt32 0 rfl (by decide) ?_
  show pack _ < _
  simp only [pack]
  omega

theorem Sys2Proof.Laws.Encode.mov (d : SReg) (a : SReg) : Sys2Proof.Laws.Encode.Statement (.mov d a) := by
  have h0 := d.isLt
  have h1 := a.isLt
  refine .of_lt32 0 rfl (by decide) ?_
  show pack _ < _
  simp only [pack]
  omega

theorem Sys2Proof.Laws.Encode.clz (d : SReg) (a : SReg) (w : Width) : Sys2Proof.Laws.Encode.Statement (.clz d a w) := by
  have h0 := d.isLt
  have h1 := a.isLt
  have h2 := widthCode_lt w
  refine .of_lt32 0 rfl (by decide) ?_
  show pack _ < _
  simp only [pack]
  omega

theorem Sys2Proof.Laws.Encode.ctz (d : SReg) (a : SReg) (w : Width) : Sys2Proof.Laws.Encode.Statement (.ctz d a w) := by
  have h0 := d.isLt
  have h1 := a.isLt
  have h2 := widthCode_lt w
  refine .of_lt32 0 rfl (by decide) ?_
  show pack _ < _
  simp only [pack]
  omega

theorem Sys2Proof.Laws.Encode.popc (d : SReg) (a : SReg) (w : Width) : Sys2Proof.Laws.Encode.Statement (.popc d a w) := by
  have h0 := d.isLt
  have h1 := a.isLt
  have h2 := widthCode_lt w
  refine .of_lt32 0 rfl (by decide) ?_
  show pack _ < _
  simp only [pack]
  omega

theorem Sys2Proof.Laws.Encode.bfx (d : SReg) (a : SReg) (pos : Fin 64) (lenm1 : Fin 64) : Sys2Proof.Laws.Encode.Statement (.bfx d a pos lenm1) := by
  have h0 := d.isLt
  have h1 := a.isLt
  have h2 := pos.isLt
  have h3 := lenm1.isLt
  refine .of_lt32 0 rfl (by decide) ?_
  show pack _ < _
  simp only [pack]
  omega

theorem Sys2Proof.Laws.Encode.bfi (d : SReg) (a : SReg) (pos : Fin 64) (lenm1 : Fin 64) : Sys2Proof.Laws.Encode.Statement (.bfi d a pos lenm1) := by
  have h0 := d.isLt
  have h1 := a.isLt
  have h2 := pos.isLt
  have h3 := lenm1.isLt
  refine .of_lt32 0 rfl (by decide) ?_
  show pack _ < _
  simp only [pack]
  omega

theorem Sys2Proof.Laws.Encode.addi (d : SReg) (a : SReg) (w : Width) (imm : BitVec 14) : Sys2Proof.Laws.Encode.Statement (.addi d a w imm) := by
  have h0 := d.isLt
  have h1 := a.isLt
  have h2 := widthCode_lt w
  have h3 := imm.isLt
  refine .of_lt32 0 rfl (by decide) ?_
  show pack _ < _
  simp only [pack]
  omega

theorem Sys2Proof.Laws.Encode.andi (d : SReg) (a : SReg) (w : Width) (imm : BitVec 14) : Sys2Proof.Laws.Encode.Statement (.andi d a w imm) := by
  have h0 := d.isLt
  have h1 := a.isLt
  have h2 := widthCode_lt w
  have h3 := imm.isLt
  refine .of_lt32 0 rfl (by decide) ?_
  show pack _ < _
  simp only [pack]
  omega

theorem Sys2Proof.Laws.Encode.ori (d : SReg) (a : SReg) (w : Width) (imm : BitVec 14) : Sys2Proof.Laws.Encode.Statement (.ori d a w imm) := by
  have h0 := d.isLt
  have h1 := a.isLt
  have h2 := widthCode_lt w
  have h3 := imm.isLt
  refine .of_lt32 0 rfl (by decide) ?_
  show pack _ < _
  simp only [pack]
  omega

theorem Sys2Proof.Laws.Encode.xori (d : SReg) (a : SReg) (w : Width) (imm : BitVec 14) : Sys2Proof.Laws.Encode.Statement (.xori d a w imm) := by
  have h0 := d.isLt
  have h1 := a.isLt
  have h2 := widthCode_lt w
  have h3 := imm.isLt
  refine .of_lt32 0 rfl (by decide) ?_
  show pack _ < _
  simp only [pack]
  omega

theorem Sys2Proof.Laws.Encode.shli (d : SReg) (a : SReg) (w : Width) (n : Fin 64) : Sys2Proof.Laws.Encode.Statement (.shli d a w n) := by
  have h0 := d.isLt
  have h1 := a.isLt
  have h2 := widthCode_lt w
  have h3 := n.isLt
  refine .of_lt32 0 rfl (by decide) ?_
  show pack _ < _
  simp only [pack]
  omega

theorem Sys2Proof.Laws.Encode.shri (d : SReg) (a : SReg) (w : Width) (n : Fin 64) : Sys2Proof.Laws.Encode.Statement (.shri d a w n) := by
  have h0 := d.isLt
  have h1 := a.isLt
  have h2 := widthCode_lt w
  have h3 := n.isLt
  refine .of_lt32 0 rfl (by decide) ?_
  show pack _ < _
  simp only [pack]
  omega

theorem Sys2Proof.Laws.Encode.srai (d : SReg) (a : SReg) (w : Width) (n : Fin 64) : Sys2Proof.Laws.Encode.Statement (.srai d a w n) := by
  have h0 := d.isLt
  have h1 := a.isLt
  have h2 := widthCode_lt w
  have h3 := n.isLt
  refine .of_lt32 0 rfl (by decide) ?_
  show pack _ < _
  simp only [pack]
  omega

theorem Sys2Proof.Laws.Encode.li (d : SReg) (imm : BitVec 21) : Sys2Proof.Laws.Encode.Statement (.li d imm) := by
  have h0 := d.isLt
  have h1 := imm.isLt
  refine .of_lt32 0 rfl (by decide) ?_
  show pack _ < _
  simp only [pack]
  omega

theorem Sys2Proof.Laws.Encode.lui (d : SReg) (imm : BitVec 21) : Sys2Proof.Laws.Encode.Statement (.lui d imm) := by
  have h0 := d.isLt
  have h1 := imm.isLt
  refine .of_lt32 0 rfl (by decide) ?_
  show pack _ < _
  simp only [pack]
  omega

theorem Sys2Proof.Laws.Encode.csrr (d : SReg) (c : BitVec 12) : Sys2Proof.Laws.Encode.Statement (.csrr d c) := by
  have h0 := d.isLt
  have h1 := c.isLt
  refine .of_lt32 0 rfl (by decide) ?_
  show pack _ < _
  simp only [pack]
  omega

theorem Sys2Proof.Laws.Encode.csrw (d : SReg) (a : SReg) (c : BitVec 12) : Sys2Proof.Laws.Encode.Statement (.csrw d a c) := by
  have h0 := d.isLt
  have h1 := a.isLt
  have h2 := c.isLt
  refine .of_lt32 0 rfl (by decide) ?_
  show pack _ < _
  simp only [pack]
  omega

theorem Sys2Proof.Laws.Encode.rdgts (d : SReg) : Sys2Proof.Laws.Encode.Statement (.rdgts d) := by
  have h0 := d.isLt
  refine .of_lt32 0 rfl (by decide) ?_
  show pack _ < _
  simp only [pack]
  omega

theorem Sys2Proof.Laws.Encode.extq (d : SReg) (a : SReg) : Sys2Proof.Laws.Encode.Statement (.extq d a) := by
  have h0 := d.isLt
  have h1 := a.isLt
  refine .of_lt32 0 rfl (by decide) ?_
  show pack _ < _
  simp only [pack]
  omega

theorem Sys2Proof.Laws.Encode.mapreq (d : SReg) (a : SReg) (b : SReg) (c : SReg) : Sys2Proof.Laws.Encode.Statement (.mapreq d a b c) := by
  have h0 := d.isLt
  have h1 := a.isLt
  have h2 := b.isLt
  have h3 := c.isLt
  refine .of_lt32 0 rfl (by decide) ?_
  show pack _ < _
  simp only [pack]
  omega

theorem Sys2Proof.Laws.Encode.semsigImm (n : Fin 256) (imm : BitVec 8) : Sys2Proof.Laws.Encode.Statement (.semsigImm n imm) := by
  have h0 := n.isLt
  have h1 := imm.isLt
  refine .of_lt32 0 rfl (by decide) ?_
  show pack _ < _
  simp only [pack]
  omega

theorem Sys2Proof.Laws.Encode.semsigReg (a : SReg) (n : Fin 256) : Sys2Proof.Laws.Encode.Statement (.semsigReg a n) := by
  have h0 := a.isLt
  have h1 := n.isLt
  refine .of_lt32 0 rfl (by decide) ?_
  show pack _ < _
  simp only [pack]
  omega

theorem Sys2Proof.Laws.Encode.semwait (d : SReg) (e : Bool) (n : Fin 256) (thr : Fin 256) : Sys2Proof.Laws.Encode.Statement (.semwait d e n thr) := by
  have h0 := d.isLt
  have h1 := bit_lt e
  have h2 := n.isLt
  have h3 := thr.isLt
  refine .of_lt32 0 rfl (by decide) ?_
  show pack _ < _
  simp only [pack]
  omega

theorem Sys2Proof.Laws.Encode.semsetImm (n : Fin 256) (imm : BitVec 8) : Sys2Proof.Laws.Encode.Statement (.semsetImm n imm) := by
  have h0 := n.isLt
  have h1 := imm.isLt
  refine .of_lt32 0 rfl (by decide) ?_
  show pack _ < _
  simp only [pack]
  omega

theorem Sys2Proof.Laws.Encode.semsetReg (a : SReg) (n : Fin 256) : Sys2Proof.Laws.Encode.Statement (.semsetReg a n) := by
  have h0 := a.isLt
  have h1 := n.isLt
  refine .of_lt32 0 rfl (by decide) ?_
  show pack _ < _
  simp only [pack]
  omega

theorem Sys2Proof.Laws.Encode.semrd (d : SReg) (n : Fin 256) : Sys2Proof.Laws.Encode.Statement (.semrd d n) := by
  have h0 := d.isLt
  have h1 := n.isLt
  refine .of_lt32 0 rfl (by decide) ?_
  show pack _ < _
  simp only [pack]
  omega

theorem Sys2Proof.Laws.Encode.barinit (sc : Scope) (n : Fin 16) (count : Fin 256) : Sys2Proof.Laws.Encode.Statement (.barinit sc n count) := by
  have h0 := scopeCode_lt sc
  have h1 := n.isLt
  have h2 := count.isLt
  refine .of_lt32 0 rfl (by decide) ?_
  show pack _ < _
  simp only [pack]
  omega

theorem Sys2Proof.Laws.Encode.bara (d : SReg) (sc : Scope) (n : Fin 16) : Sys2Proof.Laws.Encode.Statement (.bara d sc n) := by
  have h0 := d.isLt
  have h1 := scopeCode_lt sc
  have h2 := n.isLt
  refine .of_lt32 0 rfl (by decide) ?_
  show pack _ < _
  simp only [pack]
  omega

theorem Sys2Proof.Laws.Encode.barw (n : Fin 16) : Sys2Proof.Laws.Encode.Statement (.barw n) := by
  have h0 := n.isLt
  refine .of_lt32 0 rfl (by decide) ?_
  show pack _ < _
  simp only [pack]
  omega

theorem Sys2Proof.Laws.Encode.xld (d : SReg) (a : SReg) : Sys2Proof.Laws.Encode.Statement (.xld d a) := by
  have h0 := d.isLt
  have h1 := a.isLt
  refine .of_lt32 0 rfl (by decide) ?_
  show pack _ < _
  simp only [pack]
  omega

theorem Sys2Proof.Laws.Encode.xdrop (d : SReg) (n : Fin 16) : Sys2Proof.Laws.Encode.Statement (.xdrop d n) := by
  have h0 := d.isLt
  have h1 := n.isLt
  refine .of_lt32 0 rfl (by decide) ?_
  show pack _ < _
  simp only [pack]
  omega

theorem Sys2Proof.Laws.Encode.xqry (d : SReg) : Sys2Proof.Laws.Encode.Statement (.xqry d) := by
  have h0 := d.isLt
  refine .of_lt32 0 rfl (by decide) ?_
  show pack _ < _
  simp only [pack]
  omega

theorem Sys2Proof.Laws.Encode.qpost (d : SReg) (a : SReg) (b : SReg) : Sys2Proof.Laws.Encode.Statement (.qpost d a b) := by
  have h0 := d.isLt
  have h1 := a.isLt
  have h2 := b.isLt
  refine .of_lt32 0 rfl (by decide) ?_
  show pack _ < _
  simp only [pack]
  omega

theorem Sys2Proof.Laws.Encode.sigadd (d : SReg) (a : SReg) (b : SReg) : Sys2Proof.Laws.Encode.Statement (.sigadd d a b) := by
  have h0 := d.isLt
  have h1 := a.isLt
  have h2 := b.isLt
  refine .of_lt32 0 rfl (by decide) ?_
  show pack _ < _
  simp only [pack]
  omega

theorem Sys2Proof.Laws.Encode.vadd (d : VReg) (a : VReg) (b : VReg) (t : ElemTy) (p : PReg) : Sys2Proof.Laws.Encode.Statement (.vadd d a b t p) := by
  have h0 := d.isLt
  have h1 := a.isLt
  have h2 := b.isLt
  have h3 := elemCode_lt t
  have h4 := p.isLt
  refine .of_lt32 1 rfl (by decide) ?_
  show pack _ < _
  simp only [pack]
  omega

theorem Sys2Proof.Laws.Encode.vsub (d : VReg) (a : VReg) (b : VReg) (t : ElemTy) (p : PReg) : Sys2Proof.Laws.Encode.Statement (.vsub d a b t p) := by
  have h0 := d.isLt
  have h1 := a.isLt
  have h2 := b.isLt
  have h3 := elemCode_lt t
  have h4 := p.isLt
  refine .of_lt32 1 rfl (by decide) ?_
  show pack _ < _
  simp only [pack]
  omega

theorem Sys2Proof.Laws.Encode.vmul (d : VReg) (a : VReg) (b : VReg) (t : ElemTy) (p : PReg) : Sys2Proof.Laws.Encode.Statement (.vmul d a b t p) := by
  have h0 := d.isLt
  have h1 := a.isLt
  have h2 := b.isLt
  have h3 := elemCode_lt t
  have h4 := p.isLt
  refine .of_lt32 1 rfl (by decide) ?_
  show pack _ < _
  simp only [pack]
  omega

theorem Sys2Proof.Laws.Encode.vmulh (d : VReg) (a : VReg) (b : VReg) (t : ElemTy) (p : PReg) : Sys2Proof.Laws.Encode.Statement (.vmulh d a b t p) := by
  have h0 := d.isLt
  have h1 := a.isLt
  have h2 := b.isLt
  have h3 := elemCode_lt t
  have h4 := p.isLt
  refine .of_lt32 1 rfl (by decide) ?_
  show pack _ < _
  simp only [pack]
  omega

theorem Sys2Proof.Laws.Encode.vfma (d : VReg) (a : VReg) (b : VReg) (t : ElemTy) (p : PReg) : Sys2Proof.Laws.Encode.Statement (.vfma d a b t p) := by
  have h0 := d.isLt
  have h1 := a.isLt
  have h2 := b.isLt
  have h3 := elemCode_lt t
  have h4 := p.isLt
  refine .of_lt32 1 rfl (by decide) ?_
  show pack _ < _
  simp only [pack]
  omega

theorem Sys2Proof.Laws.Encode.vfms (d : VReg) (a : VReg) (b : VReg) (t : ElemTy) (p : PReg) : Sys2Proof.Laws.Encode.Statement (.vfms d a b t p) := by
  have h0 := d.isLt
  have h1 := a.isLt
  have h2 := b.isLt
  have h3 := elemCode_lt t
  have h4 := p.isLt
  refine .of_lt32 1 rfl (by decide) ?_
  show pack _ < _
  simp only [pack]
  omega

theorem Sys2Proof.Laws.Encode.vfnma (d : VReg) (a : VReg) (b : VReg) (t : ElemTy) (p : PReg) : Sys2Proof.Laws.Encode.Statement (.vfnma d a b t p) := by
  have h0 := d.isLt
  have h1 := a.isLt
  have h2 := b.isLt
  have h3 := elemCode_lt t
  have h4 := p.isLt
  refine .of_lt32 1 rfl (by decide) ?_
  show pack _ < _
  simp only [pack]
  omega

theorem Sys2Proof.Laws.Encode.vmin (d : VReg) (a : VReg) (b : VReg) (t : ElemTy) (p : PReg) : Sys2Proof.Laws.Encode.Statement (.vmin d a b t p) := by
  have h0 := d.isLt
  have h1 := a.isLt
  have h2 := b.isLt
  have h3 := elemCode_lt t
  have h4 := p.isLt
  refine .of_lt32 1 rfl (by decide) ?_
  show pack _ < _
  simp only [pack]
  omega

theorem Sys2Proof.Laws.Encode.vmax (d : VReg) (a : VReg) (b : VReg) (t : ElemTy) (p : PReg) : Sys2Proof.Laws.Encode.Statement (.vmax d a b t p) := by
  have h0 := d.isLt
  have h1 := a.isLt
  have h2 := b.isLt
  have h3 := elemCode_lt t
  have h4 := p.isLt
  refine .of_lt32 1 rfl (by decide) ?_
  show pack _ < _
  simp only [pack]
  omega

theorem Sys2Proof.Laws.Encode.vabs (d : VReg) (a : VReg) (t : ElemTy) (p : PReg) : Sys2Proof.Laws.Encode.Statement (.vabs d a t p) := by
  have h0 := d.isLt
  have h1 := a.isLt
  have h2 := elemCode_lt t
  have h3 := p.isLt
  refine .of_lt32 1 rfl (by decide) ?_
  show pack _ < _
  simp only [pack]
  omega

theorem Sys2Proof.Laws.Encode.vneg (d : VReg) (a : VReg) (t : ElemTy) (p : PReg) : Sys2Proof.Laws.Encode.Statement (.vneg d a t p) := by
  have h0 := d.isLt
  have h1 := a.isLt
  have h2 := elemCode_lt t
  have h3 := p.isLt
  refine .of_lt32 1 rfl (by decide) ?_
  show pack _ < _
  simp only [pack]
  omega

theorem Sys2Proof.Laws.Encode.vand (d : VReg) (a : VReg) (b : VReg) (p : PReg) : Sys2Proof.Laws.Encode.Statement (.vand d a b p) := by
  have h0 := d.isLt
  have h1 := a.isLt
  have h2 := b.isLt
  have h3 := p.isLt
  refine .of_lt32 1 rfl (by decide) ?_
  show pack _ < _
  simp only [pack]
  omega

theorem Sys2Proof.Laws.Encode.vor (d : VReg) (a : VReg) (b : VReg) (p : PReg) : Sys2Proof.Laws.Encode.Statement (.vor d a b p) := by
  have h0 := d.isLt
  have h1 := a.isLt
  have h2 := b.isLt
  have h3 := p.isLt
  refine .of_lt32 1 rfl (by decide) ?_
  show pack _ < _
  simp only [pack]
  omega

theorem Sys2Proof.Laws.Encode.vxor (d : VReg) (a : VReg) (b : VReg) (p : PReg) : Sys2Proof.Laws.Encode.Statement (.vxor d a b p) := by
  have h0 := d.isLt
  have h1 := a.isLt
  have h2 := b.isLt
  have h3 := p.isLt
  refine .of_lt32 1 rfl (by decide) ?_
  show pack _ < _
  simp only [pack]
  omega

theorem Sys2Proof.Laws.Encode.vnot (d : VReg) (a : VReg) (p : PReg) : Sys2Proof.Laws.Encode.Statement (.vnot d a p) := by
  have h0 := d.isLt
  have h1 := a.isLt
  have h2 := p.isLt
  refine .of_lt32 1 rfl (by decide) ?_
  show pack _ < _
  simp only [pack]
  omega

theorem Sys2Proof.Laws.Encode.vshl (d : VReg) (a : VReg) (b : VReg) (t : ElemTy) (p : PReg) : Sys2Proof.Laws.Encode.Statement (.vshl d a b t p) := by
  have h0 := d.isLt
  have h1 := a.isLt
  have h2 := b.isLt
  have h3 := elemCode_lt t
  have h4 := p.isLt
  refine .of_lt32 1 rfl (by decide) ?_
  show pack _ < _
  simp only [pack]
  omega

theorem Sys2Proof.Laws.Encode.vshr (d : VReg) (a : VReg) (b : VReg) (t : ElemTy) (p : PReg) : Sys2Proof.Laws.Encode.Statement (.vshr d a b t p) := by
  have h0 := d.isLt
  have h1 := a.isLt
  have h2 := b.isLt
  have h3 := elemCode_lt t
  have h4 := p.isLt
  refine .of_lt32 1 rfl (by decide) ?_
  show pack _ < _
  simp only [pack]
  omega

theorem Sys2Proof.Laws.Encode.vsra (d : VReg) (a : VReg) (b : VReg) (t : ElemTy) (p : PReg) : Sys2Proof.Laws.Encode.Statement (.vsra d a b t p) := by
  have h0 := d.isLt
  have h1 := a.isLt
  have h2 := b.isLt
  have h3 := elemCode_lt t
  have h4 := p.isLt
  refine .of_lt32 1 rfl (by decide) ?_
  show pack _ < _
  simp only [pack]
  omega

theorem Sys2Proof.Laws.Encode.vrcp (d : VReg) (a : VReg) (rm : Rm) (t2 : ElemTy) (t : ElemTy) (p : PReg) : Sys2Proof.Laws.Encode.Statement (.vrcp d a rm t2 t p) := by
  have h0 := d.isLt
  have h1 := a.isLt
  have h2 := rmCode_lt rm
  have h3 := elemCode_lt t2
  have h4 := elemCode_lt t
  have h5 := p.isLt
  refine .of_lt32 1 rfl (by decide) ?_
  show pack _ < _
  simp only [pack]
  omega

theorem Sys2Proof.Laws.Encode.vrsq (d : VReg) (a : VReg) (rm : Rm) (t2 : ElemTy) (t : ElemTy) (p : PReg) : Sys2Proof.Laws.Encode.Statement (.vrsq d a rm t2 t p) := by
  have h0 := d.isLt
  have h1 := a.isLt
  have h2 := rmCode_lt rm
  have h3 := elemCode_lt t2
  have h4 := elemCode_lt t
  have h5 := p.isLt
  refine .of_lt32 1 rfl (by decide) ?_
  show pack _ < _
  simp only [pack]
  omega

theorem Sys2Proof.Laws.Encode.vsqrt (d : VReg) (a : VReg) (rm : Rm) (t2 : ElemTy) (t : ElemTy) (p : PReg) : Sys2Proof.Laws.Encode.Statement (.vsqrt d a rm t2 t p) := by
  have h0 := d.isLt
  have h1 := a.isLt
  have h2 := rmCode_lt rm
  have h3 := elemCode_lt t2
  have h4 := elemCode_lt t
  have h5 := p.isLt
  refine .of_lt32 1 rfl (by decide) ?_
  show pack _ < _
  simp only [pack]
  omega

theorem Sys2Proof.Laws.Encode.vexp2 (d : VReg) (a : VReg) (rm : Rm) (t2 : ElemTy) (t : ElemTy) (p : PReg) : Sys2Proof.Laws.Encode.Statement (.vexp2 d a rm t2 t p) := by
  have h0 := d.isLt
  have h1 := a.isLt
  have h2 := rmCode_lt rm
  have h3 := elemCode_lt t2
  have h4 := elemCode_lt t
  have h5 := p.isLt
  refine .of_lt32 1 rfl (by decide) ?_
  show pack _ < _
  simp only [pack]
  omega

theorem Sys2Proof.Laws.Encode.vlog2 (d : VReg) (a : VReg) (rm : Rm) (t2 : ElemTy) (t : ElemTy) (p : PReg) : Sys2Proof.Laws.Encode.Statement (.vlog2 d a rm t2 t p) := by
  have h0 := d.isLt
  have h1 := a.isLt
  have h2 := rmCode_lt rm
  have h3 := elemCode_lt t2
  have h4 := elemCode_lt t
  have h5 := p.isLt
  refine .of_lt32 1 rfl (by decide) ?_
  show pack _ < _
  simp only [pack]
  omega

theorem Sys2Proof.Laws.Encode.vcmp (pd : PReg) (cc : VCond) (a : VReg) (b : VReg) (t : ElemTy) : Sys2Proof.Laws.Encode.Statement (.vcmp pd cc a b t) := by
  have h0 := pd.isLt
  have h1 := vcondCode_lt cc
  have h2 := a.isLt
  have h3 := b.isLt
  have h4 := elemCode_lt t
  refine .of_lt32 1 rfl (by decide) ?_
  show pack _ < _
  simp only [pack]
  omega

theorem Sys2Proof.Laws.Encode.vsel (d : VReg) (a : VReg) (b : VReg) (p : PReg) : Sys2Proof.Laws.Encode.Statement (.vsel d a b p) := by
  have h0 := d.isLt
  have h1 := a.isLt
  have h2 := b.isLt
  have h3 := p.isLt
  refine .of_lt32 1 rfl (by decide) ?_
  show pack _ < _
  simp only [pack]
  omega

theorem Sys2Proof.Laws.Encode.vmov (d : VReg) (a : VReg) (p : PReg) : Sys2Proof.Laws.Encode.Statement (.vmov d a p) := by
  have h0 := d.isLt
  have h1 := a.isLt
  have h2 := p.isLt
  refine .of_lt32 1 rfl (by decide) ?_
  show pack _ < _
  simp only [pack]
  omega

theorem Sys2Proof.Laws.Encode.vbcst (d : VReg) (a : SReg) (t : ElemTy) (p : PReg) : Sys2Proof.Laws.Encode.Statement (.vbcst d a t p) := by
  have h0 := d.isLt
  have h1 := a.isLt
  have h2 := elemCode_lt t
  have h3 := p.isLt
  refine .of_lt32 1 rfl (by decide) ?_
  show pack _ < _
  simp only [pack]
  omega

theorem Sys2Proof.Laws.Encode.vext (d : SReg) (a : VReg) (lane : Fin 16) (t : ElemTy) : Sys2Proof.Laws.Encode.Statement (.vext d a lane t) := by
  have h0 := d.isLt
  have h1 := a.isLt
  have h2 := lane.isLt
  have h3 := elemCode_lt t
  refine .of_lt32 1 rfl (by decide) ?_
  show pack _ < _
  simp only [pack]
  omega

theorem Sys2Proof.Laws.Encode.vins (d : VReg) (a : SReg) (lane : Fin 16) (t : ElemTy) : Sys2Proof.Laws.Encode.Statement (.vins d a lane t) := by
  have h0 := d.isLt
  have h1 := a.isLt
  have h2 := lane.isLt
  have h3 := elemCode_lt t
  refine .of_lt32 1 rfl (by decide) ?_
  show pack _ < _
  simp only [pack]
  omega

theorem Sys2Proof.Laws.Encode.vperm (d : VReg) (a : VReg) (b : VReg) (p : PReg) : Sys2Proof.Laws.Encode.Statement (.vperm d a b p) := by
  have h0 := d.isLt
  have h1 := a.isLt
  have h2 := b.isLt
  have h3 := p.isLt
  refine .of_lt32 1 rfl (by decide) ?_
  show pack _ < _
  simp only [pack]
  omega

theorem Sys2Proof.Laws.Encode.vshuf (d : VReg) (a : VReg) (b : VReg) (pat : Shuf) (p : PReg) : Sys2Proof.Laws.Encode.Statement (.vshuf d a b pat p) := by
  have h0 := d.isLt
  have h1 := a.isLt
  have h2 := b.isLt
  have h3 := shufCode_lt pat
  have h4 := p.isLt
  refine .of_lt32 1 rfl (by decide) ?_
  show pack _ < _
  simp only [pack]
  omega

theorem Sys2Proof.Laws.Encode.vrot (d : VReg) (a : VReg) (n : Fin 16) (p : PReg) : Sys2Proof.Laws.Encode.Statement (.vrot d a n p) := by
  have h0 := d.isLt
  have h1 := a.isLt
  have h2 := n.isLt
  have h3 := p.isLt
  refine .of_lt32 1 rfl (by decide) ?_
  show pack _ < _
  simp only [pack]
  omega

theorem Sys2Proof.Laws.Encode.vrsum (d : VReg) (a : VReg) (t : ElemTy) (p : PReg) : Sys2Proof.Laws.Encode.Statement (.vrsum d a t p) := by
  have h0 := d.isLt
  have h1 := a.isLt
  have h2 := elemCode_lt t
  have h3 := p.isLt
  refine .of_lt32 1 rfl (by decide) ?_
  show pack _ < _
  simp only [pack]
  omega

theorem Sys2Proof.Laws.Encode.vrmax (d : VReg) (a : VReg) (t : ElemTy) (p : PReg) : Sys2Proof.Laws.Encode.Statement (.vrmax d a t p) := by
  have h0 := d.isLt
  have h1 := a.isLt
  have h2 := elemCode_lt t
  have h3 := p.isLt
  refine .of_lt32 1 rfl (by decide) ?_
  show pack _ < _
  simp only [pack]
  omega

theorem Sys2Proof.Laws.Encode.vrmin (d : VReg) (a : VReg) (t : ElemTy) (p : PReg) : Sys2Proof.Laws.Encode.Statement (.vrmin d a t p) := by
  have h0 := d.isLt
  have h1 := a.isLt
  have h2 := elemCode_lt t
  have h3 := p.isLt
  refine .of_lt32 1 rfl (by decide) ?_
  show pack _ < _
  simp only [pack]
  omega

theorem Sys2Proof.Laws.Encode.vramax (d : VReg) (a : VReg) (t : ElemTy) (p : PReg) : Sys2Proof.Laws.Encode.Statement (.vramax d a t p) := by
  have h0 := d.isLt
  have h1 := a.isLt
  have h2 := elemCode_lt t
  have h3 := p.isLt
  refine .of_lt32 1 rfl (by decide) ?_
  show pack _ < _
  simp only [pack]
  omega

theorem Sys2Proof.Laws.Encode.pand (pd : PReg) (pa : PReg) (pb : PReg) : Sys2Proof.Laws.Encode.Statement (.pand pd pa pb) := by
  have h0 := pd.isLt
  have h1 := pa.isLt
  have h2 := pb.isLt
  refine .of_lt32 1 rfl (by decide) ?_
  show pack _ < _
  simp only [pack]
  omega

theorem Sys2Proof.Laws.Encode.por (pd : PReg) (pa : PReg) (pb : PReg) : Sys2Proof.Laws.Encode.Statement (.por pd pa pb) := by
  have h0 := pd.isLt
  have h1 := pa.isLt
  have h2 := pb.isLt
  refine .of_lt32 1 rfl (by decide) ?_
  show pack _ < _
  simp only [pack]
  omega

theorem Sys2Proof.Laws.Encode.pxor (pd : PReg) (pa : PReg) (pb : PReg) : Sys2Proof.Laws.Encode.Statement (.pxor pd pa pb) := by
  have h0 := pd.isLt
  have h1 := pa.isLt
  have h2 := pb.isLt
  refine .of_lt32 1 rfl (by decide) ?_
  show pack _ < _
  simp only [pack]
  omega

theorem Sys2Proof.Laws.Encode.pnot (pd : PReg) (pa : PReg) : Sys2Proof.Laws.Encode.Statement (.pnot pd pa) := by
  have h0 := pd.isLt
  have h1 := pa.isLt
  refine .of_lt32 1 rfl (by decide) ?_
  show pack _ < _
  simp only [pack]
  omega

theorem Sys2Proof.Laws.Encode.pset (pd : PReg) (imm : BitVec 16) : Sys2Proof.Laws.Encode.Statement (.pset pd imm) := by
  have h0 := pd.isLt
  have h1 := imm.isLt
  refine .of_lt32 1 rfl (by decide) ?_
  show pack _ < _
  simp only [pack]
  omega

theorem Sys2Proof.Laws.Encode.pcnt (d : SReg) (pa : PReg) : Sys2Proof.Laws.Encode.Statement (.pcnt d pa) := by
  have h0 := d.isLt
  have h1 := pa.isLt
  refine .of_lt32 1 rfl (by decide) ?_
  show pack _ < _
  simp only [pack]
  omega

theorem Sys2Proof.Laws.Encode.vcvt (d : VReg) (a : VReg) (rm : Rm) (t2 : ElemTy) (t : ElemTy) (p : PReg) : Sys2Proof.Laws.Encode.Statement (.vcvt d a rm t2 t p) := by
  have h0 := d.isLt
  have h1 := a.isLt
  have h2 := rmCode_lt rm
  have h3 := elemCode_lt t2
  have h4 := elemCode_lt t
  have h5 := p.isLt
  refine .of_lt32 1 rfl (by decide) ?_
  show pack _ < _
  simp only [pack]
  omega

theorem Sys2Proof.Laws.Encode.vpksx (d : VReg) (a : VReg) (rm : Rm) (t2 : ElemTy) (t : ElemTy) (p : PReg) : Sys2Proof.Laws.Encode.Statement (.vpksx d a rm t2 t p) := by
  have h0 := d.isLt
  have h1 := a.isLt
  have h2 := rmCode_lt rm
  have h3 := elemCode_lt t2
  have h4 := elemCode_lt t
  have h5 := p.isLt
  refine .of_lt32 1 rfl (by decide) ?_
  show pack _ < _
  simp only [pack]
  omega

theorem Sys2Proof.Laws.Encode.vupsx (d : VReg) (a : VReg) (rm : Rm) (t2 : ElemTy) (t : ElemTy) (p : PReg) : Sys2Proof.Laws.Encode.Statement (.vupsx d a rm t2 t p) := by
  have h0 := d.isLt
  have h1 := a.isLt
  have h2 := rmCode_lt rm
  have h3 := elemCode_lt t2
  have h4 := elemCode_lt t
  have h5 := p.isLt
  refine .of_lt32 1 rfl (by decide) ?_
  show pack _ < _
  simp only [pack]
  omega

theorem Sys2Proof.Laws.Encode.vqnt (d : VReg) (a : VReg) (rm : Rm) (t2 : ElemTy) (t : QTy) (p : PReg) : Sys2Proof.Laws.Encode.Statement (.vqnt d a rm t2 t p) := by
  have h0 := d.isLt
  have h1 := a.isLt
  have h2 := rmCode_lt rm
  have h3 := elemCode_lt t2
  have h4 := qtyCode_lt t
  have h5 := p.isLt
  refine .of_lt32 1 rfl (by decide) ?_
  show pack _ < _
  simp only [pack]
  omega

theorem Sys2Proof.Laws.Encode.vdq (d : VReg) (a : VReg) (rm : Rm) (t2 : QTy) (t : ElemTy) (p : PReg) : Sys2Proof.Laws.Encode.Statement (.vdq d a rm t2 t p) := by
  have h0 := d.isLt
  have h1 := a.isLt
  have h2 := rmCode_lt rm
  have h3 := qtyCode_lt t2
  have h4 := elemCode_lt t
  have h5 := p.isLt
  refine .of_lt32 1 rfl (by decide) ?_
  show pack _ < _
  simp only [pack]
  omega

theorem Sys2Proof.Laws.Encode.vqch (d : VReg) (a : VReg) (rm : Rm) (t2 : ElemTy) (t : ElemTy) (p : PReg) : Sys2Proof.Laws.Encode.Statement (.vqch d a rm t2 t p) := by
  have h0 := d.isLt
  have h1 := a.isLt
  have h2 := rmCode_lt rm
  have h3 := elemCode_lt t2
  have h4 := elemCode_lt t
  have h5 := p.isLt
  refine .of_lt32 1 rfl (by decide) ?_
  show pack _ < _
  simp only [pack]
  omega

theorem Sys2Proof.Laws.Encode.vqfit (d : VReg) (a : VReg) (t2 : ElemTy) (t : QTy) (p : PReg) : Sys2Proof.Laws.Encode.Statement (.vqfit d a t2 t p) := by
  have h0 := d.isLt
  have h1 := a.isLt
  have h2 := elemCode_lt t2
  have h3 := qtyCode_lt t
  have h4 := p.isLt
  refine .of_lt32 1 rfl (by decide) ?_
  show pack _ < _
  simp only [pack]
  omega

theorem Sys2Proof.Laws.Encode.vbf2 (d : VReg) (a : VReg) (b : VReg) (t : ElemTy) (p : PReg) : Sys2Proof.Laws.Encode.Statement (.vbf2 d a b t p) := by
  have h0 := d.isLt
  have h1 := a.isLt
  have h2 := b.isLt
  have h3 := elemCode_lt t
  have h4 := p.isLt
  refine .of_lt32 1 rfl (by decide) ?_
  show pack _ < _
  simp only [pack]
  omega

theorem Sys2Proof.Laws.Encode.vbf4 (d : VReg) (a : VReg) (b : VReg) (t : ElemTy) (p : PReg) : Sys2Proof.Laws.Encode.Statement (.vbf4 d a b t p) := by
  have h0 := d.isLt
  have h1 := a.isLt
  have h2 := b.isLt
  have h3 := elemCode_lt t
  have h4 := p.isLt
  refine .of_lt32 1 rfl (by decide) ?_
  show pack _ < _
  simp only [pack]
  omega

theorem Sys2Proof.Laws.Encode.vcmul (d : VReg) (a : VReg) (b : VReg) (t : ElemTy) (p : PReg) : Sys2Proof.Laws.Encode.Statement (.vcmul d a b t p) := by
  have h0 := d.isLt
  have h1 := a.isLt
  have h2 := b.isLt
  have h3 := elemCode_lt t
  have h4 := p.isLt
  refine .of_lt32 1 rfl (by decide) ?_
  show pack _ < _
  simp only [pack]
  omega

theorem Sys2Proof.Laws.Encode.vconj (d : VReg) (a : VReg) (t : ElemTy) (p : PReg) : Sys2Proof.Laws.Encode.Statement (.vconj d a t p) := by
  have h0 := d.isLt
  have h1 := a.isLt
  have h2 := elemCode_lt t
  have h3 := p.isLt
  refine .of_lt32 1 rfl (by decide) ?_
  show pack _ < _
  simp only [pack]
  omega

theorem Sys2Proof.Laws.Encode.vtwid (d : VReg) (a : SReg) (log2n : Fin 64) (t : ElemTy) (p : PReg) : Sys2Proof.Laws.Encode.Statement (.vtwid d a log2n t p) := by
  have h0 := d.isLt
  have h1 := a.isLt
  have h2 := log2n.isLt
  have h3 := elemCode_lt t
  have h4 := p.isLt
  refine .of_lt32 1 rfl (by decide) ?_
  show pack _ < _
  simp only [pack]
  omega

theorem Sys2Proof.Laws.Encode.xop (d : VReg) (a : VReg) (b : VReg) (n : Fin 16) (p : PReg) : Sys2Proof.Laws.Encode.Statement (.xop d a b n p) := by
  have h0 := d.isLt
  have h1 := a.isLt
  have h2 := b.isLt
  have h3 := n.isLt
  have h4 := p.isLt
  refine .of_lt32 1 rfl (by decide) ?_
  show pack _ < _
  simp only [pack]
  omega

theorem Sys2Proof.Laws.Encode.ld (d : SReg) (base : SReg) (ty : MemTy) (rp : PReg) (off : BitVec 7) : Sys2Proof.Laws.Encode.Statement (.ld d base ty rp off) := by
  have h0 := d.isLt
  have h1 := base.isLt
  have h2 := memTyCode_lt ty
  have h3 := rp.isLt
  have h4 := off.isLt
  refine .of_lt32 2 rfl (by decide) ?_
  show pack _ < _
  simp only [pack]
  omega

theorem Sys2Proof.Laws.Encode.st (d : SReg) (base : SReg) (ty : MemTy) (off : BitVec 7) : Sys2Proof.Laws.Encode.Statement (.st d base ty off) := by
  have h0 := d.isLt
  have h1 := base.isLt
  have h2 := memTyCode_lt ty
  have h3 := off.isLt
  refine .of_lt32 2 rfl (by decide) ?_
  show pack _ < _
  simp only [pack]
  omega

theorem Sys2Proof.Laws.Encode.vld (d : VReg) (base : SReg) (ty : ElemTy) (rp : PReg) (off : BitVec 7) : Sys2Proof.Laws.Encode.Statement (.vld d base ty rp off) := by
  have h0 := d.isLt
  have h1 := base.isLt
  have h2 := elemCode_lt ty
  have h3 := rp.isLt
  have h4 := off.isLt
  refine .of_lt32 2 rfl (by decide) ?_
  show pack _ < _
  simp only [pack]
  omega

theorem Sys2Proof.Laws.Encode.vlds (d : VReg) (base : SReg) (ty : ElemTy) (rp : PReg) (b : SReg) : Sys2Proof.Laws.Encode.Statement (.vlds d base ty rp b) := by
  have h0 := d.isLt
  have h1 := base.isLt
  have h2 := elemCode_lt ty
  have h3 := rp.isLt
  have h4 := b.isLt
  refine .of_lt32 2 rfl (by decide) ?_
  show pack _ < _
  simp only [pack]
  omega

theorem Sys2Proof.Laws.Encode.vldb (d : VReg) (base : SReg) (ty : ElemTy) (rp : PReg) (off : BitVec 7) : Sys2Proof.Laws.Encode.Statement (.vldb d base ty rp off) := by
  have h0 := d.isLt
  have h1 := base.isLt
  have h2 := elemCode_lt ty
  have h3 := rp.isLt
  have h4 := off.isLt
  refine .of_lt32 2 rfl (by decide) ?_
  show pack _ < _
  simp only [pack]
  omega

theorem Sys2Proof.Laws.Encode.vgath (d : VReg) (base : SReg) (ty : ElemTy) (rp : PReg) (b : VReg) : Sys2Proof.Laws.Encode.Statement (.vgath d base ty rp b) := by
  have h0 := d.isLt
  have h1 := base.isLt
  have h2 := elemCode_lt ty
  have h3 := rp.isLt
  have h4 := b.isLt
  refine .of_lt32 2 rfl (by decide) ?_
  show pack _ < _
  simp only [pack]
  omega

theorem Sys2Proof.Laws.Encode.vst (d : VReg) (base : SReg) (ty : ElemTy) (off : BitVec 7) : Sys2Proof.Laws.Encode.Statement (.vst d base ty off) := by
  have h0 := d.isLt
  have h1 := base.isLt
  have h2 := elemCode_lt ty
  have h3 := off.isLt
  refine .of_lt32 2 rfl (by decide) ?_
  show pack _ < _
  simp only [pack]
  omega

theorem Sys2Proof.Laws.Encode.vsts (d : VReg) (base : SReg) (ty : ElemTy) (b : SReg) : Sys2Proof.Laws.Encode.Statement (.vsts d base ty b) := by
  have h0 := d.isLt
  have h1 := base.isLt
  have h2 := elemCode_lt ty
  have h3 := b.isLt
  refine .of_lt32 2 rfl (by decide) ?_
  show pack _ < _
  simp only [pack]
  omega

theorem Sys2Proof.Laws.Encode.vscat (d : VReg) (base : SReg) (ty : ElemTy) (b : VReg) : Sys2Proof.Laws.Encode.Statement (.vscat d base ty b) := by
  have h0 := d.isLt
  have h1 := base.isLt
  have h2 := elemCode_lt ty
  have h3 := b.isLt
  refine .of_lt32 2 rfl (by decide) ?_
  show pack _ < _
  simp only [pack]
  omega

theorem Sys2Proof.Laws.Encode.atom (d : SReg) (base : SReg) (ty : ElemTy) (aop : Aop) (b : SReg) (sc : Bool) : Sys2Proof.Laws.Encode.Statement (.atom d base ty aop b sc) := by
  have h0 := d.isLt
  have h1 := base.isLt
  have h2 := elemCode_lt ty
  have h3 := aopCode_lt aop
  have h4 := b.isLt
  have h5 := bit_lt sc
  refine .of_lt32 2 rfl (by decide) ?_
  show pack _ < _
  simp only [pack]
  omega

theorem Sys2Proof.Laws.Encode.atomn (base : SReg) (ty : ElemTy) (aop : Aop) (b : SReg) (sc : Bool) : Sys2Proof.Laws.Encode.Statement (.atomn base ty aop b sc) := by
  have h0 := base.isLt
  have h1 := elemCode_lt ty
  have h2 := aopCode_lt aop
  have h3 := b.isLt
  have h4 := bit_lt sc
  refine .of_lt32 2 rfl (by decide) ?_
  show pack _ < _
  simp only [pack]
  omega

theorem Sys2Proof.Laws.Encode.vatom (d : VReg) (base : SReg) (ty : ElemTy) (aop : Aop) (b : VReg) (sc : Bool) : Sys2Proof.Laws.Encode.Statement (.vatom d base ty aop b sc) := by
  have h0 := d.isLt
  have h1 := base.isLt
  have h2 := elemCode_lt ty
  have h3 := aopCode_lt aop
  have h4 := b.isLt
  have h5 := bit_lt sc
  refine .of_lt32 2 rfl (by decide) ?_
  show pack _ < _
  simp only [pack]
  omega

theorem Sys2Proof.Laws.Encode.vatomn (base : SReg) (ty : ElemTy) (aop : Aop) (b : VReg) (sc : Bool) : Sys2Proof.Laws.Encode.Statement (.vatomn base ty aop b sc) := by
  have h0 := base.isLt
  have h1 := elemCode_lt ty
  have h2 := aopCode_lt aop
  have h3 := b.isLt
  have h4 := bit_lt sc
  refine .of_lt32 2 rfl (by decide) ?_
  show pack _ < _
  simp only [pack]
  omega

theorem Sys2Proof.Laws.Encode.scAtomicPerform (id : Nat) : Sys2Proof.Laws.Encode.Statement (.scAtomicPerform id) := .of_none rfl

theorem Sys2Proof.Laws.Encode.drain (path : Path) : Sys2Proof.Laws.Encode.Statement (.drain path) := by
  have h0 := pathCode_lt path
  refine .of_lt32 2 rfl (by decide) ?_
  show pack _ < _
  simp only [pack]
  omega

theorem Sys2Proof.Laws.Encode.fence (sc : Scope) (kind : FenceKind) : Sys2Proof.Laws.Encode.Statement (.fence sc kind) := by
  have h0 := scopeCode_lt sc
  have h1 := fenceCode_lt kind
  refine .of_lt32 2 rfl (by decide) ?_
  show pack _ < _
  simp only [pack]
  omega

theorem Sys2Proof.Laws.Encode.sbar (mask : BitVec 16) : Sys2Proof.Laws.Encode.Statement (.sbar mask) := by
  have h0 := mask.isLt
  refine .of_lt32 2 rfl (by decide) ?_
  show pack _ < _
  simp only [pack]
  omega

theorem Sys2Proof.Laws.Encode.ldacq (d : SReg) (base : SReg) (ty : MemTy) (sc : Scope) (off : BitVec 7) : Sys2Proof.Laws.Encode.Statement (.ldacq d base ty sc off) := by
  have h0 := d.isLt
  have h1 := base.isLt
  have h2 := memTyCode_lt ty
  have h3 := scopeCode_lt sc
  have h4 := off.isLt
  refine .of_lt32 2 rfl (by decide) ?_
  show pack _ < _
  simp only [pack]
  omega

theorem Sys2Proof.Laws.Encode.strel (d : SReg) (base : SReg) (ty : MemTy) (sc : Scope) (off : BitVec 7) : Sys2Proof.Laws.Encode.Statement (.strel d base ty sc off) := by
  have h0 := d.isLt
  have h1 := base.isLt
  have h2 := memTyCode_lt ty
  have h3 := scopeCode_lt sc
  have h4 := off.isLt
  refine .of_lt32 2 rfl (by decide) ?_
  show pack _ < _
  simp only [pack]
  omega

theorem Sys2Proof.Laws.Encode.br (off : BitVec 26) : Sys2Proof.Laws.Encode.Statement (.br off) := by
  have h0 := off.isLt
  refine .of_lt32 3 rfl (by decide) ?_
  show pack _ < _
  simp only [pack]
  omega

theorem Sys2Proof.Laws.Encode.brc (a : SReg) (cc : BCond) (off : BitVec 18) : Sys2Proof.Laws.Encode.Statement (.brc a cc off) := by
  have h0 := a.isLt
  have h1 := bcondCode_lt cc
  have h2 := off.isLt
  refine .of_lt32 3 rfl (by decide) ?_
  show pack _ < _
  simp only [pack]
  omega

theorem Sys2Proof.Laws.Encode.brp (p : PReg) (mode : BMode) (off : BitVec 20) : Sys2Proof.Laws.Encode.Statement (.brp p mode off) := by
  have h0 := p.isLt
  have h1 := brpModeCode_lt mode
  have h2 := off.isLt
  refine .of_lt32 3 rfl (by decide) ?_
  show pack _ < _
  simp only [pack]
  omega

theorem Sys2Proof.Laws.Encode.bru (p : PReg) (sense : Bool) (off : BitVec 20) : Sys2Proof.Laws.Encode.Statement (.bru p sense off) := by
  have h0 := p.isLt
  have h1 := bit_lt sense
  have h2 := off.isLt
  refine .of_lt32 3 rfl (by decide) ?_
  show pack _ < _
  simp only [pack]
  omega

theorem Sys2Proof.Laws.Encode.jmpi (a : SReg) : Sys2Proof.Laws.Encode.Statement (.jmpi a) := by
  have h0 := a.isLt
  refine .of_lt32 3 rfl (by decide) ?_
  show pack _ < _
  simp only [pack]
  omega

theorem Sys2Proof.Laws.Encode.call (off : BitVec 26) : Sys2Proof.Laws.Encode.Statement (.call off) := by
  have h0 := off.isLt
  refine .of_lt32 3 rfl (by decide) ?_
  show pack _ < _
  simp only [pack]
  omega

theorem Sys2Proof.Laws.Encode.ret : Sys2Proof.Laws.Encode.Statement (.ret) := by
  refine .of_lt32 3 rfl (by decide) ?_
  show pack _ < _
  simp only [pack]
  omega

theorem Sys2Proof.Laws.Encode.loop (lc : Fin 3) (a : SReg) (step : BitVec 4) (fin : BitVec 15) : Sys2Proof.Laws.Encode.Statement (.loop lc a step fin) := by
  have h0 := lc.isLt
  have h1 := a.isLt
  have h2 := step.isLt
  have h3 := fin.isLt
  refine .of_lt32 3 rfl (by decide) ?_
  show pack _ < _
  simp only [pack]
  omega

theorem Sys2Proof.Laws.Encode.loopi (lc : Fin 3) (count : BitVec 10) (step : BitVec 4) (fin : BitVec 10) : Sys2Proof.Laws.Encode.Statement (.loopi lc count step fin) := by
  have h0 := lc.isLt
  have h1 := count.isLt
  have h2 := step.isLt
  have h3 := fin.isLt
  refine .of_lt32 3 rfl (by decide) ?_
  show pack _ < _
  simp only [pack]
  omega

theorem Sys2Proof.Laws.Encode.lexit (lc : Fin 3) : Sys2Proof.Laws.Encode.Statement (.lexit lc) := by
  have h0 := lc.isLt
  refine .of_lt32 3 rfl (by decide) ?_
  show pack _ < _
  simp only [pack]
  omega

theorem Sys2Proof.Laws.Encode.bsel (a : SReg) : Sys2Proof.Laws.Encode.Statement (.bsel a) := by
  have h0 := a.isLt
  refine .of_lt32 3 rfl (by decide) ?_
  show pack _ < _
  simp only [pack]
  omega

theorem Sys2Proof.Laws.Encode.phend (p : PReg) (mode : BMode) : Sys2Proof.Laws.Encode.Statement (.phend p mode) := by
  have h0 := p.isLt
  have h1 := phModeCode_lt mode
  refine .of_lt32 3 rfl (by decide) ?_
  show pack _ < _
  simp only [pack]
  omega

theorem Sys2Proof.Laws.Encode.halt : Sys2Proof.Laws.Encode.Statement (.halt) := by
  refine .of_lt32 3 rfl (by decide) ?_
  show pack _ < _
  simp only [pack]
  omega

theorem Sys2Proof.Laws.Encode.trap (code : BitVec 11) : Sys2Proof.Laws.Encode.Statement (.trap code) := by
  have h0 := code.isLt
  refine .of_lt32 3 rfl (by decide) ?_
  show pack _ < _
  simp only [pack]
  omega

theorem Sys2Proof.Laws.Encode.waitarr (d : SReg) (a : SReg) : Sys2Proof.Laws.Encode.Statement (.waitarr d a) := by
  have h0 := d.isLt
  have h1 := a.isLt
  refine .of_lt32 3 rfl (by decide) ?_
  show pack _ < _
  simp only [pack]
  omega

theorem Sys2Proof.Laws.Encode.waitarrRelease (k : Nat) : Sys2Proof.Laws.Encode.Statement (.waitarrRelease k) := .of_none rfl

theorem Sys2Proof.Laws.Encode.array (a : SReg) (b : SReg) (chain : BitVec 8) : Sys2Proof.Laws.Encode.Statement (.array a b chain) := by
  have h0 := a.isLt
  have h1 := b.isLt
  have h2 := chain.isLt
  refine .of_lt32 3 rfl (by decide) ?_
  show pack _ < _
  simp only [pack]
  omega

theorem Sys2Proof.Laws.Encode.arwait : Sys2Proof.Laws.Encode.Statement (.arwait) := by
  refine .of_lt32 3 rfl (by decide) ?_
  show pack _ < _
  simp only [pack]
  omega

theorem Sys2Proof.Laws.Encode.ftrecv (d : SReg) : Sys2Proof.Laws.Encode.Statement (.ftrecv d) := by
  have h0 := d.isLt
  refine .of_lt32 3 rfl (by decide) ?_
  show pack _ < _
  simp only [pack]
  omega

theorem Sys2Proof.Laws.Encode.ftrecvRelease (k : Nat) : Sys2Proof.Laws.Encode.Statement (.ftrecvRelease k) := .of_none rfl

theorem Sys2Proof.Laws.Encode.repair (a : SReg) (b : SReg) : Sys2Proof.Laws.Encode.Statement (.repair a b) := by
  have h0 := a.isLt
  have h1 := b.isLt
  refine .of_lt32 3 rfl (by decide) ?_
  show pack _ < _
  simp only [pack]
  omega

theorem Sys2Proof.Laws.Encode.ctxsave (a : SReg) : Sys2Proof.Laws.Encode.Statement (.ctxsave a) := by
  have h0 := a.isLt
  refine .of_lt32 3 rfl (by decide) ?_
  show pack _ < _
  simp only [pack]
  omega

theorem Sys2Proof.Laws.Encode.ctxload (a : SReg) : Sys2Proof.Laws.Encode.Statement (.ctxload a) := by
  have h0 := a.isLt
  refine .of_lt32 3 rfl (by decide) ?_
  show pack _ < _
  simp only [pack]
  omega

theorem Sys2Proof.Laws.Encode.engineNop (slot : EngSlot) (c : EClause) : Sys2Proof.Laws.Encode.Statement (.engineNop slot c) := by
  cases slot
  · exact .of_lt64 4 rfl (by decide) (engWord_lt _ _ _ (by decide) (by decide))
  · exact .of_lt64 5 rfl (by decide) (engWord_lt _ _ _ (by decide) (by decide))
  · exact .of_lt64 6 rfl (by decide) (engWord_lt _ _ _ (by decide) (by decide))

theorem Sys2Proof.Laws.Encode.mcfg (cfg : SReg) (c : EClause) : Sys2Proof.Laws.Encode.Statement (.mcfg cfg c) := by
  have h0 := cfg.isLt
  refine .of_lt64 4 rfl (by decide) (engWord_lt _ _ _ (by decide) ?_)
  simp only [pack]
  omega

theorem Sys2Proof.Laws.Encode.mldw (km1 : Fin 32) (nm1 : Fin 32) (c : EClause) : Sys2Proof.Laws.Encode.Statement (.mldw km1 nm1 c) := by
  have h0 := km1.isLt
  have h1 := nm1.isLt
  refine .of_lt64 4 rfl (by decide) (engWord_lt _ _ _ (by decide) ?_)
  simp only [pack]
  omega

theorem Sys2Proof.Laws.Encode.mldwSp (km1 : Fin 32) (nm1 : Fin 32) (nsel : Fin 8) (c : EClause) : Sys2Proof.Laws.Encode.Statement (.mldwSp km1 nm1 nsel c) := by
  have h0 := km1.isLt
  have h1 := nm1.isLt
  have h2 := nsel.isLt
  refine .of_lt64 4 rfl (by decide) (engWord_lt _ _ _ (by decide) ?_)
  simp only [pack]
  omega

theorem Sys2Proof.Laws.Encode.mrun (acc : Acc) (rowsm1 : Fin 512) (c : EClause) : Sys2Proof.Laws.Encode.Statement (.mrun acc rowsm1 c) := by
  have h0 := acc.isLt
  have h1 := rowsm1.isLt
  refine .of_lt64 4 rfl (by decide) (engWord_lt _ _ _ (by decide) ?_)
  simp only [pack]
  omega

theorem Sys2Proof.Laws.Encode.mrunSpan (acc : Acc) (rowsm1 : Fin 512) (c : EClause) : Sys2Proof.Laws.Encode.Statement (.mrunSpan acc rowsm1 c) := by
  have h0 := acc.isLt
  have h1 := rowsm1.isLt
  refine .of_lt64 4 rfl (by decide) (engWord_lt _ _ _ (by decide) ?_)
  simp only [pack]
  omega

theorem Sys2Proof.Laws.Encode.mzero (acc : Acc) (c : EClause) : Sys2Proof.Laws.Encode.Statement (.mzero acc c) := by
  have h0 := acc.isLt
  refine .of_lt64 4 rfl (by decide) (engWord_lt _ _ _ (by decide) ?_)
  simp only [pack]
  omega

theorem Sys2Proof.Laws.Encode.mrd (acc : Acc) (row0 : Fin 32) (vd : VReg) (rowsm1 : Fin 8) (c : EClause) : Sys2Proof.Laws.Encode.Statement (.mrd acc row0 vd rowsm1 c) := by
  have h0 := acc.isLt
  have h1 := row0.isLt
  have h2 := vd.isLt
  have h3 := rowsm1.isLt
  refine .of_lt64 4 rfl (by decide) (engWord_lt _ _ _ (by decide) ?_)
  simp only [pack]
  omega

theorem Sys2Proof.Laws.Encode.mwait (acc : Acc) (c : EClause) : Sys2Proof.Laws.Encode.Statement (.mwait acc c) := by
  have h0 := acc.isLt
  refine .of_lt64 4 rfl (by decide) (engWord_lt _ _ _ (by decide) ?_)
  simp only [pack]
  omega

theorem Sys2Proof.Laws.Encode.madd (dst : Acc) (src : Acc) (c : EClause) : Sys2Proof.Laws.Encode.Statement (.madd dst src c) := by
  have h0 := dst.isLt
  have h1 := src.isLt
  refine .of_lt64 4 rfl (by decide) (engWord_lt _ _ _ (by decide) ?_)
  simp only [pack]
  omega

theorem Sys2Proof.Laws.Encode.mscl (a : SReg) (c : EClause) : Sys2Proof.Laws.Encode.Statement (.mscl a c) := by
  have h0 := a.isLt
  refine .of_lt64 6 rfl (by decide) (engWord_lt _ _ _ (by decide) ?_)
  simp only [pack]
  omega

theorem Sys2Proof.Laws.Encode.matrixCmdStart (k : Nat) : Sys2Proof.Laws.Encode.Statement (.matrixCmdStart k) := .of_none rfl

theorem Sys2Proof.Laws.Encode.matrixCmdComplete (k : Nat) : Sys2Proof.Laws.Encode.Statement (.matrixCmdComplete k) := .of_none rfl

theorem Sys2Proof.Laws.Encode.scopy (dst : SReg) (src : SReg) (len : SReg) (q : Fin 16) (c : EClause) : Sys2Proof.Laws.Encode.Statement (.scopy dst src len q c) := by
  have h0 := dst.isLt
  have h1 := src.isLt
  have h2 := len.isLt
  have h3 := q.isLt
  refine .of_lt64 5 rfl (by decide) (engWord_lt _ _ _ (by decide) ?_)
  simp only [pack]
  omega

theorem Sys2Proof.Laws.Encode.sfill (src : SReg) (len : SReg) (fifo : Bool) (q : Fin 16) (c : EClause) : Sys2Proof.Laws.Encode.Statement (.sfill src len fifo q c) := by
  have h0 := src.isLt
  have h1 := len.isLt
  have h2 := bit_lt fifo
  have h3 := q.isLt
  refine .of_lt64 5 rfl (by decide) (engWord_lt _ _ _ (by decide) ?_)
  simp only [pack]
  omega

theorem Sys2Proof.Laws.Encode.ssend (och : Fin 16) (src : SReg) (len : SReg) (q : Fin 16) (c : EClause) : Sys2Proof.Laws.Encode.Statement (.ssend och src len q c) := by
  have h0 := och.isLt
  have h1 := src.isLt
  have h2 := len.isLt
  have h3 := q.isLt
  refine .of_lt64 5 rfl (by decide) (engWord_lt _ _ _ (by decide) ?_)
  simp only [pack]
  omega

theorem Sys2Proof.Laws.Encode.sfree (ich : Fin 16) (slot : SReg) (q : Fin 16) (c : EClause) : Sys2Proof.Laws.Encode.Statement (.sfree ich slot q c) := by
  have h0 := ich.isLt
  have h1 := slot.isLt
  have h2 := q.isLt
  refine .of_lt64 5 rfl (by decide) (engWord_lt _ _ _ (by decide) ?_)
  simp only [pack]
  omega

theorem Sys2Proof.Laws.Encode.swake (addr : SReg) (val : SReg) (q : Fin 16) (c : EClause) : Sys2Proof.Laws.Encode.Statement (.swake addr val q c) := by
  have h0 := addr.isLt
  have h1 := val.isLt
  have h2 := q.isLt
  refine .of_lt64 5 rfl (by decide) (engWord_lt _ _ _ (by decide) ?_)
  simp only [pack]
  omega

theorem Sys2Proof.Laws.Encode.sclose (q : Fin 16) (c : EClause) : Sys2Proof.Laws.Encode.Statement (.sclose q c) := by
  have h0 := q.isLt
  refine .of_lt64 5 rfl (by decide) (engWord_lt _ _ _ (by decide) ?_)
  simp only [pack]
  omega

theorem Sys2Proof.Laws.Encode.spost (dst : SReg) (src : SReg) (len : SReg) (q : Fin 16) (c : EClause) : Sys2Proof.Laws.Encode.Statement (.spost dst src len q c) := by
  have h0 := dst.isLt
  have h1 := src.isLt
  have h2 := len.isLt
  have h3 := q.isLt
  refine .of_lt64 5 rfl (by decide) (engWord_lt _ _ _ (by decide) ?_)
  simp only [pack]
  omega

theorem Sys2Proof.Laws.Encode.sget (dst : SReg) (src : SReg) (len : SReg) (q : Fin 16) (c : EClause) : Sys2Proof.Laws.Encode.Statement (.sget dst src len q c) := by
  have h0 := dst.isLt
  have h1 := src.isLt
  have h2 := len.isLt
  have h3 := q.isLt
  refine .of_lt64 5 rfl (by decide) (engWord_lt _ _ _ (by decide) ?_)
  simp only [pack]
  omega

theorem Sys2Proof.Laws.Encode.streamCmdStart (k : Nat) (q : Fin 16) : Sys2Proof.Laws.Encode.Statement (.streamCmdStart k q) := .of_none rfl

theorem Sys2Proof.Laws.Encode.streamCmdComplete (k : Nat) (q : Fin 16) : Sys2Proof.Laws.Encode.Statement (.streamCmdComplete k q) := .of_none rfl

theorem Sys2Proof.Laws.Encode.steer (n : Node) : Sys2Proof.Laws.Encode.Statement (.steer n) := .of_lt64 7 rfl (by decide) (encNode_lt _ _ (by decide))

theorem Sys2Proof.Laws.Encode.merge (n : Node) : Sys2Proof.Laws.Encode.Statement (.merge n) := .of_lt64 7 rfl (by decide) (encNode_lt _ _ (by decide))

theorem Sys2Proof.Laws.Encode.cld (n : ChainNode) : Sys2Proof.Laws.Encode.Statement (.cld n) := .of_lt64 7 rfl (by decide) (encChain_lt _ _ (by decide))

theorem Sys2Proof.Laws.Encode.cst (n : ChainNode) : Sys2Proof.Laws.Encode.Statement (.cst n) := .of_lt64 7 rfl (by decide) (encChain_lt _ _ (by decide))

theorem Sys2Proof.Laws.Encode.catom (n : ChainNode) : Sys2Proof.Laws.Encode.Statement (.catom n) := .of_lt64 7 rfl (by decide) (encChain_lt _ _ (by decide))

theorem Sys2Proof.Laws.Encode.tsend (n : Node) : Sys2Proof.Laws.Encode.Statement (.tsend n) := .of_lt64 7 rfl (by decide) (encNode_lt _ _ (by decide))

theorem Sys2Proof.Laws.Encode.trecv (n : Node) : Sys2Proof.Laws.Encode.Statement (.trecv n) := .of_lt64 7 rfl (by decide) (encNode_lt _ _ (by decide))

theorem Sys2Proof.Laws.Encode.dadd (n : Node) : Sys2Proof.Laws.Encode.Statement (.dadd n) := .of_lt64 7 rfl (by decide) (encNode_lt _ _ (by decide))

theorem Sys2Proof.Laws.Encode.dsub (n : Node) : Sys2Proof.Laws.Encode.Statement (.dsub n) := .of_lt64 7 rfl (by decide) (encNode_lt _ _ (by decide))

theorem Sys2Proof.Laws.Encode.dmul (n : Node) : Sys2Proof.Laws.Encode.Statement (.dmul n) := .of_lt64 7 rfl (by decide) (encNode_lt _ _ (by decide))

theorem Sys2Proof.Laws.Encode.dfma (n : Node) : Sys2Proof.Laws.Encode.Statement (.dfma n) := .of_lt64 7 rfl (by decide) (encNode_lt _ _ (by decide))

theorem Sys2Proof.Laws.Encode.dmin (n : Node) : Sys2Proof.Laws.Encode.Statement (.dmin n) := .of_lt64 7 rfl (by decide) (encNode_lt _ _ (by decide))

theorem Sys2Proof.Laws.Encode.dmax (n : Node) : Sys2Proof.Laws.Encode.Statement (.dmax n) := .of_lt64 7 rfl (by decide) (encNode_lt _ _ (by decide))

theorem Sys2Proof.Laws.Encode.dand (n : Node) : Sys2Proof.Laws.Encode.Statement (.dand n) := .of_lt64 7 rfl (by decide) (encNode_lt _ _ (by decide))

theorem Sys2Proof.Laws.Encode.dor (n : Node) : Sys2Proof.Laws.Encode.Statement (.dor n) := .of_lt64 7 rfl (by decide) (encNode_lt _ _ (by decide))

theorem Sys2Proof.Laws.Encode.dxor (n : Node) : Sys2Proof.Laws.Encode.Statement (.dxor n) := .of_lt64 7 rfl (by decide) (encNode_lt _ _ (by decide))

theorem Sys2Proof.Laws.Encode.dshl (n : Node) : Sys2Proof.Laws.Encode.Statement (.dshl n) := .of_lt64 7 rfl (by decide) (encNode_lt _ _ (by decide))

theorem Sys2Proof.Laws.Encode.dshr (n : Node) : Sys2Proof.Laws.Encode.Statement (.dshr n) := .of_lt64 7 rfl (by decide) (encNode_lt _ _ (by decide))

theorem Sys2Proof.Laws.Encode.dsra (n : Node) : Sys2Proof.Laws.Encode.Statement (.dsra n) := .of_lt64 7 rfl (by decide) (encNode_lt _ _ (by decide))

theorem Sys2Proof.Laws.Encode.dcmp (n : Node) : Sys2Proof.Laws.Encode.Statement (.dcmp n) := .of_lt64 7 rfl (by decide) (encNode_lt _ _ (by decide))

theorem Sys2Proof.Laws.Encode.dsel (n : Node) : Sys2Proof.Laws.Encode.Statement (.dsel n) := .of_lt64 7 rfl (by decide) (encNode_lt _ _ (by decide))

theorem Sys2Proof.Laws.Encode.dcvt (n : Node) : Sys2Proof.Laws.Encode.Statement (.dcvt n) := .of_lt64 7 rfl (by decide) (encNode_lt _ _ (by decide))

theorem Sys2Proof.Laws.Encode.dmov (n : Node) : Sys2Proof.Laws.Encode.Statement (.dmov n) := .of_lt64 7 rfl (by decide) (encNode_lt _ _ (by decide))

theorem Sys2Proof.Laws.Encode.daddk (n : Node) : Sys2Proof.Laws.Encode.Statement (.daddk n) := .of_lt64 7 rfl (by decide) (encNode_lt _ _ (by decide))

theorem Sys2Proof.Laws.Encode.dshlk (n : Node) : Sys2Proof.Laws.Encode.Statement (.dshlk n) := .of_lt64 7 rfl (by decide) (encNode_lt _ _ (by decide))

theorem Sys2Proof.Laws.Encode.dshrk (n : Node) : Sys2Proof.Laws.Encode.Statement (.dshrk n) := .of_lt64 7 rfl (by decide) (encNode_lt _ _ (by decide))

theorem Sys2Proof.Laws.Encode.dandk (n : Node) : Sys2Proof.Laws.Encode.Statement (.dandk n) := .of_lt64 7 rfl (by decide) (encNode_lt _ _ (by decide))

theorem Sys2Proof.Laws.Encode.iterationAdmit (k : Nat) : Sys2Proof.Laws.Encode.Statement (.iterationAdmit k) := .of_none rfl

theorem Sys2Proof.Laws.Encode.chainOpSend (k : Nat) : Sys2Proof.Laws.Encode.Statement (.chainOpSend k) := .of_none rfl

theorem Sys2Proof.Laws.Encode.chainGap (k : Nat) : Sys2Proof.Laws.Encode.Statement (.chainGap k) := .of_none rfl

theorem Sys2Proof.Laws.Encode.blockEnd (k : Nat) : Sys2Proof.Laws.Encode.Statement (.blockEnd k) := .of_none rfl

theorem Sys2Proof.Laws.Encode.waitTimeout (k : Nat) : Sys2Proof.Laws.Encode.Statement (.waitTimeout k) := .of_none rfl

theorem Sys2Proof.Laws.Encode.barrierRegionFlip (k : Nat) (n : Fin 16) : Sys2Proof.Laws.Encode.Statement (.barrierRegionFlip k n) := .of_none rfl

theorem Sys2Proof.Laws.Encode.icacheLineFill (k : Nat) (line : Nat) : Sys2Proof.Laws.Encode.Statement (.icacheLineFill k line) := .of_none rfl

theorem Sys2Proof.Laws.Encode.asyncFaultTake (k : Nat) : Sys2Proof.Laws.Encode.Statement (.asyncFaultTake k) := .of_none rfl

theorem Sys2Proof.Laws.Encode.faultTokenEnqueue (k : Nat) : Sys2Proof.Laws.Encode.Statement (.faultTokenEnqueue k) := .of_none rfl

theorem Sys2Proof.Laws.Encode.contextReentry (k : Nat) : Sys2Proof.Laws.Encode.Statement (.contextReentry k) := .of_none rfl

theorem Sys2Proof.Laws.Encode.lhTimeout (g : Nat) (tag : Nat) : Sys2Proof.Laws.Encode.Statement (.lhTimeout g tag) := .of_none rfl

theorem Sys2Proof.Laws.Encode.lockhouseLoader (g : Nat) (tag : Nat) : Sys2Proof.Laws.Encode.Statement (.lockhouseLoader g tag) := .of_none rfl

theorem Sys2Proof.Laws.Encode.lockhousePolicy (g : Nat) (tag : Nat) : Sys2Proof.Laws.Encode.Statement (.lockhousePolicy g tag) := .of_none rfl

theorem Sys2Proof.Laws.Encode.stateErrDetect (k : Nat) (fw : Bool) (info : Word) : Sys2Proof.Laws.Encode.Statement (.stateErrDetect k fw info) := .of_none rfl

theorem Sys2Proof.Laws.Encode.registerSoftError (k : Nat) (fw : Bool) (reg : Nat) (elem : Nat) : Sys2Proof.Laws.Encode.Statement (.registerSoftError k fw reg elem) := .of_none rfl

theorem Sys2Proof.Laws.Encode.strokeStart (m : Nat) : Sys2Proof.Laws.Encode.Statement (.strokeStart m) := .of_none rfl

theorem Sys2Proof.Laws.Encode.beaconReceive (m : Nat) (link : Nat) (gts : Nat) : Sys2Proof.Laws.Encode.Statement (.beaconReceive m link gts) := .of_none rfl

theorem Sys2Proof.Laws.Encode.timeOrigin (m : Nat) (gts : Nat) : Sys2Proof.Laws.Encode.Statement (.timeOrigin m gts) := .of_none rfl

theorem Sys2Proof.Laws.Encode.frameReceive (m : Nat) (link : Nat) (good : Bool) : Sys2Proof.Laws.Encode.Statement (.frameReceive m link good) := .of_none rfl

theorem Sys2Proof.Laws.Encode.linkTrain (m : Nat) (link : Nat) : Sys2Proof.Laws.Encode.Statement (.linkTrain m link) := .of_none rfl

theorem Sys2Proof.Laws.Encode.linkDown (m : Nat) (link : Nat) : Sys2Proof.Laws.Encode.Statement (.linkDown m link) := .of_none rfl

theorem Sys2Proof.Laws.Encode.packetForward (id : Nat) : Sys2Proof.Laws.Encode.Statement (.packetForward id) := .of_none rfl

theorem Sys2Proof.Laws.Encode.packetArrive (id : Nat) : Sys2Proof.Laws.Encode.Statement (.packetArrive id) := .of_none rfl

theorem Sys2Proof.Laws.Encode.freeReturnArrive (id : Nat) : Sys2Proof.Laws.Encode.Statement (.freeReturnArrive id) := .of_none rfl

theorem Sys2Proof.Laws.Encode.remoteWritePerform (id : Nat) : Sys2Proof.Laws.Encode.Statement (.remoteWritePerform id) := .of_none rfl

theorem Sys2Proof.Laws.Encode.ackArrive (id : Nat) : Sys2Proof.Laws.Encode.Statement (.ackArrive id) := .of_none rfl

theorem Sys2Proof.Laws.Encode.remoteReadServe (id : Nat) : Sys2Proof.Laws.Encode.Statement (.remoteReadServe id) := .of_none rfl

theorem Sys2Proof.Laws.Encode.readResponseArrive (id : Nat) : Sys2Proof.Laws.Encode.Statement (.readResponseArrive id) := .of_none rfl

theorem Sys2Proof.Laws.Encode.semSignalWordWrite (k : Nat) (n : Fin 256) (v : Word) : Sys2Proof.Laws.Encode.Statement (.semSignalWordWrite k n v) := .of_none rfl

theorem Sys2Proof.Laws.Encode.semSetWordWrite (k : Nat) (n : Fin 256) (v : Word) : Sys2Proof.Laws.Encode.Statement (.semSetWordWrite k n v) := .of_none rfl

theorem Sys2Proof.Laws.Encode.wakeWordWrite (k : Nat) (n : Fin 16) (v : DWord) : Sys2Proof.Laws.Encode.Statement (.wakeWordWrite k n v) := .of_none rfl

theorem Sys2Proof.Laws.Encode.residencyChange (k : Nat) (ext : Nat) (res : Nat) : Sys2Proof.Laws.Encode.Statement (.residencyChange k ext res) := .of_none rfl

theorem Sys2Proof.Laws.Encode.mapreqSettle (k : Nat) (idx : Nat) (res : Nat) : Sys2Proof.Laws.Encode.Statement (.mapreqSettle k idx res) := .of_none rfl

theorem Sys2Proof.Laws.Encode.qcfgWrite (m : Nat) (q : Nat) (off : Nat) (v : DWord) : Sys2Proof.Laws.Encode.Statement (.qcfgWrite m q off v) := .of_none rfl

theorem Sys2Proof.Laws.Encode.qwriteWrite (m : Nat) (q : Nat) (v : DWord) : Sys2Proof.Laws.Encode.Statement (.qwriteWrite m q v) := .of_none rfl

theorem Sys2Proof.Laws.Encode.queueFetch (m : Nat) (q : Nat) : Sys2Proof.Laws.Encode.Statement (.queueFetch m q) := .of_none rfl

theorem Sys2Proof.Laws.Encode.packetExamine (m : Nat) (q : Nat) : Sys2Proof.Laws.Encode.Statement (.packetExamine m q) := .of_none rfl

theorem Sys2Proof.Laws.Encode.copyPacket (m : Nat) (q : Nat) : Sys2Proof.Laws.Encode.Statement (.copyPacket m q) := .of_none rfl

theorem Sys2Proof.Laws.Encode.packetComplete (m : Nat) (q : Nat) : Sys2Proof.Laws.Encode.Statement (.packetComplete m q) := .of_none rfl

theorem Sys2Proof.Laws.Encode.launchSelect (m : Nat) (g : Nat) : Sys2Proof.Laws.Encode.Statement (.launchSelect m g) := .of_none rfl

theorem Sys2Proof.Laws.Encode.launchTranslate (g : Nat) : Sys2Proof.Laws.Encode.Statement (.launchTranslate g) := .of_none rfl

theorem Sys2Proof.Laws.Encode.launchBind (g : Nat) : Sys2Proof.Laws.Encode.Statement (.launchBind g) := .of_none rfl

theorem Sys2Proof.Laws.Encode.memberDone (k : Nat) : Sys2Proof.Laws.Encode.Statement (.memberDone k) := .of_none rfl

theorem Sys2Proof.Laws.Encode.phaseStep (g : Nat) (cox : Nat) : Sys2Proof.Laws.Encode.Statement (.phaseStep g cox) := .of_none rfl

theorem Sys2Proof.Laws.Encode.launchEnd (g : Nat) (cox : Nat) : Sys2Proof.Laws.Encode.Statement (.launchEnd g cox) := .of_none rfl

theorem Sys2Proof.Laws.Encode.preempt (g : Nat) (cox : Nat) : Sys2Proof.Laws.Encode.Statement (.preempt g cox) := .of_none rfl

theorem Sys2Proof.Laws.Encode.preemptRebind (g : Nat) (idx : Nat) : Sys2Proof.Laws.Encode.Statement (.preemptRebind g idx) := .of_none rfl

theorem Sys2Proof.Laws.Encode.checkpoint (k : Nat) : Sys2Proof.Laws.Encode.Statement (.checkpoint k) := .of_none rfl

theorem Sys2Proof.Laws.Encode.checkpointCommit (k : Nat) : Sys2Proof.Laws.Encode.Statement (.checkpointCommit k) := .of_none rfl

theorem Sys2Proof.Laws.Encode.moduleFailed (m : Nat) : Sys2Proof.Laws.Encode.Statement (.moduleFailed m) := .of_none rfl

theorem Sys2Proof.Laws.Encode.firmwareActivation (m : Nat) : Sys2Proof.Laws.Encode.Statement (.firmwareActivation m) := .of_none rfl

theorem Sys2Proof.Laws.Encode.boot (m : Nat) : Sys2Proof.Laws.Encode.Statement (.boot m) := .of_none rfl

theorem Sys2Proof.Laws.Encode.bootAckTimeout (m : Nat) : Sys2Proof.Laws.Encode.Statement (.bootAckTimeout m) := .of_none rfl

theorem Sys2Proof.Laws.Encode.moduleJoin (m : Nat) : Sys2Proof.Laws.Encode.Statement (.moduleJoin m) := .of_none rfl

theorem Sys2Proof.Laws.Encode.hsemTake (m : Nat) (owner : Nat) (lease : Nat) : Sys2Proof.Laws.Encode.Statement (.hsemTake m owner lease) := .of_none rfl

theorem Sys2Proof.Laws.Encode.hsemRelease (m : Nat) (owner : Nat) : Sys2Proof.Laws.Encode.Statement (.hsemRelease m owner) := .of_none rfl

theorem Sys2Proof.Laws.Encode.lnkbudWrite (m : Nat) (link : Nat) (v : DWord) : Sys2Proof.Laws.Encode.Statement (.lnkbudWrite m link v) := .of_none rfl

theorem Sys2Proof.Laws.Encode.plreqWrite (k : Nat) (v : DWord) : Sys2Proof.Laws.Encode.Statement (.plreqWrite k v) := .of_none rfl

theorem Sys2Proof.Laws.Encode.registerWrite (pa : Nat) (v : DWord) : Sys2Proof.Laws.Encode.Statement (.registerWrite pa v) := .of_none rfl

theorem Sys2Proof.Laws.Encode.hostWrite (m : Nat) (port : Nat) (at_ : BarAddr) (ep : Bool) (data : List Byte) : Sys2Proof.Laws.Encode.Statement (.hostWrite m port at_ ep data) := .of_none rfl

theorem Sys2Proof.Laws.Encode.hostRead (m : Nat) (port : Nat) (at_ : BarAddr) (n : Nat) : Sys2Proof.Laws.Encode.Statement (.hostRead m port at_ n) := .of_none rfl

theorem Sys2Proof.Laws.Encode.mgmtSpace2Access (k : Nat) (off : Nat) (wr : Bool) (v : DWord) : Sys2Proof.Laws.Encode.Statement (.mgmtSpace2Access k off wr v) := .of_none rfl

theorem Sys2Proof.Laws.Encode.blackBoxRead (m : Nat) (idx : Nat) : Sys2Proof.Laws.Encode.Statement (.blackBoxRead m idx) := .of_none rfl

theorem Sys2Proof.Laws.Encode.attestationRequest (m : Nat) (nonce : Nat) : Sys2Proof.Laws.Encode.Statement (.attestationRequest m nonce) := .of_none rfl

theorem Sys2Proof.Laws.Encode.moduleReset (m : Nat) : Sys2Proof.Laws.Encode.Statement (.moduleReset m) := .of_none rfl

theorem Sys2Proof.Laws.Encode.logicSupplyLoss (m : Nat) : Sys2Proof.Laws.Encode.Statement (.logicSupplyLoss m) := .of_none rfl

theorem Sys2Proof.Laws.Encode.latencyResultWrite : Sys2Proof.Laws.Encode.Statement (.latencyResultWrite) := .of_none rfl

theorem Sys2Proof.Laws.Encode.illegalKindHeader (h : Word) : Sys2Proof.Laws.Encode.Statement (.illegalKindHeader h) := .of_none rfl

theorem Sys2Proof.Laws.Encode.unassignedOpcode (w : Word) : Sys2Proof.Laws.Encode.Statement (.unassignedOpcode w) := .of_none rfl

theorem Sys2Proof.Laws.Encode.plreqInstallEnd (k : Nat) (res : Nat) : Sys2Proof.Laws.Encode.Statement (.plreqInstallEnd k res) := .of_none rfl

theorem Sys2Proof.Laws.Encode.mctpControlMessage (m : Nat) (msg : Nat) : Sys2Proof.Laws.Encode.Statement (.mctpControlMessage m msg) := .of_none rfl

theorem Sys2Proof.Laws.Encode.sramSupplyLoss (m : Nat) : Sys2Proof.Laws.Encode.Statement (.sramSupplyLoss m) := .of_none rfl

theorem Sys2Proof.Laws.Encode.logicSupplyReturn (m : Nat) : Sys2Proof.Laws.Encode.Statement (.logicSupplyReturn m) := .of_none rfl
end

