-- ==== Sys2Proof/Laws/Vector.lean ====
section
/-! SUPPORT. What the shared operations of the vector slots do: the governed form writes the active lanes and ORs their
flags, and each operand form is one governed form once its registers are allowed. -/

namespace Sys2Proof.Machine

theorem getLsb_or (a b : Flags) (k : Fin 12) : (a ||| b).getLsb k = (a.getLsb k || b.getLsb k) := by
  simp [BitVec.getLsb_eq_getElem]

theorem getLsb_zero (k : Fin 12) : (0 : Flags).getLsb k = false := by
  simp [BitVec.getLsb_eq_getElem]

/-- A bit of the OR over a list. -/
theorem foldl_or_bit {α : Type} (l : List α) (c : α → Bool) (g : α → Flags) (f : Flags) (k : Fin 12) :
    (l.foldl (fun f i => if c i then f ||| g i else f) f).getLsb k = true ↔
      f.getLsb k = true ∨ ∃ i ∈ l, c i = true ∧ (g i).getLsb k = true := by
  induction l generalizing f with
  | nil => simp
  | cons x l ih =>
    rw [List.foldl_cons, ih]
    by_cases h : c x = true
    · simp [h, or_assoc]
    · simp [h]

/-- A bit of the flags of the active lanes. -/
theorem orFlags_bit (m : Pred) (r : Vector LaneRes 16) (k : Fin 12) :
    (orFlags m r).getLsb k = true ↔ ∃ i : Fin 16, m.getLsb i = true ∧ r[i].2.1.getLsb k = true := by
  unfold orFlags
  rw [foldl_or_bit]
  simp

/-- The governed form. -/
theorem State.vlanes_spec (s : State) (lat : Nat) (d : VReg) (m : Pred) (g : Fin 16 → LaneRes) :
    LanesTo s (s.vlanes lat d m g) lat d m g := by
  refine ⟨_, _, rfl, fun i hi => ?_, fun k => ?_⟩
  · have hb : m[i.val] = true := by simpa using hi
    simp [hb]
  · rw [orFlags_bit]
    refine exists_congr fun i => and_congr_right fun hi => ?_
    have hb : m[i.val] = true := by simpa using hi
    simp [hb]

theorem State.vec3_spec (s : State) (lat : Nat) (d a b : VReg) (p : PReg) (useD : Bool)
    (f : Word → Word → Word → Word × Flags) (h : s.fwBad [d, a, b] = false) :
    LanesTo s (s.vec3 lat d a b p useD f) lat d (s.ctx.rdP p) (fun i =>
      ((f (s.ctx.rdV a)[i].val (s.ctx.rdV b)[i].val (s.ctx.rdV d)[i].val).1,
        (f (s.ctx.rdV a)[i].val (s.ctx.rdV b)[i].val (s.ctx.rdV d)[i].val).2,
        (s.ctx.rdV a)[i].poison || (s.ctx.rdV b)[i].poison || (useD && (s.ctx.rdV d)[i].poison))) := by
  simp only [State.vec3, h]
  exact s.vlanes_spec _ _ _ _

theorem State.vec2_spec (s : State) (lat : Nat) (d a : VReg) (p : PReg) (f : Word → Word × Flags)
    (h : s.fwBad [d, a] = false) :
    LanesTo s (s.vec2 lat d a p f) lat d (s.ctx.rdP p) (fun i =>
      ((f (s.ctx.rdV a)[i].val).1, (f (s.ctx.rdV a)[i].val).2, (s.ctx.rdV a)[i].poison)) := by
  simp only [State.vec2, h]
  exact s.vlanes_spec _ _ _ _

/-- A form that names a register its context may not name. -/
theorem State.vec3_bad (s : State) (lat : Nat) (d a b : VReg) (p : PReg) (useD : Bool)
    (f : Word → Word → Word → Word × Flags) (h : s.fwBad [d, a, b] = true) :
    s.vec3 lat d a b p useD f = s.illegalField := by simp [State.vec3, h]

theorem State.vec2_bad (s : State) (lat : Nat) (d a : VReg) (p : PReg) (f : Word → Word × Flags)
    (h : s.fwBad [d, a] = true) : s.vec2 lat d a p f = s.illegalField := by simp [State.vec2, h]

/-- The program context may name every vector register. -/
theorem State.fwBad_program (s : State) (rs : List VReg) (h : s.curFw = false) : s.fwBad rs = false := by
  simp [State.fwBad, h]

/-- A number that adds up the powers of two a function chooses has exactly those bits. -/
theorem sumBits_testBit (n : Nat) (f : Fin n → Bool) :
    (List.finRange n).foldl (fun x i => if f i then x + 2 ^ i.val else x) 0 < 2 ^ n ∧
      ∀ i : Fin n, ((List.finRange n).foldl (fun x i => if f i then x + 2 ^ i.val else x) 0).testBit i.val = f i := by
  induction n with
  | zero => exact ⟨by simp, fun i => i.elim0⟩
  | succ n ih =>
    obtain ⟨h1, h2⟩ := ih (fun i => f i.castSucc)
    rw [List.finRange_succ_last, List.foldl_append, List.foldl_map]
    simp only [Fin.val_castSucc, List.foldl_cons, List.foldl_nil, Fin.val_last]
    generalize (List.finRange n).foldl (fun x i => if f i.castSucc then x + 2 ^ i.val else x) 0 = x at h1 h2 ⊢
    refine ⟨by rw [pow_succ]; split <;> omega, fun i => ?_⟩
    refine Fin.lastCases ?_ (fun j => ?_) i
    · rw [Fin.val_last]
      cases h : f (Fin.last n)
      · simpa using Nat.testBit_lt_two_pow h1
      · simp [Nat.add_comm x, Nat.testBit_two_pow_add_eq, Nat.testBit_lt_two_pow h1]
    · rw [Fin.val_castSucc]
      split
      · rw [Nat.add_comm, Nat.testBit_two_pow_add_gt j.isLt, h2]
      · exact h2 j

/-- Bits of a predicate built from 16 bits. -/
theorem predOf_spec (f : Fin 16 → Bool) (i : Fin 16) : (predOf f).getLsb i = f i := by
  show (BitVec.ofNat 16 _).getLsbD i.val = _
  rw [BitVec.getLsbD_ofNat, (sumBits_testBit 16 f).2 i]
  simp

end Sys2Proof.Machine
end

