-- ==== Sys2Proof/Tests/Slice0.lean ====
section
/-! SUPPORT. Tests: words written out from the encoding tables of chapter 03, ill-formed terms, single steps with the
spec's own worked values, and for every statement with hypotheses a state and operands that meet them. -/

namespace Sys2Proof

set_option Elab.async false

/-! ### Decoding: words written out field by field from 03 Tables 3.5 to 3.18 -/

theorem test_decode_s0 :
    decS 0x00000000 = .ok (.nop) ∧
    decS 0x06AA9800 = .ok (.add 21 10 19 .w8) ∧
    decS 0x0AAA9810 = .ok (.sub 21 10 19 .w16) ∧
    decS 0x0EAA9820 = .ok (.mul 21 10 19 .w32) ∧
    decS 0x12AA9830 = .ok (.mulh 21 10 19 .w64) ∧
    decS 0x16AA9800 = .ok (.mulhu 21 10 19 .w8) ∧
    decS 0x1AAA9810 = .ok (.div 21 10 19 .w16) ∧
    decS 0x1EAA9820 = .ok (.divu 21 10 19 .w32) ∧
    decS 0x22AA9830 = .ok (.rem 21 10 19 .w64) ∧
    decS 0x26AA9800 = .ok (.remu 21 10 19 .w8) ∧
    decS 0x2AAA9810 = .ok (.and 21 10 19 .w16) ∧
    decS 0x2EAA9820 = .ok (.or 21 10 19 .w32) ∧
    decS 0x32AA9830 = .ok (.xor 21 10 19 .w64) ∧
    decS 0x36AA9800 = .ok (.shl 21 10 19 .w8) := by decide

theorem test_decode_s1 :
    decS 0x3AAA9810 = .ok (.shr 21 10 19 .w16) ∧
    decS 0x3EAA9820 = .ok (.sra 21 10 19 .w32) ∧
    decS 0x42AA9830 = .ok (.min 21 10 19 .w64) ∧
    decS 0x46AA9800 = .ok (.max 21 10 19 .w8) ∧
    decS 0x4AAA9810 = .ok (.minu 21 10 19 .w16) ∧
    decS 0x4EAA9820 = .ok (.maxu 21 10 19 .w32) ∧
    decS 0x52AA9830 = .ok (.slt 21 10 19 .w64) ∧
    decS 0x56AA9800 = .ok (.sltu 21 10 19 .w8) ∧
    decS 0x5AAA9810 = .ok (.seq 21 10 19 .w16) ∧
    decS 0x5EAA99B0 = .ok (.sel 21 10 19 6) ∧
    decS 0x62AA0030 = .ok (.mov 21 10) ∧
    decS 0x66AA0020 = .ok (.clz 21 10 .w32) ∧
    decS 0x6AAA0020 = .ok (.ctz 21 10 .w32) ∧
    decS 0x6EAA0020 = .ok (.popc 21 10 .w32) := by decide

theorem test_decode_s2 :
    decS 0x72AA52B0 = .ok (.bfx 21 10 20 43) ∧
    decS 0x76AA52B0 = .ok (.bfi 21 10 20 43) ∧
    decS 0x82AA6C35 = .ok (.addi 21 10 .w16 0x2c35) ∧
    decS 0x86AA6C35 = .ok (.andi 21 10 .w16 0x2c35) ∧
    decS 0x8AAA6C35 = .ok (.ori 21 10 .w16 0x2c35) ∧
    decS 0x8EAA6C35 = .ok (.xori 21 10 .w16 0x2c35) ∧
    decS 0x92AA8025 = .ok (.shli 21 10 .w32 37) ∧
    decS 0x96AA8025 = .ok (.shri 21 10 .w32 37) ∧
    decS 0x9AAA8025 = .ok (.srai 21 10 .w32 37) ∧
    decS 0xA2B2C35A = .ok (.li 21 0x12c35a) ∧
    decS 0xA6B2C35A = .ok (.lui 21 0x12c35a) ∧
    decS 0xAAA08A30 = .ok (.csrr 21 0x8a3) ∧
    decS 0xAEAA8A30 = .ok (.csrw 21 10 0x8a3) ∧
    decS 0xB2A00030 = .ok (.rdgts 21) := by decide

theorem test_decode_s3 :
    decS 0xC2AA0000 = .ok (.extq 21 10) ∧
    decS 0xC6AA9980 = .ok (.mapreq 21 10 19 6) ∧
    decS 0xD000C593 = .ok (.semsigImm 197 0x93) ∧
    decS 0xD00AC500 = .ok (.semsigReg 10 197) ∧
    decS 0xD6A1C53A = .ok (.semwait 21 true 197 58) ∧
    decS 0xD800C593 = .ok (.semsetImm 197 0x93) ∧
    decS 0xD80AC500 = .ok (.semsetReg 10 197) ∧
    decS 0xDEA0C500 = .ok (.semrd 21 197) ∧
    decS 0xE00109A6 = .ok (.barinit .rg 9 166) ∧
    decS 0xE6A00900 = .ok (.bara 21 .cl 9) ∧
    decS 0xE8000900 = .ok (.barw 9) ∧
    decS 0xEEAA0000 = .ok (.xld 21 10) ∧
    decS 0xF2A0000B = .ok (.xdrop 21 11) ∧
    decS 0xF6A00000 = .ok (.xqry 21) := by decide

theorem test_decode_s4 :
    decS 0xFAAA9800 = .ok (.qpost 21 10 19) ∧
    decS 0xFEAA9800 = .ok (.sigadd 21 10 19) := by decide

theorem test_decode_v0 :
    decV 0x0655B309 = .ok (.vadd 37 22 51 .f32 9) ∧
    decV 0x0A55B319 = .ok (.vsub 37 22 51 .bf16 9) ∧
    decV 0x0E55B329 = .ok (.vmul 37 22 51 .f16 9) ∧
    decV 0x1655B359 = .ok (.vfma 37 22 51 .i32 9) ∧
    decV 0x1A55B369 = .ok (.vfms 37 22 51 .i16 9) ∧
    decV 0x1E55B379 = .ok (.vfnma 37 22 51 .i8 9) ∧
    decV 0x2255B389 = .ok (.vmin 37 22 51 .z32 9) ∧
    decV 0x2655B399 = .ok (.vmax 37 22 51 .z16 9) ∧
    decV 0x1255B369 = .ok (.vmulh 37 22 51 .i16 9) ∧
    decV 0x4255B369 = .ok (.vshl 37 22 51 .i16 9) ∧
    decV 0x4655B369 = .ok (.vshr 37 22 51 .i16 9) ∧
    decV 0x4A55B369 = .ok (.vsra 37 22 51 .i16 9) ∧
    decV 0x2A558079 = .ok (.vabs 37 22 .i8 9) ∧
    decV 0x2E558079 = .ok (.vneg 37 22 .i8 9) := by decide

theorem test_decode_v1 :
    decV 0x3255B309 = .ok (.vand 37 22 51 9) ∧
    decV 0x3655B309 = .ok (.vor 37 22 51 9) ∧
    decV 0x3A55B309 = .ok (.vxor 37 22 51 9) ∧
    decV 0x6655B309 = .ok (.vsel 37 22 51 9) ∧
    decV 0x7A55B309 = .ok (.vperm 37 22 51 9) ∧
    decV 0x3E558009 = .ok (.vnot 37 22 9) ∧
    decV 0x6A558009 = .ok (.vmov 37 22 9) ∧
    decV 0x4E558009 = .ok (.vrcp 37 22 .rne .f32 .f32 9) ∧
    decV 0x52559119 = .ok (.vrsq 37 22 .rz .bf16 .bf16 9) ∧
    decV 0x5655A229 = .ok (.vsqrt 37 22 .rd .f16 .f16 9) ∧
    decV 0x5A55B009 = .ok (.vexp2 37 22 .ru .f32 .f32 9) ∧
    decV 0x5E558119 = .ok (.vlog2 37 22 .rne .bf16 .bf16 9) ∧
    decV 0x63596CC4 = .ok (.vcmp 13 .un 22 51 .bf16) ∧
    decV 0x6E534039 = .ok (.vbcst 37 13 .e4m3 9) := by decide

theorem test_decode_v2 :
    decV 0x71558B40 = .ok (.vext 21 22 11 .e5m2) ∧
    decV 0x76534BA0 = .ok (.vins 37 13 11 .z8) ∧
    decV 0x7E55B3B9 = .ok (.vshuf 37 22 51 .ziph 9) ∧
    decV 0x82558709 = .ok (.vrot 37 22 7 9) ∧
    decV 0x86558029 = .ok (.vrsum 37 22 .f16 9) ∧
    decV 0x8A558029 = .ok (.vrmax 37 22 .f16 9) ∧
    decV 0x8E558029 = .ok (.vrmin 37 22 .f16 9) ∧
    decV 0x92558029 = .ok (.vramax 37 22 .f16 9) ∧
    decV 0x975A4000 = .ok (.pand 13 6 9) ∧
    decV 0x9B5A4000 = .ok (.por 13 6 9) ∧
    decV 0x9F5A4000 = .ok (.pxor 13 6 9) ∧
    decV 0xA3580000 = .ok (.pnot 13 6) ∧
    decV 0xA76C9F00 = .ok (.pset 13 0xb27c) ∧
    decV 0xAAAC0000 = .ok (.pcnt 21 6) := by decide

theorem test_decode_v3 :
    decV 0xAE55B949 = .ok (.vcvt 37 22 .ru .z16 .e5m2 9) ∧
    decV 0xB255B1C9 = .ok (.vpksx 37 22 .ru .bf16 .sx5 9) ∧
    decV 0xB655BD29 = .ok (.vupsx 37 22 .ru .sx8 .f16 9) ∧
    decV 0xBA559179 = .ok (.vqnt 37 22 .rz .bf16 .i8 9) ∧
    decV 0xBE55B429 = .ok (.vdq 37 22 .ru .e5m2 .f16 9) ∧
    decV 0xC255B119 = .ok (.vqch 37 22 .ru .bf16 .bf16 9) ∧
    decV 0xC6558209 = .ok (.vqfit 37 22 .f16 .q 9) ∧
    decV 0xCA45B219 = .ok (.vbf2 36 22 50 .bf16 9) ∧
    decV 0xCE45B229 = .ok (.vbf4 36 22 50 .f16 9) ∧
    decV 0xD245B209 = .ok (.vcmul 36 22 50 .f32 9) ∧
    decV 0xD6458019 = .ok (.vconj 36 22 .bf16 9) ∧
    decV 0xDA435229 = .ok (.vtwid 36 13 18 .f16 9) ∧
    decV 0xDE55B3B9 = .ok (.xop 37 22 51 11 9) := by decide

theorem test_decode_m0 :
    decM 0x0556B35A = .ok (.ld 21 13 .z32 6 0x5a) ∧
    decM 0x0956985A = .ok (.st 21 13 .s64 0x5a) ∧
    decM 0x0E56CB5A = .ok (.vld 37 13 .z16 6 0x5a) ∧
    decM 0x1256BB26 = .ok (.vlds 37 13 .i8 6 19) ∧
    decM 0x1656935A = .ok (.vldb 37 13 .f16 6 0x5a) ∧
    decM 0x1A56AB66 = .ok (.vgath 37 13 .i32 6 51) ∧
    decM 0x1E56C85A = .ok (.vst 37 13 .z16 0x5a) ∧
    decM 0x22569826 = .ok (.vsts 37 13 .e4m3 19) ∧
    decM 0x2656A866 = .ok (.vscat 37 13 .i32 51) ∧
    decM 0x2956AEA5 = .ok (.atom 21 13 .i32 .cas 18 true) ∧
    decM 0x2C06C3A6 = .ok (.atomn 13 .z32 .minu 19 false) ∧
    decM 0x325684E6 = .ok (.vatom 37 13 .f32 .fadd 51 false) ∧
    decM 0x3406AEE5 = .ok (.vatomn 13 .i32 .cas 50 true) ∧
    decM 0x38000040 = .ok (.drain .module) := by decide

theorem test_decode_m1 :
    decM 0x400001C0 = .ok (.fence .mod .full) ∧
    decM 0x468D7000 = .ok (.sbar 0xa35c) ∧
    decM 0x4956B15A = .ok (.ldacq 21 13 .z32 .die 0x5a) ∧
    decM 0x4D569A5A = .ok (.strel 21 13 .s64 .sys 0x5a) := by decide

theorem test_decode_b0 :
    decB 0x06ABCDE5 = .ok (.br 0x2abcde5) ∧
    decB 0x0AB2BCD5 = .ok (.brc 21 .gt 0x2bcd5) ∧
    decB 0x0F5ABCD5 = .ok (.brp 13 .all 0xabcd5) ∧
    decB 0x136ABCD5 = .ok (.bru 13 true 0xabcd5) ∧
    decB 0x140A0000 = .ok (.jmpi 10) ∧
    decB 0x1AABCDE5 = .ok (.call 0x2abcde5) ∧
    decB 0x1C000000 = .ok (.ret) ∧
    decB 0x22ADDA3C = .ok (.loop 2 21 0xb 0x5a3c) ∧
    decB 0x25B175A6 = .ok (.loopi 1 0x2c5 0xd 0x1a6) ∧
    decB 0x28000002 = .ok (.lexit 2) ∧
    decB 0x2C0A0000 = .ok (.bsel 10) ∧
    decB 0x33500000 = .ok (.phend 13 .any) ∧
    decB 0x34000000 = .ok (.halt) ∧
    decB 0x380005A3 = .ok (.trap 0x5a3) := by decide

theorem test_decode_b1 :
    decB 0x3EAA0000 = .ok (.waitarr 21 10) ∧
    decB 0x400A98B6 = .ok (.array 10 19 0xb6) ∧
    decB 0x44000000 = .ok (.arwait) ∧
    decB 0xE2A00000 = .ok (.ftrecv 21) ∧
    decB 0xE40A9800 = .ok (.repair 10 19) ∧
    decB 0xE80A0000 = .ok (.ctxsave 10) ∧
    decB 0xEC0A0000 = .ok (.ctxload 10) := by decide

theorem test_decode_engine :
    decX 0x038A752D60000000 = .ok (.engineNop .x ⟨true, 0xC5, 0x3A, 0x96, 0xB⟩) ∧
    decX 0x078A752D75000000 = .ok (.mcfg 21 ⟨true, 0xC5, 0x3A, 0x96, 0xB⟩) ∧
    decX 0x0B8A752D73500000 = .ok (.mldw 19 10 ⟨true, 0xC5, 0x3A, 0x96, 0xB⟩) ∧
    decX 0x0B8A752D7F568000 = .ok (.mldwSp 31 10 5 ⟨true, 0xC5, 0x3A, 0x96, 0xB⟩) ∧
    decX 0x0F8A752D74360000 = .ok (.mrun 5 27 ⟨true, 0xC5, 0x3A, 0x96, 0xB⟩) ∧
    decX 0x0F8A752D76D70000 = .ok (.mrunSpan 5 363 ⟨true, 0xC5, 0x3A, 0x96, 0xB⟩) ∧
    decX 0x138A752D74000000 = .ok (.mzero 5 ⟨true, 0xC5, 0x3A, 0x96, 0xB⟩) ∧
    decX 0x178A752D7672E000 = .ok (.mrd 5 19 37 6 ⟨true, 0xC5, 0x3A, 0x96, 0xB⟩) ∧
    decX 0x1B8A752D74000000 = .ok (.mwait 5 ⟨true, 0xC5, 0x3A, 0x96, 0xB⟩) ∧
    decX 0x1F8A752D75800000 = .ok (.madd 5 3 ⟨true, 0xC5, 0x3A, 0x96, 0xB⟩) ∧
    decE 0x038A752D60000000 = .ok (.engineNop .e ⟨true, 0xC5, 0x3A, 0x96, 0xB⟩) ∧
    decE 0x078A752D7554C00D = .ok (.scopy 21 10 19 13 ⟨true, 0xC5, 0x3A, 0x96, 0xB⟩) ∧
    decE 0x0B8A752D6A9C000D = .ok (.sfill 10 19 true 13 ⟨true, 0xC5, 0x3A, 0x96, 0xB⟩) ∧
    decE 0x0F8A752D76A9800D = .ok (.ssend 11 10 19 13 ⟨true, 0xC5, 0x3A, 0x96, 0xB⟩) ∧
    decE 0x138A752D76A0000D = .ok (.sfree 11 10 13 ⟨true, 0xC5, 0x3A, 0x96, 0xB⟩) ∧
    decE 0x178A752D7550000D = .ok (.swake 21 10 13 ⟨true, 0xC5, 0x3A, 0x96, 0xB⟩) ∧
    decE 0x1B8A752D6000000D = .ok (.sclose 13 ⟨true, 0xC5, 0x3A, 0x96, 0xB⟩) ∧
    decE 0x1F8A752D7554C00D = .ok (.spost 21 10 19 13 ⟨true, 0xC5, 0x3A, 0x96, 0xB⟩) ∧
    decE 0x238A752D7554C00D = .ok (.sget 21 10 19 13 ⟨true, 0xC5, 0x3A, 0x96, 0xB⟩) ∧
    decK 0x038A752D60000000 = .ok (.engineNop .k ⟨true, 0xC5, 0x3A, 0x96, 0xB⟩) ∧
    decK 0x078A752D75000000 = .ok (.mscl 21 ⟨true, 0xC5, 0x3A, 0x96, 0xB⟩) := by decide

theorem test_decode_node :
    decBlockNode 0x07460E5B14800000 = .ok (.steer ⟨6, 4, 3, 0, ⟨3, 4, 5, 2⟩, ⟨6, 1, 2, 1⟩, 0, .rne⟩) ∧
    decBlockNode 0x0B460E5B14800000 = .ok (.merge ⟨6, 4, 3, 0, ⟨3, 4, 5, 2⟩, ⟨6, 1, 2, 1⟩, 0, .rne⟩) ∧
    decBlockNode 0x27460E5B14800280 = .ok (.trecv ⟨6, 4, 3, 0, ⟨3, 4, 5, 2⟩, ⟨6, 1, 2, 1⟩, 5, .rne⟩) ∧
    decBlockNode 0x8346AE5B14800000 = .ok (.dadd ⟨6, 4, 3, 5, ⟨3, 4, 5, 2⟩, ⟨6, 1, 2, 1⟩, 0, .rne⟩) ∧
    decBlockNode 0x87460E5B14800060 = .ok (.dsub ⟨6, 4, 3, 0, ⟨3, 4, 5, 2⟩, ⟨6, 1, 2, 1⟩, 0, .ru⟩) ∧
    decBlockNode 0x8B462E5B14800020 = .ok (.dmul ⟨6, 4, 3, 1, ⟨3, 4, 5, 2⟩, ⟨6, 1, 2, 1⟩, 0, .rz⟩) ∧
    decBlockNode 0x8F464E5B14800040 = .ok (.dfma ⟨6, 4, 3, 2, ⟨3, 4, 5, 2⟩, ⟨6, 1, 2, 1⟩, 0, .rd⟩) ∧
    decBlockNode 0x9346EE5B14800000 = .ok (.dmin ⟨6, 4, 3, 7, ⟨3, 4, 5, 2⟩, ⟨6, 1, 2, 1⟩, 0, .rne⟩) ∧
    decBlockNode 0x97472E5B14800000 = .ok (.dmax ⟨6, 4, 3, 9, ⟨3, 4, 5, 2⟩, ⟨6, 1, 2, 1⟩, 0, .rne⟩) ∧
    decBlockNode 0x9B460E5B14800000 = .ok (.dand ⟨6, 4, 3, 0, ⟨3, 4, 5, 2⟩, ⟨6, 1, 2, 1⟩, 0, .rne⟩) ∧
    decBlockNode 0x9F460E5B14800000 = .ok (.dor ⟨6, 4, 3, 0, ⟨3, 4, 5, 2⟩, ⟨6, 1, 2, 1⟩, 0, .rne⟩) ∧
    decBlockNode 0xA3460E5B14800000 = .ok (.dxor ⟨6, 4, 3, 0, ⟨3, 4, 5, 2⟩, ⟨6, 1, 2, 1⟩, 0, .rne⟩) ∧
    decBlockNode 0xA746AE5B14800000 = .ok (.dshl ⟨6, 4, 3, 5, ⟨3, 4, 5, 2⟩, ⟨6, 1, 2, 1⟩, 0, .rne⟩) ∧
    decBlockNode 0xAB46CE5B14800000 = .ok (.dshr ⟨6, 4, 3, 6, ⟨3, 4, 5, 2⟩, ⟨6, 1, 2, 1⟩, 0, .rne⟩) ∧
    decBlockNode 0xAF46EE5B14800000 = .ok (.dsra ⟨6, 4, 3, 7, ⟨3, 4, 5, 2⟩, ⟨6, 1, 2, 1⟩, 0, .rne⟩) ∧
    decBlockNode 0xB3462E5B14800300 = .ok (.dcmp ⟨6, 4, 3, 1, ⟨3, 4, 5, 2⟩, ⟨6, 1, 2, 1⟩, 6, .rne⟩) ∧
    decBlockNode 0xB7460E5B14800000 = .ok (.dsel ⟨6, 4, 3, 0, ⟨3, 4, 5, 2⟩, ⟨6, 1, 2, 1⟩, 0, .rne⟩) ∧
    decBlockNode 0xBB472E5B14800260 = .ok (.dcvt ⟨6, 4, 3, 9, ⟨3, 4, 5, 2⟩, ⟨6, 1, 2, 1⟩, 4, .ru⟩) ∧
    decBlockNode 0xBF460E5B14800000 = .ok (.dmov ⟨6, 4, 3, 0, ⟨3, 4, 5, 2⟩, ⟨6, 1, 2, 1⟩, 0, .rne⟩) ∧
    decBlockNode 0xC346AE5B14D93E00 = .ok (.daddk ⟨6, 4, 3, 5, ⟨3, 4, 5, 2⟩, ⟨6, 1, 2, 1⟩, 45692, .rne⟩) ∧
    decBlockNode 0xC746CE5B14D93E00 = .ok (.dshlk ⟨6, 4, 3, 6, ⟨3, 4, 5, 2⟩, ⟨6, 1, 2, 1⟩, 45692, .rne⟩) ∧
    decBlockNode 0xCB46EE5B14D93E00 = .ok (.dshrk ⟨6, 4, 3, 7, ⟨3, 4, 5, 2⟩, ⟨6, 1, 2, 1⟩, 45692, .rne⟩) ∧
    decBlockNode 0xCF460E5B14D93E00 = .ok (.dandk ⟨6, 4, 3, 0, ⟨3, 4, 5, 2⟩, ⟨6, 1, 2, 1⟩, 45692, .rne⟩) ∧
    decBlockNode 0x2346000000000280 = .ok (.tsend ⟨6, 4, 3, 0, ⟨0, 0, 0, 0⟩, ⟨0, 0, 0, 0⟩, 5, .rne⟩) := by decide

theorem test_decode_chain :
    decBlockNode 0x17352E5B14D25BF8 = .ok (.cld ⟨6, 3, 2, 9, ⟨3, 4, 5, 2⟩, ⟨6, 1, 2, 1⟩, 0, 41, 22, 127⟩) ∧
    decBlockNode 0x1B34600000525BF8 = .ok (.cst ⟨6, 3, 2, 3, ⟨0, 0, 0, 0⟩, ⟨0, 0, 0, 0⟩, 0, 41, 22, 127⟩) ∧
    decBlockNode 0x1F34AE5B00525BF8 = .ok (.catom ⟨6, 3, 2, 5, ⟨3, 4, 5, 2⟩, ⟨0, 0, 0, 0⟩, 12, 41, 22, 127⟩) := by decide

/-! ### Ill-formed terms, one for each check of WellFormed -/

theorem test_illformed_scalar :
    (Instr.bfx 1 2 32 32).wf = false ∧ (Instr.bfi 1 2 63 1).wf = false ∧ (Instr.semsigReg 0 5).wf = false ∧
    (Instr.semsetReg 0 5).wf = false := by decide

theorem test_illformed_vector :
    (Instr.vadd 1 2 3 .sx5 0).wf = false ∧ (Instr.vmulh 1 2 3 .f32 0).wf = false ∧ (Instr.vfma 1 2 3 .e4m3 0).wf = false ∧
    (Instr.vmin 1 2 3 .sx5 0).wf = false ∧ (Instr.vabs 1 2 .z8 0).wf = false ∧ (Instr.vneg 1 2 .z32 0).wf = false ∧
    (Instr.vshl 1 2 3 .bf16 0).wf = false ∧ (Instr.vrcp 1 2 .rne .f16 .f32 0).wf = false ∧ (Instr.vcmp 1 .sgn 2 3 .f32).wf = false ∧
    (Instr.vcmp 1 .un 2 3 .i32).wf = false ∧ (Instr.vbcst 1 2 .sx5 0).wf = false ∧ (Instr.vext 1 2 3 .sx5).wf = false ∧
    (Instr.vins 1 2 3 .sx5).wf = false ∧ (Instr.vshuf 1 2 3 .rev 0).wf = false ∧ (Instr.vrsum 1 2 .e5m2 0).wf = false ∧
    (Instr.vramax 1 2 .z16 0).wf = false := by decide

theorem test_illformed_quantise :
    (Instr.vcvt 1 2 .rne .sx5 .f32 0).wf = false ∧ (Instr.vpksx 1 2 .rne .f32 .f32 0).wf = false ∧
    (Instr.vupsx 1 2 .rne .f32 .f32 0).wf = false ∧ (Instr.vqnt 1 2 .rz .f32 .z8 0).wf = false ∧ (Instr.vdq 1 2 .rne .z8 .i8 0).wf = false ∧
    (Instr.vqch 62 2 .rne .f32 .f32 0).wf = false ∧ (Instr.vqfit 1 2 .f32 .z8 0).wf = false ∧ (Instr.vbf2 2 1 4 .f32 0).wf = false ∧
    (Instr.vbf4 2 58 4 .f32 0).wf = false ∧ (Instr.vcmul 2 4 7 .f32 0).wf = false ∧ (Instr.vconj 3 4 .f32 0).wf = false ∧
    (Instr.vtwid 2 1 25 .f32 0).wf = false := by decide

theorem test_illformed_memory :
    (Instr.st 1 2 .z8 0).wf = false ∧ (Instr.vld 1 2 .sx5 0 0).wf = false ∧ (Instr.vldb 1 2 .sx5 0 0).wf = false ∧
    (Instr.vlds 1 2 .sx5 0 3).wf = false ∧ (Instr.vgath 1 2 .sx5 0 3).wf = false ∧ (Instr.vst 1 2 .sx5 0).wf = false ∧
    (Instr.vsts 1 2 .sx5 3).wf = false ∧ (Instr.vscat 1 2 .sx5 3).wf = false ∧ (Instr.atom 1 2 .i8 .add 3 false).wf = false ∧
    (Instr.atom 1 2 .i32 .cas 3 false).wf = false ∧ (Instr.vatom 1 2 .i32 .add 63 false).wf = false ∧
    (Instr.vatomn 2 .i32 .cas 61 false).wf = false ∧ (Instr.sbar 0).wf = false ∧ (Instr.ldacq 1 2 .s8 .cl 0).wf = false ∧
    (Instr.strel 1 2 .z32 .cl 0).wf = false := by decide

theorem test_illformed_engine :
    let c : EClause := ⟨false, 0, 0, 0, 0⟩
    (Instr.mcfg 1 ⟨false, 1, 0, 0, 0⟩).wf = false ∧ (Instr.mldwSp 30 1 1 c).wf = false ∧ (Instr.mrun 1 32 c).wf = false ∧
    (Instr.mrd 1 31 2 1 c).wf = false ∧ (Instr.mrd 1 0 63 0 c).wf = false ∧ (Instr.madd 1 1 c).wf = false ∧
    (Instr.sclose 3 c).wf = false := by decide

theorem test_illformed_node :
    let d : NDest := ⟨0, 0, 0, 0⟩
    let n : Node := ⟨0, 0, 0, 0, d, d, 0, .rne⟩
    let h : ChainNode := ⟨0, 1, 0, 0, d, d, 0, 1, 0, 0⟩
    (Instr.dadd { n with stage := 6 }).wf = false ∧ (Instr.dadd { n with x := 1 }).wf = false ∧
    (Instr.dadd { n with d0 := ⟨1, 0, 0, 0⟩ }).wf = false ∧ (Instr.steer { n with t := 1 }).wf = false ∧ (Instr.dmin { n with rm := .rz }).wf = false ∧
    (Instr.dshl n).wf = false ∧ (Instr.dcmp { n with imm := 10 }).wf = false ∧ (Instr.dcvt { n with imm := 11 }).wf = false ∧
    (Instr.tsend { n with d0 := ⟨0, 0, 0, 1⟩ }).wf = false ∧ (Instr.trecv { n with imm := 8 }).wf = false ∧
    (Instr.daddk n).wf = false ∧ (Instr.dandk { n with t := 1 }).wf = false ∧ (Instr.cld h).wf = true ∧ (Instr.cld { h with aop := 1 }).wf = false ∧
    (Instr.cst { h with d1 := ⟨0, 0, 0, 1⟩ }).wf = false ∧ (Instr.catom { h with aop := 14 }).wf = false := by decide

/-! ### A small state: cluster 0, one phase, an extent of each kind -/

namespace Machine

/-- 4,096 bytes from `va` on. -/
def tstExt (k : EKind) (r : Res) (w : Bool) (va pa : Nat) : Extent := ⟨true, false, r, w, true, k, va, 4096, pa, false, false, 0, 0, none⟩
/-- LOCAL, REMOTE to cluster 1, NOISE, LOCAL absent, no kind, the wake words of cluster 0, read-only, REMOTE absent, REMOTE to
the cluster itself, write-only. -/
def tstTable : List Extent :=
  [tstExt .local .resident true 0 0, tstExt .remote .resident true 0x10000 (2 ^ 22), tstExt .noise .resident true 0x20000 0,
    tstExt .local .absent true 0x30000 0, tstExt .none .resident true 0x40000 0, tstExt .remote .resident true 0x50000 (2 ^ 45),
    tstExt .local .resident false 0x60000 0, tstExt .remote .absent true 0x70000 (2 ^ 22),
    tstExt .remote .resident true 0x80000 (2 ^ 46), { tstExt .local .resident true 0x90000 0 with r := false }]
def tstPhase : Phase := ⟨0, tstTable, false, 0x777, some 1, none, [(100, 0)], [0x80000040], [], 0⟩
def tstCl : Cluster := { Cluster.reset with phases := [tstPhase, tstPhase], bind := some ⟨0, 0, 0, 1, 1, 0, 0⟩ }
def tst : State := { State.reset with cl := [(0, tstCl)] }
/-- Cluster 0 changed, its program context changed, s1 set. -/
def tstC (f : Cluster → Cluster) : State := tst.updCluster 0 f
def tstP (f : Ctx → Ctx) : State := tstC (fun c => { c with prog := f c.prog })
def tstS (x : SVal) : State := tstP (fun c => c.wrS 1 x)
/-- The firmware context in focus. -/
def tstF : State := { tst with curFw := true }
/-- The entry that covers an address. -/
def tstE (i : Nat) : Nat × Extent := (i, tstTable.getD i (tstExt .none .resident true 0 0))

/-! ### What meets the hypotheses of the statements -/

theorem witness_ScalarDivides : State.reset.slot = 0 ∧ ({ State.reset with slot := 1 } : State).slot ≠ 0 := by decide

/-- QSCALE read and written, a marked source, FMTCFG read alone, FCLASS of the firmware, a number that nothing has. -/
theorem witness_ControlRegisterAccess :
    ((0x030 : BitVec 12).toNat = 0x030 ∧ (0x030 ∈ [0x020, 0x030] ∧ 0x041 ∉ [0x020, 0x030])) ∧ (tst.ctx.rdS 1).poison = false ∧
    ((tstS ⟨4, true⟩).ctx.rdS 1).poison = true ∧ (∀ r ∈ [0x000, 0x030, 0x072], (0x003 : BitVec 12).toNat ≠ r) ∧ tstF.curFw = true := by
  decide +kernel

theorem witness_ResultsLandAtLatency : tst.ctx.pend = [] := by decide +kernel

/-- 1.0 and 0 in FP32: a number, a power of two with an integer exponent, a zero; an infinity, NaNs, integers of both kinds. -/
theorem witness_FloatLanes :
    isFloat .f32 = true ∧ isFloat .e4m3 = true ∧ ElemTy.i8.isInt = true ∧
    (fpVal .f32 (rdElem .f32 0x3F800000)).IsReal 1 ∧ (1 : ℝ) = (0 + 1 : ℤ) ∧ (1 : ℝ) = (2 : ℝ) ^ (0 : ℤ) ∧
    (fpVal .f32 (rdElem .f32 0xC0000000)).IsReal (-2) ∧ (fpVal .f32 (rdElem .f32 0x40000000)).IsReal ((2 : ℝ) ^ (1 : ℤ)) ∧
    fpVal .f32 (rdElem .f32 0x7F800000) = .inf false ∧ fpVal .f32 (rdElem .f32 0xFF800000) = .inf true ∧
    fpVal .f32 (rdElem .f32 0x7F800001) = .nan true ∧ fpVal .f32 (rdElem .f32 0x7FC00000) = .nan false ∧
    (fpVal .f32 (rdElem .f32 0x80000000)).isZero = true := by
  have h1 : fpVal .f32 (rdElem .f32 0x3F800000) = .fin false 0x800000 (-23) := by decide +kernel
  have h2 : fpVal .f32 (rdElem .f32 0xC0000000) = .fin true 0x800000 (-22) := by decide +kernel
  have h3 : fpVal .f32 (rdElem .f32 0x40000000) = .fin false 0x800000 (-22) := by decide +kernel
  rw [h1, h2, h3]
  refine ⟨by decide, by decide, by decide, ?_, by norm_num, by norm_num, ?_, ?_, by decide +kernel, by decide +kernel, by decide +kernel,
    by decide +kernel, by decide +kernel⟩ <;> simp only [FVal.IsReal] <;> norm_num [zpow_neg]

/-- Fields of each kind of value, a block with elements, sixteen zeros and sixteen ones to encode. -/
theorem witness_NumberFormats :
    (fmtE4M3 ∈ [fmtF32, fmtF16, fmtBF16, fmtE4M3, fmtE5M2] ∧ 15 ≤ fmtE4M3.emax ∧ 7 < 2 ^ fmtE4M3.fbits ∧ fmtF32.emax = 255 ∧ 0 < 2 ^ fmtF32.fbits) ∧
    (FVal.fin false 1 0).IsReal 1 ∧ (FVal.fin false 1 0).IsReal 1 ∧
    (let blk := 127 + 2 ^ 16
     blk % 2 ^ 8 ≠ 0 ∧ blk % 2 ^ 8 ≠ 255 ∧ blk / 2 ^ (16 + 0 * (1 + 4)) % 2 ^ 4 ≠ 0 ∧ blk / 2 ^ (16 + 1 * (1 + 4)) % 2 ^ 4 = 0) ∧
    (List.replicate 16 (FVal.fin false 0 0)).length = 16 ∧ (FVal.fin false 0 0).IsReal 0 ∧
    ∀ k < 16, ∀ x, (List.replicate 16 (FVal.fin false 1 0))[k]? = some x → x.IsReal 1 := by
  refine ⟨by decide, by simp [FVal.IsReal], by simp [FVal.IsReal], by decide, rfl, by simp [FVal.IsReal], ?_⟩
  intro k hk x hx
  rw [List.getElem?_replicate] at hx
  split at hx <;> simp_all [FVal.IsReal]
  rw [← hx]; norm_num

theorem witness_VectorThreeRegister : tst.fwBad [63, 62, 61] = false ∧ tstF.fwBad [15, 14, 13] = false := by decide +kernel

theorem witness_IntegerLanes : ElemTy.i32.isInt = true ∧ ElemTy.z8.isInt = true := by decide

theorem witness_VectorTwoRegister : tst.fwBad [63, 62] = false ∧ narrowOf tst.me.fmtcfg true .z8 = some .z8 := by decide +kernel

theorem witness_VectorMoves : tst.fwBad [63, 62, 61] = false := by decide +kernel

theorem witness_ReductionsAndPredicates : tst.fwBad [63, 62] = false := by decide +kernel

/-- A scale of 0 has no value to divide by; 1.0 has. No lane clips or falls to zero in a state of reset. -/
theorem witness_PackingAndQuantising :
    tst.fwBad [63, 62] = false ∧ tst.fwBad [grp 61 2, grp 62 1] = false ∧ narrowOf tst.me.fmtcfg false .i8 = some .i8 ∧
    narrowOf tst.me.fmtcfg true .z8 = some .z8 ∧ posFinite (fpVal .f32 0) = none ∧
    (posFinite (fpVal .f32 tst.ctx.qscale.toNat)).isSome = true ∧ tst.ctx.qrefit = false := by decide +kernel

/-- Lanes of 2^100 clip at scale 1.0 and fit a finite one. -/
theorem witness_QuantiseRefits :
    let s := tstP (fun c => { c with qrefit := true, v := c.v.set 2 (Vector.replicate 16 ⟨0x71800000, false⟩) })
    let q (i : Fin 16) := quantLane .i8 .rne 1 0 (fpVal .f32 (rdElem .f32 (s.ctx.rdV 2)[i].val))
    s.fwBad [1, 2] = false ∧ narrowOf s.me.fmtcfg true .i8 = some .i8 ∧ s.ctx.qrefit = true ∧
    (∃ e, posFinite (fpVal .f32 s.ctx.qscale.toNat) = some (2 ^ 23, e)) ∧
    ((List.finRange 16).filter (fun i => (s.ctx.rdP 0).getLsb i && (q i).2.2.1)).length > s.ctx.qlimit.toNat ∧
    (posFinite (fpVal .f32 (fitScale .i8 (largestMag (s.ctx.rdP 0) (fun i => fpVal .f32 (rdElem .f32 (s.ctx.rdV 2)[i].val)))).1)).isSome = true := by
  refine ⟨by decide +kernel, by decide +kernel, by decide +kernel, ⟨-23, by decide +kernel⟩, by decide +kernel, by decide +kernel⟩

theorem witness_ComplexArithmetic :
    tst.fwBad [grp 62 1, grp 60 1, grp 58 1] = false ∧ tst.fwBad [grp 60 3, grp 62 1, grp 62 1] = false ∧
    tst.fwBad [grp 56 7, grp 48 7, grp 58 5] = false := by decide +kernel

/-- A register above v15 among those of a well-formed instruction of each kind, and of graphs of one result and of two. -/
theorem witness_FirmwareVectorRegisters :
    let g : Graph := ⟨3, 4, 1, 1, 2, 0, []⟩
    let s : State := { tstF with cl := [(0, { tstCl with fw := { Ctx.reset with plane := [g] } })] }
    s.curFw = true ∧ (Instr.vadd 0 16 0 .f32 0).wf = true ∧ (Instr.vqch 14 0 .rne .f32 .f32 0).wf = true ∧ (Instr.vabs 16 0 .f32 0).wf = true ∧
    (Instr.vld 63 0 .i32 0 0).wf = true ∧ (Instr.vcmp 1 .eq 0 16 .f32).wf = true ∧
    (∃ m ∈ (List.range 3).map ((14 : VReg).val + ·), 16 ≤ m) ∧ s.usablePlane.find? (fun g => g.n == 3) = some g ∧ 16 ≤ (15 : VReg).val + 1 := by
  decide +kernel

/-- LD at 0x10 here, at 0x70010 of a range not resident, at 0x10010 in cluster 1, at 0x20010 of noise. -/
theorem witness_ScalarLoads :
    let met (va i : Nat) (s : State) : Prop := (s.ctx.rdS 1).poison = false ∧ effAddr (s.ctx.rdS 1).val 0 4 = va ∧
      findExtent s.me.table va 4 = some (tstE i)
    (met 0x10 0 (tstS ⟨0x10, false⟩) ∧ checkAll tst.me.table (.load false) false 4 4 [0x10] = none ∧
      paCluster ((tstE 0).2.physical 0 tst.me 0x10) = 0 ∧ tst.reach ((tstE 0).2.physical 0 tst.me 0x10) false = true) ∧
    (met 0x70010 7 (tstS ⟨0x70010, false⟩) ∧ checkAll tst.me.table (.load false) true 4 4 [0x70010] = none ∧ (tstE 7).2.res ≠ .resident ∧
      paCluster ((tstE 7).2.physical 0 tst.me 0x70010) ≠ 0) ∧
    (met 0x10010 1 (tstS ⟨0x10010, false⟩) ∧ checkAll tst.me.table (.load false) false 4 4 [0x10010] = none ∧ (tstE 1).2.res = .resident ∧
      paCluster ((tstE 1).2.physical 0 tst.me 0x10010) ≠ 0) ∧
    (met 0x20010 2 (tstS ⟨0x20010, false⟩) ∧ 0x20010 % 4 = 0 ∧ (tstE 2).2.kind = .noise) := by decide +kernel

/-- Sixteen elements from 0 on, one element for every lane, a stride of 4, and offsets of zero; of FP32 noise, of a range not
resident for a load with an rp, and of cluster 1. -/
theorem witness_VectorLoads :
    let s := tstS ⟨0, false⟩
    let t := tstP (fun c => c.wrS 2 ⟨4, false⟩)
    let met (ty : ElemTy) (rp : Bool) (j : Nat) (va : Fin 16 → Nat) : Prop :=
      checkAll s.me.table (.load (noisy ty)) rp 4 4 ((List.finRange 16).map va) = none ∧
      ∀ l, findExtent s.me.table (va l) 4 = some (tstE j) ∧ (paCluster ((tstE j).2.physical 0 s.me (va l)) = 0 →
        s.reach ((tstE j).2.physical 0 s.me (va l)) false = true)
    (s.ctx.rdS 1).poison = false ∧ anyPoison (s.ctx.rdV 3) = false ∧ s.fwBad [5, 3] = false ∧
    met .i32 false 0 (fun l => 4 * l.val) ∧ met .i32 false 0 (fun _ => 0) ∧ met .f32 false 2 (fun l => 0x20000 + 4 * l.val) ∧
    met .i32 true 3 (fun l => 0x30000 + 4 * l.val) ∧ (tstE 3).2.res ≠ .resident ∧ met .i32 false 1 (fun l => 0x10000 + 4 * l.val) ∧
    paCluster ((tstE 1).2.physical 0 s.me 0x10000) ≠ 0 ∧ (∀ l : Fin 16, 4 * l.val = (effAddr 0 0 64 + l.val * 4) % 2 ^ 64) ∧
    (∀ l : Fin 16, 4 * l.val = (0 + l.val * (t.ctx.rdS 2).val.toNat) % 2 ^ 64) ∧
    ∀ l : Fin 16, 0 = ((0 : DWord) + ((s.ctx.rdV 3)[l].val.signExtend 64)).toNat := by decide +kernel

theorem witness_ScalarAccessFaults :
    (tstS ⟨0, true⟩).ctx.rdS 1 = ⟨0, true⟩ ∧ ((tstS ⟨2, false⟩).ctx.rdS 1).poison = false ∧ effAddr 2 0 4 % 4 ≠ 0 ∧
    findExtent tst.me.table 0xA0000 4 = none ∧ findExtent tst.me.table 0x40000 4 = some (tstE 4) ∧ (tstE 4).2.kind = .none ∧
    findExtent tst.me.table 0x60000 4 = some (tstE 6) ∧ (tstE 6).2.w = false ∧ (tstE 6).2.r = true ∧
    findExtent tst.me.table 0x90000 4 = some (tstE 9) ∧ (tstE 9).2.r = false ∧
    findExtent tst.me.table 0x30000 4 = some (tstE 3) ∧ (tstE 3).2.res ≠ .resident := by decide +kernel

theorem witness_ScalarStores :
    let s := tstS ⟨0x0FFC, false⟩
    let pa := (tstE 0).2.physical s.cur s.me 0x0FFC
    effAddr (s.ctx.rdS 1).val 0 4 = 0x0FFC ∧ s.kept = true ∧ (s.ctx.rdS 1).poison = false ∧ checkAll s.me.table .store false 4 4 [0x0FFC] = none ∧
    findExtent s.me.table 0x0FFC 4 = some (tstE 0) ∧ paCluster pa = s.cur ∧ paSpace pa = 0 ∧ s.reach pa true = true ∧
    s.releaseDeps s.cur .sys = [] := by decide +kernel

/-- With one write outstanding, a release waits for it. -/
theorem witness_RemoteStores :
    let s := tstS ⟨0x10000, false⟩
    let u := match exec (.st 1 1 .s32 0) s with
      | .next u => u
      | _ => s
    effAddr (s.ctx.rdS 1).val 0 4 = 0x10000 ∧ checkAll s.me.table .store false 4 4 [0x10000] = none ∧
    findExtent s.me.table 0x10000 4 = some (tstE 1) ∧ paCluster ((tstE 1).2.physical s.cur s.me 0x10000) ≠ s.cur ∧
    u.releaseDeps u.cur .sys ≠ [] ∧ findExtent u.me.table 0x10000 4 = some (tstE 1) := by decide +kernel

theorem witness_VectorStores :
    let s := tstS ⟨0, false⟩
    let good (va : Fin 16 → Nat) : Prop := checkAll s.me.table .store false 4 4 ((List.finRange 16).map va) = none ∧
      ∀ l, findExtent s.me.table (va l) 4 = some (tstE 0) ∧ paCluster ((tstE 0).2.physical 0 s.me (va l)) = 0 ∧
        paSpace ((tstE 0).2.physical 0 s.me (va l)) = 0 ∧ paSpace ((tstE 0).2.physical 0 s.me (va l) + 4 - 1) = 0 ∧ s.reach ((tstE 0).2.physical 0 s.me (va l)) true = true
    s.kept = true ∧ s.fwBad [5, 3] = false ∧ anyPoison (s.ctx.rdV 3) = false ∧ good (fun l => 4 * l.val) ∧ good (fun _ => 0) := by
  decide +kernel

theorem witness_ScalarAtomics :
    let s := tstS ⟨0x20, false⟩
    let pa := (tstE 0).2.physical s.cur s.me 0x20
    s.kept = true ∧ s.atomFault [⟨0x20, (s.ctx.rdS 2).val.toNat, (s.ctx.rdS 3).val.toNat, false⟩] .i32 false = none ∧
    findExtent s.me.table 0x20 4 = some (tstE 0) ∧ paCluster pa = s.cur ∧ s.reach pa true = true ∧
    ElemTy.i32 = .i32 ∧ ElemTy.z32 = .z32 ∧ ElemTy.f32 = .f32 := by decide +kernel

/-- Sixteen lanes at one word here and in cluster 1, an SC atomic to it, and an SC message before and after its cycle. -/
theorem witness_AtomicForms :
    let s := (tstS ⟨0x20, false⟩).updCluster 0 (fun c => { c with scPos := [0] })
    let ls (va : Nat) : List AtomLane := (List.finRange 16).map (fun _ => ⟨va, 0, 0, false⟩)
    let m : Msg := ⟨7, 0, .slot false 0, 0, .scAtom [(0x20, 1, 0)] .add .i32 false, .held, 0x20, 0, 0, none, 0, [], [], some 0, false, [], none, 2, 0, false⟩
    let u (g : Nat) : State := { tst with net := [m], md := [(0, { Module.reset with gts := g })] }
    (anyPoison (s.ctx.rdV 3) = false ∧ s.fwBad [1, 2, grp 2 1] = false ∧ s.fwBad [1, 2, grp 2 2] = false ∧
      indexAddr 0x20 (s.ctx.rdV 3)[(0 : Fin 16)].val = 0x20 ∧ s.kept = true ∧ s.atomFault (ls 0x20) .i32 false = none ∧
      paCluster (s.atomPa 0x20 4) = s.cur ∧ s.reach (s.atomPa 0x20 4) true = true ∧ s.atomFault (ls 0x10020) .i32 false = none ∧
      paCluster (s.atomPa 0x10020 4) ≠ s.cur ∧ s.atomFault (ls 0x20) .i32 true = none ∧ s.atomFault [⟨0x20, 0, 0, false⟩] .i32 true = none) ∧
    (∀ g, (u g).msg 7 = some m) ∧ m.grant = some 0 ∧ m.phase.performed = false ∧ m.deny = false ∧
    0 + 64 ≤ ((u 64).module (modOf m.src)).gts ∧ ((u 63).module (modOf m.src)).gts < 0 + 64 ∧ (u 64).kept = true ∧
    (∀ x ∈ (u 64).net, x.id = 7 → x = m) ∧ (u 64).msgAllowed m 0x20 true = true ∧ (u 64).poisoned 0x20 4 = false ∧ paSpace 0x20 = 0 := by
  refine ⟨by decide +kernel, fun g => rfl, ?_⟩
  decide +kernel

/-- An element of the noise extent; a hash of 0, whose place is 31, and one of a seed whose first bit stands at place 0 to 2. -/
theorem witness_NoiseLoads :
    let w (seed : DWord) : Nat :=
      let h1 := (seed ^^^ (seed >>> 31)) * 0xE7A35C19B2D48F6B
      let h2 := (h1 ^^^ (h1 >>> 27)) * 0x94C17E2D5B38A9C7
      ((h2 ^^^ (h2 >>> 33)).extractLsb' 24 39).toNat
    findExtent tst.me.table 0x20004 4 = some (tstE 2) ∧ (tstE 2).2.kind = .noise ∧ w 0 < 2 ^ (39 - 31) ∧
    (∀ e ∈ [0, 1, 2], ∃ n ∈ List.range 16, w (BitVec.ofNat 64 n) < 2 ^ (39 - e) ∧ 2 ^ (38 - e) ≤ w (BitVec.ofNat 64 n)) := by decide +kernel


theorem witness_ControlTransfers :
    ((tstS ⟨4, true⟩).ctx.rdS 1).poison = true ∧ ((tstS ⟨4, false⟩).ctx.rdS 1).poison = false ∧ (6 : DWord).getLsbD 1 = true ∧
    (4 : DWord).getLsbD 0 = false ∧ (4 : DWord).getLsbD 1 = false ∧ tst.ctx.rdP 0 = 0xFFFF ∧ tst.ctx.rdP 1 = 0 ∧
    (let s := tstP (fun c => c.wrP 1 0xFFFF 1)
     s.ctx.rdP 1 ≠ 0 ∧ s.ctx.rdP 1 ≠ 0xFFFF) := by decide +kernel

/-- A loop running at its end, once more and for the last time. -/
theorem witness_HardwareLoops :
    let l : Loop := ⟨1, 2, 1, 8, 0⟩
    let d : Ctx := { Ctx.reset with loops := [l], seqPc := 8 }
    let s := tstP (fun _ => d)
    let words := (s.ctx.seqPc - s.ctx.pc).toNat / 4
    (0 : BitVec 4) = 0 ∧ (1 : BitVec 4) ≠ 0 ∧ (2 : BitVec 10).toNat ≤ words ∧ words < (3 : BitVec 10).toNat ∧
    ((tstS ⟨4, true⟩).ctx.rdS 1).poison = true ∧ tst.ctx.loops.dropWhile (fun l => l.lc != 1) = [] ∧
    s.ctx.loops.dropWhile (fun l => l.lc != 1) = [l] ∧ ({ d with target := some 4 } : Ctx).target = some 4 ∧ d.target = none ∧
    Ctx.reset.loops = [] ∧ ({ d with seqPc := 4 } : Ctx).seqPc ≠ l.loopend ∧ l.loopend = d.seqPc ∧ 1 < l.remaining ∧
    ({ l with remaining := 1 } : Loop).remaining ≤ 1 := by decide +kernel

/-- BSEL of 100 fits the bucket of 100 and of 101 does not; a stamp of cycle 5 at cycle 5 and at cycle 6. -/
theorem witness_PhaseEndsAndHeaders :
    let sizes := ((tst.me.phases[tst.me.phase]?).map (fun p => p.buckets.map (·.1))).getD []
    let at_ (g : Nat) : State := { tst with md := [(0, { Module.reset with gts := g })] }
    (∃ z ∈ sizes, 100 ≤ z) ∧ (∀ z ∈ sizes, z < 101) ∧ ((tstS ⟨4, true⟩).ctx.rdS 1).poison = true ∧
    (0 : BitVec 16) = 0 ∧ (1 : BitVec 16) ≠ 0 ∧ ((at_ 5).module (modOf tst.cur)).gts ≤ tst.me.phbase * 4096 + 5 ∧
    tst.me.phbase * 4096 + 5 < ((at_ 6).module (modOf tst.cur)).gts ∧ (at_ 6).ctx.unstamped = false ∧
    (tstP (fun c => { c with unstamped := true })).ctx.unstamped = true := by decide +kernel

/-- Semaphore 5 local-only at 2, below 3: nothing pending, or a signal gathered for the next cycle; semaphores of the firmware. -/
theorem witness_Semaphores :
    let f (l : List (Fin 256 × Int)) : State := tstC (fun c => { c with sem := c.sem.set 5 2, semLocal := 32, semNext := l })
    let s := f []
    let pos (m : Fin 256) (i : Int) : Int := if m = 5 ∧ 0 < i then i else 0
    (239 < 240) ∧ ¬ (240 < 240) ∧ s.curFw = false ∧ tstF.curFw = true ∧ s.me.semLocal.getLsbD 5 = true ∧ tst.me.semLocal.getLsbD 5 = false ∧
    ((tstS ⟨4, true⟩).ctx.rdS 1).poison = true ∧ s.me.sem[5] < (3 : Int) ∧ (2 : Int) ≤ s.me.sem[5] ∧ tst.me.sem[5] < (3 : Int) ∧
    s.pendingStores s.cur 5 = 0 ∧ s.me.sem[5] + (s.me.semNext.map (fun x => pos x.1 x.2)).sum < (3 : Int) ∧
    (3 : Int) ≤ (f [(5, 1)]).me.sem[5] + ((f [(5, 1)]).me.semNext.map (fun x => pos x.1 x.2)).sum := by decide +kernel

/-- A cluster barrier of 2, a region barrier that waits for its flip, a bit that agrees and one that does not. -/
theorem witness_Barriers :
    let s := tstC (fun c => { c with bar := (c.bar.set 2 ⟨2, 0, false, false, false⟩).set 3 ⟨1, 0, true, true, true⟩ })
    (s.me.bar[2]).rp = false ∧ (s.me.bar[2]).count ≠ 0 ∧ (s.me.bar[2]).rg = false ∧ (s.me.bar[3]).rp = true ∧ (s.me.bar[4]).count = 0 ∧
    (s.me.bar[2]).ph = s.ctx.barArr.getLsbD 2 ∧ (s.me.bar[3]).ph ≠ s.ctx.barArr.getLsbD 3 ∧
    s.membersOf 0 = [0] ∧ [0].Nodup ∧ (s.cluster 0).bar[3].rp = true ∧ (s.cluster 0).bar[2].rp = false := by decide +kernel

/-- Registers of cluster 0, permitted and not; a busy tile; an address of another space, and a misaligned one. -/
theorem witness_ControlWords :
    let at_ (o : Nat) : Nat := 2 * 2 ^ 45 + o
    let deny := tstC (fun c => { c with acctab := 0 })
    let busy := tstC (fun k => { k with mx := { k.mx with queue := [⟨1, .zero 2, 0, 0, false, [], some 1, 0, 0, false, 0⟩] } })
    tst.me.semLocal.getLsbD 5 = false ∧ (tstC (fun c => { c with semLocal := 32 })).me.semLocal.getLsbD 5 = true ∧
    (∀ o ∈ [0x300, 0x2000, 0x2800, 0x800, 0x4400, 0x400, 0x688, 0x700], paSpace (at_ o) = 2 ∧ at_ o % 2 ^ 22 = o ∧ paCluster (at_ o) = 0) ∧
    (tst.module 0).power = .on ∧ (tst.cluster 0).acctab.getLsbD 37 = true ∧ (deny.cluster 0).acctab.getLsbD 37 = false ∧
    ¬ (0x8000 ≤ 0x300 + 7) ∧ paSpace (at_ 0xA000) = 2 ∧ (0x8000 ≤ 0xA000 + 7 ∧ 0xA000 < 0x10000) ∧ at_ 0xA000 % 0x1000 ≤ 0xFF8 ∧
    (busy.cluster 0).mx.busy (Fin.ofNat 8 ((0xA000 - 0x8000) / 0x1000)) = true ∧ paSpace 8 ≠ 2 ∧ at_ 4 % 8 ≠ 0 := by decide +kernel

/-- EXTQ and MAPREQ of one entry, of none and of two; a request waiting for an absent entry. -/
theorem witness_Extents :
    let two := tstC (fun c => { c with phases := [{ tstPhase with ext := [(tstE 0).2, (tstE 0).2] }] })
    let q : MapReq := ⟨0, 3, some 5⟩
    let asked := tstC (fun c => { c with
      mapreqs := [q], phases := [{ tstPhase with ext := tstTable.set 3 { (tstE 3).2 with pend := true } }] })
    let full := tstC (fun c => { c with mapreqs := List.replicate 8 q })
    let mayName (s : State) (c : SReg) (n : Fin 256) : Prop :=
      c = 0 ∨ ((s.curFw = true ∨ n.val < 240) ∧ ¬ (s.curFw = true ∧ s.me.semLocal.getLsbD n.val = true))
    let own : State := { tstC (fun c => { c with semLocal := 32 }) with curFw := true }
    mayName tst 0 250 ∧ mayName tst 2 239 ∧ ¬ mayName tst 2 240 ∧ mayName own 2 240 ∧ ¬ mayName own 2 5 ∧
    ((tstS ⟨0, true⟩).ctx.rdS 1).poison = true ∧ ((tstS ⟨0, false⟩).ctx.rdS 1).poison = false ∧
    hitsOf tst.me.table 0xA0000 1 = [] ∧ hitsOf tst.me.table 0 1 = [tstE 0] ∧ 1 < (hitsOf two.me.table 0 1).length ∧
    findExtent tst.me.table 0xA0000 4 = none ∧ findExtent tst.me.table 0x20000 4 = some (tstE 2) ∧ (tstE 2).2.kind = .noise ∧
    findExtent tst.me.table 0x30000 4 = some (tstE 3) ∧ (tstE 3).2.kind = .local ∧ (tstE 3).2.pend = false ∧ (tstE 3).2.res ≠ .resident ∧
    tst.me.mapreqs.length < 8 ∧ 8 ≤ full.me.mapreqs.length ∧ (tstE 0).2.res = .resident ∧
    asked.me.table[3]? = some { (tstE 3).2 with pend := true } ∧ tst.me.table[99]? = none ∧ tst.me.mapreqs[0]? = none ∧
    asked.me.mapreqs[0]? = some q ∧ (asked.me.phases[q.phase]?).bind (fun p => p.ext[q.ext]?) = some { (tstE 3).2 with pend := true } := by
  decide +kernel

/-- A graph of one cell that passes its first source on. -/
def tstGraph (n : Fin 16) (res : Nat) : Graph := ⟨n, 4, 1, res, 1, 0, []⟩

/-- The graph pwrg of 15 Table 15.3 at code address 64 of cluster 0, its check word filled in by R72. -/
def tstPwrg : List Word := [0xF3691000, 1] ++ List.replicate 14 0 ++ [0x00500000, 0x8800001C, 0x00280000, 0x8C021E74]
def tstG : State := tst.writeBytes 64
  ((tstPwrg.set 15 (BitVec.ofNat 32 (checkWord tstPwrg 15))).flatMap (fun w => toBytes 4 w.toNat)) false

theorem witness_CustomOpcodes :
    let g := tstGraph 3 1
    let o : Pend := { mkPend 0 (.sreg 5 ⟨0, false⟩) with owed := true }
    let s := tstP (fun c => { c with plane := [g] })
    let t := tstP (fun c => { c with post := [.xdrop 5 3], pend := [o] })
    let b := tstC (fun c => { c with plBusy := true, plAddr := 64 })
    let l := tstC (fun c => { c with plBusy := true, bad := [3] })
    (s.ctx.plane.length ≤ 4 ∧ cellsUsed s.ctx.plane ≤ 16 ∧ ((tstS ⟨64, true⟩).ctx.rdS 1).poison = true ∧
      ((tstS ⟨64, false⟩).ctx.rdS 1).poison = false ∧ (4 : BitVec 22).toNat % 64 ≠ 0 ∧ (64 : BitVec 22).toNat % 64 = 0 ∧
      (t.ctxOf 0 false).post = .xdrop 5 3 :: [] ∧ (t.ctxOf 0 false).xopBusy = false ∧ (t.ctxOf 0 false).rest = [] ∧
      (t.ctxOf 0 false).pend = [] ++ (if (5 : SReg) = 0 then [] else [o]) ++ [] ∧ o.owed = true ∧ o.dest = .sreg 5 ⟨0, false⟩ ∧
      (t.cluster 0).bad.contains 3 = false ∧ (l.cluster 0).bad.contains 3 = true ∧ s.me.bad.contains 3 = false) ∧
    (install [] s.ctx.plane (tstGraph 4 1) = some ([g, tstGraph 4 1], [], false) ∧
      tst.ctx.plane.find? (fun g => g.n == 3) = none ∧ s.ctx.plane.find? (fun g => g.n == 3) = some g ∧
      ¬ (g.srcs = 1 ∧ (0 : VReg) ≠ 0) ∧ ¬ (g.results = 2 ∧ (9 : VReg) = 63) ∧ s.fwBad [9, 8] = false ∧
      (∀ i : Fin 16, (g.eval (fun _ => (s.ctx.rdV 8)[i])).2.2.2 = false)) ∧
    ((s.cluster 0).acctab.getLsbD 41 = true ∧ ((tstC (fun c => { c with acctab := 0 })).cluster 0).acctab.getLsbD 41 = false ∧
      (s.module 0).power = .on ∧ (s.cluster 0).plBusy = false ∧ (b.cluster 0).plBusy = true ∧ b.coreOps 0 = [] ∧
      b.readGraph 0 (b.cluster 0).plAddr = none ∧ (l.cluster 0).plBusy = true ∧ (tstG.readGraph 0 64).isSome = true ∧ 5 < 2 ^ 16) := by
  refine ⟨by decide +kernel, by decide +kernel, by decide +kernel⟩

/-- The values of the running example: 1.0 and +0 in, 1.0 out (15 Table 15.4). -/
theorem test_graph_pwrg :
    (tstG.readGraph 0 64).map (fun g => ((g.n, g.latency, g.cmask), (g.eval (fun j => ⟨if j = 0 then 0x3F800000 else 0, false⟩)).1,
      (g.eval (fun j => ⟨if j = 0 then 0x3F800000 else 0, false⟩)).2.2)) = some ((3, 6, 1), ⟨0x3F800000, false⟩, 0, false) := by
  decide +kernel

theorem witness_QueuePostsAndSignals :
    let s := tstS ⟨0x40, false⟩
    let q (wr : Nat) : Queue := { Queue.reset with en := true, dev := true, log2n := 3, write := wr }
    let t (wr : Nat) : State := { tst with md := [(0, { Module.reset with queues := [(2, q wr)] })] }
    ((tstS ⟨0, true⟩).ctx.rdS 1).poison = true ∧ (s.ctx.rdS 1).poison = false ∧ (s.ctx.rdS 2).poison = false ∧
    checkAll s.me.table (.load false) false 64 64 [0x40] = none ∧ findExtent s.me.table 0x40 64 = some (tstE 0) ∧
    paCluster ((tstE 0).2.physical 0 s.me 0x40) = s.cur ∧ s.reach ((tstE 0).2.physical 0 s.me 0x40) false = true ∧
    checkAll s.me.table (.load false) false 64 64 [0x10000] = none ∧ findExtent s.me.table 0x10000 64 = some (tstE 1) ∧
    paCluster ((tstE 1).2.physical 0 s.me 0x10000) ≠ s.cur ∧ (checkAll s.me.table (.load false) false 64 64 [4]).isSome = true ∧
    (checkAll s.me.table .atomic false 8 8 [4]).isSome = true ∧ checkAll s.me.table .atomic false 8 8 [0x40] = none ∧
    checkAll s.me.table .atomic false 8 8 [0x50000] = none ∧ findExtent s.me.table 0x50000 8 = some (tstE 5) ∧
    paSpace ((tstE 5).2.physical 0 s.me 0x50000) ≠ 0 ∧ paSpace ((tstE 0).2.physical 0 s.me 0x40) = 0 ∧
    s.poisoned ((tstE 0).2.physical 0 s.me 0x40) 8 = false ∧ ({ s with pmem := [8] } : State).poisoned ((tstE 0).2.physical 0 s.me 0x40) 8 = true ∧
    ({ tstC (fun c => { c with acctab := 0 }) with curFw := true } : State).reach ((tstE 0).2.physical 0 s.me 0x40) false = false ∧ s.allMet s.cur [] = true ∧
    (s.send (.slot false 0) 0 1 0 (.read 0 4) [] []).allMet s.cur [.perf s.nextId] = false ∧
    63 < (64 : DWord).toNat ∧ (2 : DWord).toNat ≤ 63 ∧ (s.queue 0 2).en = false ∧ ((t 5).queue 0 2).en = true ∧ ((t 5).queue 0 2).dev = true ∧
    (8 + 2 ^ 32 - ((t 8).queue 0 2).read) % 2 ^ 32 = 2 ^ ((t 8).queue 0 2).log2n ∧
    (5 + 2 ^ 32 - ((t 5).queue 0 2).read) % 2 ^ 32 ≠ 2 ^ ((t 5).queue 0 2).log2n := by decide +kernel

/-- A clause that names a firmware semaphore, one that names none; an engine with and without a tile coming, a tile in
use, and a region of 17 rows. -/
theorem witness_MatrixCommands :
    let c : EClause := ⟨false, 0, 0, 0, 0⟩
    let t := tstC (fun k => { k with mx := { k.mx with loaded := true, queue := [⟨1, .zero 2, 0, 0, false, [], none, 0, 0, false, 0⟩] } })
    let big := tstC (fun k => { k with mx := { k.mx with loaded := true }, bind := some ⟨0, 0, 0, 17, 1, 0, 0⟩ })
    tst.clauseBad { c with gsem := 240, ginc := 1 } = true ∧ tst.clauseBad c = false ∧
    ((tstS ⟨0, true⟩).ctx.rdS 1).poison = true ∧ ((tstS ⟨0x77, false⟩).ctx.rdS 1).poison = false ∧
    mxRate 7 7 ≠ none ∧ ¬ ((0x200 : DWord).toNat < 512) ∧ tst.me.mx.hasLoad = false ∧ t.me.mx.hasLoad = true ∧
    t.clauseBad c = false ∧ regionOf t.cur t.me = (0, 0, 1, 1) ∧ (32 ≤ 32 * 1) ∧ ¬ (33 ≤ 32 * 1) ∧ regionOf big.cur big.me = (0, 0, 17, 1) ∧
    t.me.mx.busy 1 = false ∧ t.me.mx.busy 2 = true ∧ (1 : Fin 16) ∈ ([1, 2, 13] : List (Fin 16)) := by decide +kernel

/-- A head of each kind of command: due, not due, with FIFOs filled, with and without weights. -/
theorem witness_MatrixEffects :
    let c : EClause := ⟨false, 0, 0, 0, 0⟩
    let cmd (op : MOp) (age : Option Nat) : MCmd := ⟨1, op, 0, 0, false, [], age, 0, 0, false, 0⟩
    let on (x : Mx) : State := tstC (fun k => { k with mx := x })
    let x : Mx := { Mx.reset with fifoA := List.replicate 16 ⟨1, false⟩, fifoB := List.replicate 16 ⟨1, false⟩, k := 16 }
    let ready (op : MOp) (v : Bool) : Prop :=
      let s := on { x with queue := [cmd op none], wvalid := v }
      (s.cluster 0).mx.queue = [cmd op none] ∧ (cmd op none).age = none ∧ s.allMet 0 (cmd op none).after = true ∧
        (s.cluster 0).readsBefore (cmd op none).id = [] ∧ s.stopping 0 = false ∧ (cmd op none).popped = 0 ∧ (cmd op none).waited = 0
    let tab : List Byte := (List.range 16).flatMap (fun _ => [0x80, 0x3F])
    let good := (tstS ⟨0, false⟩).writeBytes 0 tab false
    let z := cmd (.zero 2) (some 1)
    let busy := on { x with queue := [z] }
    tst.clauseBad c = false ∧ (tstF.curFw = true → (4 : VReg).val + 2 * 6 ≤ 16) ∧ tst.me.mx.busy 2 = false ∧ busy.me.mx.busy 2 = true ∧
    good.curFw = false ∧ (good.ctx.rdS 1).poison = false ∧ checkAll good.me.table (.load false) false 32 32 [0] = none ∧ findExtent good.me.table 0 32 = some (tstE 0) ∧
    good.reach ((tstE 0).2.physical 0 good.me 0) false = true ∧ (good.performRead 0 32).any (·.2) = false ∧
    ((good.performRead 0 32).map (·.1)) = tab ∧ ((tstS ⟨0, false⟩).performRead 0 32).map (·.1) = List.replicate 32 0 ∧
    (({ good with pmem := [0] } : State).performRead 0 32).any (·.2) = true ∧
    ready (.zero 2) false ∧ ready (.ldw 16 1 0) false ∧ rowBytes x.wtype (kpOf 16) ≤ x.fifoB.length ∧
    ready (.run 1 2 0 false 2 []) false ∧ ready (.run 1 2 0 false 2 []) true ∧ mxInt x.atype = true ∧ x.nsel = 0 ∧
    rowBytes x.atype (kpOf x.k) ≤ x.fifoA.length ∧ ({ x with queue := [z] } : Mx).due z = true ∧
    ({ x with queue := [cmd (.zero 2) none] } : Mx).due (cmd (.zero 2) none) = false := by decide +kernel

/-- A clause of each kind; a channel that is valid and holds a slot, one that is not. -/
theorem witness_StreamCommands :
    let c : EClause := ⟨false, 0, 0, 0, 0⟩
    let t := tstC (fun k => { k with
      och := [(1, { Och.reset with v := true, sbytes := 64 })],
      ich := [(1, { Ich.reset with v := true, nheld := 1, rbase := 0x40 }), (2, { Ich.reset with v := true })] })
    tstF.curFw = true ∧ tst.curFw = false ∧ tst.clauseBad { c with gsem := 240, ginc := 1 } = true ∧ tst.clauseBad c = false ∧
    ((tstS ⟨0, true⟩).ctx.rdS 1).poison = true ∧ ((tstS ⟨0, false⟩).ctx.rdS 1).poison = false ∧
    ((0 : Nat) < 8 ∧ 0x10 < 0x14 + 8 ∧ 0x14 < 0x10 + 8) ∧ ¬ ((0 : Nat) < 8 ∧ 0x10 < 0x18 + 8 ∧ 0x18 < 0x10 + 8) ∧
    (kget Och.reset tst.me.och 1).v = false ∧ (kget Och.reset t.me.och 1).v = true ∧ 64 ≤ (kget Och.reset t.me.och 1).sbytes ∧
    (kget Ich.reset tst.me.ich 1).v = false ∧ (kget Ich.reset t.me.ich 1).v = true ∧ (kget Ich.reset t.me.ich 1).nheld ≠ 0 ∧
    (0x40 : DWord).toNat = (kget Ich.reset t.me.ich 1).rbase + (kget Ich.reset t.me.ich 1).head * (kget Ich.reset t.me.ich 1).sbytes ∧
    (kget Ich.reset t.me.ich 2).nheld = 0 ∧ tst.me.bad.contains 5 = false ∧
    (tstC (fun k => { k with bad := [5] })).me.bad.contains 5 = true ∧ (tstS ⟨0x80, false⟩).ctx.rdS 2 = ⟨0, false⟩ := by decide +kernel

/-- A copy of 16 bytes from 0x100 to 0x200, a wake, a close and a send at the head of stream 4. -/
theorem witness_StreamProgress :
    let cmd (op : SOp) : SCmd := ⟨1, op, 0x200, 0x100, 16, 0, 0, false, [], false, 0, false, [], none, [], [], false, 0⟩
    let on (c : SCmd) : State := tstC (fun k => { k.setStream 4 [c] with och := [(1, { Och.reset with v := true, credit := 1 })] })
    let ready (c : SCmd) : Prop := ((on c).cluster 0).headCmd 4 = some c ∧ (on c).cmdReady 0 c = true ∧ c.started = false ∧ c.reading = none ∧
      c.done = 0 ∧ c.got = [] ∧ c.buf = [] ∧ ((((on c).cluster 0).stream 4).map (·.id)).Nodup
    let w : SCmd := { cmd .wake with dst := 0x50000 }
    let s := on (cmd .copy)
    let m := s.cluster 0
    let d : SCmd := { cmd .nop with started := true, ended := true }
    (ready (cmd .copy) ∧ s.kept = true ∧ m.bad.contains 5 = false ∧ (∀ i < 16, findExtent m.table (0x100 + i) 1 = some (tstE 0) ∧ findExtent m.table (0x200 + i) 1 = some (tstE 0)) ∧
    (tstE 0).2.physical 0 m 0x200 % 2 ^ 22 + 16 ≤ 2 ^ 22 ∧ (let u := (on (cmd (.send 1))).updCluster 0 (fun k => { k with bad := [5] })
      (u.cluster 0).headCmd 4 = some (cmd (.send 1)) ∧ u.cmdReady 0 (cmd (.send 1)) = true ∧ (u.cluster 0).bad.contains 5 = true) ∧ 16 ≤ 64 - (0x100 : DWord).toNat % 64 ∧ findExtent m.table 0x100 16 = some (tstE 0) ∧
    findExtent m.table 0x200 16 = some (tstE 0) ∧ checkElem m.table (.load false) false 0x100 16 1 = none ∧
    checkElem m.table .store false 0x200 16 1 = none ∧ (tstE 0).2.kind = .local ∧ paCluster ((tstE 0).2.physical 0 m 0x100) = 0 ∧
    paSpace ((tstE 0).2.physical 0 m 0x200) = 0 ∧ s.accOk (s.masterOf 0 false 0) ((tstE 0).2.physical 0 m 0x100) false = true ∧
    s.accOk (s.masterOf 0 false 0) ((tstE 0).2.physical 0 m 0x200) true = true) ∧
    ready w ∧ checkElem m.table .store false 0x50000 8 8 = none ∧ findExtent m.table 0x50000 8 = some (tstE 5) ∧ (tstE 5).2.kind = .remote ∧
    (tstE 5).2.rel = false ∧ paSpace (tstE 5).2.pbase = 1 ∧ paSpace ((tstE 5).2.physical 0 m 0x50000) = 1 ∧
    paCluster ((tstE 5).2.physical 0 m 0x50000) = 0 ∧ (tstE 5).2.physical 0 m 0x50000 % 2 ^ 22 < 0x80 ∧
    s.accOk (s.masterOf 0 false 0) ((tstE 5).2.physical 0 m 0x50000) true = true ∧
    ready (cmd .close) ∧ ready (cmd (.send 1)) ∧ tst.me.headCmd 4 = none ∧ tst.me.stream 4 = [] ∧
    ((on d).cluster 0).stream 4 = [d] ∧ ((on d).cluster 0).cmdDone d = true ∧ ((on (cmd .copy)).cluster 0).cmdDone (cmd .copy) = false := by
  refine ⟨by decide +kernel, by decide +kernel⟩

/-- A cluster whose entry 0 maps 4,096 bytes in residency `r` with `n` units left to copy, a request standing on it. -/
def tstRes (r : Res) (n : Nat) : State :=
  let e : Extent := { tstExt .local r true 0 0 with left := n }
  { tst with cl := [(0, { tstCl with phases := [{ tstPhase with ext := [e] }], mapreqs := [⟨0, 0, some 5⟩] })] }

/-- Entries absent from the table and outside the four moves, the moves, a range half copied, a range of one module's chain that
can take a new base and one whose bytes are already there, a base outside R211, and requests of entries that exist and of one
that does not. -/
theorem witness_ResidencyService :
    let ent (s : State) (i : Nat) : Option Extent := (s.cluster 0).phases[0]? >>= (fun p => p.ext[i]?)
    let moves (x : Extent) : Bool := x.v && (x.kind == .local || x.kind == .remote)
    let left (s : State) : Nat := ((ent s 0).map (·.left)).getD 0
    let room (s : State) : Nat := (s.module 0).migbud - (s.module 0).migUsed
    let spent (n : Nat) : State := { tstRes .migrating 3000 with md := [(0, { Module.reset with migUsed := n })] }
    let z := tstRes .migrating 0
    let e0 : Extent := { tstExt .local .migrating true 0 0 with left := 0 }
    let new : Extent := { e0 with pbase := 8192 }
    (ent (tstRes .resident 0) 1 = none ∧ (ent (tstRes .resident 0) 0).map moves = some true ∧ (ent (tstRes .resident 0) 0).map (·.res) = some .resident ∧
      (ent z 0).map (·.res) = some .migrating ∧ (ent (tstRes .absent 0) 0).map (·.res) = some .absent ∧
      left z = 0 ∧ left (tstRes .migrating 3000) ≠ 0 ∧ (ent (tstRes .migrating 3) 0).map (·.len) = some 4096) ∧
    ((tstRes .migrating 3).copyable (0, 4096) = true ∧ room (spent 0x800) = 0 ∧ 0 < room (tstRes .migrating 3000) ∧
      room (tstRes .migrating 3000) < left (tstRes .migrating 3000) ∧ left (tstRes .migrating 3) ≤ room (tstRes .migrating 3)) ∧
    (z.kept = true ∧ ent z 0 = some e0 ∧ (z.cluster 0).shiftable 0 e0 (z.module 0).nmod 8192 = true ∧ new.pbaseOk (z.module 0).nmod = true ∧
      ({ e0 with pbase := 2 ^ 22 } : Extent).pbaseOk (z.module 0).nmod = false ∧ e0.moved.getD 0 = 0 ∧ e0.moved = none ∧
      e0.physical 0 (z.cluster 0) 0 ≠ new.physical 0 (z.cluster 0) 0 ∧ e0.rel = false ∧
      ({ e0 with moved := some 64 } : Extent).moved.getD 8192 ≠ 8192 ∧ (4 * (8192 + 1)) / 4 - 1 = 8192 ∧ (4 * (8192 + 1)) % 4 = 0) ∧
    ((tstRes .absent 0).cluster 0).mapreqs[0]? = some ⟨0, 0, some 5⟩ ∧ ((tstRes .absent 0).cluster 0).mapreqs[1]? = none ∧
    (((tstRes .absent 0).cluster 0).phases[3]?).isSome = false :=
  ⟨by decide +kernel, by decide +kernel, by decide +kernel, by decide +kernel⟩


/-- A block past its configuration whose node takes the tokens that stand in its ports; one token channel between cluster 0
and its neighbour to the east in a region of 1 by 2. -/
def tstNode : Node := ⟨0, 0, 0, 8, ⟨0, 0, 1, 1⟩, ⟨0, 0, 0, 0⟩, 2, .rne⟩
def tstChain : ChainNode := ⟨0, 0, 0, 8, ⟨0, 0, 1, 1⟩, ⟨0, 0, 0, 0⟩, 13, 0, 127, 127⟩
def tstTok (p : Nat) : Token := ⟨BitVec.ofNat 32 p, 0, false, 0⟩
def tstBlock (n : BNode) (ps : List Nat) : Block :=
  { addr := 0, chain := 7, trips := 2, S := 1, ii := 1, nodes := [n], consts := [], cfgEnd := 0, nextK := 1, lastAdmit := some 0
    ports := ps.map (fun p => (p, [tstTok p])), fired := [], buf := [], reserved := 0, ell := 2 ^ 24 - 1, link := none, gap := 0
    stuck := 0, outs := [], after := [], blocked := none }
def tstB (b : Block) : State := tstC (fun c => { c with block := some b, bind := some ⟨0, 0, 0, 1, 2, 0, 0⟩, tch := [(2, [(tstTok 1, 7)])] })

/-- The node stands first in a running block, its tokens at its ports, with room at its consumers. -/
def tstMet (n : BNode) (ps : List Nat) : Bool :=
  let b := tstBlock n ps
  let s := tstB b
  s.me.block == some b && b.blocked.isNone && decide (b.cfgEnd ≤ s.cyc s.cur) && b.nodes.zipIdx.find? (fun x => x.1 == n) == some (n, 0) &&
    ps.all (fun p => b.head (s.cyc s.cur) (n.portKey p) == some (tstTok p) && (tstTok p).iter == 0 && !(tstTok p).poison) &&
    b.room [tstNode.d0, tstNode.d1]

theorem witness_NodesFire :
    let key := portKey 1 0 0 1
    let wrap := { tstBlock (.plain .dadd tstNode) [1, 2] with ports := [(1, [{ tstTok 1 with iter := 65536 }]), (2, [tstTok 2])] }
    let full := { tstBlock (.plain .dadd tstNode) [1, 2] with ports := [(1, [tstTok 1]), (2, [{ tstTok 2 with iter := 1 }]), (key, List.replicate 4 (tstTok 1))] }
    let s := tstB (tstBlock (.plain .trecv tstNode) [])
    wrap.head 0 1 = some { tstTok 1 with iter := 65536 } ∧ wrap.head 0 2 = some (tstTok 2) ∧ 65536 % 2 ^ 16 = 0 % 2 ^ 16 ∧ 1 % 2 ^ 16 ≠ 0 % 2 ^ 16 ∧
    tstMet (.plain .dadd tstNode) [1, 2] = true ∧ tstMet (.plain .dsel tstNode) [1, 2, 3] = true ∧ tstMet (.plain .steer tstNode) [1, 2] = true ∧
    tstMet (.plain .merge tstNode) [1, 3] = true ∧ tstMet (.plain .dmov tstNode) [1] = true ∧ tstMet (.chain .catom tstChain) [1, 2, 3] = true ∧ tstMet (.chain .cld tstChain) [1] = true ∧
    tstMet (.plain .tsend tstNode) [1] = true ∧ full.room [tstNode.d0, tstNode.d1] = false ∧ full.head 0 2 = some { tstTok 2 with iter := 1 } ∧
    (tstBlock (.plain .dadd tstNode) [1]).head 0 2 = none ∧ s.neighbour s.cur tstNode.imm.toNat = some 1 ∧ (kget [] (s.cluster 1).tch 6).length < 4 ∧
    s.spanTakes 1 tstNode.imm.toNat = false ∧ (tst.updCluster 1 (fun c => { c with mx := { c.mx with rowsIn := [(2, 0, [])] } })).spanTakes 1 2 = true ∧
    kget [] s.me.tch tstNode.imm.toNat = (tstTok 1, 7) :: [] ∧ (tstTok 1).due ≤ s.cyc s.cur ∧
    kget 0 (tstBlock (.plain .trecv tstNode) []).fired 0 < (tstBlock (.plain .trecv tstNode) []).nextK := by decide +kernel

/-- A block of one node at code address 64: its header by R68, its node word from the encoding, or 0. -/
def tstBlockWords (w : Nat) : List Word := [0x30000000, 1, 0, 0, BitVec.ofNat 32 w, BitVec.ofNat 32 (w / 2 ^ 32)]
def tstPlaced (w : Nat) : State := tstC (fun c => { c with prog := c.prog.wrS 1 ⟨64, false⟩ }) |>.writeBytes 64
  (((tstBlockWords w).set 3 (BitVec.ofNat 32 (checkWord (tstBlockWords w) 3))).flatMap (fun w => toBytes 4 w.toNat)) false

theorem witness_BlockLife_array :
    let n : Node := ⟨0, 0, 0, 0, ⟨0, 0, 0, 0⟩, ⟨0, 0, 0, 0⟩, 0, .rne⟩
    let w := encode (.dmov n)
    let s := tstPlaced w
    let z := tstPlaced 0
    tstF.curFw = true ∧ s.curFw = false ∧ s.me.block = none ∧ (s.ctx.rdS 1).poison = false ∧ ((s.ctx.rdS 1).val.setWidth 22).toNat = 64 ∧ (8 : Nat) % 16 ≠ 0 ∧
    s.readBlock s.cur 64 = some ⟨1, 0, 1, 1, [w]⟩ ∧ s.readNodes s.cur ⟨1, 0, 1, 1, [w]⟩ [w] [] = .inl [.plain .dmov n] ∧
    tst.readBlock tst.cur 64 = none ∧ z.readBlock z.cur 64 = some ⟨1, 0, 1, 1, [0]⟩ ∧
    z.readNodes z.cur ⟨1, 0, 1, 1, [0]⟩ [0] [] = .inr 0 := by decide +kernel

/-- A block that may admit, one that may not; operations eligible, at an address with a fault and without, not eligible; gaps,
overflow, ends. -/
theorem witness_BlockLife_events :
    let b := tstBlock (.chain .cst tstChain) []
    let o : ChainOp := ⟨tstChain, .cst, 0, 0x10, false, 5, 0, false⟩
    let p := { b with buf := [o] }
    let q := { b with buf := [{ o with iter := 1 }] }
    let s := tstB b
    let ovf := { b with reserved := 64, lastAdmit := none }
    let m := s.cluster 0
    let done := { b with nextK := 2 }
    s.curFw = false ∧ s.me.block = some b ∧ b.lastAdmit = some 0 ∧ s.mayAdmit 0 b = false ∧ s.mayAdmit 0 { b with lastAdmit := none } = true ∧
    s.stopping 0 = false ∧ b.choice = none ∧ p.choice = some o ∧ s.chainHeld 0 p o = false ∧ s.chainFault 0 o (nodeTy o.node.t) = none ∧
    s.chainFault 0 { o with addr := 0x12 } (nodeTy o.node.t) = some 0x20 ∧ s.kept = true ∧
    findExtent m.table o.addr.toNat (ebytes (nodeTy o.node.t)) = some (tstE 0) ∧ (tstE 0).2.kind = .local ∧
    paCluster ((tstE 0).2.physical 0 m o.addr.toNat) = 0 ∧ paSpace ((tstE 0).2.physical 0 m o.addr.toNat) = 0 ∧
    q.gapped = true ∧ m.chainlim.toNat < ({ q with gap := 17 } : Block).gap ∧ b.gapped = false ∧ s.overflow 0 ovf = true ∧ s.overflow 0 b = false ∧
    b.trips ≠ 0 ∧ ({ b with trips := 0 } : Block).trips = 0 ∧ ({ b with blocked := some 1 } : Block).blocked ≠ none ∧ b.nextK < b.trips ∧
    done.trips ≤ done.nextK ∧ done.buf = [] ∧ s.quiet 0 done = true ∧ done.recvWait m.tch = false ∧ s.outsideWait 0 done = false ∧ done.ports = [] ∧
    ({ done with ports := [(9, [tstTok 9])] } : Block).ports = (9, [tstTok 9]) :: [] ∧
    s.quiet 0 { done with ports := [(9, [tstTok 9])] } = true ∧ (tst.cluster 0).block = none ∧
    ({ p with link := some 0 } : Block).link = some 0 ∧ ({ p with link := some 0 } : Block).choice = some o := by decide +kernel

/-- The store that follows load 0 may still fire: load 1, which names load 0, is held; once its tokens are gone, it goes. -/
theorem witness_BlockLife_held :
    let n0 : ChainNode := { tstChain with pred := 0, d0 := ⟨0, 0, 0, 0⟩ }
    let n1 : ChainNode := { tstChain with x := 1, s := 1, d0 := ⟨0, 0, 0, 0⟩ }
    let o : ChainOp := ⟨n0, .cld, 1, 0x10, false, 0, 0, false⟩
    let b := { tstBlock (.chain .cld n0) [9, 10] with nodes := [.chain .cld n0, .chain .cst n1], S := 2, nextK := 2, ell := 0, buf := [o] }
    let w := { b with ports := [] }
    (tstB b).chainHeld 0 b o = true ∧ b.choice = some o ∧ (tstB w).chainHeld 0 w o = false ∧ w.choice = some o ∧
    b.passes o = true ∧ w.passes o = false := by decide +kernel

/-- A TSEND whose neighbour's queue is full and which no program there will ever drain; one whose neighbour runs on. -/
theorem witness_BlockLife_dead :
    let b := tstBlock (.plain .tsend tstNode) [1]
    let s (p : Park) : State := (tstB b).updCluster 1 (fun c => { c with
      prog := { c.prog with park := p }, tch := [(6, List.replicate 4 (tstTok 1, 7))] })
    let end_ := { b with nextK := 2 }
    let h := s .halted
    (h.outsideWait 0 end_ = true ∧ end_.trips ≤ end_.nextK ∧ h.sendsDead 0 = true ∧ end_.choice = none ∧ end_.buf = [] ∧
    h.quiet 0 end_ = true ∧ end_.blocked = none ∧ end_.trips ≠ 0 ∧ end_.ports = (1, [tstTok 1]) :: []) ∧
    ((s .run).outsideWait 0 end_ = true ∧ (s .run).sendsDead 0 = false ∧ 64 < ({ b with reserved := 64 } : Block).reserved + b.S) := by
  refine ⟨by decide +kernel, by decide +kernel⟩

/-- A wake word and a packet ready, none ready, no valid channel; a parked context; a SEMWAIT at the program counter that waits. -/
theorem witness_WaitsAndTimeouts :
    let s := tstS ⟨0x10002, false⟩
    let i : Ich := { Ich.reset with v := true, tags := [(32, 9, true)] }
    let t (n w : Bool) : State := s.updCluster 0 (fun c => { c with
      ich := [(1, { i with narr := if n then 1 else 0 })], wake := [(0, ⟨3, w, 2⟩)] })
    let park (n : Nat) : State := (t true true).updCtx (fun c => { c with park := .waitarr 4 0x10002 (some n) })
    let wait := (tst.withFetchWord 32 0xD4610502).updCtx (fun c => { c with strokes := [(0, 65)] })
    let recv := { tstBlock (.plain .trecv tstNode) [] with stuck := 65 }
    let stuck := tstC (fun c => { c with block := some recv })
    tstF.curFw = true ∧ s.curFw = false ∧ ((0 : SReg).val = 0 ∨ (0 : SReg).val = 31) ∧ (20 : SReg).val ≠ 0 ∧ (20 : SReg).val ≠ 31 ∧
    ((tstS ⟨0, true⟩).ctx.rdS 1).poison = true ∧ ((tstS ⟨0, false⟩).ctx.rdS 1).val.setWidth 32 = (0 : Word) ∧
    ((s.ctx.rdS 1).val.setWidth 32).toNat = 0x10002 ∧ (∀ i < 16, (0x10002 : Nat).testBit i = true → (kget Ich.reset (t true true).me.ich i).v = true) ∧
    (kget Ich.reset s.me.ich 1).v = false ∧ (t false false).me.pickSource 0x10002 = none ∧ (t true false).me.pickSource 0x10002 = some 1 ∧
    (t false true).me.pickSource 0x10002 = some 16 ∧ (kget Ich.reset (t true false).me.ich 1).tags.getD 0 (0, 0, false) = (32, 9, true) ∧
    (t true true).me.last < 32 ∧ ((park 2).cluster 0).prog.park = .waitarr 4 0x10002 (some 2) ∧
    ((park 3).cluster 0).prog.park = .waitarr 4 0x10002 (some 3) ∧ ((park 3).cluster 0).prog.pend = [] ∧
    ((park 3).cluster 0).pickSource 0x10002 = some 1 ∧ wait.cur = 0 ∧ wait.me.block = none ∧
    wait.holdsNow 0 wait.curFw = [] ++ .sem 0 5 0 :: [] ∧ ((0, 65) ∈ wait.ctx.strokes ∧ (0 : Nat) < 16 ∧ wait.me.waitlim.toNat < 65) ∧
    tst.holdsNow 0 tst.curFw = [] ∧ stuck.cur = 0 ∧ stuck.me.block = some recv ∧ stuck.me.waitlim.toNat < recv.stuck ∧
    recv.recvWait stuck.me.tch = true ∧ (tstC (fun c => { c with bad := [5] })).me.bad.contains 5 = true ∧
    wait.ctx.strokes = [(0, 65)] ∧ (park 3).stopping 0 = false ∧ (∀ i < 32, (i + 31 - 0) % 32 < (1 + 31 - 0) % 32 → i ≠ 1) := by decide +kernel

/-- A fault of cluster 0's program context, and a lockhouse cluster of its die in focus. -/
def tstFault (code : Nat) : FaultRec := ⟨code, 3, 0, 2, false, false, 64, 0, 0, false⟩
def tstLock (f : FaultRec) (st : TokState) (q : List (Nat × Nat × Bool)) : State :=
  { tstP (fun c => { c with fault := some (f, st), park := .trapped }) with
    cur := 990, curFw := true, die := [(0, { Die.reset with towq := q, nextTag := 8 })] }
def tstPark (s : State) (k : Nat) (p : Park) : State := s.setCtxOf k true { s.ctxOf k true with park := p }

theorem witness_FaultTokens :
    let f := tstFault 0x24
    let s := tstLock f (.queued 7) [(7, 0, false)]
    let w := tstPark s 990 (.ftrecv 4 none)
    let t := tstLock f .travelling []
    let own := s.setCtxOf 990 true { s.ctxOf 990 true with fault := some (f, .travelling) }
    let rep := tstLock f .answered []
    let late := rep.updCluster 0 (fun c => { c with prog := { c.prog with faultQ := [f], given := [.sreg 4 ⟨9, false⟩] } })
    let gone : State := { tst with cur := 990, curFw := true, die := [(0, { Die.reset with towq := [(7, 0, false)], ghosts := [(0, false, f, some 7)] })] }
    let roam : State := { tst with die := [(0, { Die.reset with ghosts := [(0, false, f, none)] })] }
    let later : State := { t with die := [(0, { Die.reset with tokAt := (t.now, 5) })] }
    let due := (tst.updCtx (fun c => { c with faultQ := [f], park := .arwait }))
    (tst.curFw = false ∧ tstF.curFw = true ∧ isLockhouse tstF.cur = false ∧ s.curFw = true ∧ isLockhouse s.cur = true ∧
    (t.dieAt 0).towq = [] ∧ (s.dieAt 0).towq = (7, 0, false) :: [] ∧ (s.ctxOf 0 false).fault = some (f, .queued 7) ∧ f.code < 2 ^ 7 ∧
    (lockhousesOf 0).find? s.waitsToken ≠ some 990 ∧ (lockhousesOf 0).find? w.waitsToken = some 990 ∧ (w.ctxOf 990 true).park = .ftrecv 4 none ∧
    (w.dieAt (dieKey 990)).towq = (7, 0, false) :: [] ∧ (t.ctxOf 0 false).fault = some (f, .travelling) ∧ (t.ctxOf 0 true).fault = none) ∧
    ((t.dieAt (dieKey 0)).towq.length < 64 ∧ (t.dieAt (dieKey 0)).ghosts.all (fun x => x.2.2.2.isSome) = true ∧
    ((later.dieAt (dieKey 0)).tokAt.1 = later.now ∧ 2 * 0 + 0 < (later.dieAt (dieKey 0)).tokAt.2) ∧ (t.dieAt (dieKey 0)).tokAt.2 ≤ 2 * 0 + 0 ∧
    s.ghost 0 7 = none ∧ gone.ghost 0 7 = some (0, false, f, some 7) ∧ (w.ctxOf 990 true).pend = [] ∧ roam.mayEnter 0 false = true ∧
    (roam.dieAt (dieKey 0)).ghosts.find? (fun x => x.1 == 0 && x.2.1 == false && x.2.2.2.isNone) = some (0, false, f, none) ∧
    (roam.dieAt (dieKey 0)).ghosts.all (fun x => x.1 != 0 || x.2.1 == false) = true) ∧
    64 ≤ ((tstLock f .travelling (List.replicate 64 (1, 2, false))).dieAt (dieKey 0)).towq.length ∧
    (own.ctxOf 990 true).fault = some (f, .travelling) ∧ (own.ctxOf 990 false).fault = none ∧ isLockhouse 990 = true ∧
    (rep.ctxOf 0 false).fault = some (f, .answered) ∧ (rep.ctxOf 0 true).fault = none ∧ (rep.ctxOf 0 false).faultQ = [] ∧
    (rep.cluster 0).lost false = none ∧ (rep.ctxOf 0 false).pend = [] ∧ (late.ctxOf 0 false).pend = [] ∧
    (late.ctxOf 0 false).faultQ = f :: [] ∧ (late.ctxOf 0 false).given ≠ [] ∧ ((late.updCluster 0 (fun c => { c with prog := c.prog.push (mkPend 5 (.sreg 4 ⟨1, false⟩)) })).ctxOf 0 false).pend ≠ [] ∧ (tst.ctxOf 0 false).fault = none ∧ due.asyncDue 0 false = true ∧ (due.ctxOf 0 false).faultQ = f :: [] ∧
    (due.ctxOf 0 true).faultQ = [] ∧ tst.asyncDue 0 false = false ∧ tst.asyncDue 0 true = false :=
  ⟨by decide +kernel, by decide +kernel, by decide +kernel⟩

/-- The repair word for TAG 7 of cluster 0, by kinds; a fault whose graph stands at code address 64. -/
theorem witness_Repairs :
    let f := tstFault 0x24
    let s := tstLock f (.queued 7) [(7, 0, false)]
    let word (kind : Nat) : DWord := BitVec.ofNat 64 (7 * 2 ^ 48 + kind * 2 ^ 8)
    let r (x : SVal) : State := s.setCtxOf 990 true ((s.ctxOf 990 true).wrS 1 x)
    let m : Msg := ⟨7, 990, .slot true 0, 1, .write 0 [], .out, 0, 0, 0, none, 0, [], [], none, false, [], none, 2, 0, false⟩
    let g (code : Nat) : State := { tstG with cl := [(0, { tstCl with prog := { Ctx.reset with fault := some ({ tstFault code with info := 0 }, .queued 7) } })] }
    (s.curFw = true ∧ isLockhouse s.cur = true ∧ ((r ⟨0, true⟩).ctx.rdS 1).poison = true ∧ ((r ⟨word 0, false⟩).ctx.rdS 1).poison = false ∧
    ((r ⟨word 0, false⟩).ctx.rdS 1).val.extractLsb' 44 4 = 0 ∧ (word 5).extractLsb' 11 13 = 0 ∧ (word 5).getLsbD 7 = false ∧
    ((word 5).extractLsb' 8 3).toNat = 5 ∧ ¬ (((word 6).extractLsb' 8 3).toNat < 6) ∧ s.ownWrites s.cur true ++ s.releaseDeps s.cur .die = [] ∧
    ({ s with net := [m] } : State).ownWrites s.cur true ++ ({ s with net := [m] } : State).releaseDeps s.cur .die ≠ [] ∧ s.named 0 (word 1) = some (0, false, f) ∧ s.named 0 0 = none ∧
    (s.ctxOf 0 false).fault = some (f, .queued 7) ∧ f.hdr = false ∧ (let h := tstLock { f with hdr := true } (.queued 7) [(7, 0, false)]
      h.named 0 (word 1) = some (0, false, { f with hdr := true }))) ∧
    (s.taggedOn 0 7 = some (0, false, f, .queued 7) ∧ dieKey 0 = 0 ∧ (s.ctxOf 0 false).faultAge < 256 ∧
    256 ≤ ((s.updCluster 0 (fun c => { c with prog := { c.prog with faultAge := 256 } })).ctxOf 0 false).faultAge ∧ f.code ≠ 0x68 ∧
    (g 0x68).taggedOn 0 7 = some (0, false, { tstFault 0x68 with info := 0 }, .queued 7) ∧ ((g 0x68).cluster 0).cotAddr 0 = some 64 ∧
    ((g 0x68).cluster 0).cotAddr 1 = none ∧ ((g 0x68).loadGraph 0 false 64 (((g 0x68).sparedXops 0).filter (fun m => m != 0))).isSome = true) ∧
    (s.coreOps 0 = [] ∧ (g 0x68).coreOps 0 = [] ∧ ({ tst with net := [{ m with src := 0, by_ := .slot false 0 }], nextId := 8 } : State).coreOps 0 ≠ [] ∧
    s.ghost 0 7 = none ∧ (∀ h ∈ ((g 0x68).ctxOf 0 false).plane, h.n ≠ 0) ∧ ({ s with die := [(0, { Die.reset with ghosts := [(0, false, { f with code := 0x68 }, some 7)] })] } : State).ghost 0 7 = some (0, false, { f with code := 0x68 }, some 7) ∧ ({ s with die := [(0, { Die.reset with ghosts := [(0, false, f, some 7)] })] } : State).ghost 0 7 = some (0, false, f, some 7) ∧
    s.policy 0 f.code = 4 ∧ (s.updCluster 990 (fun c => { c with lhpol := [(0x24, 0)] })).policy 0 f.code = 0 ∧ s.taggedOn 0 6 = none ∧
    (5 * 2 ^ 19 + (2 ^ 19 - 1) ∈ ({ s with pmem := [5 * 2 ^ 19 + (2 ^ 19 - 1)] } : State).pmem) ∧ 5 * 2 ^ 19 ∉ s.pmem) :=
  ⟨by decide +kernel, by decide +kernel, by decide +kernel⟩

/-- The state that `exec` answers. -/
def tstRun (i : Instr) (s : State) : State := match exec i s with
  | .next t => t
  | _ => s

/-- A word of SE 2 that cannot be rebuilt: its mark, and UE of SESTAT 2 (09 R199, Table 9.5). -/
theorem test_word_lost :
    let t := tstRun (.registerSoftError 0 false 105 (2 * 2 ^ 14 + 5)) { State.reset with cl := [(0, tstCl)] }
    t.pmem = [32773] ∧ kget 0 (t.cluster 0).sestat 2 = 0x0000000100000000#64 := by decide +kernel

/-- A corrected word: CE stops at 0xFFFF (Table 9.5). -/
theorem test_word_corrected :
    let t := tstRun (.registerSoftError 0 false 104 7) { State.reset with cl := [(0, { tstCl with sestat := [(0, 0xFFFF000000000010#64)] })] }
    t.pmem = [] ∧ kget 0 (t.cluster 0).sestat 0 = 0xFFFF000000000010#64 := by decide +kernel

/-- A message of cluster 0 to cluster 1, or to the first cluster of module 1, and two modules on one link. -/
def tstMsg (dst : Nat) (k : MsgKind) (p : MPhase) : Msg := ⟨7, 0, .slot false 0, dst, k, p, 0, 0, 0, none, 0, [], [], none, false, [], none, 2, 0, false⟩
def tstLink (m : Nat) : Module := { Module.reset with
  links := [(3, { Link.reset with up := true, partner := 1 - m, plink := 3, heard := true })], routes := [(1 - m, [3])], origin := true }
def tstNet (m : Msg) : State := { tst with net := [m], nextId := 8, wires := [(3, 99), (99, 3)], md := [(0, tstLink 0), (1, tstLink 1)] }

/-- The message stands at its destination and may be performed. -/
def tstThere (k : MsgKind) : Bool :=
  let m := tstMsg 1 k .out
  decide ((tstNet m).msg 7 = some m) && (tstNet m).msgReady m && (tstNet m).kept
def tstAway (k : MsgKind) (p : MPhase) : Msg := tstMsg 4096 k p

theorem witness_Messages_performed :
    let pa := clusterBase 1 + 8
    let w := tstMsg 1 (.write pa [(1, false)]) .out
    let s := tstNet w
    let ch (e : Word) : State := (tstNet w).updCluster 1 (fun c => { c with ich := [(2, { Ich.reset with v := true, expseq := e })] })
    tstThere (.write pa [(1, false)]) = true ∧ paSpace pa = 0 ∧ s.msgAllowed w pa true = true ∧
    (s.updCluster 1 (fun c => { c with acctab := 0 })).msgAllowed { w with src := 4096 } pa true = false ∧
    tstThere (.atom pa .add .i32 1 0 false) = true ∧ s.poisoned pa 4 = false ∧ ({ s with pmem := [pa / 8] } : State).poisoned pa 4 = true ∧
    tstThere (.read pa 4) = true ∧ s.tileBusy pa = false ∧ s.msgAllowed w pa false = true ∧ tstThere (.atom pa .add .i32 1 0 true) = true ∧
    tstThere (.sigadd pa 1) = true ∧ s.poisoned pa 8 = false ∧ tstThere (.packet 2 0 [] false) = true ∧
    (kget Ich.reset (s.cluster 1).ich 2).v = false ∧ (kget Ich.reset ((ch 0).cluster 1).ich 2).v = true ∧
    (kget Ich.reset ((ch 0).cluster 1).ich 2).expseq = 0 ∧ (1 ≤ ((4 : Word) - 0).toNat ∧ ((4 : Word) - 0).toNat ≤ 2 ^ 31) ∧
    ((ch 0).updCluster 1 (fun c => { c with bad := [5] }) |>.cluster 1).bad.contains 5 = true ∧ tstThere (.vread 4 [[(0, pa), (1, pa + 4)], [(2, pa + 8)]] []) = true ∧
    tstThere (.vread 4 [[(0, pa)]] []) = true ∧ 2 ^ 31 < ((0 : Word) - 1).toNat ∧ tstThere (.freeRet 2 0) = true ∧ s.msgReady (tstAway (.read 8 4) .out) = false := by decide +kernel

theorem witness_Messages_answered :
    let back := tstMsg 1 (.read 8 4) (.back (marked 4 5 false))
    let ack := tstMsg 1 (.write 8 [(1, false)]) (.back [])
    let pend : Pend := ⟨4, .sreg 3 ⟨0, false⟩, [(7, 0)], .i32, some .z32, false, false, none, false, false⟩
    let t := (tstNet back).updCtx (fun c => { c with pend := [pend] })
    (tstMsg 1 (.read 8 4) .out).phase.performed = false ∧ (tstNet back).msg 7 = some back ∧ back.phase.performed = true ∧
    isReadKind back.kind = true ∧ back.loc = modOf back.src ∧ back.deny = false ∧ ack.phase.performed = true ∧ isReadKind ack.kind = false ∧
    ack.loc = modOf ack.src ∧ ack.deny = false ∧ pend ∈ (t.ctxOf 0 false).pend ∧ pend.waits = [(7, 0)] := by decide +kernel

theorem witness_Messages_forwarded :
    let r := tstAway (.read 8 4) .out
    let w := tstAway (.write 8 [(1, false)]) .out
    let s := tstNet r
    let fix := { tstAway (.packet 1 0 [] false) .out with route := [3] }
    let gone : State := { s with md := [(0, { Module.reset with failed := [1] })] }
    let full := s.updLink 0 3 (fun k => { k with use := k.use.map (fun _ => 2000) })
    let many := { s with net := w :: List.replicate 256 (tstAway (.write 8 [(1, false)]) (.back [])) }
    let first (s : State) (m : Msg) : Bool := decide (0 < m.hop) || !s.net.any (fun x => x.loc == m.loc && decide (0 < x.hop) && x.vc == m.vc && s.canCross x)
    let limit (s : State) (m : Msg) : Prop := m.loc = modOf m.src ∧ m.phase.performed = false ∧ m.posted = true ∧ m.begun = false ∧ 256 ≤ s.postedOut m.src
    let dead (s : State) (m : Msg) : Prop := (s.module m.loc).failed.contains m.goal = true ∧ s.upTo m.loc m.goal = [] ∧ m.fixed = false
    let bud (s : State) (m : Msg) : Nat := (s.link 0 3).budOf m.vc - (s.link 0 3).useOf m.vc
    ((tstMsg 1 (.read 8 4) .out).loc = (tstMsg 1 (.read 8 4) .out).goal ∧ r.loc ≠ r.goal ∧ r.phase ≠ .held ∧ first s r = true ∧ ¬ dead s r ∧ ¬ limit s r ∧ first { s with net := [{ r with hop := 1 }] } { r with hop := 1 } = true ∧
      first many w = true ∧ ¬ dead many w ∧ limit many w) ∧
    ((s.link 0 3).up = true ∧ s.linkTaken r 3 = false ∧ r.vc < (s.link 0 3).use.length ∧ s.partner 0 3 = some 99 ∧
      r.flits ≤ bud s r ∧ bud full r = 0 ∧ (full.link 0 3).up = true ∧ bud s r < 1000000 ∧ s.occupied 0 3 r.vc r.hop = 0 ∧
      fix.fixed = true ∧ fix.route.head? = some (96 * fix.loc + 3) ∧ fix.via = none ∧ r.fixed = false ∧ r.via = none ∧
      (s.upTo 0 1).filter (fun j => (s.link 0 j).budOf r.vc != 0) = [3]) ∧
    (dead gone r ∧ first gone r = true ∧ dead gone w ∧ w.phase.performed = false ∧ dead gone { w with phase := .back [], src := 4096 } ∧
      (tst.upTo 0 1) = [] ∧ (tst.module 0).failed.contains 1 = false) :=
  ⟨by decide +kernel, by decide +kernel, by decide +kernel⟩

/-- What rests on the free buffer sizes: room beyond an empty buffer, a module that takes a request, a forwarded flit that goes
first. -/
theorem witness_Messages_room :
    let r := tstAway (.read 8 4) .out
    let s := tstNet r
    let g := { r with id := 9, hop := 1 }
    let u : State := { s with net := [r, g] }
    let room (s : State) (m : Msg) : Nat := min ((s.link 0 3).budOf m.vc - (s.link 0 3).useOf m.vc) (s.bufferFree 0 3 m.vc m.hop)
    0 < room s r ∧ r.flits ≤ room s r ∧ room s r < 1000000 ∧ s.accepts r 1 = true ∧
    u.net.any (fun x => x.loc == r.loc && decide (0 < x.hop) && x.vc == r.vc && u.canCross x) = true := by
  intro r s g u room
  have ho : s.occupied 0 3 r.vc r.hop = 0 := by decide +kernel
  have hu : u.occupied 0 3 g.vc g.hop = 0 := by decide +kernel
  have hb : 1 ≤ (s.link 0 3).budOf r.vc - (s.link 0 3).useOf r.vc ∧ (s.link 0 3).budOf r.vc - (s.link 0 3).useOf r.vc < 1000000 := by
    decide +kernel
  have hf : r.flits = 1 := by decide +kernel
  have free : ∀ (t : State) (v h : Nat), t.occupied 0 3 v h = 0 → 65 ≤ t.bufferFree 0 3 v h := by
    intro t v h e; simp only [State.bufferFree, e]; omega
  have takes : ∀ (t : State) (m : Msg), m.begun = false → isReadKind m.kind = true → m.answerFlits ≤ 65 →
      t.accepted 1 (fun x => isReadKind x.kind) = [] → (isWriteKind m.kind && !isReadKind m.kind) = false → t.accepts m 1 = true := by
    intro t m h1 h2 h3 h4 h5
    simp only [State.accepts, h2, h4]; simp; omega
  have hn : 65 ≤ s.bufferFree 0 3 r.vc r.hop := free s _ _ ho
  have e : room s r = min ((s.link 0 3).budOf r.vc - (s.link 0 3).useOf r.vc) (s.bufferFree 0 3 r.vc r.hop) := rfl
  refine ⟨by omega, by omega, by omega, takes s r (by decide +kernel) (by decide) (by decide +kernel) (by decide +kernel) (by decide +kernel), ?_⟩
  have hc : u.canCross g = true := by
    have h1 : u.nextLink g = some 3 := by decide +kernel
    have h2 : u.partner g.loc 3 = some 99 := by decide +kernel
    have h3 : 65 ≤ u.bufferFree g.loc 3 g.vc g.hop := free u _ _ hu
    have h4 : u.accepts g (99 / 96) = true :=
      takes u g (by decide +kernel) (by decide) (by decide +kernel) (by decide +kernel) (by decide +kernel)
    have h5 : (g.loc != g.goal && (g.phase != .held && g.phase != .dead && (g.begun || !g.posted || g.phase.performed || g.loc != modOf g.src || decide (u.postedOut g.src < 256)) &&
      u.roomOn g.loc 3 g.vc && !u.linkTaken g 3)) = true := by decide +kernel
    have h6 : decide (0 < u.bufferFree g.loc 3 g.vc g.hop) = true := by simp; omega
    simp only [Bool.and_eq_true] at h5
    simp only [State.canCross, h1, h2, h4, h6, h5.1, h5.2.1.1, h5.2.1.2, h5.2.2, Option.map_some, Option.getD_some, Bool.and_self, Bool.or_true]
  rw [List.any_eq_true]
  exact ⟨g, by simp [u], by rw [hc]; decide +kernel⟩

/-- A legal budget and one over 1,616; links up and down; modules with and without a number, a root and a time origin. -/
theorem witness_LinksAndStrokes :
    let s := tstNet (tstMsg 1 (.read 0 4) .out)
    let down := s.updLink 0 3 (fun k => { k with up := false })
    let plain : State := { down with md := down.md.map (fun x => (x.1, { x.2 with routes := [] })) }
    let beacon (s : State) : State := s.updLink 0 3 (fun k => { k with heard := true, miss := 0, hops := (s.module 1).rootHops })
    let early (f : Module → Module) : State := { s with md := [(0, f (tstLink 0)), (1, { tstLink 1 with root := true })] }
    let field (v : DWord) (i : Nat) : Nat := (v.extractLsb' (11 * i) 11).toNat
    let v : DWord := BitVec.ofNat 64 (16 * 2 ^ 11 + 16 * 2 ^ 22 + 16 * 2 ^ 33)
    let w : DWord := v + 2047
    ((field v 0 + field v 1 + field v 2 + field v 3 + field v 4 ≤ 1616 ∧ 16 ≤ field v 1 ∧ 16 ≤ field v 2 ∧ 16 ≤ field v 3) ∧
      ¬ (field w 0 + field w 1 + field w 2 + field w 3 + field w 4 ≤ 1616) ∧ (s.link 0 3).up = true ∧ (down.link 0 3).up = false ∧
      s.partner 0 4 = none ∧ down.partner 0 3 = some 99 ∧ (down.module 0).power = .on ∧ (down.module (99 / 96)).power = .on ∧
      (99 / 96, 99 % 96) ≠ (0, 3)) ∧
    (down.booted 0 = true ∧ down.booted 1 = true ∧ down.partner 1 3 = some 3 ∧ plain.partner 0 3 = some 99 ∧ (plain.link 0 3).up = false ∧
      plain.booted 0 = false) ∧
    ((s.module 0).root = false ∧ ((beacon (early (fun d => { d with links := (2, { Link.reset with up := true }) :: d.links }))).module 0).aligned ≠ some 3 ∧ ((beacon (early id)).module 0).aligned = some 3 ∧ ((early id).module 0).origin = true ∧
      (let fresh := early (fun d => { d with origin := false })
       fresh.booted 0 = true ∧ (fresh.module 0).origin = false ∧ (fresh.module 1).origin = true ∧ ((beacon fresh).module 0).aligned = some 3) ∧
      (early (fun d => { d with origin := false, routes := [] })).booted 0 = false ∧ (s.md.find? (fun x => x.2.root)).map (·.1) = none ∧
      ((early id).md.find? (fun x => x.2.root)).map (·.1) = some 1 ∧ (s.cluster 0).acctab.getLsbD 37 = true ∧ (s.module 0).power = .on ∧
      ((tstC (fun c => { c with acctab := 0 })).cluster 0).acctab.getLsbD 37 = false) :=
  ⟨by decide +kernel, by decide +kernel, by decide +kernel⟩

/-- A packet of eight words. -/
def tstPkt (ws : List DWord) (st : PSt) : Pkt := ⟨0, ws, st, true⟩
def tstQ (f : Queue → Queue) : State := { tst with md := [(0, { Module.reset with queues := [(2, f { Queue.reset with en := true, log2n := 3, base := 0x1000 })] })] }
def tstWin (p : Pkt) : State := tstQ (fun q => { q with window := [p], write := 1 })

theorem witness_Queues :
    let q (s : State) : Queue := s.queue 0 2
    let legal (v : DWord) : Bool := decide ((v.extractLsb' 55 2) ≠ 3) && decide ((v.extractLsb' 48 4).toNat ≤ 12) && v.extractLsb' 0 6 == 0 &&
      v.extractLsb' 45 3 == 0 && decide ((v.extractLsb' 34 11).toNat = 0)
    let s := tstQ (fun q => { q with write := 1 })
    let bad := s.writeBytes 0x1000 [0x0F] false
    let good := s.writeBytes 0x1000 [0x02] false
    let new (t : State) : Pkt := ⟨0, t.ringWords (q t) 0, .pending, false⟩
    let sigs (p : Pkt) : List Nat := ([3, 4, 5, 6].map p.w).filter (fun a => a != 0)
    let launch := tstPkt [1, 0, 0, 0x400, 0, 0, 0, 0] .pending
    let wait := tstPkt [1, 0x10, 0, 0x400, 0, 0, 0, 0] .pending
    let bar := tstPkt [2, 0, 0, 0x10, 0, 0, 0, 0] .pending
    let copy := tstPkt [3, 0, 0, 0x100, 0x200, 16, 0, 0] .ready
    let done := tstPkt [3, 0, 0x18, 0x100, 0x200, 16, 0, 0] .finished
    let exams (p : Pkt) : Bool := (q (tstWin p)).window.filter (fun p => p.exam && p.st == .pending) == [p]
    legal 0x8000000000001000 = true ∧ legal 1 = false ∧ (q s).en = true ∧ (q tst).en = false ∧ (q s).dev = false ∧
    (q (tstQ (fun q => { q with dev := true }))).dev = true ∧ ((2 + 2 ^ 32 - (q s).write) % 2 ^ 32 ≤ 2 ^ (q s).log2n ∧
    (2 + 2 ^ 32 - (q s).read) % 2 ^ 32 ≤ 2 ^ (q s).log2n) ∧ ¬ ((10 + 2 ^ 32 - (q s).write) % 2 ^ 32 ≤ 2 ^ (q s).log2n) ∧
    ((q s).window.filter (fun p => p.st != .done)).length < 8 ∧ ((q s).read + (q s).window.length) % 2 ^ 32 = 0 ∧ 0 ≠ (q s).write ∧
    (new good).ok 0 = true ∧ (new bad).ok 0 = false ∧ (new bad).bar = false ∧ exams launch = true ∧ exams wait = true ∧ exams bar = true ∧
    launch.kind = 1 ∧ launch.w 1 = 0 ∧ bar.kind = 2 ∧ sigs bar = [0x10] ∧ (tstWin bar).readWord 0x10 = 0 ∧ wait.kind = 1 ∧ copy.kind = 3 ∧
    ((tstWin bar).writeBytes 0x10 [1] false).readWord 0x10 ≠ 0 ∧ 0 ≤ (((tstWin bar).writeBytes 0x10 [1] false).readWord 0x10).toInt ∧
    (((tstWin bar).writeBytes 0x17 [0x80] false).readWord 0x10).toInt < 0 ∧ bar.bar = false ∧
    (0 : Int) < (((tstWin wait).writeBytes 0x10 [1] false).readWord 0x10).toInt ∧ (q s).window.filter (fun p => p.exam && p.st == .pending) = [] ∧ (q s).window.filter Pkt.copies = [] ∧ (q s).window.filter Pkt.completes = [] ∧
    (q (tstWin copy)).window.filter Pkt.copies = [copy] ∧ (tstWin copy).kept = true ∧
    inModule 0 (copy.w 3) 1 = true ∧ inModule 0 (copy.w 4 + 15) 1 = true ∧ inModule 0 (copy.w 4) 1 = true ∧ inModule 0 (copy.w 3 + 15) 1 = true ∧ 0 < copy.w 5 ∧ copy.w 5 = min (copy.w 5) (64 - copy.w 3 % 64) ∧
    (q (tstWin done)).window.filter Pkt.completes = [done] ∧ done.w 2 < 2 ^ 45 ∧ done.kind ≠ 4 ∧ done.w 2 ≠ 0 ∧ done.w 2 % 8 = 0 ∧ (tstWin done).poisoned (done.w 2) 8 = false ∧
    (kget 0x3FF (s.module 0).qacc 2).testBit 5 = true ∧ (s.module 0).power = .on ∧ (kget 0x3FF ({ Module.reset with qacc := [(2, 0)] } : Module).qacc 2).testBit 5 = false ∧
    ((q (tstWin wait)).window.map (·.idx)).Nodup := by
  decide +kernel

/-- A launch on cluster 1 alone, described by 64 KiB of zeros in cluster 0; a cox that runs it there. -/
def tstLaunch (tr : Option Desc) : Launch := ⟨2, 0, 0, 0, 0, 0x10000, 0, 0, 1, 1, 1, 0, 0, tr, none, false⟩
def tstSel (l : Option Launch) : State := { tst with die := [(0, { Die.reset with sel := l })], md := [(0, { Module.reset with ready := [tstLaunch none] })] }
def tstDesc : Desc := ⟨[{ tstPhase with taken := some 0, other := none }], 1, 0, []⟩
def tstCox (x : Cox) (e : PhEnd) (done : Bool) : State := { tst with
  die := [(0, { Die.reset with coxes := [(5, x)] })]
  cl := [(0, tstCl), (1, { tstCl with bind := some ⟨5, 0, 1, 1, 1, 0, 2⟩, done := done, phases := tstDesc.phases, prog := { Ctx.reset with park := .phase e } })] }

theorem witness_Launches_begin :
    let l := tstLaunch none
    let t := tstLaunch (some tstDesc)
    let s := tstSel (some t)
    ((tstSel (some l)).dieAt 0).sel.isSome = true ∧ ((tstSel none).dieAt 0).sel.isSome = false ∧ ((tstSel none).module 0).fwBusy = false ∧
    ((tstSel none).module 0).best 0 = some l ∧ l ∈ ((tstSel none).module 0).ready ∧ l.die = 0 % 4 ∧
    ((tstSel (some l)).translate 0 l).isLeft = true ∧ (((tstSel (some l)).writeBytes 0x10007 [1] false).translate 0 l).isRight = true ∧
    (s.dieAt 0).sel = some t ∧ t.tr = some tstDesc ∧ t.members 0 = [1] ∧ (s.cluster 1).fenced = false ∧ (s.cluster 1).bind = none ∧
    (s.cluster 1).mx.queue = [] ∧ t.saved = none ∧ (s.dieAt 0).freeCox = some 0 ∧ (wheelAllot tstDesc.scpos (s.wheelUsed 0) [1]).isSome = true ∧
    tstDesc.phases[0]?.isSome = true ∧ ((s.updCluster 1 (fun c => { c with fenced := true })).cluster 1).fenced = true ∧
    t.key = 2 ∧ (s.module 0).fwBusy = false ∧ ((tstSel none).queue 0 2).prio = 0 := by decide +kernel

theorem witness_Launches_run :
    let x : Cox := ⟨tstLaunch none, 0, [1], none, none, .run⟩
    let p := tstCox x (.phend .any true) true
    let h := tstCox x .halt true
    let w := tstCox x (.phend .any true) false
    let two : State := { p with die := [(0, { Die.reset with coxes := [(5, { x with members := [1, 2] })] })],
                                cl := p.cl ++ [(2, { tstCl with done := true, prog := { Ctx.reset with park := .phase (.bsel 3) } })] }
    let over_ := tstCox { x with phase := 8 } .halt true
    (w.cluster 1).prog.park = .phase (.phend .any true) ∧ (w.cluster 1).bind = some ⟨5, 0, 1, 1, 1, 0, 2⟩ ∧ (w.cluster 1).done = false ∧ w.drained 1 = true ∧
    (p.cluster 1).done = true ∧ (p.dieAt 0).coxes.find? (fun y => y.1 == 4) = none ∧ (p.dieAt 0).coxes.find? (fun y => y.1 == 5) = some (5, x) ∧
    x.fail = none ∧ x.phase < 8 ∧ x.mode = .run ∧ x.members.all (fun k => (p.cluster k).done) = true ∧ h.phEnd 1 = .halt ∧
    p.phEnd 1 = .phend .any true ∧ x.members.Nodup ∧ x.members.head?.bind (fun k => (p.cluster k).cur) = some { tstPhase with taken := some 0, other := none } ∧
    ((p.cluster 1).phases[0]?).isSome = true ∧ two.phEnd 1 = .phend .any true ∧ two.phEnd 2 = .bsel 3 ∧ (two.cluster 2).done = true ∧
    (over_.dieAt 0).coxes.find? (fun y => y.1 == 5) = some (5, { x with phase := 8 }) ∧ (over_.cluster 1).done = true ∧
    x.launch.moved = false ∧ ({ x.launch with moved := true } : Launch).moved = true := by decide +kernel

/-- The firmware context of cluster 0 with an address in s1, a save area of cluster 1 of layout 1 and length 64 KiB. -/
def tstArea : State :=
  let s : State := { tstF with cl := [(0, { tstCl with fw := Ctx.reset.wrS 1 ⟨0x400000, false⟩, bind := some ⟨5, 0, 0, 1, 1, 0, 2⟩ })] }
  { s.writeBytes 0x400000 [1, 0, 0, 0, 0, 0, 1, 0] false with
    saves := [(0x400000, { tstCl with bind := some ⟨5, 0, 0, 1, 1, 0, 2⟩ })]
    die := [(0, { Die.reset with coxes := [(5, ⟨tstLaunch none, 0, [0], none, none, .loading []⟩)] })] }

theorem witness_ContextsMoved_areas :
    let s := tstArea
    let f (x : SVal) : State := tstF.updCtx (fun c => c.wrS 1 x)
    let h := s.readWord 0x400000
    s.curFw = true ∧ ((f ⟨0, true⟩).ctx.rdS 1).poison = true ∧ (s.ctx.rdS 1) = ⟨0x400000, false⟩ ∧ 2 ^ 45 ≤ (2 ^ 45 : Nat) ∧
    (8 : Nat) % 65536 ≠ 0 ∧ 0x400000 / 2 ^ 34 = s.cur / 4096 ∧ 0x400000 % 65536 = 0 ∧ (State.reset.me).bind = none ∧ s.me.bind ≠ none ∧
    (h.setWidth 16).toNat = (s.module 0).active ∧ (h.extractLsb' 32 32).toNat = 65536 ∧ ¬ (((s.readWord 0x410000).setWidth 16).toNat = (s.module 0).active) ∧
    s.rebound s.cur 0x400000 = true ∧ ({ s with die := [] } : State).rebound s.cur 0x400000 = false := by decide +kernel

/-- A cox of a launch of class 2 on cluster 1 in each mode, beside a selected launch that overlaps it. -/
theorem witness_ContextsMoved_launches :
    let v : Launch := { tstLaunch none with pclass := 2 }
    let x (m : CoxMode) : Cox := ⟨v, 0, [1], none, none, m⟩
    let n : Launch := tstLaunch (some tstDesc)
    let s (m : CoxMode) : State := { tst with
      die := [(0, { Die.reset with coxes := [(5, x m)], sel := some n })]
      cl := [(0, tstCl), (1, { tstCl with bind := some ⟨5, 0, 1, 1, 1, 0, 2⟩, savearea := [(2, 0x400000)] })] }
    let sv : Launch := { n with saved := some ⟨[1], 0, [(1, 5, 6)]⟩ }
    let r := tstSel (some sv)
    let find (t : State) (i : Nat) : Option (Nat × Cox) := (t.dieAt 0).coxes.find? (fun z => z.1 == i)
    find (s .run) 4 = none ∧ find (s .run) 5 = some (5, x .run) ∧ (tst.dieAt 0).sel = none ∧ ((s .run).dieAt 0).sel = some n ∧ n.tr.isSome = true ∧
    ((s .run).module 0).fwBusy = false ∧ overlaps v n = true ∧ (v.pclass = 2 ∧ (x .run).fail = none ∧ (x .run).phase < 8) ∧
    (((s .run).cluster 1).det = false ∧ ((s .run).cluster 1).prog.fault = none ∧ kget 0 ((s .run).cluster 1).savearea v.q ≠ 0 ∧ ((s .run).cluster 1).fw.fault = none ∧ (s .run).saves = [] ∧ (((s .run).dieAt 0).coxes.map (·.1)).Nodup) ∧
    find (s (.saving [1])) 5 = some (5, x (.saving [1])) ∧ find (s (.saving [])) 5 = some (5, x (.saving [])) ∧
    find (s (.loading [])) 5 = some (5, x (.loading [])) ∧ find (s (.loading [1])) 5 = some (5, x (.loading [1])) ∧
    (r.dieAt 0).coxes.find? (fun z => z.1 == 0) = none ∧ (r.dieAt 0).sel = some sv ∧ sv.tr = some tstDesc ∧ (r.dieAt 0).freeCox = some 0 ∧
    ((r.cluster 1).bind = none ∧ (r.cluster 1).fenced = false) ∧ ((r.updCluster 1 (fun c => { c with fenced := true })).cluster 1).fenced = true ∧ (wheelAllot tstDesc.scpos (r.wheelUsed 0) [1]).isSome = true := by decide +kernel

/-- A WAITARR at the program counter of a bound cluster whose checkpoint interval has passed; the cluster held there, and held
mistakenly; a checkpoint on its way, over budget, sent off and acknowledged. -/
theorem witness_ContextsMoved_checkpoints :
    let v : Launch := tstLaunch none
    let x : Cox := ⟨v, 0, [0], none, none, .run⟩
    let c := (tst.writeBytes 0 [0x00, 0x42, 0, 0, 0, 0, 0x81, 0x3C] false).updCluster 0 (fun c => { c with
      bind := some ⟨5, 0, 0, 1, 1, 0, v.key⟩, ckpt := 1, staging := 0x10000, buddy := some 1, prog := { c.prog with park := .run } })
    let due : State := { c with md := [(0, { Module.reset with gts := 8192 })], die := [(0, { Die.reset with coxes := [(5, x)] })] }
    let held := due.updCluster 0 (fun c => c.holdCkpt)
    let busy := held.updCluster 0 (fun c => { c with prog := c.prog.push (mkPend 5 (.sreg 3 ⟨0, false⟩)) })
    let left := held.updCluster 0 (fun c => { c with prog := { c.prog with entry := 0 } })
    let img (n : Nat) : Image := ⟨[], [(0x200, 7)], [], tstCl, v, 1, n⟩
    let st (n : Nat) : State := { tst with staged := [(0, img n)] }
    let known : State := { held with images := [(0, img 0)] }
    let sent : State := { st 0 with net := [{ tstMsg 4096 (.ckpt 64) .out with src := 0 }], nextId := 8 }
    let poor : State := { st 3000 with md := [(0, { Module.reset with migUsed := Module.reset.migbud })] }
    (c.checkpointDue 0 = false ∧ due.checkpointDue 0 = true ∧ (due.cluster 0).ckptHold = false ∧ (held.cluster 0).ckptHold = true ∧
      (held.cluster 0).prog.park = .run ∧ (held.cluster 0).prog.entry = 13 ∧ held.progStopped 0 = true ∧ busy.progStopped 0 = false ∧
      (left.cluster 0).prog.entry ≠ 13 ∧ held.coxOf 0 = some (5, x) ∧ (held.cluster 0).buddy = some 1) ∧
    (held.kept = true ∧ clusterBase 0 ≤ (held.cluster 0).staging ∧ (held.cluster 0).staging + 65536 ≤ clusterBase 0 + 2 ^ 22 ∧
      (held.cluster 0).mx.fifoA.length ≤ 4096 ∧ (held.cluster 0).mx.tiles = [] ∧ (held.cluster 0).streams = [] ∧ (held.cluster 0).mx.scale.length ≤ 16 ∧
      (held.cluster 0).mx.cols = []) ∧
    (known.images.find? (fun z => z.1 == 0) = some (0, img 0) ∧ ((known.cluster 0).bind.map (·.key)) = some (img 0).launch.key ∧
      (known.cluster 0).drlOvf = false ∧ (known.cluster 0).windows = [] ∧ (known.cluster 0).drlNew = [] ∧ held.images = []) ∧
    (tst.staged.find? (fun z => z.1 == 0) = none ∧ (st 0).copyOut 0 = false ∧ sent.copyOut 0 = true ∧
      (st 3000).staged.find? (fun z => z.1 == 0) = some (0, img 3000) ∧ (poor.module 0).migbud - (poor.module 0).migUsed = 0 ∧
      0 < ((st 3000).module 0).migbud - ((st 3000).module 0).migUsed) :=
  ⟨by decide +kernel, by decide +kernel, by decide +kernel, by decide +kernel⟩

/-- A module cut off: it bears no stage, a stage without a spare, one whose image another module holds and whose spare is free;
an activation under way, whose areas the image takes, converts, or neither. -/
theorem witness_ContextsMoved_failures :
    let v : Launch := tstLaunch none
    let img : Image := ⟨[1], [(0x200, 7)], [], tstCl, v, 0, 0⟩
    let home : Stage := ⟨[0], []⟩
    let cut (w : List Stage) : State := { tst with
      wires := [(3, 99), (99, 3)], md := [(0, { tstLink 0 with links := [(3, { Link.reset with partner := 1, plink := 3 })] }), (1, { tstLink 1 with stages := w })]
      die := [(0, { Die.reset with coxes := [(0, ⟨v, 0, [0], none, none, .run⟩)] })], images := [(4096, img)] }
    let moves := cut [⟨[4096], [2]⟩]
    let act : State := { tst with md := [(0, { Module.reset with fwBusy := true, fwaddr := 0x8000 })], images := [(0, img)] }
    let has (l : List Byte) : State := act.writeBytes 0x8000 (List.replicate 24 0 ++ l) false
    let accepts (s : State) : Bool := (s.imageField 0x8000 24 8).testBit (layoutOf [1])
    let converts (s : State) : Prop := layoutOf [1] < 8 ∧ s.imageField 0x8000 (32 + 8 * layoutOf [1]) 8 ≠ 0
    (tst.gone 1 = false ∧ (cut []).gone 1 = true ∧ ({ tst with md := [(1, { tstLink 1 with lost := true })] } : State).gone 1 = true ∧
      ((cut []).module 0).failed = [] ∧ ((cut []).module 1).stages = [] ∧ ((cut [home]).module 1).stages = [home] ∧ home.home.head? = some 0 ∧
      home.spare = [] ∧ ((cut [home]).cluster 0).bind = some ⟨0, 0, 0, 1, 1, 0, 0⟩ ∧
      ((cut [home]).dieAt (dieKey 0)).coxes.find? (fun z => z.1 == 0) = some (0, ⟨v, 0, [0], none, none, .run⟩)) ∧
    ((moves.module 1).stages = [⟨[4096], [2]⟩] ∧ moves.images.find? (fun z => z.1 == 4096) = some (4096, img) ∧ img.holder ≠ 1 ∧
      layoutOf img.area = (moves.module (modOf 2)).active ∧ (moves.cluster 2).bind = none ∧ (moves.module (modOf 2)).fwBusy = false ∧
      (moves.dieAt (dieKey 2)).freeCox = some 1 ∧ (wheelAllot ((img.launch.tr.map (·.scpos)).getD 0) (moves.wheelUsed (modOf 2)) [2]).isSome = true ∧
      moves.kept = true ∧ (img.mem.map (·.1)).Nodup ∧ img.ctx.localOffset 0x200 = true ∧ rowOf 4096 ≤ img.launch.row0 + rowOf 2 ∧
      colOf 4096 ≤ img.launch.col0 + colOf 2) ∧
    ((tst.module 0).fwBusy = false ∧ (act.module 0).fwBusy = true ∧ act.settled 0 = true ∧ act.areasOf 0 = [(.image 0, [1])] ∧
      act.imageOk 0 0x8000 = false ∧ (act.updCluster 0 (fun c => { c with ckptOut := true })).settled 0 = false) ∧
    (accepts act = false ∧ accepts (has [2]) = true ∧ ¬ converts act ∧ converts (has (List.replicate 16 0 ++ [9]))) :=
  ⟨by decide +kernel, by decide +kernel, by decide +kernel, by decide +kernel⟩

/-- HSEM free and held, budgets, a request that fits and ones that do not, a busy tile, tables that permit and that deny, requests
for attestation, a lone module booting, one that joins. That a record and an image verify rests on the key of the module's maker,
which the specification does not give: what a passing image leads to has no witness of its own. -/
theorem witness_PortsBootAndSupplies :
    let on (d : Module) : State := { tst with md := [(0, d)] }
    let held := on { Module.reset with held := true, owner := 2, lease := 5 }
    let deny := tst.updCluster 0 (fun c => { c with acctab := 0 })
    let boot := on { Module.reset with bootBusy := true }
    let late := on { Module.reset with bootBusy := true, gts := 2 ^ 24 }
    let join : State := { tst with wires := [(3, 99), (99, 3)], md := [(0, { tstLink 0 with origin := false, routes := [] }), (1, { tstLink 1 with root := true })] }
    let at2 := 2 * 2 ^ 45 + clusterBase 0 + 0x800
    let hs := 2 * 2 ^ 45 + 0 * 2 ^ 34 + 0x4908
    let fits (bar2 : Bool) (off n max : Nat) : Prop := 1 ≤ n ∧ n ≤ max ∧ off + n ≤ (if bar2 then 2 ^ 35 else 2 ^ 34) ∧ off % 4096 + n ≤ 4096
    let tile := (1 + (2 ^ 34 + 0xA000) / 2 ^ 34) * 2 ^ 45 + 0 * 2 ^ 34 + (2 ^ 34 + 0xA000) % 2 ^ 34
    let busy := tst.updCluster 0 (fun k => { k with mx := { k.mx with queue := [⟨1, .zero 2, 0, 0, false, [], none, 0, 0, false, 0⟩] } })
    ((1 ≤ 7 ∧ 7 < 2 ^ 24) ∧ (tst.module 0).held = false ∧ (held.module 0).held = true ∧ (held.module 0).owner = 2 ∧
      (BitVec.ofNat 32 (held.strokeOf 0) - (held.module 0).lease).msb = true ∧ tst.accOk 0 hs true = true ∧ deny.accOk 0 hs true = false ∧
      fits false 0 512 512 ∧ fits false (2 ^ 34 - 1) 1 512 ∧ ¬ fits false (2 ^ 34 - 1) 2 512 ∧ fits true (2 ^ 34 - 1) 1 512 ∧ fits true 0x1FC0 64 4096 ∧
      ¬ fits false 0xFFF 2 512 ∧ ¬ fits false 0 513 512) ∧
    ((tst.module 0).power = .on ∧ tst.hostHeld 0 0 = false ∧ tst.tilesBusy 0x40 8 = false ∧ tst.kept = true ∧
      (on { Module.reset with hpbudA := 1, hpUsedA := 1 }).hostHeld 0 0 = true ∧ tst.accOk 0 0x40 true = true ∧ tst.accOk 0 0x40 false = true ∧
      deny.accOk 0 0x40 true = false ∧ deny.accOk 0 0x40 false = false ∧ tst.accOk 2 at2 true = true ∧ busy.tilesBusy tile 8 = true ∧
      tst.accOk 2 at2 false = true ∧ tst.tilesBusy at2 8 = false ∧ deny.accOk 2 at2 true = false ∧ deny.accOk 2 at2 false = false ∧
      ((on { Module.reset with power := .off }).module 0).power = .off ∧ tst.accOk 0 tile true = true) ∧
    ((tst.module 0).counter < 2 ^ 20 - 1 ∧ ((on { Module.reset with counter := 2 ^ 20 - 1 }).module 0).counter = 2 ^ 20 - 1 ∧
      ((on { Module.reset with attest := [(1, 9)] }).module 0).attest = (1, 9) :: [] ∧
      (tst.module 0).bootBusy = false ∧ (boot.module 0).bootBusy = true ∧ boot.neighbours 0 = [] ∧
      (boot.module 0).record.verifies (boot.imageBytes 0) = false ∧ (boot.module 0).power = .on ∧
      boot.strokeOf 0 < (boot.module 0).bootSince + 4096 ∧ (late.module 0).bootSince + 4096 ≤ late.strokeOf 0 ∧
      (join.neighbours 0).find? (fun x => join.booted x.2) = some (3, 1) ∧ (join.md.find? (fun x => x.2.root)).map (·.1) = some 1 ∧ join.booted 0 = false ∧
      (join.module 0).power = .on ∧ (join.module 0).record.verifies (join.module 1).image = false ∧ (join.module 1).bootBusy = false ∧
      join.hopsFrom 0 1 = some 1 ∧ join.hopsFrom 1 0 = some 1 ∧ (tst.neighbours 0).find? (fun x => tst.booted x.2) = none) :=
  ⟨by decide +kernel, by decide +kernel, by decide +kernel⟩

theorem witness_DecodeEncode :
    (Instr.addi 5 3 .w64 128).wf = true ∧ slotClass (.addi 5 3 .w64 128) = some 0 ∧ slotClass (.dmov tstNode) = some 7 := by decide +kernel

/-- ADDI alone in a bundle at the program counter; an input that is due; a queue with a packet to fetch. -/
theorem witness_StepRunsDecodedInstruction :
    let s := State.reset.withFetchWord 32 0x80A3C080
    let q := tstQ (fun q => { q with write := 1 })
    let i : State := { State.reset with inputs := [(0, .moduleReset 0)] }
    (i.dueInput.map (·.1) = some (.moduleReset 0) ∧ s.dueInput.isNone = true ∧ s.events.length = 0 ∧ s.turn = [0] ∧ q.dueInput.isNone = true ∧ q.events.length = 1) ∧
    ((∀ z, (s.ctxOf 0 z).pend.any Pend.due = false) ∧ (∀ z, (s.ctxOf 0 z).rest = [] ∧ ((s.plan 0).st.ctxOf 0 z).faultQ = [] ∧ ((s.plan 0).st.ctxOf 0 z).strokes = []) ∧
      (s.plan 0).goP = true ∧ (s.plan 0).goF = false ∧ (s.plan 0).st.checkpointDue 0 = false ∧ (s.ctxOf 0 false).park = .run ∧ (s.ctxOf 0 false).post = [] ∧
      (s.ctxOf 0 false).swap = none) ∧
    (match (s.plan 0).p with
      | .issue b => s.readiness 0 false == .issue b && b.poisonAt.isNone && b.slots == [(0, 0x80A3C080)] && b.from false 0 != [] &&
        decide ((s.ctxOf 0 false).entry ≤ 0) && (({ (s.focus 0 false).start b.words with slot := 0 } : State).instrHold 0 (.addi 5 3 .w64 128) []).1.isNone
      | _ => false) = true ∧
    decSlot 0 0x80A3C080 = .ok (.addi 5 3 .w64 128) ∧ decSlot 0 0x7C000000 = .illegalOp ∧ decSlot 0 0xFA83A801 = .illegalField := by decide +kernel

/-- The two contexts of a cluster with bundles at one address: they collide, behind the firmware's share and not, in the window of
a deterministic phase and before it; one of them with a firmware bundle in another slot, both of which then issue; a stamp missed. -/
theorem witness_StepRuns_merge :
    let s := State.reset.withFetchWord 32 0x80A3C080
    let pc := (s.ctxOf 0 false).pc
    let both (f : Cluster → Cluster) : State := s.updCluster 0 (fun c => f { c with fw := { c.fw with park := .run, pc := pc, entry := 0 } })
    let s1 := both id
    let y : Ready := .issue ⟨1, none, 2, [(0, 0x80A3C080)], none, false⟩
    let z : Ready := .issue ⟨2, none, 2, [(1, 0x80A3C080)], none, false⟩
    let window (s : State) : Prop := (s.cluster 0).det = true ∧ 4096 - 64 * (s.cluster 0).share.toNat ≤ s.cisOf (modOf 0)
    let behind (s : State) : Prop := 64 * (s.cluster 0).fwcnt < (s.cluster 0).share.toNat * (s.cisOf (modOf 0) + 1)
    let det (g : Nat) : State := { both (fun c => { c with det := true, share := 4 }) with md := [(0, { Module.reset with gts := g })] }
    (y.isReady = true ∧ z.isReady = true ∧ Ready.stall.isReady = false ∧ Ready.count.isReady = false ∧ y.isLate = false ∧
      (Ready.late ⟨0, none, 1, [], none, false⟩).isLate = true ∧ (∃ m ∈ y.mask 0, m ∈ y.mask 0) ∧ ¬ (∃ m ∈ y.mask 0, m ∈ z.mask 0)) ∧
    (behind s1 ∧ ¬ behind (both (fun c => { c with fwcnt := 100 })) ∧ (s1.cluster 0).det = false ∧ window (det 4000) ∧ ¬ window (det 0)) ∧
    ((s1.merge 0 y y) = (false, true) ∧ (s1.merge 0 y z) = (true, true) ∧ ((det 4000).merge 0 y z) = (false, true) ∧ ((det 0).merge 0 y y) = (true, false) ∧
      (s1.plan 0).goP = false ∧ (s1.plan 0).goF = true ∧ (s1.plan 0).st.checkpointDue 0 = false) := by
  refine ⟨by decide +kernel, by decide +kernel, by decide +kernel⟩

/-- A store to the right of an acquiring fence whose load is out waits in its slot, and without the fence runs; a BARW on an
unflipped barrier is a timed wait, which has outlasted WAITLIM after 64 strokes; a SEMWAIT that waits for ever; a trapped context;
a bundle left in part; a wait that faults with a slot left of it. -/
theorem witness_StepRuns_pause :
    let i : Instr := .st 2 1 .s32 0
    let s := (tstS ⟨0, false⟩).send (.slot false 0) 0 1 0 (.read 0 4) [] []
    let v := s.updCtx (fun c => { c with fences := [⟨.acquire, [.perf (s.nextId - 1)], [], 6, 0⟩] })
    let w := (tstP (fun c => { c with strokes := [(0, 65)] }))
    let d := tstC (fun c => { c with semLocal := 0x20 })
    let b : Bundle := ⟨3, none, 3, [(0, 0x80A3C080), (1, 0)], none, false⟩
    decSlot 7 (encode i) = .ok i ∧ (v.instrHold 7 i []).1 = some (.other 7) ∧ (s.instrHold 7 i []).1 = none ∧
    s.ctx.park ≠ .trapped ∧ s.ctx.rest = [] ∧ s.ctx.tabling = false ∧ (s.updCtx (fun c => { c with park := .trapped })).ctx.park = .trapped ∧
    (s.updCtx (fun c => { c with rest := [(8, 0, false)] })).ctx.rest ≠ [] ∧ (tst.instrHold 0 (.barw 3) []).1 = some (.bar 0 3) ∧
    tst.ctx.outlasted tst.me.waitlim.toNat (.bar 0 3) = false ∧ w.ctx.outlasted w.me.waitlim.toNat (.bar 0 3) = true ∧
    (d.instrHold 0 (.semwait 3 false 5 2) []).1 = some (.dead 0 5 0) ∧ (tstP (fun c => { c with park := .run })).ctx.park = .run ∧ tst.ctx.park ≠ .run ∧
    (b.from false 0).filter (fun x => decide (x.2.1 < (Hold.bar 1 3).slot)) ≠ [] := by decide +kernel

/-- Whatever the free value, one of the two choices is made. -/
theorem witness_StepChoices (n : Nat) : Config.pick n % 2 = 0 ∨ Config.pick n % 2 = 1 := by omega

/-- A step answers a next state at reset, and where it runs an instruction. -/
theorem witness_StepKeepsMemory :
    let next (s : State) : Bool := match step s with
      | .next _ => true
      | _ => false
    State.reset.kept = true ∧ next State.reset = true ∧ (State.reset.withFetchWord 32 0x80A3C080).kept = true ∧
    next (State.reset.withFetchWord 32 0x80A3C080) = true := by decide +kernel

/-! ### Single steps with the spec's own worked values -/

/-- s1 and s2 set, in slot S0. -/
def tst2 (x y : DWord) : State := tstP (fun c => (c.wrS 1 ⟨x, false⟩).wrS 2 ⟨y, false⟩)
/-- Every lane of v1 and v2 set. -/
def tstV (x y : Word) : State := tstP (fun c => { c with
  v := (c.v.set 1 (Vector.replicate 16 ⟨x, false⟩)).set 2 (Vector.replicate 16 ⟨y, false⟩) })
/-- The results in flight after an instruction: scalar values, a lane of the vector values, flags. -/
def tstIs (o : Out) (v : DWord) : Bool := match o with
  | .next t => (t.ctx.pend.map (·.dest)) == [.sreg 3 ⟨v, false⟩]
  | _ => false
def tstLane (o : Out) (i : Fin 16) : Option Word := match o with
  | .next t => t.ctx.pend.findSome? (fun p => match p.dest with
    | .vreg _ _ v => some v[i].val
    | _ => none)
  | _ => none
def tstFlags (o : Out) : Flags := match o with
  | .next t => t.ctx.pend.foldl (fun f p => match p.dest with
    | .flags g => f ||| g
    | _ => f) 0
  | _ => 0
def tstPred (o : Out) : Option Pred := match o with
  | .next t => t.ctx.pend.findSome? (fun p => match p.dest with
    | .preg _ _ v => some v
    | _ => none)
  | _ => none

/-- 05 Table 5.13. -/
theorem test_scalar_add : tstIs (exec (.add 3 1 2 .w8) (tst2 0x7F 1)) 0xFFFFFFFFFFFFFF80 = true := by decide +kernel
theorem test_scalar_addi : tstIs (exec (.addi 3 1 .w32 0x3FFF) (tst2 0x100000000 0)) 0xFFFFFFFFFFFFFFFF = true := by decide +kernel
theorem test_scalar_mulhu : tstIs (exec (.mulhu 3 1 2 .w8) (tst2 0xFF 0xFF)) 0xFFFFFFFFFFFFFFFE = true := by decide +kernel
theorem test_scalar_div : tstIs (exec (.div 3 1 2 .w32) (tst2 0x80000000 0xFFFFFFFF)) 0xFFFFFFFF80000000 = true := by decide +kernel
theorem test_scalar_rem : tstIs (exec (.rem 3 1 2 .w32) (tst2 0x80000000 0xFFFFFFFF)) 0 = true ∧
    tstIs (exec (.rem 3 1 2 .w64) (tst2 (-7) 2)) (-1) = true := by decide +kernel
theorem test_scalar_divu : tstIs (exec (.divu 3 1 2 .w64) (tst2 7 0)) 0xFFFFFFFFFFFFFFFF = true := by decide +kernel
theorem test_scalar_shr : tstIs (exec (.shr 3 1 2 .w16) (tst2 0x8000 16)) 0 = true := by decide +kernel
theorem test_scalar_sra : tstIs (exec (.sra 3 1 2 .w16) (tst2 0x8000 100)) 0xFFFFFFFFFFFFFFFF = true := by decide +kernel
theorem test_scalar_clz : tstIs (exec (.clz 3 1 .w32) (tst2 0 0)) 32 = true := by decide +kernel
theorem test_scalar_sltu : tstIs (exec (.sltu 3 1 2 .w8) (tst2 0x1FF 0x100)) 0 = true := by decide +kernel

/-- 07 Table 7.6. -/
theorem test_vector_max : tstLane (exec (.vmax 3 1 2 .f32 0) (tstV 0 0x80000000)) 0 = some 0 ∧
    tstLane (exec (.vmax 3 1 2 .f32 0) (tstV 0x7FC00001 0xFFC00000)) 0 = some 0x7FC00000 ∧
    tstFlags (exec (.vmax 3 1 2 .f32 0) (tstV 0x7F800001 0x3F800000)) = flNV := by decide +kernel
theorem test_vector_min : tstLane (exec (.vmin 3 1 2 .f32 0) (tstV 0 0x80000000)) 0 = some 0x80000000 := by decide +kernel
theorem test_vector_add : tstLane (exec (.vadd 3 1 2 .f32 0) (tstV 0x80000000 0)) 0 = some 0 ∧
    tstLane (exec (.vadd 3 1 2 .f32 0) (tstV 0x80000000 0x80000000)) 0 = some 0x80000000 ∧
    tstLane (exec (.vadd 3 1 2 .i8 0) (tstV 0x7F 1)) 0 = some 0xFFFFFF80 := by decide +kernel
theorem test_vector_neg : tstLane (exec (.vneg 3 1 .f32 0) (tstV 0x7FC01234 0)) 0 = some 0xFFC01234 := by decide +kernel
theorem test_vector_abs : tstLane (exec (.vabs 3 1 .i8 0) (tstV 0xFFFFFF80 0)) 0 = some 0xFFFFFF80 := by decide +kernel
theorem test_vector_sra : tstLane (exec (.vsra 3 1 2 .z8 0) (tstV 0x80 9)) 0 = some 0xFF := by decide +kernel
theorem test_vector_cmp : tstPred (exec (.vcmp 1 .eq 1 2 .f32) (tstV 0 0x80000000)) = some 0xFFFF ∧
    tstPred (exec (.vcmp 1 .lt 1 2 .f32) (tstV 0x7FC00000 0x3F800000)) = some 0 ∧
    tstFlags (exec (.vcmp 1 .lt 1 2 .f32) (tstV 0x7FC00000 0x3F800000)) = flNV ∧
    tstPred (exec (.vcmp 1 .sgn 1 2 .f32) (tstV 0x80000000 0)) = some 0xFFFF := by decide +kernel
theorem test_vector_rcp : tstLane (exec (.vrcp 3 1 .rne .f32 .f32 0) (tstV 0x80000000 0)) 0 = some 0xFF800000 ∧
    tstFlags (exec (.vrcp 3 1 .rne .f32 .f32 0) (tstV 0x80000000 0)) = flDZ := by decide +kernel
theorem test_vector_sqrt : tstLane (exec (.vsqrt 3 1 .rne .f32 .f32 0) (tstV 0x80000000 0)) 0 = some 0x80000000 := by decide +kernel
theorem test_vector_log2 : tstLane (exec (.vlog2 3 1 .rne .f32 .f32 0) (tstV 0xBF800000 0)) 0 = some 0x7FC00000 := by decide +kernel
theorem test_vector_exp2 : tstLane (exec (.vexp2 3 1 .rne .f32 .f32 0) (tstV 0x43000000 0)) 0 = some 0x7F800000 ∧
    tstFlags (exec (.vexp2 3 1 .rne .f32 .f32 0) (tstV 0x43000000 0)) = flOF ||| flNX := by decide +kernel

/-- Lanes given one by one in v1. -/
def tstLanes (l : List Word) : State := tstP (fun c => { c with v := c.v.set 1 (Vector.ofFn (fun i => ⟨l.getD i.val 0, false⟩)) })

/-- 07, the sum that depends on the tree: 2^24 and fifteen ones. -/
theorem test_vrsum :
    let o := exec (.vrsum 3 1 .f32 0) (tstLanes (0x4B800000 :: List.replicate 15 0x3F800000))
    tstLane o 5 = some 0x4B800007 ∧ tstFlags o = flNX := by decide +kernel
/-- 06, the worked SX5 block, as 08 R161 packs it. -/
theorem test_vpksx :
    let o := exec (.vpksx 3 1 .rne .f32 .sx5 0) (tstLanes [0x40400000, 0xBFC00000, 0x3E800000, 0x3E000000, 0x3E99999A, 0x80000000, 0x3E400000, 0x3F800000])
    tstLane o 0 = some 0x06CCF481 ∧ tstLane o 1 = some 0x00408020 ∧ tstLane o 2 = some 0 ∧ tstFlags o = flNX := by decide +kernel
/-- 08, a group quantised twice. -/
theorem test_vqnt_refit :
    let s := (tstLanes [0x42C80000, 0xC28C0000, 0x3E800000, 0x3FA00000]).updCtx (fun c => { c with qscale := 0x3F000000, qlimit := 1, qrefit := true })
    let o := exec (.vqnt 5 1 .rne .f32 .i8 0) s
    tstLane o 0 = some 0x7F ∧ tstLane o 1 = some 0xFFFFFFA7 ∧ tstLane o 2 = some 0 ∧ tstLane o 3 = some 2 ∧
    (match o with
      | .next t => t.ctx.pend.any (fun p => match p.dest with
        | .quant c z q _ => c == 2 && z == 1 && q == some 0x3F499327
        | _ => false)
      | _ => false) = true := by decide +kernel
/-- 11 Table 11.8, second row. -/
theorem test_noise : noiseZ 0x2000000000000000 = 0x3F933EA6 := by decide +kernel
/-- 06, why the grouping shows: 4096 and ones in BF16 rows of 32. -/
theorem test_matrix_groups :
    let row : WCol := rowDecode 1 32 ((List.range 64).map (fun i => ⟨if i = 1 then 0x45 else if i = 0 then 0x80 else if i ∈ [2, 32] then 0x80 else
      if i ∈ [3, 33] then 0x3F else 0, false⟩))
    (matAccF [] false 32 row row 0).1 = 0x4B800000 := by decide +kernel
/-- 18, a packet and a wake together: the wake word that WAITARR returns second. -/
theorem test_waitarr_wake :
    let s := (tstS ⟨0x00200004, false⟩).updCluster 0 (fun c => { c with last := 2, ich := [(2, { Ich.reset with v := true })], wake := [(5, ⟨0x77, true, 1⟩)] })
    (match exec (.waitarr 20 1) s with
      | .next t => (t.ctx.pend.map (·.dest)) == [.sreg 20 ⟨0x115, false⟩, .sreg 21 ⟨0x77, false⟩] && t.me.last == 21
      | _ => false) = true := by decide +kernel
/-- 24 Table 24.8: the token of XOP_UNLOADED in slot 2 of cluster 0 and the answer of the loader. -/
theorem test_token : tokenWord0 0 false ⟨0x68, 3, 0, 2, false, false, 0x150, 0, 0, false⟩ 0 = 0x0000000002000068 ∧
    tokenWord1 ⟨0x68, 3, 0, 2, false, false, 0x150, 0, 0, false⟩ = 0x0000000300000150 := by decide +kernel
/-- 22, the region of a launch for die 1 at (4, 8) of 2 by 2. -/
theorem test_region :
    let l := launchOf 0 Queue.reset ⟨0, [1, 0, 0, 0x400, 0x00021411, 0, 0, 0], .ready, false⟩ 0
    (l.die, l.row0, l.col0, l.rows, l.cols) = (1, 4, 8, 2, 2) := by decide +kernel
/-- 15 Table 15.4: XQRY with graph 3 of one cell. -/
theorem test_xqry : tstIs (exec (.xqry 3) (tstP (fun c => { c with plane := [tstGraph 3 1] }))) 0x00F10008 = true := by decide +kernel

end Machine
end Sys2Proof
end

section
/-! SUPPORT. Decode and encode agree (chapter 03): the fields of a packed word, their reading by the decoders, and the
decoders' answers to the encodings of every slot class. -/

namespace Sys2Proof

/-- What the bits of `w` from bit `lo` on hold modulo `m`: for `m = 2 ^ n`, the field of `n` bits there. -/
def field (w lo m : Nat) : Nat := w / 2 ^ lo % m

/-- The fields stand below bit `hi`, each below the one before it, without overlap. -/
def Fits : Nat → List (Nat × Nat) → Prop
  | _, [] => True
  | hi, (x, lo) :: r => lo ≤ hi ∧ x < 2 ^ (hi - lo) ∧ Fits lo r

/-- A field of a packed word, read off the list: fields above it do not count, and the one that holds it answers. -/
@[simp] def fieldAt : List (Nat × Nat) → Nat → Nat → Nat
  | [], _, m => 0 % m
  | (x, l) :: r, lo, m =>
    if 2 ^ l % (2 ^ lo * m) = 0 then fieldAt r lo m else if l ≤ lo then field x (lo - l) m else field (pack ((x, l) :: r)) lo m

theorem pack_lt_of_fits {hi : Nat} {l : List (Nat × Nat)} (h : Fits hi l) : pack l < 2 ^ hi := by
  induction l generalizing hi with
  | nil => simp [pack]
  | cons f r ih =>
    obtain ⟨x, lo⟩ := f
    obtain ⟨hl, hx, hr⟩ := h
    have hr := ih hr
    calc x * 2 ^ lo + pack r < x * 2 ^ lo + 2 ^ lo := by omega
      _ = (x + 1) * 2 ^ lo := by ring
      _ ≤ 2 ^ (hi - lo) * 2 ^ lo := Nat.mul_le_mul_right _ hx
      _ = 2 ^ hi := by rw [← pow_add, Nat.sub_add_cancel hl]

theorem field_pack_above {x l lo m : Nat} {r : List (Nat × Nat)} (h : 2 ^ l % (2 ^ lo * m) = 0) :
    field (pack ((x, l) :: r)) lo m = field (pack r) lo m := by
  obtain ⟨k, hk⟩ := Nat.dvd_of_mod_eq_zero h
  have e : x * 2 ^ l = 2 ^ lo * (m * (k * x)) := by rw [hk]; ring
  simp [field, pack, e, Nat.mul_add_div]

theorem field_pack_within {x l lo m : Nat} {r : List (Nat × Nat)} (h : l ≤ lo) (hr : Fits l r) :
    field (pack ((x, l) :: r)) lo m = field x (lo - l) m := by
  obtain ⟨k, rfl⟩ := Nat.exists_eq_add_of_le h
  have hr := Nat.div_eq_of_lt (pack_lt_of_fits hr)
  rw [field, field, pack, pow_add, ← Nat.div_div_eq_div_mul, Nat.mul_comm x, Nat.mul_add_div (by positivity), hr,
    Nat.add_zero, Nat.add_sub_cancel_left]

theorem field_pack {hi lo m : Nat} {l : List (Nat × Nat)} (h : Fits hi l) : field (pack l) lo m = fieldAt l lo m := by
  induction l generalizing hi with
  | nil => simp [pack, field]
  | cons f r ih =>
    obtain ⟨x, l⟩ := f
    obtain ⟨-, -, hr⟩ := h
    rw [fieldAt]
    split_ifs with h1 h2
    · rw [field_pack_above h1, ih hr]
    · exact field_pack_within h2 hr
    · rfl

/-- The opcode is the six bits at the top of the word. -/
theorem opcode_pack {op lo : Nat} {l : List (Nat × Nat)} (h : Fits (lo + 6) ((op, lo) :: l)) :
    pack ((op, lo) :: l) / 2 ^ lo % 64 = op := by
  obtain ⟨-, ho, hl⟩ := h
  rw [Nat.add_sub_cancel_left] at ho
  exact (field_pack_within le_rfl hl).trans (by simpa [field] using Nat.mod_eq_of_lt ho)

/-- The fields of `w` are those of the list. -/
def Reads (w : Nat) (l : List (Nat × Nat)) : Prop := ∀ lo m, field w lo m = fieldAt l lo m

/-- A word is decoded by its opcode and its fields: the decoder is run on a word of which no more is known. -/
theorem decode_of_fits (lo : Nat) {op : Nat} {l : List (Nat × Nat)} {dec : Nat → Dec} {x : Dec}
    (hf : Fits (lo + 6) ((op, lo) :: l))
    (h : ∀ w, w / 2 ^ lo % 64 = op → Reads w ((op, lo) :: l) → dec w = x) : dec (pack ((op, lo) :: l)) = x :=
  h _ (opcode_pack hf) fun _ _ => field_pack hf

/-! ### The decoder's readings are fields -/

theorem ofNat_div_eq_field (m w lo : Nat) [NeZero m] : Fin.ofNat m (w / 2 ^ lo) = Fin.ofNat m (field w lo m) := by
  simp [field, Fin.ext_iff]

section
variable {w : Nat} {l : List (Nat × Nat)}

theorem Reads.div_mod (h : Reads w l) (lo m : Nat) : w / 2 ^ lo % m = fieldAt l lo m := h lo m
theorem Reads.mod (h : Reads w l) (m : Nat) : w % m = fieldAt l 0 m := by rw [← h, field, pow_zero, Nat.div_one]
theorem Reads.ofNat_div (h : Reads w l) (lo m : Nat) [NeZero m] :
    Fin.ofNat m (w / 2 ^ lo) = Fin.ofNat m (fieldAt l lo m) := by rw [← h, ofNat_div_eq_field]
theorem Reads.ofNat (h : Reads w l) (m : Nat) [NeZero m] : Fin.ofNat m w = Fin.ofNat m (fieldAt l 0 m) := by
  rw [← h.ofNat_div, pow_zero, Nat.div_one]

end

@[simp] theorem rz_eq_field (w lo n : Nat) : rz w lo n = (field w lo (2 ^ n) == 0) := rfl
@[simp] theorem fS_eq_field (w lo : Nat) : fS w lo = Fin.ofNat 32 (field w lo 32) := ofNat_div_eq_field 32 w lo
@[simp] theorem fV_eq_field (w lo : Nat) : fV w lo = Fin.ofNat 64 (field w lo 64) := ofNat_div_eq_field 64 w lo
@[simp] theorem fP_eq_field (w lo : Nat) : fP w lo = Fin.ofNat 16 (field w lo 16) := ofNat_div_eq_field 16 w lo
@[simp] theorem fA_eq_field (w lo : Nat) : fA w lo = Fin.ofNat 8 (field w lo 8) := ofNat_div_eq_field 8 w lo
@[simp] theorem fB_eq_field (n w lo : Nat) : fB n w lo = BitVec.ofNat n (field w lo (2 ^ n)) := by
  simp [fB, field, BitVec.toNat_eq]
theorem widthOf_eq_field (w lo : Nat) : widthOf (w / 2 ^ lo) = widthOf (field w lo 4) := by simp [widthOf, field]
theorem rmOf_eq_field (w lo : Nat) : rmOf (w / 2 ^ lo) = rmOf (field w lo 4) := by simp [rmOf, field]
theorem pathOf_eq_field (w lo : Nat) : pathOf (w / 2 ^ lo) = pathOf (field w lo 4) := by simp [pathOf, field]

/-! ### The value of a field -/

@[simp] theorem field_of_lt {x m : Nat} (h : x < m) : field x 0 m = x := by simp [field, Nat.mod_eq_of_lt h]
@[simp] theorem field_of_lt_pow {x lo m : Nat} (h : x < 2 ^ lo) : field x lo m = 0 := by simp [field, Nat.div_eq_of_lt h]
@[simp] theorem fin_val_lt_of_le {m n : Nat} (a : Fin m) (h : m ≤ n) : a.val < n := a.isLt.trans_le h
@[simp] theorem bitVec_toNat_lt_of_le {n m : Nat} (a : BitVec n) (h : 2 ^ n ≤ m) : a.toNat < m := a.isLt.trans_le h
@[simp] theorem bool_toNat_lt_of_two_le (b : Bool) {n : Nat} (h : 2 ≤ n) : b.toNat < n := b.toNat_lt.trans_le h
@[simp] theorem bool_toNat_le_one (b : Bool) : b.toNat ≤ 1 := Nat.le_of_lt_succ b.toNat_lt
theorem bit_eq_toNat (b : Bool) : (if b then 1 else 0) = b.toNat := by cases b <;> rfl
@[simp] theorem bool_toNat_beq_one (b : Bool) : (b.toNat == 1) = b := by cases b <;> rfl

/-! ### Codes -/

@[simp] theorem widthOf_widthCode (x : Width) : widthOf (widthCode x) = x := by cases x <;> rfl
@[simp] theorem elemOf_elemCode (x : ElemTy) : elemOf (elemCode x) = some x := by cases x <;> rfl
@[simp] theorem memTyOf_memTyCode (x : MemTy) : memTyOf (memTyCode x) = some x := by cases x <;> rfl
@[simp] theorem rmOf_rmCode (x : Rm) : rmOf (rmCode x) = x := by cases x <;> rfl
@[simp] theorem scopeOf_scopeCode (x : Scope) : scopeOf (scopeCode x) = some x := by cases x <;> rfl
@[simp] theorem aopOf_aopCode (x : Aop) : aopOf (aopCode x) = some x := by cases x <;> rfl
@[simp] theorem bcondOf_bcondCode (x : BCond) : bcondOf (bcondCode x) = some x := by cases x <;> rfl
@[simp] theorem brpModeOf_brpModeCode (x : BMode) : brpModeOf (brpModeCode x) = some x := by cases x <;> rfl
@[simp] theorem phModeOf_phModeCode (x : BMode) : phModeOf (phModeCode x) = some x := by cases x <;> rfl
@[simp] theorem vcondOf_vcondCode (x : VCond) : vcondOf (vcondCode x) = some x := by cases x <;> rfl
@[simp] theorem shufOf_shufCode (x : Shuf) : shufOf (shufCode x) = some x := by cases x <;> rfl
@[simp] theorem qtyOf_qtyCode (x : QTy) : qtyOf (qtyCode x) = some x := by cases x <;> rfl
@[simp] theorem pathOf_pathCode (x : Path) : pathOf (pathCode x) = x := by cases x <;> rfl
@[simp] theorem fenceOf_fenceCode (x : FenceKind) : fenceOf (fenceCode x) = some x := by cases x <;> rfl
@[simp] theorem lcOf_val (x : Fin 3) : lcOf x.val = some x := by fin_cases x <;> rfl
@[simp] theorem withCode_some {α : Type} (x : α) (f : α → Dec) : withCode (some x) f = f x := rfl
@[simp] theorem widthCode_lt_of_le (x : Width) {n : Nat} (h : 4 ≤ n) : widthCode x < n := (widthCode_lt x).trans_le h
@[simp] theorem elemCode_lt_of_le (x : ElemTy) {n : Nat} (h : 16 ≤ n) : elemCode x < n := (elemCode_lt x).trans_le h
@[simp] theorem memTyCode_lt_of_le (x : MemTy) {n : Nat} (h : 16 ≤ n) : memTyCode x < n := (memTyCode_lt x).trans_le h
@[simp] theorem rmCode_lt_of_le (x : Rm) {n : Nat} (h : 4 ≤ n) : rmCode x < n := (rmCode_lt x).trans_le h
@[simp] theorem scopeCode_lt_of_le (x : Scope) {n : Nat} (h : 8 ≤ n) : scopeCode x < n := (scopeCode_lt x).trans_le h
@[simp] theorem aopCode_lt_of_le (x : Aop) {n : Nat} (h : 16 ≤ n) : aopCode x < n := (aopCode_lt x).trans_le h
@[simp] theorem bcondCode_lt_of_le (x : BCond) {n : Nat} (h : 8 ≤ n) : bcondCode x < n := (bcondCode_lt x).trans_le h
@[simp] theorem vcondCode_lt_of_le (x : VCond) {n : Nat} (h : 16 ≤ n) : vcondCode x < n := (vcondCode_lt x).trans_le h
@[simp] theorem shufCode_lt_of_le (x : Shuf) {n : Nat} (h : 16 ≤ n) : shufCode x < n := (shufCode_lt x).trans_le h
@[simp] theorem qtyCode_lt_of_le (x : QTy) {n : Nat} (h : 16 ≤ n) : qtyCode x < n := (qtyCode_lt x).trans_le h
@[simp] theorem pathCode_lt_of_le (x : Path) {n : Nat} (h : 4 ≤ n) : pathCode x < n := (pathCode_lt x).trans_le h
@[simp] theorem fenceCode_lt_of_le (x : FenceKind) {n : Nat} (h : 4 ≤ n) : fenceCode x < n := (fenceCode_lt x).trans_le h
@[simp] theorem brpModeCode_lt_of_le (x : BMode) {n : Nat} (h : 4 ≤ n) : brpModeCode x < n := (brpModeCode_lt x).trans_le h
@[simp] theorem phModeCode_lt_of_le (x : BMode) {n : Nat} (h : 4 ≤ n) : phModeCode x < n := (phModeCode_lt x).trans_le h

/-! ### The decoders read every well-formed instruction back -/

/-- Words of the S slots: a form with a code field is reached through `withCode`. -/
theorem decS_encodeS (i : Instr) (hw : i.wf = true) (hc : slotClass i = some 0) : decS (encodeS i) = .ok i := by
  cases i
  case engineNop s c => cases s <;> cases hc
  all_goals cases hc
  case nop => rfl
  all_goals
    refine decode_of_fits 26 (by simp [Fits, bit_eq_toNat]) fun w hop hr => ?_
    unfold decS
    rewrite [hop]
  case barinit | bara =>
    refine (rfl : _ = withCode _ _).trans ?_
    simp [hr _ _, ↓hr.div_mod, ↓hr.ofNat_div, ↓hr.ofNat, accept, hw]
  case semsigImm | semsetImm =>
    refine (rfl : _ = ite _ _ _).trans ?_
    simp [hr _ _, ↓hr.ofNat_div, accept, hw]
  case semsigReg a n | semsetReg a n =>
    have ha : a ≠ 0 := bne_iff_ne.mp hw
    refine (rfl : _ = ite _ _ _).trans ?_
    simp [hr _ _, ↓hr.ofNat_div, accept, hw, ha]
  all_goals
    refine (rfl : _ = accept _ _).trans ?_
    simp [hr _ _, ↓hr.div_mod, ↓hr.ofNat_div, ↓hr.ofNat, ↓widthOf_eq_field, bit_eq_toNat, accept, hw]

/-- Words of the V slots: a form with a code field is reached through `withCode`. -/
theorem decV_encodeV (i : Instr) (hw : i.wf = true) (hc : slotClass i = some 1) : decV (encodeV i) = .ok i := by
  cases i
  case engineNop s c => cases s <;> cases hc
  all_goals cases hc
  all_goals
    refine decode_of_fits 26 (by simp [Fits]) fun w hop hr => ?_
    unfold decV
    rewrite [hop]
  case vand | vor | vxor | vnot | vsel | vmov | vperm | vrot | pand | por | pxor | pnot | pset | pcnt | xop =>
    refine (rfl : _ = accept _ _).trans ?_
    simp [hr _ _, ↓hr.ofNat_div, accept, hw]
  all_goals
    refine (rfl : _ = withCode _ _).trans ?_
    simp [hr _ _, ↓hr.div_mod, ↓hr.ofNat_div, ↓rmOf_eq_field, accept, hw]

/-- Words of the M slots: a form with a code field is reached through `withCode`. -/
theorem decM_encodeM (i : Instr) (hw : i.wf = true) (hc : slotClass i = some 2) : decM (encodeM i) = .ok i := by
  cases i
  case engineNop s c => cases s <;> cases hc
  all_goals cases hc
  all_goals
    refine decode_of_fits 26 (by simp [Fits, bit_eq_toNat]) fun w hop hr => ?_
    unfold decM
    rewrite [hop]
  case drain | sbar =>
    refine (rfl : _ = accept _ _).trans ?_
    simp [hr _ _, ↓pathOf_eq_field, accept, hw]
  all_goals
    refine (rfl : _ = withCode _ _).trans ?_
    simp [hr _ _, ↓hr.div_mod, hr.mod, bit_eq_toNat, accept, hw]

/-- Words of the B slots: a form with a code field is reached through `withCode`. -/
theorem decB_encodeB (i : Instr) (hw : i.wf = true) (hc : slotClass i = some 3) : decB (encodeB i) = .ok i := by
  cases i
  case engineNop s c => cases s <;> cases hc
  all_goals cases hc
  all_goals
    refine decode_of_fits 26 (by simp [Fits, bit_eq_toNat]) fun w hop hr => ?_
    unfold decB
    rewrite [hop]
  case brc | brp | loop | loopi | lexit | phend =>
    refine (rfl : _ = withCode _ _).trans ?_
    simp [hr _ _, ↓hr.div_mod, hr.mod, accept, hw]
  all_goals
    refine (rfl : _ = accept _ _).trans ?_
    simp [hr _ _, ↓hr.div_mod, bit_eq_toNat, accept, hw]

/-- The fields of an engine word with clause `c`. -/
def engFields (op : Nat) (c : EClause) (l : List (Nat × Nat)) : List (Nat × Nat) :=
  (op, 58) :: (c.wv.toNat, 57) :: (c.wsem.val, 49) :: (c.wthr.val, 41) :: (c.gsem.val, 33) :: (c.ginc.toNat, 29) :: l

theorem engWord_eq (op : Nat) (c : EClause) (l : List (Nat × Nat)) : engWord op c l = pack (engFields op c l) := by
  simp [engWord, engFields, bit_eq_toNat]

theorem fits_engFields {op : Nat} {c : EClause} {l : List (Nat × Nat)} (ho : op < 64) (hl : Fits 29 l) :
    Fits 64 (engFields op c l) := by
  simp [engFields, Fits, ho, hl]

/-- The clauses of an engine word are read back; its operands stand below them. -/
theorem decClause_of_reads {w op : Nat} {c : EClause} {l : List (Nat × Nat)} (h : Reads w (engFields op c l)) :
    decClause w = c := by
  simp [decClause, engFields, h _ _, ↓h.div_mod, ↓h.ofNat_div]

/-- The no-operation of an engine slot, opcode 0 of each. -/
theorem decode_engineNop {dec : Nat → Dec} (s : EngSlot) (c : EClause) (hw : (Instr.engineNop s c).wf = true)
    (hd : ∀ w, w / 2 ^ 58 % 64 = 0 → dec w = accept (rz w 0 29) (.engineNop s (decClause w))) :
    dec (engWord 0 c []) = .ok (.engineNop s c) := by
  rw [engWord_eq]
  refine decode_of_fits 58 (fits_engFields (by decide) trivial) fun w hop hr => ?_
  rw [hd w hop, decClause_of_reads hr]
  simp [hr _ _, accept, hw]

theorem decX_encodeEng (i : Instr) (hw : i.wf = true) (hc : slotClass i = some 4) : decX (encodeEng i) = .ok i := by
  cases i
  case engineNop s c =>
    cases s <;> cases hc
    exact decode_engineNop .x c hw fun w h => by unfold decX; rw [h]; rfl
  all_goals cases hc
  all_goals
    simp only [encodeEng, engWord_eq]
    refine decode_of_fits 58 (fits_engFields (by simp) (by simp [Fits])) fun w hop hr => ?_
    unfold decX
    rewrite [hop, decClause_of_reads hr]
  case mldw | mldwSp | mrun | mrunSpan =>
    refine (rfl : _ = ite _ _ _).trans ?_
    simp [hr _ _, ↓hr.div_mod, ↓hr.ofNat_div, accept, hw]
  all_goals
    refine (rfl : _ = accept _ _).trans ?_
    simp [hr _ _, ↓hr.ofNat_div, accept, hw]

theorem decE_encodeEng (i : Instr) (hw : i.wf = true) (hc : slotClass i = some 5) : decE (encodeEng i) = .ok i := by
  cases i
  case engineNop s c =>
    cases s <;> cases hc
    exact decode_engineNop .e c hw fun w h => by unfold decE; rw [h]; rfl
  all_goals cases hc
  all_goals
    simp only [encodeEng, engWord_eq, bit_eq_toNat]
    refine decode_of_fits 58 (fits_engFields (by simp) (by simp [Fits])) fun w hop hr => ?_
    unfold decE
    rewrite [hop, decClause_of_reads hr]
    refine (rfl : _ = accept _ _).trans ?_
    simp [hr _ _, ↓hr.div_mod, ↓hr.ofNat_div, ↓hr.ofNat, accept, hw]

theorem decK_encodeEng (i : Instr) (hw : i.wf = true) (hc : slotClass i = some 6) : decK (encodeEng i) = .ok i := by
  cases i
  case engineNop s c =>
    cases s <;> cases hc
    exact decode_engineNop .k c hw fun w h => by unfold decK; rw [h]; rfl
  all_goals cases hc
  simp only [encodeEng, engWord_eq]
  refine decode_of_fits 58 (fits_engFields (by simp) (by simp [Fits])) fun w hop hr => ?_
  unfold decK
  rewrite [hop, decClause_of_reads hr]
  refine (rfl : _ = accept _ _).trans ?_
  simp [hr _ _, accept, hw]

theorem fits_encDest (d : NDest) : Fits 11 [(d.y.val, 8), (d.x.val, 5), (d.stage.val, 2), (d.port.val, 0)] := by
  simp [Fits]

/-- A consumer field read back from the field that holds it. -/
theorem field_encDest (d : NDest) (lo m : Nat) :
    field (encDest d) lo m = fieldAt [(d.y.val, 8), (d.x.val, 5), (d.stage.val, 2), (d.port.val, 0)] lo m :=
  field_pack (fits_encDest d)

@[simp] theorem encDest_lt_of_le (d : NDest) {n : Nat} (h : 2 ^ 11 ≤ n) : encDest d < n := (encDest_lt d).trans_le h

theorem decNode_of_reads {w op : Nat} {n : Node} (h : Reads w [(op, 58), (n.y.val, 55), (n.x.val, 52), (n.stage.val, 49),
    (n.t.val, 45), (encDest n.d0, 34), (encDest n.d1, 23), (n.imm.toNat, 7), (rmCode n.rm, 5)]) : decNode w = n := by
  simp [decNode, decDest, field_encDest, h _ _, ↓h.ofNat_div, ↓rmOf_eq_field]

/-- A plain node of a block is read back under any opcode. -/
theorem decode_encNode {op : Nat} {dec : Nat → Dec} {n : Node} {i : Node → Instr} (ho : op < 64) (hw : (i n).wf = true)
    (hd : ∀ w, w / 2 ^ 58 % 64 = op → dec w = accept (rz w 0 5) (i (decNode w))) : dec (encNode op n) = .ok (i n) := by
  refine decode_of_fits 58 (by simp [Fits, ho]) fun w hop hr => ?_
  rw [hd w hop, decNode_of_reads hr]
  simp [hr _ _, accept, hw]

/-- A consumer field with port 0 is empty. -/
theorem NDest.eq_zero_of_wf {d : NDest} (h : d.wf = true) (hp : d.port = 0) : d = ⟨0, 0, 0, 0⟩ := by
  obtain ⟨y, x, stage, port⟩ := d
  simp_all [NDest.wf]

/-- CLD and CST are read back: they have no operation. -/
theorem decode_encChain {op : Nat} {dec : Nat → Dec} {n : ChainNode} {i : ChainNode → Instr} (ho : op < 64) (h7 : op ≠ 7)
    (hw : (i n).wf = true) (ha : n.aop = 0)
    (hd : ∀ w, w / 2 ^ 58 % 64 = op → dec w = accept (rz w 0 3) (i (decChain w false))) : dec (encChain op n) = .ok (i n) := by
  obtain ⟨y, x, stage, t, d0, d1, aop, s, pred, succ⟩ := n
  subst ha
  rw [encChain, if_neg h7]
  refine decode_of_fits 58 (by simp [Fits, ho]) fun w hop hr => ?_
  rw [hd w hop]
  simp [decChain, decDest, field_encDest, hr _ _, ↓hr.ofNat_div, accept, hw]

/-- CATOM is read back: it has one consumer. -/
theorem decBlockNode_encode_catom (n : ChainNode) (hw : (Instr.catom n).wf = true) :
    decBlockNode (encChain 7 n) = .ok (.catom n) := by
  have h : ((n.place && catomOk n) && n.d1.port == 0) = true := hw
  obtain ⟨y, x, stage, t, d0, d1, aop, s, pred, succ⟩ := n
  have hd : d1 = ⟨0, 0, 0, 0⟩ := by
    simp only [Bool.and_eq_true, ChainNode.place, beq_iff_eq] at h
    exact NDest.eq_zero_of_wf (by tauto) h.2
  subst hd
  refine decode_of_fits 58 (by simp [Fits]) fun w hop hr => ?_
  unfold decBlockNode
  rewrite [hop]
  refine (rfl : _ = accept _ _).trans ?_
  simp [decChain, decDest, field_encDest, hr _ _, ↓hr.ofNat_div, accept, hw]

theorem decBlockNode_encodeNode (i : Instr) (hw : i.wf = true) (hc : slotClass i = some 7) :
    decBlockNode (encodeNode i) = .ok i := by
  cases i
  case engineNop s c => cases s <;> cases hc
  all_goals cases hc
  case catom n => exact decBlockNode_encode_catom n hw
  case cld n =>
    have h : ((n.place && tyIs n.t ElemTy.isElem) && n.aop == 0) = true := hw
    exact decode_encChain (by decide) (by decide) hw (by simp_all) fun w h => by unfold decBlockNode; rw [h]; rfl
  case cst n =>
    have h : ((((n.place && tyIs n.t ElemTy.isElem) && n.aop == 0) && n.d0.port == 0) && n.d1.port == 0) = true := hw
    exact decode_encChain (by decide) (by decide) hw (by simp_all) fun w h => by unfold decBlockNode; rw [h]; rfl
  all_goals exact decode_encNode (by decide) hw fun w h => by unfold decBlockNode; rw [h]; rfl

theorem slotClass_lt {i : Instr} {c : Nat} (h : slotClass i = some c) : c < 8 := by
  cases i
  case engineNop s e => cases s <;> cases h <;> decide
  all_goals cases h
  all_goals decide

/-- Settles O57: class by class, the fields of a packed word are read back, whatever their values. -/
theorem decodeEncode : Obligations.DecodeEncode := by
  intro i c hw hc
  rw [encode, hc]
  match c, hc, slotClass_lt hc with
  | 0, hc, _ => exact decS_encodeS i hw hc
  | 1, hc, _ => exact decV_encodeV i hw hc
  | 2, hc, _ => exact decM_encodeM i hw hc
  | 3, hc, _ => exact decB_encodeB i hw hc
  | 4, hc, _ => exact decX_encodeEng i hw hc
  | 5, hc, _ => exact decE_encodeEng i hw hc
  | 6, hc, _ => exact decK_encodeEng i hw hc
  | 7, hc, _ => exact decBlockNode_encodeNode i hw hc

/-- Settles O56: each word is decoded. -/
theorem specWords : Obligations.SpecWords := by
  unfold Obligations.SpecWords
  decide

end Sys2Proof
end

section
/-! SUPPORT. Phase ends, TRAP, NOP and headers (03 R53, R54, R76; 04 R87, R88, R99 to R103). -/

namespace Sys2Proof.Machine

/-- A predicate is not zero when it has a bit set. -/
theorem pred_bne_zero (x : Pred) : (x != 0) = decide (∃ i : Fin 16, x.getLsbD i.val = true) := by
  rw [Bool.eq_iff_iff, bne_iff_ne, decide_eq_true_iff, ne_eq, ← not_iff_not, not_not, not_exists]
  refine ⟨fun h i => by simp [h], fun h => BitVec.eq_of_getLsbD_eq fun i hi => ?_⟩
  simpa using h ⟨i, hi⟩

/-- The cycle of a stamp: its stroke offset and its cycle are one number of cycles from PHBASE. -/
theorem stampTime_eq (c : Cluster) (w : Word) : stampTime c w = c.phbase * 4096 + w.toNat := by
  unfold stampTime
  omega

theorem execPhend_eq (p : PReg) (m : BMode) (s : State) :
    execPhend p m s = .next (s.endPhase (.phend m (decide (∃ i : Fin 16, (s.ctx.rdP p).getLsbD i.val = true)))) := by
  rw [execPhend, pred_bne_zero]

/-- The bucket sizes of the current phase. -/
def Cluster.bucketSizes (c : Cluster) : List Nat := (c.cur.map (fun p => p.buckets.map (·.1))).getD []

theorem execBsel_marked {a : SReg} {s : State} (h : (s.ctx.rdS a).poison = true) : execBsel a s = .next s.poisonUse := by
  simp [execBsel, h]

theorem execBsel_unmarked {a : SReg} {s : State} (h : (s.ctx.rdS a).poison = false) :
    execBsel a s = .next (if ∀ z ∈ s.me.bucketSizes, z < ((s.ctx.rdS a).val.setWidth 32).toNat
      then s.raise 0x12 ((s.ctx.rdS a).val.setWidth 32) else s.endPhase (.bsel ((s.ctx.rdS a).val.setWidth 32).toNat)) := by
  have hd : (s.ctx.rdS a).val.toNat % 2 ^ 32 = ((s.ctx.rdS a).val.setWidth 32).toNat := by rw [BitVec.toNat_setWidth]
  have hi : BitVec.ofNat 32 ((s.ctx.rdS a).val.setWidth 32).toNat = (s.ctx.rdS a).val.setWidth 32 := BitVec.ofNat_toNat ..
  simp only [execBsel, h, hd, hi, Bool.false_eq_true, if_false]
  refine congrArg _ (if_congr ?_ rfl rfl)
  cases hc : s.me.cur <;> simp [Cluster.bucketSizes, hc]

theorem execFoldedRun_zero (s : State) : execFoldedRun 0 s = .next (s.headerFault 0x02 s.word) := rfl

theorem execFoldedRun_of_ne {n : BitVec 16} (s : State) (h : n ≠ 0) :
    execFoldedRun n s = .next (s.updCtx (fun c => { c with runLeft := if c.runLeft = 0 then n.toNat - 1 else c.runLeft - 1 })) := by
  rw [execFoldedRun, if_neg h]
  congr 2
  funext c
  split <;> rfl

/-- The state in which a stamp passed is raised: nothing commits (04 R88). -/
def State.stampLate (s : State) (late : Nat) : State :=
  { s.updCtx (fun c => c.takeFault (s.faultRec 0x71 (BitVec.ofNat 32 (min late 0xFFFFFFFF)) 0 0 0)) with stop := true }

theorem execStampedBundleIssue_eq (w : Word) (s : State) :
    execStampedBundleIssue w s = .next (if s.ctx.unstamped ∨ s.gtsOf (modOf s.cur) ≤ s.me.phbase * 4096 + w.toNat then s
      else s.stampLate (s.gtsOf (modOf s.cur) - (s.me.phbase * 4096 + w.toNat))) := by
  simp only [execStampedBundleIssue, stampTime_eq]
  rfl

theorem State.ctx_stampLate (s : State) (late : Nat) : (s.stampLate late).ctx =
    s.ctx.takeFault (s.faultRec 0x71 (BitVec.ofNat 32 (min late 0xFFFFFFFF)) 0 0 0) :=
  s.ctx_updCtx fun c => c.takeFault _

theorem toNat_ofNat_min (n : Nat) : (BitVec.ofNat 32 (min n 0xFFFFFFFF)).toNat = min n (2 ^ 32 - 1) := by
  rw [BitVec.toNat_ofNat]
  omega

/-- Settles O33, instruction by instruction. -/
theorem phaseEndsAndHeaders : Obligations.PhaseEndsAndHeaders := by
  intro s a p m code n w
  refine ⟨execPhend_eq p m s, rfl, execBsel_marked, fun h => ⟨fun hz => ?_, fun hz => ?_⟩, rfl, rfl, rfl, ?_,
    execFoldedRun_of_ne s, fun h => ?_, fun hu hl => ?_, rfl, rfl⟩
  · obtain ⟨z, hz, hd⟩ := hz
    exact (execBsel_unmarked h).trans (congrArg _ (if_neg fun hall => absurd (hall z hz) (Nat.not_lt.mpr hd)))
  · exact (execBsel_unmarked h).trans (congrArg _ (if_pos hz))
  · rintro rfl
    exact execFoldedRun_zero s
  · exact (execStampedBundleIssue_eq w s).trans (congrArg _ (if_pos h))
  · have hlate : ¬ (s.ctx.unstamped = true ∨ s.gtsOf (modOf s.cur) ≤ s.me.phbase * 4096 + w.toNat) := by
      rintro (h | h)
      · rw [hu] at h; cases h
      · exact absurd hl (Nat.not_lt.mpr h)
    refine ⟨_, (execStampedBundleIssue_eq w s).trans (congrArg _ (if_neg hlate)), rfl, ?_⟩
    rw [State.ctx_stampLate]
    exact ⟨rfl, rfl, rfl, toNat_ofNat_min _, rfl, rfl, rfl, rfl⟩

end Sys2Proof.Machine
end

section
/-! SUPPORT. The step, the issue of a cycle and the slots of a bundle (04 R78 to R89; 12 R226; 16 R314 to R316). -/

namespace Sys2Proof.Machine

/-! ### The step -/

theorem step_of_dueInput {s t : State} {i : Instr} (h : s.dueInput = some (i, t)) : step s = exec i t := by
  rw [step, State.go, h]

theorem onward_of_turn {s : State} {k : Nat} {r : List Nat} (h : s.turn = k :: r) :
    s.onward = (({ s with turn := r }.early k).issue k).late k := by
  rw [State.onward, h]
  rfl

theorem step_of_events_nil {s : State} (hi : s.dueInput = none) (he : s.events = []) : step s = .next s.onward := by
  rw [step, State.go, hi, he]

theorem step_of_event {s : State} {e : State → Out} (hi : s.dueInput = none) (he : s.events = [e]) :
    step s = if Config.pick s.free % 2 = 0 then e { s with free := s.free + 1 }
      else .next ({ s with free := s.free + 1 } : State).onward := by
  rw [step, State.go, hi, he]
  rcases Nat.mod_two_eq_zero_or_one (Config.pick s.free) with h | h <;> simp [h]

/-! ### The plan of a cycle -/

theorem plan_of_none_due {s : State} {k : Nat} (h : ∀ fw, (s.ctxOf k fw).pend.any Pend.due = false) :
    s.plan k = s.planWith k true true := by
  simp [State.plan, h]

/-- Whatever results are written, a plan is one of `planWith`. -/
theorem exists_plan_eq_planWith (s : State) (k : Nat) : ∃ lp lf, s.plan k = s.planWith k lp lf := by
  rw [State.plan]
  generalize hl : List.findSome? _ _ = o
  match o, hl with
  | none, _ => exact ⟨true, true, rfl⟩
  | some y, hl =>
    obtain ⟨⟨lp, lf⟩, -, hf⟩ := List.exists_of_findSome?_eq_some hl
    exact ⟨lp, lf, (Option.ite_none_right_eq_some.mp hf).2.symm ▸ rfl⟩

/-- Contexts that do not both issue, or of which nothing holds the other, issue as the merge says. -/
theorem joint_eq_self {s : State} {k : Nat} {p f : Ready} {g : Bool × Bool}
    (h : g ≠ (true, true) ∨ ({ s with cur := k } : State).allHolds
      (bySlot (p.instrs false (s.ctxOf k false).entry ++ f.instrs true (s.ctxOf k true).entry)) [] = []) :
    s.joint k p f g = g := by
  unfold State.joint
  rcases h with h | h
  · simp [h]
  · simp [h]

theorem plan_go_eq_merge {s : State} {k : Nat} (h : (s.plan k).st.merge k (s.plan k).p (s.plan k).f ≠ (true, true) ∨
    ({ (s.plan k).st with cur := k } : State).allHolds (bySlot ((s.plan k).p.instrs false ((s.plan k).st.ctxOf k false).entry ++
      (s.plan k).f.instrs true ((s.plan k).st.ctxOf k true).entry)) [] = []) :
    ((s.plan k).goP, (s.plan k).goF) = (s.plan k).st.merge k (s.plan k).p (s.plan k).f := by
  obtain ⟨lp, lf, hp⟩ := exists_plan_eq_planWith s k
  rw [hp] at h ⊢
  exact joint_eq_self h

/-! ### The merge -/

theorem Ready.isReady_eq_false_iff (y : Ready) : y.isReady = false ↔ y = .stall ∨ y = .count := by
  cases y <;> simp [Ready.isReady]

theorem Ready.counting_iff (y : Ready) : y.counting = true ↔ y = .count := by
  cases y <;> simp [Ready.counting]

theorem State.inWindow_iff (s : State) (k : Nat) : s.inWindow k = true ↔
    (s.cluster k).det = true ∧ 4096 - 64 * (s.cluster k).share.toNat ≤ s.cisOf (modOf k) := by
  simp [State.inWindow]

/-- Would a context that stands so issue, were the firmware not there (04 R89)? -/
def State.offers (s : State) (k : Nat) (y : Ready) : Bool := y.isReady && (!s.inWindow k || y.isLate)

/-- Do two bundles name a slot both (04 R82)? -/
def State.collide (s : State) (k : Nat) (y z : Ready) : Bool :=
  (y.mask (s.ctxOf k false).entry).any (fun m => (z.mask (s.ctxOf k true).entry).contains m)

/-- Is the firmware behind its share of the stroke (04 R82)? -/
def State.behind (s : State) (k : Nat) : Bool :=
  decide (64 * (s.cluster k).fwcnt < (s.cluster k).share.toNat * (s.cisOf (modOf k) + 1))

theorem merge_eq (s : State) (k : Nat) (y z : Ready) : s.merge k y z =
    if s.offers k y && z.isReady then
      if !s.collide k y z then (true, true) else if !(s.cluster k).det && s.behind k then (false, true) else (true, false)
    else (s.offers k y, z.isReady) := rfl

theorem merge_fst_iff (s : State) (k : Nat) (y z : Ready) : (s.merge k y z).1 = true ↔
    s.offers k y = true ∧ ¬ (z.isReady = true ∧ s.collide k y z = true ∧ (s.cluster k).det = false ∧ s.behind k = true) := by
  rw [merge_eq]
  generalize s.offers k y = o, z.isReady = r, s.collide k y z = c, (s.cluster k).det = d, s.behind k = b
  revert o r c d b
  decide

theorem merge_snd_iff (s : State) (k : Nat) (y z : Ready) : (s.merge k y z).2 = true ↔
    z.isReady = true ∧ ¬ (s.offers k y = true ∧ s.collide k y z = true ∧ ((s.cluster k).det = true ∨ ¬ s.behind k = true)) := by
  rw [merge_eq]
  generalize s.offers k y = o, z.isReady = r, s.collide k y z = c, (s.cluster k).det = d, s.behind k = b
  revert o r c d b
  decide

theorem State.offers_iff (s : State) (k : Nat) (y : Ready) : s.offers k y = true ↔ y.isReady = true ∧
    (¬ ((s.cluster k).det = true ∧ 4096 - 64 * (s.cluster k).share.toNat ≤ s.cisOf (modOf k)) ∨ y.isLate = true) := by
  rw [← State.inWindow_iff]
  simp [State.offers]

theorem State.collide_iff (s : State) (k : Nat) (y z : Ready) : s.collide k y z = true ↔
    ∃ m ∈ y.mask (s.ctxOf k false).entry, m ∈ z.mask (s.ctxOf k true).entry := by
  simp [State.collide]

theorem State.behind_iff (s : State) (k : Nat) : s.behind k = true ↔
    64 * (s.cluster k).fwcnt < (s.cluster k).share.toNat * (s.cisOf (modOf k) + 1) := decide_eq_true_iff

/-! ### The cycle counts -/

theorem Plan.counts_program_iff (x : Plan) (k : Nat) :
    x.counts k false = true ↔ x.goP = true ∨ x.p = .count ∨ x.st.inWindow k = true := by
  simp [Plan.counts, Ready.counting_iff, or_assoc]

theorem Plan.counts_firmware_iff (x : Plan) (k : Nat) : x.counts k true = true ↔ x.goF = true ∨ x.f = .count := by
  simp [Plan.counts, Ready.counting_iff]

/-! ### The issue of a cycle -/

/-- No slot of a bundle still waits in cluster `k`, no fault is pending, no wait has counted a stroke start, no checkpoint is due. -/
structure State.Plain (s : State) (k : Nat) : Prop where
  rest : ∀ fw, (s.ctxOf k fw).rest = []
  faultQ : ∀ fw, ((s.plan k).st.ctxOf k fw).faultQ = []
  strokes : ∀ fw, ((s.plan k).st.ctxOf k fw).strokes = []
  checkpoint : (s.plan k).st.checkpointDue k = false

theorem settleWaits_of_strokes_nil {s : State} {k : Nat} {fw : Bool} (h : (s.ctxOf k fw).strokes = []) : s.settleWaits k fw = s := by
  simp [State.settleWaits, h]

theorem asyncDue_of_faultQ_nil {s : State} {k : Nat} {fw : Bool} (h : (s.ctxOf k fw).faultQ = []) : s.asyncDue k fw = false := by
  simp [State.asyncDue, h]

/-- In a plain cycle the contexts issue as the plan says, and nothing else happens. -/
theorem issue_of_plain {s : State} {k : Nat} (h : s.Plain k) : s.issue k =
    (let x := s.plan k
     let u := if x.goP && x.goF && x.p.slotted && x.f.slotted then x.st.issueBoth k x.p x.f
       else (x.st.issueCtx k false x.goP x.p).issueCtx k true x.goF x.f
     let u := if x.goF then u.updCluster k (fun c => { c with fwcnt := c.fwcnt + 1 }) else u
     (u.ageIf k false (x.counts k false) false).ageIf k true (x.counts k true) false) := by
  obtain ⟨hr, hq, hs, hc⟩ := h
  simp [State.issue, settleWaits_of_strokes_nil (hs _), asyncDue_of_faultQ_nil (hq _), hr, hc]

/-! ### Standing -/

/-- The bundle that a context issues or is late for. -/
def Ready.bundle : Ready → Option Bundle
  | .issue b => some b
  | .late b => some b
  | _ => none

/-- A bundle held by nothing, judged against its stamp (04 R87, R88). -/
def State.atStamp (s : State) (k : Nat) (fw : Bool) (b : Bundle) : Ready :=
  match if (s.ctxOf k fw).unstamped then none else b.stamp with
  | none => .issue b
  | some q => if s.gtsOf (modOf k) < stampTime (s.cluster k) q then .count
    else if s.gtsOf (modOf k) = stampTime (s.cluster k) q then .issue b else .late b

theorem Ready.not_and_eq_of_bundle {y a r : Ready} {c : Prop} [Decidable c] {b : Bundle} (h : y = if c then a else r)
    (hb : y.bundle = some b) (ha : a.bundle = none) : ¬ c ∧ y = r := by
  by_cases hc : c
  · rw [if_pos hc] at h
    rw [h, ha] at hb
    cases hb
  · exact ⟨hc, by rw [h, if_neg hc]⟩

theorem atStamp_bundle {s : State} {k : Nat} {fw : Bool} {b b' : Bundle} (h : (s.atStamp k fw b).bundle = some b') : b' = b := by
  unfold State.atStamp at h
  split at h
  · exact (Option.some.inj h).symm
  · split_ifs at h
    · cases h
    · exact (Option.some.inj h).symm
    · exact (Option.some.inj h).symm

/-- A context that issues or is late runs, has nothing left to do, and stands at a fetched bundle judged against its stamp. -/
theorem readiness_of_bundle {s : State} {k : Nat} {fw : Bool} {b : Bundle} (hb : (s.readiness k fw).bundle = some b) :
    (s.ctxOf k fw).park = .run ∧ (s.ctxOf k fw).rest = [] ∧ (s.ctxOf k fw).post = [] ∧
      (s.cluster k).fetch (s.ctxOf k fw).pc.toNat = .bundle b ∧ s.readiness k fw = s.atStamp k fw b := by
  generalize hy : s.readiness k fw = y at hb ⊢
  have hcl : (s.focus k fw).me = s.cluster k := rfl
  have hcx : (s.focus k fw).ctx = s.ctxOf k fw := rfl
  unfold State.readiness at hy
  simp only [hcl, hcx] at hy
  split at hy
  case h_2 =>
    obtain ⟨-, rfl⟩ := Ready.not_and_eq_of_bundle hy.symm hb rfl
    cases hb
  case h_1 hp =>
    obtain ⟨-, hy⟩ := Ready.not_and_eq_of_bundle hy.symm hb rfl
    obtain ⟨hr, hy⟩ := Ready.not_and_eq_of_bundle hy hb rfl
    obtain ⟨ho, hy⟩ := Ready.not_and_eq_of_bundle hy hb rfl
    obtain ⟨-, hy⟩ := Ready.not_and_eq_of_bundle hy hb rfl
    obtain ⟨-, hy⟩ := Ready.not_and_eq_of_bundle hy hb rfl
    obtain ⟨-, hy⟩ := Ready.not_and_eq_of_bundle hy hb rfl
    split at hy
    case h_1 => subst hy; cases hb
    case h_2 => subst hy; cases hb
    case h_3 => subst hy; cases hb
    case h_4 b' hf =>
      obtain ⟨-, hy⟩ := Ready.not_and_eq_of_bundle hy hb rfl
      obtain ⟨-, hy⟩ := Ready.not_and_eq_of_bundle hy hb rfl
      obtain ⟨-, hy⟩ := Ready.not_and_eq_of_bundle hy hb rfl
      split at hy
      case h_1 => subst hy; cases hb
      case h_2 =>
        obtain ⟨-, hy⟩ := Ready.not_and_eq_of_bundle hy hb rfl
        have hy : y = s.atStamp k fw b' := hy
        obtain rfl := atStamp_bundle (hy ▸ hb)
        exact ⟨hp, by simpa using hr, by simpa using ho, hf, hy⟩

/-! ### Standing at a stamp -/

/-- A stamped bundle issues in its cycle. -/
theorem stamp_of_readiness_issue {s : State} {k : Nat} {fw : Bool} {b : Bundle} (h : s.readiness k fw = .issue b) {q : Word}
    (hq : b.stamp = some q) (hu : (s.ctxOf k fw).unstamped = false) : s.gtsOf (modOf k) = stampTime (s.cluster k) q := by
  obtain ⟨-, -, -, -, hy⟩ := readiness_of_bundle (b := b) (by rw [h]; rfl)
  rw [h, State.atStamp, hu, hq] at hy
  by_contra hne
  simp only [Bool.false_eq_true, if_false, if_neg hne] at hy
  split at hy <;> cases hy

/-- A bundle is late after its stamp. -/
theorem stamp_of_readiness_late {s : State} {k : Nat} {fw : Bool} {b : Bundle} (h : s.readiness k fw = .late b) :
    ∃ q, b.stamp = some q ∧ stampTime (s.cluster k) q < s.gtsOf (modOf k) := by
  obtain ⟨-, -, -, -, hy⟩ := readiness_of_bundle (b := b) (by rw [h]; rfl)
  rw [h, State.atStamp] at hy
  split at hy
  · cases hy
  next q hq =>
    refine ⟨q, (Option.ite_none_left_eq_some.mp hq).2, ?_⟩
    by_contra hle
    split_ifs at hy with hlt heq
    omega

/-! ### A context issues -/

/-- A context with a bundle to issue commits its slots from the entry slot on. -/
theorem issueCtx_issue {s : State} {k : Nat} {fw : Bool} {b : Bundle} (h : b.from fw (s.ctxOf k fw).entry ≠ []) :
    s.issueCtx k fw true (.issue b) =
      (((s.focus k fw).start b.words).commit (b.from fw (s.ctxOf k fw).entry)).closeBundle k fw := by
  have hl : (Ready.issue b).part fw (s.ctxOf k fw).entry = b.from fw (s.ctxOf k fw).entry := rfl
  change (if ((Ready.issue b).part fw (s.ctxOf k fw).entry).isEmpty then _ else _ : State).closeBundle k fw = _
  rw [hl, if_neg (by simpa using h)]
  rfl

/-- A context of which a wait faults commits the slots left of it. -/
theorem issueCtx_waitFault {s : State} {k code : Nat} {fw : Bool} {b : Bundle} {h : Hold}
    (hl : (b.from fw (s.ctxOf k fw).entry).filter (fun x => decide (x.2.1 < h.slot)) ≠ []) :
    s.issueCtx k fw true (.waitFault b code h) =
      ((((s.focus k fw).updMe (fun c => c.readAhead (s.ctxOf k fw).pc.toNat)).open b.words).commit
        ((b.from fw (s.ctxOf k fw).entry).filter (fun x => decide (x.2.1 < h.slot)))).endWait k fw code h := by
  have he : (Ready.waitFault b code h).part fw (s.ctxOf k fw).entry =
    (b.from fw (s.ctxOf k fw).entry).filter (fun x => decide (x.2.1 < h.slot)) := rfl
  change (if ((Ready.waitFault b code h).part fw (s.ctxOf k fw).entry).isEmpty then _ else _ : State).endWait k fw code h = _
  rw [he, if_neg (by simpa using hl)]
  rfl

theorem from_of_single {b : Bundle} {fw : Bool} {entry n w : Nat} (hp : b.poisonAt = none) (hs : b.slots = [(n, w)])
    (he : entry ≤ n) : b.from fw entry = [(fw, n, w, false)] := by
  simp [Bundle.from, hp, hs, he]

/-! ### A slot commits -/

/-- The state in which slot `n` of context `fw` commits its word. -/
def State.atSlot (s : State) (fw : Bool) (n w : Nat) : State :=
  { s with curFw := fw, slot := n, word := BitVec.ofNat 32 w, slotWord := BitVec.ofNat 64 w, stop := false }

theorem commitSlot_of_trapped {s : State} {fw p : Bool} {n w : Nat} (h : (s.atSlot fw n w).ctx.park = .trapped) :
    s.commitSlot (fw, n, w, p) = s.atSlot fw n w :=
  if_pos h

theorem commitSlot_of_rest {s : State} {fw p : Bool} {n w : Nat} (h : (s.atSlot fw n w).ctx.park ≠ .trapped)
    (hr : (s.atSlot fw n w).ctx.rest ≠ [] ∨ (s.atSlot fw n w).ctx.tabling = true) :
    s.commitSlot (fw, n, w, p) = (s.atSlot fw n w).updCtx (fun c => { c with rest := c.rest ++ [(n, w, p)] }) := by
  refine (if_neg h).trans (if_pos ?_)
  change (!(s.atSlot fw n w).ctx.rest.isEmpty || (s.atSlot fw n w).ctx.tabling) = true
  simpa using hr

/-- No slot left of it waits, its context has no fault, and it is a slot. -/
structure State.Commits (s : State) (fw : Bool) (n w : Nat) : Prop where
  park : (s.atSlot fw n w).ctx.park ≠ .trapped
  rest : (s.atSlot fw n w).ctx.rest = []
  tabling : (s.atSlot fw n w).ctx.tabling = false
  slot : n < 14

/-- A decoded word commits: what holds it raises its cause or leaves it waiting, else its instruction runs. -/
def State.commitInstr (v : State) (n w : Nat) (i : Instr) : State :=
  match (v.instrHold n i []).1 with
  | some h => (match v.ctx.holdFault v.me.waitlim.toNat h with
      | some code => v.raiseWait code h
      | none => v.updCtx (fun c => { c with rest := [(n, w, false)] }))
  | none => v.run (exec i)

theorem commitSlot_of_commits {s : State} {fw p : Bool} {n w : Nat} (h : s.Commits fw n w) : s.commitSlot (fw, n, w, p) =
    (let v := s.atSlot fw n w
     if p then v.raise 0x72 (BitVec.ofNat 32 v.ctx.pc.toNat)
     else match decSlot n w with
      | .ok i => v.commitInstr n w i
      | .illegalOp => v.illegalOp
      | .illegalField => v.illegalField) := by
  obtain ⟨hp, hr, ht, hn⟩ := h
  have hw : ¬ (!(s.atSlot fw n w).ctx.rest.isEmpty || (s.atSlot fw n w).ctx.tabling) = true := by simp [hr, ht]
  refine (if_neg hp).trans ((if_neg hw).trans ((if_neg (Nat.ne_of_lt hn)).trans ((if_neg ?_).trans ?_)))
  · exact fun h16 : 16 ≤ n => absurd hn (by omega)
  · cases p <;> rfl

theorem commitInstr_of_free {v t : State} {n w : Nat} {i : Instr} (h : (v.instrHold n i []).1 = none) (ht : exec i v = .next t) :
    v.commitInstr n w i = t := by
  simp [State.commitInstr, h, State.run, ht]

theorem commitInstr_of_held {v : State} {n w : Nat} {i : Instr} {h : Hold} (hh : (v.instrHold n i []).1 = some h) :
    v.commitInstr n w i = match v.ctx.holdFault v.me.waitlim.toNat h with
      | some code => v.raiseWait code h
      | none => v.updCtx (fun c => { c with rest := [(n, w, false)] }) := by
  simp only [State.commitInstr, hh]

theorem holdFault_of_not_dead {c : Ctx} {lim : Nat} {h : Hold} (hd : ∀ a m q, h ≠ .dead a m q) :
    c.holdFault lim h = if c.outlasted lim h then some 0x41 else none := by
  cases h with
  | dead a m q => exact absurd rfl (hd a m q)
  | _ => rfl

theorem not_dead_of_outlasted {c : Ctx} {lim : Nat} {h : Hold} (ho : c.outlasted lim h = true) : ∀ a m q, h ≠ .dead a m q := by
  rintro a m q rfl
  simp [Ctx.outlasted, Hold.timed] at ho

/-! ### A bundle closes -/

theorem tabling_of_post_nil {c : Ctx} (h : c.post = []) : c.tabling = false := by
  simp [Ctx.tabling, h]

theorem closeBundle_of_done {t : State} {k : Nat} {fw : Bool} (hp : (t.ctxOf k fw).park = .run) (hr : (t.ctxOf k fw).rest = [])
    (ho : (t.ctxOf k fw).post = []) (hs : (t.ctxOf k fw).swap = none) :
    t.closeBundle k fw = t.setCtxOf k fw (t.ctxOf k fw).advance := by
  simp [State.closeBundle, Ctx.epilogue, hp, hr, ho, hs, tabling_of_post_nil ho]

theorem endWait_of_not_run {t : State} {k code : Nat} {fw : Bool} {h : Hold} (hp : (t.ctxOf k fw).park ≠ .run) :
    t.endWait k fw code h = t :=
  if_pos hp

theorem endWait_of_run {t : State} {k code : Nat} {fw : Bool} {h : Hold} (hp : (t.ctxOf k fw).park = .run)
    (hr : (t.ctxOf k fw).rest = []) (ht : (t.ctxOf k fw).tabling = false) (hc : code ≠ 0x41) : t.endWait k fw code h =
      (((t.focus k fw).updCtx (fun c => { c with entry := h.slot })).raiseWait code h).updCtx (fun c => { c with strokes := [] }) := by
  simp [State.endWait, hp, hr, ht, hc]

/-! ### What the start of a bundle leaves -/

theorem ctx_updMe_readAhead (s : State) (a : Nat) : (s.updMe (fun c => c.readAhead a)).ctx = s.ctx := by
  have h : (s.me.readAhead a).ctx = s.me.ctx := by
    simp only [Cluster.readAhead]
    split <;> rfl
  change (s.updMe (fun c => c.readAhead a)).me.ctx s.curFw = s.me.ctx s.curFw
  rw [State.me_updMe, h]

theorem ctx_start (s : State) (n : Nat) :
    (s.start n).ctx = { s.ctx with seqPc := s.ctx.pc + BitVec.ofNat 22 (4 * n), strokes := [] } := by
  rw [State.start, State.begin, State.ctx_updCtx, ctx_updMe_readAhead]

/-! ### Who issues in a plain cycle -/

theorem issue_of_program {s : State} {k : Nat} (h : s.Plain k) (hp : (s.plan k).goP = true) (hf : (s.plan k).goF = false) :
    s.issue k = (((s.plan k).st.issueCtx k false true (s.plan k).p).ageIf k false true false).ageIf k true
      ((s.plan k).counts k true) false := by
  have hc : (s.plan k).counts k false = true := (Plan.counts_program_iff _ k).mpr (.inl hp)
  rw [issue_of_plain h]
  simp only [hc, hp, hf, Bool.and_false, Bool.false_and, Bool.false_eq_true, if_false]
  rfl

theorem issue_of_firmware {s : State} {k : Nat} (h : s.Plain k) (hp : (s.plan k).goP = false) (hf : (s.plan k).goF = true) :
    s.issue k = ((((s.plan k).st.issueCtx k true true (s.plan k).f).updCluster k (fun c => { c with fwcnt := c.fwcnt + 1 })).ageIf
      k false ((s.plan k).counts k false) false).ageIf k true true false := by
  have hc : (s.plan k).counts k true = true := (Plan.counts_firmware_iff _ k).mpr (.inl hf)
  rw [issue_of_plain h]
  simp only [hc, hp, hf, Bool.false_and, Bool.false_eq_true, if_false, if_true]
  rfl

/-- Two bundles that both issue commit their slots in slot order (04 R84). -/
theorem issue_of_both {s : State} {k : Nat} {b b' : Bundle} (h : s.Plain k) (hp : (s.plan k).goP = true)
    (hf : (s.plan k).goF = true) (hb : (s.plan k).p = .issue b) (hb' : (s.plan k).f = .issue b') : s.issue k =
      (let x := (s.plan k).st
       let a := (((x.focus k false).start b.words).focus k true).start b'.words
       let d := ((a.commit (bySlot (b.from false (x.ctxOf k false).entry ++ b'.from true (x.ctxOf k true).entry))).closeBundle
         k false).closeBundle k true
       ((d.updCluster k (fun c => { c with fwcnt := c.fwcnt + 1 })).ageIf k false true false).ageIf k true true false) := by
  have hc : (s.plan k).counts k false = true := (Plan.counts_program_iff _ k).mpr (.inl hp)
  have hc' : (s.plan k).counts k true = true := (Plan.counts_firmware_iff _ k).mpr (.inl hf)
  rw [issue_of_plain h]
  simp only [hc, hc', hp, hf, hb, hb', Ready.slotted, Bool.and_self, if_true]
  rfl

/-! ### A bundle of one slot -/

theorem commit_single (s : State) (x : SlotIn) : s.commit [x] = s.commitSlot x := rfl

section
variable {s t : State} {fw : Bool} {n w : Nat} {i : Instr} {h : Hold}

/-- A legal word that nothing holds runs its instruction. -/
theorem commitSlot_of_free (hc : s.Commits fw n w) (hd : decSlot n w = .ok i)
    (hn : ((s.atSlot fw n w).instrHold n i []).1 = none) (ht : exec i (s.atSlot fw n w) = .next t) :
    s.commitSlot (fw, n, w, false) = t := by
  rw [commitSlot_of_commits hc]
  simp only [hd, Bool.false_eq_true, if_false]
  exact commitInstr_of_free hn ht

theorem commitSlot_of_held (hc : s.Commits fw n w) (hd : decSlot n w = .ok i)
    (hh : ((s.atSlot fw n w).instrHold n i []).1 = some h) : s.commitSlot (fw, n, w, false) =
      match (s.atSlot fw n w).ctx.holdFault (s.atSlot fw n w).me.waitlim.toNat h with
      | some code => (s.atSlot fw n w).raiseWait code h
      | none => (s.atSlot fw n w).updCtx (fun c => { c with rest := [(n, w, false)] }) := by
  rw [commitSlot_of_commits hc]
  simp only [hd, Bool.false_eq_true, if_false]
  exact commitInstr_of_held hh

/-- A wait that nothing can satisfy any more raises DEADWAIT (16 R314). -/
theorem commitSlot_of_dead (hc : s.Commits fw n w) (hd : decSlot n w = .ok i)
    (hh : ((s.atSlot fw n w).instrHold n i []).1 = some h) (hdead : ∃ a m q, h = .dead a m q) :
    s.commitSlot (fw, n, w, false) = (s.atSlot fw n w).raiseWait 0x40 h := by
  obtain ⟨a, m, q, rfl⟩ := hdead
  exact commitSlot_of_held hc hd hh

/-- A held instruction waits in its slot. -/
theorem commitSlot_of_waiting (hc : s.Commits fw n w) (hd : decSlot n w = .ok i)
    (hh : ((s.atSlot fw n w).instrHold n i []).1 = some h) (hnd : ∀ a m q, h ≠ .dead a m q)
    (ho : (s.atSlot fw n w).ctx.outlasted (s.atSlot fw n w).me.waitlim.toNat h = false) :
    s.commitSlot (fw, n, w, false) = (s.atSlot fw n w).updCtx (fun c => { c with rest := [(n, w, false)] }) := by
  rw [commitSlot_of_held hc hd hh, holdFault_of_not_dead hnd, ho]
  rfl

/-- A wait that outlasts WAITLIM raises WAIT_TIMEOUT (16 R315). -/
theorem commitSlot_of_outlasted (hc : s.Commits fw n w) (hd : decSlot n w = .ok i)
    (hh : ((s.atSlot fw n w).instrHold n i []).1 = some h)
    (ho : (s.atSlot fw n w).ctx.outlasted (s.atSlot fw n w).me.waitlim.toNat h = true) :
    s.commitSlot (fw, n, w, false) = (s.atSlot fw n w).raiseWait 0x41 h := by
  rw [commitSlot_of_held hc hd hh, holdFault_of_not_dead (not_dead_of_outlasted ho), ho]
  rfl

theorem commitSlot_of_illegalOp (hc : s.Commits fw n w) (hd : decSlot n w = .illegalOp) :
    s.commitSlot (fw, n, w, false) = (s.atSlot fw n w).illegalOp := by
  rw [commitSlot_of_commits hc]
  simp only [hd, Bool.false_eq_true, if_false]

theorem commitSlot_of_illegalField (hc : s.Commits fw n w) (hd : decSlot n w = .illegalField) :
    s.commitSlot (fw, n, w, false) = (s.atSlot fw n w).illegalField := by
  rw [commitSlot_of_commits hc]
  simp only [hd, Bool.false_eq_true, if_false]

end

theorem commits_of_start {s : State} {k n w m : Nat} {fw : Bool} (hp : (s.ctxOf k fw).park = .run)
    (hr : (s.ctxOf k fw).rest = []) (ho : (s.ctxOf k fw).post = []) (hn : n < 14) : ((s.focus k fw).start m).Commits fw n w := by
  have hx : (((s.focus k fw).start m).atSlot fw n w).ctx =
      { s.ctxOf k fw with seqPc := (s.ctxOf k fw).pc + BitVec.ofNat 22 (4 * m), strokes := [] } := ctx_start (s.focus k fw) m
  refine ⟨?_, ?_, ?_, hn⟩
  · rw [hx]
    exact fun h => by rw [hp] at h; cases h
  · rw [hx]
    exact hr
  · rw [hx]
    exact tabling_of_post_nil ho

/-- A bundle of one slot is `exec` of its instruction. -/
theorem issueCtx_of_single {s t : State} {k n w : Nat} {fw : Bool} {b : Bundle} {i : Instr} (hq : b.poisonAt = none)
    (hs : b.slots = [(n, w)]) (he : (s.ctxOf k fw).entry ≤ n) (hc : ((s.focus k fw).start b.words).Commits fw n w)
    (hd : decSlot n w = .ok i) (hn : ((((s.focus k fw).start b.words).atSlot fw n w).instrHold n i []).1 = none)
    (ht : exec i (((s.focus k fw).start b.words).atSlot fw n w) = .next t) :
    s.issueCtx k fw true (.issue b) = t.closeBundle k fw := by
  have hl : b.from fw (s.ctxOf k fw).entry = [(fw, n, w, false)] := from_of_single hq hs he
  rw [issueCtx_issue (by rw [hl]; exact List.cons_ne_nil _ _), hl, commit_single, commitSlot_of_free hc hd hn ht]

/-- Settles O58, clause by clause: the step, the plan, the merge, the issue, the standing, the bundle, its slots. -/
theorem stepRunsDecodedInstruction : Obligations.StepRunsDecodedInstruction := by
  intro s t i k n w code p r fw b b' h e y z x u entry at_ v plain c window behind collide
  have toPlain (hx : plain) : s.Plain k := ⟨fun z => (hx.1 z).1, fun z => (hx.1 z).2.1, fun z => (hx.1 z).2.2, hx.2⟩
  refine ⟨step_of_dueInput, fun hi he ht => ?step, fun hi he hf => ?event, fun hi he hf ht => ?cycle, plan_of_none_due, ?_⟩
  case step => rw [step_of_events_nil hi he, onward_of_turn ht]
  case event => rw [step_of_event hi he, if_pos hf]
  case cycle =>
    rw [step_of_event hi he, if_neg (by omega)]
    exact congrArg _ (onward_of_turn ht)
  refine ⟨?program, ?firmware, y.isReady_eq_false_iff, plan_go_eq_merge, ?counts, x.counts_firmware_iff k, ?_⟩
  case program => rw [merge_fst_iff, State.offers_iff, State.collide_iff, State.behind_iff, and_assoc]
  case firmware => rw [merge_snd_iff, State.offers_iff, State.collide_iff, State.behind_iff, and_assoc]
  case counts => exact (x.counts_program_iff k).trans (or_congr_right (or_congr_right (x.st.inWindow_iff k)))
  refine ⟨fun hx hp hf hb => ?program, fun hx hp hf hb => ?firmware,
    fun hx hp hf hb hb' => issue_of_both (toPlain hx) hp hf hb hb', fun hy => ?issue, fun hy => ?late, ?_⟩
  case program => rw [issue_of_program (toPlain hx) hp hf, hb]
  case firmware => rw [issue_of_firmware (toPlain hx) hp hf, hb]
  case issue =>
    obtain ⟨hp, hr, ho, hf, -⟩ := readiness_of_bundle (b := b) (by rw [hy]; rfl)
    exact ⟨hp, hr, ho, hf, fun q hq hu => stamp_of_readiness_issue hy hq hu⟩
  case late =>
    obtain ⟨-, -, -, hf, -⟩ := readiness_of_bundle (b := b) (by rw [hy]; rfl)
    exact ⟨hf, stamp_of_readiness_late hy⟩
  refine ⟨issueCtx_issue, fun hq hs he hn hp hr ho => issueCtx_of_single hq hs he (commits_of_start hp hr ho hn),
    closeBundle_of_done, issueCtx_waitFault, endWait_of_not_run, endWait_of_run, commitSlot_of_trapped, commitSlot_of_rest,
    fun hp hr ht hn => ?_⟩
  have hc : s.Commits fw n w := ⟨hp, hr, ht, hn⟩
  refine ⟨?_, ?_⟩
  · rintro rfl
    exact commitSlot_of_commits hc
  · rintro rfl
    exact ⟨commitSlot_of_free hc, fun hd hh => ⟨commitSlot_of_dead hc hd hh, commitSlot_of_waiting hc hd hh,
      commitSlot_of_outlasted hc hd hh⟩, commitSlot_of_illegalOp hc, commitSlot_of_illegalField hc⟩

end Sys2Proof.Machine
end

section
/-! SUPPORT. Transfers of control and hardware loops (04 R90 to R98). -/

namespace Sys2Proof.Machine

theorem pcRel_eq (pc : BitVec 22) (off : Int) : pcRel pc off = pc + BitVec.ofInt 22 (4 * off) := by
  rw [pcRel, BitVec.ofInt_add, BitVec.ofInt_natCast, BitVec.ofNat_toNat, BitVec.setWidth_eq]

/-! ### Predicates as branch conditions -/

theorem pred_eq_zero_iff (y : Pred) : y = 0 ↔ ∀ i < 16, y.getLsbD i = false := by
  refine ⟨fun h i _ => by simp [h], fun h => BitVec.eq_of_getLsbD_eq fun i hi => ?_⟩
  simpa using h i hi

theorem pred_eq_ones_iff (y : Pred) : y = 0xFFFF ↔ ∀ i < 16, y.getLsbD i = true := by
  have ones : (0xFFFF : Pred) = BitVec.allOnes 16 := rfl
  refine ⟨fun h i hi => by rw [h, ones, BitVec.getLsbD_allOnes, decide_eq_true hi],
    fun h => BitVec.eq_of_getLsbD_eq fun i hi => ?_⟩
  rw [h i hi, ones, BitVec.getLsbD_allOnes, decide_eq_true hi]

/-- BRP takes its transfer exactly where its reading of the predicate holds. -/
theorem execBrp_iff {p : PReg} {m : BMode} {off : BitVec 20} {s : State} {P : Prop} (h : predHolds m (s.ctx.rdP p) = true ↔ P) :
    (P → execBrp p m off s = .next (s.transfer (s.ctx.pc + BitVec.ofInt 22 (4 * off.toInt)))) ∧
    (¬ P → execBrp p m off s = .next s) := by
  rw [execBrp, pcRel_eq]
  exact ⟨fun hp => congrArg _ (if_pos (h.mpr hp)), fun hp => congrArg _ (if_neg (mt h.mp hp))⟩

/-- BRC of an unmarked register takes its transfer exactly where its condition holds. -/
theorem execBrc_iff {a : SReg} {cc : BCond} {off : BitVec 18} {s : State} {P : Prop} (hx : (s.ctx.rdS a).poison = false)
    (h : condHolds cc (s.ctx.rdS a).val.toInt = true ↔ P) :
    (P → execBrc a cc off s = .next (s.transfer (s.ctx.pc + BitVec.ofInt 22 (4 * off.toInt)))) ∧
    (¬ P → execBrc a cc off s = .next s) := by
  simp only [execBrc, pcRel_eq, hx, Bool.false_eq_true, if_false]
  exact ⟨fun hp => congrArg _ (if_pos (h.mpr hp)), fun hp => congrArg _ (if_neg (mt h.mp hp))⟩

theorem execBru_uniform {p : PReg} {sense : Bool} {off : BitVec 20} {s : State}
    (h : s.ctx.rdP p = 0 ∨ s.ctx.rdP p = 0xFFFF) :
    execBru p sense off s = .next (if s.ctx.rdP p = (if sense then 0 else 0xFFFF)
      then s.transfer (s.ctx.pc + BitVec.ofInt 22 (4 * off.toInt)) else s) := by
  rw [execBru, pcRel_eq]
  exact congrArg _ (if_neg fun ⟨h0, h1⟩ => h.elim h0 h1)

theorem execBru_mixed {p : PReg} {sense : Bool} {off : BitVec 20} {s : State} (h0 : s.ctx.rdP p ≠ 0) (h1 : s.ctx.rdP p ≠ 0xFFFF) :
    execBru p sense off s = .next (s.raise 0x10 ((s.ctx.rdP p).setWidth 32)) := by
  rw [execBru, ← BitVec.ofNat_toNat]
  exact congrArg _ (if_pos ⟨h0, h1⟩)

/-! ### Transfers through a register -/

theorem aligned_iff (v : DWord) :
    (v.setWidth 22).toNat % 4 = 0 ↔ v.getLsbD 0 = false ∧ v.getLsbD 1 = false := by
  have h0 : v.getLsbD 0 = decide (v.toNat % 2 = 1) := by rw [BitVec.getLsbD, Nat.testBit_zero]
  have h1 : v.getLsbD 1 = decide (v.toNat / 2 % 2 = 1) := by rw [BitVec.getLsbD, Nat.testBit_succ, Nat.testBit_zero]
  rw [h0, h1, BitVec.toNat_setWidth, decide_eq_false_iff_not, decide_eq_false_iff_not]
  omega

theorem State.transferReg_marked {s : State} {x : SVal} (h : x.poison = true) : s.transferReg x = s.poisonUse x.val.toNat := by
  simp [State.transferReg, h]

theorem State.transferReg_unmarked {s : State} {x : SVal} (h : x.poison = false) :
    s.transferReg x = if x.val.getLsbD 0 = false ∧ x.val.getLsbD 1 = false then s.transfer (x.val.setWidth 22)
      else s.raise 0x06 ((x.val.setWidth 22).setWidth 32) := by
  simp only [State.transferReg, h, Bool.false_eq_true, if_false, ne_eq, BitVec.ofNat_toNat, aligned_iff, ite_not]

/-- What JMPI and RET do with the register they read. -/
theorem transferReg_cases (s : State) (x : SVal) :
    (x.poison = true → s.transferReg x = s.poisonUse x.val.toNat) ∧
    (x.poison = false →
      ((x.val.getLsbD 0 = true ∨ x.val.getLsbD 1 = true) → s.transferReg x = s.raise 0x06 ((x.val.setWidth 22).setWidth 32)) ∧
      ((x.val.getLsbD 0 = false ∧ x.val.getLsbD 1 = false) → s.transferReg x = s.transfer (x.val.setWidth 22))) := by
  refine ⟨State.transferReg_marked, fun h => ⟨fun ho => ?_, fun hz => ?_⟩⟩ <;> rw [State.transferReg_unmarked h]
  · refine if_neg fun ⟨h0, h1⟩ => ?_
    rcases ho with ho | ho
    · exact absurd (h0.symm.trans ho) Bool.false_ne_true
    · exact absurd (h1.symm.trans ho) Bool.false_ne_true
  · exact if_pos hz

/-- Settles O31, transfer by transfer. -/
theorem controlTransfers : Obligations.ControlTransfers := by
  intro s a p o26 o18 o20 c goTo rel x y brc brp jump
  have jumps (i : Instr) (z : SVal) (hi : exec i s = .next (s.transferReg z)) : jump i z := by
    obtain ⟨hm, hu⟩ := transferReg_cases s z
    exact ⟨fun h => hi.trans (congrArg _ (hm h)), fun h => ⟨fun ho => hi.trans (congrArg _ ((hu h).1 ho)),
      fun hz => hi.trans (congrArg _ ((hu h).2 hz))⟩⟩
  refine ⟨?br, ?call, ?marked, fun hx => ⟨?eq, ?ne, ?lt, ?ge, ?gt, ?le⟩, ?any, ?all, ?none, ?ones, ?zero, ?mixed,
    jumps _ _ rfl, jumps _ _ rfl⟩
  case br => exact congrArg (fun t => Host.Outcome.next (s.transfer t)) (pcRel_eq c.pc o26.toInt)
  case call =>
    show execCall o26 s = _
    rw [execCall, pcRel_eq, BitVec.ofNat_toNat]
    rfl
  case marked => exact fun h cc => congrArg _ (if_pos h)
  case eq => exact execBrc_iff hx (beq_iff_eq.trans (BitVec.toInt_inj (x := x.val) (y := 0)))
  case ne => exact execBrc_iff hx (bne_iff_ne.trans (not_congr (BitVec.toInt_inj (x := x.val) (y := 0))))
  case lt => exact execBrc_iff hx decide_eq_true_iff
  case ge => exact execBrc_iff hx decide_eq_true_iff
  case gt => exact execBrc_iff hx decide_eq_true_iff
  case le => exact execBrc_iff hx decide_eq_true_iff
  case any =>
    refine execBrp_iff ?_
    rw [predHolds, bne_iff_ne, ne_eq, pred_eq_zero_iff]
    simp [y, c]
  case all => exact execBrp_iff (by rw [predHolds, beq_iff_eq, pred_eq_ones_iff])
  case none => exact execBrp_iff (by rw [predHolds, beq_iff_eq, pred_eq_zero_iff])
  case ones =>
    intro h
    exact ⟨(execBru_uniform (.inr h)).trans (congrArg _ (if_pos h)),
      (execBru_uniform (.inr h)).trans (congrArg _ (if_neg (by rw [show s.ctx.rdP p = 0xFFFF from h]; decide)))⟩
  case zero =>
    intro h
    exact ⟨(execBru_uniform (.inl h)).trans (congrArg _ (if_pos h)),
      (execBru_uniform (.inl h)).trans (congrArg _ (if_neg (by rw [show s.ctx.rdP p = 0 from h]; decide)))⟩
  case mixed =>
    intro h0 h1 b
    exact (execBru_mixed h0 h1)

/-! ### Hardware loops -/

/-- The loops from the one of a counter on, innermost first: those that end with it (04 R95, R98). -/
def fromLoop (lc : Fin 3) (ls : List Loop) : List Loop := ls.dropWhile (fun l => l.lc != lc)

theorem dropLoop_eq (lc : Fin 3) (ls : List Loop) : dropLoop lc ls = (fromLoop lc ls).head?.map (·, (fromLoop lc ls).tail) := by
  induction ls with
  | nil => rfl
  | cons l r ih => by_cases h : l.lc = lc <;> simp_all [fromLoop, dropLoop]

theorem dropLoop_of_inactive {lc : Fin 3} {ls : List Loop} (h : fromLoop lc ls = []) : dropLoop lc ls = none := by
  rw [dropLoop_eq, h, List.head?_nil, Option.map_none]

theorem dropLoop_of_active {lc : Fin 3} {ls r : List Loop} {l : Loop} (h : fromLoop lc ls = l :: r) :
    dropLoop lc ls = some (l, r) := by
  rw [dropLoop_eq, h, List.head?_cons, Option.map_some, List.tail_cons]

/-- LOOP and LOOPI of a count of 0 pass over the loop (04 R95). -/
theorem State.startLoop_zero (s : State) (lc : Fin 3) (step : Int) (e : Nat) :
    s.startLoop lc 0 step e = s.updCtx (fun c => { c with seqPc := s.ctx.pc + BitVec.ofNat 22 (4 * e) }) := by
  rw [State.startLoop, if_pos rfl, pcRel_eq, ← BitVec.ofInt_natCast]
  rfl

/-- A loop that starts discards its counter's old one and those started after it, and lands its first value (04 R95). -/
theorem State.startLoop_pos (s : State) (lc : Fin 3) {n : Nat} (step : Int) (e : Nat) (h : n ≠ 0) :
    s.startLoop lc n step e = (s.updCtx (fun c => { c with
        loops := ⟨lc, n, step, s.ctx.pc + BitVec.ofNat 22 (4 * e), c.seqPc⟩ ::
          (if fromLoop lc s.ctx.loops = [] then s.ctx.loops else (fromLoop lc s.ctx.loops).tail) })).push 1
      (.lcSet lc (if step > 0 then 0 else BitVec.ofInt 64 ((n - 1 : Int) * (0 - step)))) := by
  have hn : ((n - 1 : Nat) : Int) = (n : Int) - 1 := by omega
  have ht : pcRel s.ctx.pc (e : Int) = s.ctx.pc + BitVec.ofNat 22 (4 * e) := by rw [pcRel_eq, ← BitVec.ofInt_natCast]; rfl
  cases hr : fromLoop lc s.ctx.loops with
  | nil => simp [State.startLoop, h, dropLoop_of_inactive hr, ht, hn, apply_ite (BitVec.ofInt 64)]
  | cons l r => simp [State.startLoop, h, dropLoop_of_active hr, ht, hn, apply_ite (BitVec.ofInt 64)]

/-- The checks that LOOP and LOOPI share, in their order, and the start of the loop (04 R95; log 13). -/
def State.tryLoop (s : State) (lc : Fin 3) (marked : Bool) (n : Nat) (step : BitVec 4) (e : Nat) : State :=
  if step = 0 then s.raise 0x11 0
  else if e ≤ s.ctx.bundleWords then s.illegalField
  else if marked then s.poisonUse
  else s.startLoop lc n step.toInt e

theorem execLoop_eq (lc : Fin 3) (a : SReg) (step : BitVec 4) (e : BitVec 15) (s : State) :
    execLoop lc a step e s =
      .next (s.tryLoop lc (s.ctx.rdS a).poison ((s.ctx.rdS a).val.setWidth 32).toNat step e.toNat) := by
  rw [BitVec.toNat_setWidth]
  rfl

theorem execLoopi_eq (lc : Fin 3) (count : BitVec 10) (step : BitVec 4) (e : BitVec 10) (s : State) :
    execLoopi lc count step e s = .next (s.tryLoop lc false count.toNat step e.toNat) := rfl

theorem State.tryLoop_zero (s : State) (lc : Fin 3) (marked : Bool) (n e : Nat) :
    s.tryLoop lc marked n 0 e = s.raise 0x11 0 := if_pos rfl

section
variable {s : State} {lc : Fin 3} {marked : Bool} {n e : Nat} {step : BitVec 4} (hs : step ≠ 0)
include hs

theorem State.tryLoop_within (he : e ≤ s.ctx.bundleWords) : s.tryLoop lc marked n step e = s.illegalField :=
  (if_neg hs).trans (if_pos he)

theorem State.tryLoop_marked (he : s.ctx.bundleWords < e) (hm : marked = true) :
    s.tryLoop lc marked n step e = s.poisonUse :=
  (if_neg hs).trans ((if_neg (Nat.not_le.mpr he)).trans (if_pos hm))

theorem State.tryLoop_unmarked (he : s.ctx.bundleWords < e) (hm : ¬ marked = true) :
    s.tryLoop lc marked n step e = s.startLoop lc n step.toInt e :=
  (if_neg hs).trans ((if_neg (Nat.not_le.mpr he)).trans (if_neg hm))

end

/-! ### The loop-end check -/

theorem Ctx.advance_of_target {d : Ctx} {t : BitVec 22} (h : d.target = some t) :
    d.advance = { d with pc := t, target := none, entry := 0, unstamped := false } := by
  simp [Ctx.advance, Ctx.advanceAt, h]

section
variable {d : Ctx} {l : Loop} {r : List Loop} (ht : d.target = none)
include ht

/-- No loop, or an innermost one that ends elsewhere: the next address in order. -/
theorem Ctx.advance_sequential (h : ∀ l ∈ d.loops.head?, l.loopend ≠ d.seqPc) :
    d.advance = { d with pc := d.seqPc, entry := 0, unstamped := false } := by
  have hl : loopEnd d.seqPc d.loops = (d.loops, d.seqPc, none) := by
    cases hd : d.loops with
    | nil => rfl
    | cons l r => simp [loopEnd, h l (by simp [hd])]
  simp [Ctx.advance, Ctx.advanceAt, ht, hl]

/-- Another pass: back to the start, with the counter's step in flight. -/
theorem Ctx.advance_again (hd : d.loops = l :: r) (he : l.loopend = d.seqPc) (hn : 1 < l.remaining) :
    d.advance = { d with pc := l.start, loops := { l with remaining := l.remaining - 1 } :: r, entry := 0, unstamped := false,
                         pend := d.pend ++ [mkPend 1 (.lcStep l.lc l.step)] } := by
  simp [Ctx.advance, Ctx.advanceAt, ht, hd, loopEnd, he, hn, Ctx.push]

/-- The last pass ends the loop, and the check goes on with the loop around it. -/
theorem Ctx.advance_last (hd : d.loops = l :: r) (he : l.loopend = d.seqPc) (hn : l.remaining ≤ 1) :
    d.advance = ({ d with loops := r } : Ctx).advance := by
  simp [Ctx.advance, Ctx.advanceAt, ht, hd, loopEnd, he, Nat.not_lt.mpr hn]

end

/-- Settles O32: the checks and the start of LOOP and LOOPI, LEXIT, and the loop-end check case by case. -/
theorem hardwareLoops : Obligations.HardwareLoops := by
  intro s lc a step e15 count e10 d c x words rest start loops
  have started (n e : Nat) : s.startLoop lc n step.toInt e = start n e := by
    by_cases h : n = 0
    · rw [h, State.startLoop_zero]
      rfl
    · rw [State.startLoop_pos s lc step.toInt e h]
      exact (if_neg h).symm
  have tried (i : Instr) (m : Bool) (n e : Nat) (P : Prop) (hi : exec i s = .next (s.tryLoop lc m n step e))
      (hP : m = true ↔ P) : loops i n e P := by
    rw [← hP]
    refine ⟨?_, fun hs => ⟨fun he => hi.trans (congrArg _ (State.tryLoop_within hs he)), fun he =>
      ⟨fun hm => hi.trans (congrArg _ (State.tryLoop_marked hs he hm)), fun hm => hi.trans (congrArg _ ?_)⟩⟩⟩
    · rintro rfl
      exact hi.trans (congrArg _ (s.tryLoop_zero lc m n e))
    · exact (State.tryLoop_unmarked hs he hm).trans (started n e)
  refine ⟨tried _ _ _ _ _ (execLoop_eq lc a step e15 s) Iff.rfl,
    tried _ false _ _ _ (execLoopi_eq lc count step e10 s) (iff_of_false Bool.false_ne_true id), fun h => ?inactive,
    fun l r h => ?active, fun t ht => Ctx.advance_of_target ht, fun ht => ⟨fun hd => ?none, fun l r hd =>
      ⟨fun he => ?elsewhere, Ctx.advance_again ht hd, Ctx.advance_last ht hd⟩⟩⟩
  case inactive =>
    show execLexit lc s = _
    rw [execLexit, dropLoop_of_inactive h]
  case active =>
    show execLexit lc s = _
    rw [execLexit, dropLoop_of_active h]
    rfl
  case none => exact Ctx.advance_sequential ht (by simp [hd])
  case elsewhere => exact Ctx.advance_sequential ht (by simpa [hd] using he)

end Sys2Proof.Machine
end

section
/-! SUPPORT. The landing of results in flight (04 R80; 05 R105, R109 to R111): what one landing gives each field of the
context and of the cluster, and what the landings of a cycle give them together. -/

namespace Sys2Proof.Machine

/-! ### Bit fields as slices of a word -/

theorem ofNat_fld (v : DWord) (lo n : Nat) : BitVec.ofNat n (fld v.toNat lo n) = v.extractLsb' lo n := by
  apply BitVec.eq_of_toNat_eq
  simp [fld, BitVec.extractLsb'_toNat, Nat.shiftRight_eq_div_pow]

theorem ofNat_toNat_setWidth (v : DWord) (n : Nat) : BitVec.ofNat n v.toNat = v.setWidth n := BitVec.ofNat_toNat ..

theorem bitAt_toNat (v : DWord) (i : Nat) : bitAt v.toNat i = v.getLsbD i := by
  rw [bitAt, BitVec.getLsbD, Nat.testBit_eq_decide_div_mod_eq]
  exact beq_eq_decide ..

/-! ### Folds whose last hit decides -/

/-- What the last element that `f` hits gives, else what stood before. -/
theorem foldl_getLast {γ α δ : Type} (f : γ → Option α) (g : α → δ) (l : List γ) (y : δ) :
    l.foldl (fun y d => ((f d).map g).getD y) y = ((l.filterMap f).getLast?.map g).getD y := by
  induction l using List.reverseRecOn with
  | nil => rfl
  | append_singleton l d ih =>
    rw [List.foldl_append, List.filterMap_append, List.getLast?_append, ih]
    cases h : f d <;> simp [h]

/-! ### One landing, field by field -/

/-- The 64-bit value of a CSRW of register `n`. -/
def csrOf (n : Nat) : Dest → Option DWord
  | .csr k v => if k.toNat = n then some v else none
  | _ => none

/-- A context with the fields of register `n` written by a CSRW (05 R110, Tables 5.3 to 5.10). -/
def Ctx.csrWritten (x : Ctx) (n : Nat) (v : DWord) : Ctx := { x with
  status := if n = 0x000 then v.setWidth 12 &&& 0xF1F else x.status
  info := if n = 0x001 then v.extractLsb' 32 32 else x.info
  swcode := if n = 0x001 then v.extractLsb' 8 11 else x.swcode
  code := if n = 0x001 then v.setWidth 7 else x.code
  slotres := if n = 0x002 then v.setWidth 4 else x.slotres
  nseed := if n = 0x020 then v else x.nseed
  nstep := if n = 0x021 then v else x.nstep
  qscale := if n = 0x030 then v.setWidth 32 else x.qscale
  qlimit := if n = 0x031 then v.extractLsb' 8 16 else x.qlimit
  qrefit := if n = 0x031 then v.getLsbD 0 else x.qrefit
  qclip := if n = 0x032 then v.setWidth 32 else x.qclip
  qzero := if n = 0x033 then v.setWidth 32 else x.qzero
  qlast := if n = 0x034 then v.extractLsb' 32 32 else x.qlast
  qrefits := if n = 0x034 then v.setWidth 32 else x.qrefits
  lc := if n = 0x070 then x.lc.set 0 v else if n = 0x071 then x.lc.set 1 v else if n = 0x072 then x.lc.set 2 v else x.lc }

theorem Ctx.csrSet_eq (x : Ctx) (n : Nat) (v : DWord) : x.csrSet n v = x.csrWritten n v := by
  simp only [Ctx.csrWritten, ← ofNat_fld, ← ofNat_toNat_setWidth, ← bitAt_toNat]
  unfold Ctx.csrSet
  split <;> simp_all

/-- A cluster with the fields of register `n` written by a CSRW. -/
def Cluster.csrWritten (c : Cluster) (n : Nat) (v : DWord) : Cluster := { c with
  share := if n = 0x008 then v.extractLsb' 8 6 else c.share
  chainlim := if n = 0x050 then v.setWidth 16 else c.chainlim
  waitlim := if n = 0x051 then v.setWidth 16 else c.waitlim
  ckpt := if n = 0x060 then v.setWidth 16 else c.ckpt }

theorem Cluster.csrSet_eq (c : Cluster) (n : Nat) (v : DWord) : c.csrSet n v = c.csrWritten n v := by
  simp only [Cluster.csrWritten, ← ofNat_fld, ← ofNat_toNat_setWidth]
  unfold Cluster.csrSet
  split <;> simp_all

/-- What a landing does to its context, as changes of fields; `fw` and `st` are for the CSRW of STATUS, which keeps the flags
that units have set in the same cycle in the program's (05 R111). -/
def Ctx.landed (fw : Bool) (st : Flags) (x : Ctx) : Dest → Ctx
  | .sreg r v => { x with s := if r = 0 then x.s else x.s.set r v }
  | .vreg r m v => { x with v := x.v.set r (mergeLanes m v x.v[r]) }
  | .preg r m v => { x with p := if r = 0 then x.p else x.p.set r ((x.p[r] &&& ~~~m) ||| (v &&& m)) }
  | .lcSet i v => { x with lc := x.lc.set i v }
  | .lcStep i n => { x with lc := x.lc.set i (x.lc[i] + BitVec.ofInt 64 n) }
  | .flags f => { x with status := x.status ||| f }
  | .csr k v => { x.csrWritten k.toNat v with
      status := if k.toNat = 0x000 then (v.setWidth 12 &&& 0xF1F) ||| (if fw then 0 else st) else x.status }
  | .quant nc nz sc grp => { x with
      qclip := capAdd x.qclip nc
      qzero := capAdd x.qzero nz
      qscale := sc.getD x.qscale
      qrefits := capAdd x.qrefits (if sc.isSome then 1 else 0)
      qlast := if sc.isSome then grp else x.qlast }
  | _ => x

/-- What a landing does to the rest of its cluster. -/
def Cluster.landed (c : Cluster) : Dest → Cluster
  | .csr k v => c.csrWritten k.toNat v
  | .semAdd n i => { c with semIncs := c.semIncs ++ [(n, i)] }
  | .semSet n v o => { c with semSets := insSet (o, n, v) c.semSets }
  | .barInit n count rg => { c with bar := c.bar.set n { c.bar[n] with count := count, arr := 0, rg := rg } }
  | _ => c

/-- A cluster whose context is put back as it stood. -/
theorem Cluster.setCtx_ctx (c : Cluster) (fw : Bool) : c.setCtx fw (c.ctx fw) = c := by cases fw <;> rfl

theorem Cluster.landed_setCtx (c : Cluster) (fw : Bool) (x : Ctx) (d : Dest) :
    (c.setCtx fw x).landed d = (c.landed d).setCtx fw x := by
  cases d <;> cases fw <;> rfl

theorem Cluster.landed_ctx (c : Cluster) (fw : Bool) (d : Dest) : (c.landed d).ctx fw = c.ctx fw := by
  cases d <;> cases fw <;> rfl

theorem Cluster.landed_statusIn (c : Cluster) (d : Dest) : (c.landed d).statusIn = c.statusIn := by
  cases d <;> rfl

/-- A landing changes its context and the rest of its cluster, each for itself. -/
theorem landDest_eq (fw : Bool) (c : Cluster) (d : Dest) :
    landDest fw c d = (c.landed d).setCtx fw ((c.ctx fw).landed fw c.statusIn d) := by
  have land_shared (d : Dest) (hd : landDest fw c d = c.landed d) (hx : (c.ctx fw).landed fw c.statusIn d = c.ctx fw) :
      landDest fw c d = (c.landed d).setCtx fw ((c.ctx fw).landed fw c.statusIn d) := by
    rw [hd, hx, ← c.landed_ctx fw d, Cluster.setCtx_ctx]
  cases d with
  | sreg r v =>
    refine congrArg (c.setCtx fw) ?_
    by_cases h : r = 0 <;> simp [Ctx.wrS, Ctx.landed, h]
  | preg r m v =>
    refine congrArg (c.setCtx fw) ?_
    by_cases h : r = 0 <;> simp [Ctx.wrP, Ctx.landed, h]
  | csr k v =>
    have hk : k = 0 ↔ k.toNat = 0x000 := (BitVec.toNat_inj (x := k) (y := 0)).symm
    rw [landDest, Cluster.csrSet_eq]
    refine (c.landed_setCtx fw _ (.csr k v)).trans (congrArg ((c.landed (.csr k v)).setCtx fw) ?_)
    simp only [Ctx.landed, Ctx.csrSet_eq, Ctx.csrWritten, hk]
    by_cases h : k.toNat = 0x000 <;> cases fw <;> simp [h]
  | semAdd n i => exact land_shared _ rfl rfl
  | semSet n v o => exact land_shared _ rfl rfl
  | barInit n k rg => exact land_shared _ rfl rfl
  | _ => rfl

/-! ### The landings of a cycle -/

@[simp] theorem Dest.isCsr_csr (k : BitVec 12) (v : DWord) : (Dest.csr k v).isCsr = true := rfl

theorem Dest.csr_or_not (d : Dest) : (∃ k v, d = .csr k v) ∨ d.isCsr = false := by
  cases d with
  | csr k v => exact .inl ⟨k, v, rfl⟩
  | _ => exact .inr rfl

theorem csrOf_of_not {d : Dest} (h : d.isCsr = false) (n : Nat) : csrOf n d = none := by
  cases d with
  | csr k v => cases h
  | _ => rfl

/-- Results written as a cycle starts: the CSRWs first, then the others in issue order (05 R109, R111). -/
def landIn {β : Type} (land : β → Dest → β) (x : β) (due : List Pend) : β :=
  (due.filter (fun p => !p.dest.isCsr)).foldl (fun x p => land x p.dest)
    ((due.filter (fun p => p.dest.isCsr)).foldl (fun x p => land x p.dest) x)

theorem foldl_landDest (fw : Bool) (due : List Pend) (c : Cluster) (x : Ctx) :
    due.foldl (fun c p => landDest fw c p.dest) (c.setCtx fw x) =
      (due.foldl (fun c p => c.landed p.dest) c).setCtx fw (due.foldl (fun x p => x.landed fw c.statusIn p.dest) x) := by
  induction due generalizing c x with
  | nil => rfl
  | cons p due ih =>
    rw [List.foldl_cons, landDest_eq, Cluster.landed_setCtx, Cluster.setCtx_setCtx, Cluster.ctx_setCtx_self, ih,
      Cluster.landed_statusIn, Cluster.setCtx_statusIn]
    rfl

theorem foldl_landed_statusIn (due : List Pend) (c : Cluster) :
    (due.foldl (fun c p => c.landed p.dest) c).statusIn = c.statusIn := by
  induction due generalizing c with
  | nil => rfl
  | cons p due ih => rw [List.foldl_cons, ih, Cluster.landed_statusIn]

/-- The results of a context that are due leave those in flight and land, in the context and in the rest of the cluster. -/
theorem Cluster.landAll_eq (c : Cluster) (fw : Bool) : c.landAll fw =
    (landIn Cluster.landed c ((c.ctx fw).pend.filter Pend.due)).setCtx fw
      (landIn (fun x d => x.landed fw c.statusIn d) { c.ctx fw with pend := (c.ctx fw).pend.filter (fun p => !p.due) }
        ((c.ctx fw).pend.filter Pend.due)) := by
  rw [Cluster.landAll, foldl_landDest, foldl_landDest, foldl_landed_statusIn]
  rfl

section
variable {β δ α : Type} {land : β → Dest → β} {π : β → δ} {step : δ → Dest → δ} {n : Nat} {g : DWord → δ} {f : Dest → Option α}

/-- A field that the other results change one by one, and CSRWs do not count. -/
theorem foldl_land_others (hr : ∀ x d, d.isCsr = false → π (land x d) = step (π x) d) (hs : ∀ y k v, step y (.csr k v) = y)
    (l : List Pend) (x : β) :
    π ((l.filter (fun p => !p.dest.isCsr)).foldl (fun x p => land x p.dest) x) = l.foldl (fun y p => step y p.dest) (π x) := by
  induction l generalizing x with
  | nil => rfl
  | cons p l ih =>
    obtain ⟨k, v, hp⟩ | hp := p.dest.csr_or_not
    · simp [hp, hs, ih]
    · simp [hp, hr, ih]

/-- A field that the CSRWs of register `n` write: the last one decides. -/
theorem foldl_land_csrs (hc : ∀ x k v, π (land x (.csr k v)) = if k.toNat = n then g v else π x) (l : List Pend) (x : β) :
    π ((l.filter (fun p => p.dest.isCsr)).foldl (fun x p => land x p.dest) x) =
      ((l.filterMap (fun p => csrOf n p.dest)).getLast?.map g).getD (π x) := by
  rw [← foldl_getLast]
  induction l generalizing x with
  | nil => rfl
  | cons p l ih =>
    obtain ⟨k, v, hp⟩ | hp := p.dest.csr_or_not
    · by_cases h : k.toNat = n <;> simp [hp, csrOf, hc, h, ih]
    · simp [hp, csrOf_of_not, ih]

/-- A field that no CSRW writes. -/
theorem foldl_land_csrs_keep (hc : ∀ x k v, π (land x (.csr k v)) = π x) (l : List Pend) (x : β) :
    π ((l.filter (fun p => p.dest.isCsr)).foldl (fun x p => land x p.dest) x) = π x := by
  induction l generalizing x with
  | nil => rfl
  | cons p l ih =>
    obtain ⟨k, v, hp⟩ | hp := p.dest.csr_or_not
    · simp [hp, hc, ih]
    · simp [hp, ih]

variable (due : List Pend) (x : β)

/-- The last due CSRW gives a field, and the other results change it in issue order. -/
theorem landIn_csr_step (hc : ∀ x k v, π (land x (.csr k v)) = if k.toNat = n then g v else π x)
    (hr : ∀ x d, d.isCsr = false → π (land x d) = step (π x) d) (hs : ∀ y k v, step y (.csr k v) = y) :
    π (landIn land x due) =
      due.foldl (fun y p => step y p.dest) (((due.filterMap (fun p => csrOf n p.dest)).getLast?.map g).getD (π x)) := by
  rw [landIn, foldl_land_others hr hs, foldl_land_csrs hc]

/-- Results other than CSRWs change a field in issue order. -/
theorem landIn_step (hc : ∀ x k v, π (land x (.csr k v)) = π x)
    (hr : ∀ x d, d.isCsr = false → π (land x d) = step (π x) d) (hs : ∀ y k v, step y (.csr k v) = y) :
    π (landIn land x due) = due.foldl (fun y p => step y p.dest) (π x) := by
  rw [landIn, foldl_land_others hr hs, foldl_land_csrs_keep hc]

/-- The last due result that `f` names decides. -/
theorem landIn_last {π : β → α} (hf : ∀ k v, f (.csr k v) = none) (h : ∀ x d, π (land x d) = (f d).getD (π x)) :
    π (landIn land x due) = ((due.filterMap (fun p => f p.dest)).getLast?).getD (π x) := by
  rw [landIn_step due x (step := fun y d => (f d).getD y) (fun x k v => by rw [h, hf]; rfl) (fun x d _ => h x d)
    (fun y k v => by rw [hf]; rfl)]
  simpa using foldl_getLast (fun p : Pend => f p.dest) id due (π x)

end

/-! ### What the landings of a cycle leave -/

/-- A context whose fields that landings write are those of `y`. -/
def Ctx.withLanded (x y : Ctx) : Ctx := { x with
  s := y.s, v := y.v, p := y.p, status := y.status, lc := y.lc, info := y.info, swcode := y.swcode, code := y.code,
  slotres := y.slotres, nseed := y.nseed, nstep := y.nstep, qlimit := y.qlimit, qrefit := y.qrefit, qclip := y.qclip,
  qzero := y.qzero, qrefits := y.qrefits, qscale := y.qscale, qlast := y.qlast }

/-- A cluster whose fields that landings write are those of `d`. -/
def Cluster.withLanded (c d : Cluster) : Cluster := { c with
  share := d.share, chainlim := d.chainlim, waitlim := d.waitlim, ckpt := d.ckpt, semIncs := d.semIncs, semSets := d.semSets,
  bar := d.bar }

theorem Ctx.landed_frame (fw : Bool) (st : Flags) (x : Ctx) (d : Dest) :
    x.landed fw st d = x.withLanded (x.landed fw st d) := by cases d <;> rfl

theorem Cluster.landed_frame (c : Cluster) (d : Dest) : c.landed d = c.withLanded (c.landed d) := by cases d <;> rfl

/-- What every landing keeps, with `keep x y` for `x` with the written fields of `y`, the landings of a cycle keep. -/
theorem landIn_frame {β : Type} {land : β → Dest → β} {keep : β → β → β} (h : ∀ x d, land x d = keep x (land x d))
    (hx : ∀ x, keep x x = x) (hk : ∀ x y z, keep (keep x y) z = keep x z) (x : β) (due : List Pend) :
    landIn land x due = keep x (landIn land x due) := by
  have trans {x y z : β} (hy : y = keep x y) (hz : z = keep y z) : z = keep x z :=
    hz.trans ((congrArg (keep · z) hy).trans (hk x y z))
  have hl (l : List Pend) (x : β) : l.foldl (fun x p => land x p.dest) x = keep x (l.foldl (fun x p => land x p.dest) x) := by
    induction l generalizing x with
    | nil => exact (hx x).symm
    | cons p l ih => exact trans (h x p.dest) (ih _)
  exact trans (hl _ x) (hl _ _)

theorem Ctx.landIn_frame (fw : Bool) (st : Flags) (x : Ctx) (due : List Pend) :
    landIn (fun x d => x.landed fw st d) x due = x.withLanded (landIn (fun x d => x.landed fw st d) x due) :=
  Machine.landIn_frame (keep := Ctx.withLanded) (fun x d => x.landed_frame fw st d) (fun _ => rfl) (fun _ _ _ => rfl) x due

theorem Cluster.landIn_frame (c : Cluster) (due : List Pend) :
    landIn Cluster.landed c due = c.withLanded (landIn Cluster.landed c due) :=
  Machine.landIn_frame (keep := Cluster.withLanded) Cluster.landed_frame (fun _ => rfl) (fun _ _ _ => rfl) c due

/-! ### The registers after one landing -/

/-- What a result gives a scalar register. -/
def sregOf (r : SReg) : Dest → Option SVal
  | .sreg q v => if q = r ∧ r ≠ 0 then some v else none
  | _ => none

/-- What a result gives a lane of a vector register. -/
def vlaneOf (r : VReg) (i : Fin 16) : Dest → Option Lane
  | .vreg q m v => if q = r ∧ m.getLsb i = true then some v[i] else none
  | _ => none

/-- What a result gives a bit of a predicate. -/
def predBitOf (r : PReg) (i : Fin 16) : Dest → Option Bool
  | .preg q m v => if q = r ∧ r ≠ 0 ∧ m.getLsb i = true then some (v.getLsb i) else none
  | _ => none

theorem Ctx.landed_sreg (fw : Bool) (st : Flags) (x : Ctx) (r : SReg) (v : SVal) : x.landed fw st (.sreg r v) = x.wrS r v := by
  by_cases h : r = 0 <;> simp [Ctx.wrS, Ctx.landed, h]

theorem Ctx.landed_preg (fw : Bool) (st : Flags) (x : Ctx) (r : PReg) (m v : Pred) :
    x.landed fw st (.preg r m v) = x.wrP r m v := by
  by_cases h : r = 0 <;> simp [Ctx.wrP, Ctx.landed, h]

theorem Ctx.rdS_wrS (x : Ctx) (q r : SReg) (v : SVal) : (x.wrS q v).rdS r = if q = r ∧ r ≠ 0 then v else x.rdS r := by
  by_cases h : q = r
  · subst h
    by_cases hz : q = 0
    · simp [hz]
    · simp [hz, Ctx.rdS_wrS_self]
  · rw [Ctx.rdS_wrS_of_ne x v (Ne.symm h), if_neg fun e => h e.1]

theorem Ctx.rdV_wrV (x : Ctx) (q r : VReg) (m : Pred) (v : VVal) (i : Fin 16) :
    ((x.wrV q m v).rdV r)[i] = if q = r ∧ m.getLsb i = true then v[i] else (x.rdV r)[i] := by
  by_cases h : q = r
  · subst h
    rw [Ctx.rdV_wrV_self, mergeLanes_get]
    simp
  · rw [Ctx.rdV_wrV_of_ne x m v (Ne.symm h), if_neg fun e => h e.1]

theorem Ctx.rdP_wrP_self (x : Ctx) {r : PReg} (m v : Pred) (h : r ≠ 0) :
    (x.wrP r m v).rdP r = (x.rdP r &&& ~~~m) ||| (v &&& m) := by
  simp [Ctx.rdP, Ctx.wrP, h]

theorem Ctx.rdP_wrP_of_ne (x : Ctx) {q r : PReg} (m v : Pred) (h : r ≠ q) : (x.wrP q m v).rdP r = x.rdP r := by
  unfold Ctx.rdP Ctx.wrP
  split
  · rfl
  · split
    · rfl
    · exact Vector.getElem_set_ne q.isLt r.isLt (fun e => h (Fin.ext e.symm))

theorem Ctx.rdP_wrP (x : Ctx) (q r : PReg) (m v : Pred) (i : Fin 16) : ((x.wrP q m v).rdP r).getLsb i =
    if q = r ∧ r ≠ 0 ∧ m.getLsb i = true then v.getLsb i else (x.rdP r).getLsb i := by
  by_cases h : q = r
  · subst h
    by_cases hz : q = 0
    · simp [hz]
    · rw [Ctx.rdP_wrP_self x m v hz]
      cases hm : m.getLsb i <;> simp_all [BitVec.getLsb_eq_getElem]
  · rw [Ctx.rdP_wrP_of_ne x m v (Ne.symm h), if_neg fun e => h e.1]

theorem Ctx.rdS_landed (fw : Bool) (st : Flags) (x : Ctx) (r : SReg) (d : Dest) :
    (x.landed fw st d).rdS r = (sregOf r d).getD (x.rdS r) := by
  cases d with
  | sreg q v =>
    rw [Ctx.landed_sreg, Ctx.rdS_wrS, sregOf]
    split <;> rfl
  | _ => rfl

theorem Ctx.rdV_landed (fw : Bool) (st : Flags) (x : Ctx) (r : VReg) (i : Fin 16) (d : Dest) :
    ((x.landed fw st d).rdV r)[i] = (vlaneOf r i d).getD (x.rdV r)[i] := by
  cases d with
  | vreg q m v =>
    refine (x.rdV_wrV q r m v i).trans ?_
    rw [vlaneOf]
    split <;> rfl
  | _ => rfl

theorem Ctx.rdP_landed (fw : Bool) (st : Flags) (x : Ctx) (r : PReg) (i : Fin 16) (d : Dest) :
    ((x.landed fw st d).rdP r).getLsb i = (predBitOf r i d).getD ((x.rdP r).getLsb i) := by
  cases d with
  | preg q m v =>
    rw [Ctx.landed_preg, Ctx.rdP_wrP, predBitOf]
    split <;> rfl
  | _ => rfl

/-! ### The other fields after one landing -/

/-- Flags joining STATUS. -/
def flagsStep (y : Flags) : Dest → Flags
  | .flags f => y ||| f
  | _ => y

/-- The sets and steps of a loop counter. -/
def lcStep (i : Fin 3) (y : DWord) : Dest → DWord
  | .lcSet j v => if j = i then v else y
  | .lcStep j st => if j = i then y + BitVec.ofInt 64 st else y
  | _ => y

/-- What a quantisation counts, its fitted scale and its group sequence. -/
def quantOf : Dest → Option (Nat × Nat × Option Word × Word)
  | .quant nc nz sc grp => some (nc, nz, sc, grp)
  | _ => none

/-- A fitted scale and its group sequence. -/
def fitOf (q : Nat × Nat × Option Word × Word) : Option (Word × Word) := q.2.2.1.map (fun sc => (sc, q.2.2.2))

/-- A count of quantisations, stopping at its top. -/
def countStep (count : Nat × Nat × Option Word × Word → Nat) (y : Word) (d : Dest) : Word :=
  ((quantOf d).map (fun q => capAdd y (count q))).getD y

/-- What fitted scales leave. -/
def fitStep (get : Word × Word → Word) (y : Word) (d : Dest) : Word := (((quantOf d).bind fitOf).map get).getD y

/-- A barrier set anew. -/
def barStep (n : Fin 16) (y : Barrier) : Dest → Barrier
  | .barInit k count rg => if k = n then { y with count := count, arr := 0, rg := rg } else y
  | _ => y

theorem Ctx.lc_landed_csr (fw : Bool) (st : Flags) (x : Ctx) (k : BitVec 12) (v : DWord) (i : Fin 3) :
    (x.landed fw st (.csr k v)).lc[i] = if k.toNat = 0x070 + i.val then v else x.lc[i] := by
  simp only [Ctx.landed, Ctx.csrWritten]
  fin_cases i <;> split_ifs <;> simp_all

theorem Ctx.lc_landed (fw : Bool) (st : Flags) (x : Ctx) (i : Fin 3) {d : Dest} (h : d.isCsr = false) :
    (x.landed fw st d).lc[i] = lcStep i x.lc[i] d := by
  cases d with
  | csr k v => cases h
  | lcSet j v => simp [Ctx.landed, lcStep, Vector.getElem_set, Fin.ext_iff]
  | lcStep j n =>
    by_cases hj : j = i
    · subst hj; simp [Ctx.landed, lcStep]
    · simp [Ctx.landed, lcStep, Fin.val_ne_of_ne hj, hj]
  | _ => rfl

theorem Cluster.bar_landed (c : Cluster) (n : Fin 16) (d : Dest) : (c.landed d).bar[n] = barStep n c.bar[n] d := by
  cases d with
  | barInit k count rg =>
    by_cases hk : k = n
    · subst hk; simp [Cluster.landed, barStep]
    · simp [Cluster.landed, barStep, Fin.val_ne_of_ne hk, hk]
  | _ => rfl

theorem Ctx.status_landed (fw : Bool) (st : Flags) (x : Ctx) {d : Dest} (h : d.isCsr = false) :
    (x.landed fw st d).status = flagsStep x.status d := by
  cases d with
  | csr k v => cases h
  | _ => rfl

theorem Ctx.qclip_landed (fw : Bool) (st : Flags) (x : Ctx) (d : Dest) (h : d.isCsr = false) :
    (x.landed fw st d).qclip = countStep (·.1) x.qclip d := by
  cases d with
  | csr k v => cases h
  | _ => rfl

theorem Ctx.qzero_landed (fw : Bool) (st : Flags) (x : Ctx) (d : Dest) (h : d.isCsr = false) :
    (x.landed fw st d).qzero = countStep (·.2.1) x.qzero d := by
  cases d with
  | csr k v => cases h
  | _ => rfl

theorem Ctx.qrefits_landed (fw : Bool) (st : Flags) (x : Ctx) (d : Dest) (h : d.isCsr = false) :
    (x.landed fw st d).qrefits = countStep (fun q => if q.2.2.1.isSome then 1 else 0) x.qrefits d := by
  cases d with
  | csr k v => cases h
  | _ => rfl

theorem Ctx.qscale_landed (fw : Bool) (st : Flags) (x : Ctx) (d : Dest) (h : d.isCsr = false) :
    (x.landed fw st d).qscale = fitStep (·.1) x.qscale d := by
  cases d with
  | csr k v => cases h
  | quant nc nz sc grp => cases sc <;> rfl
  | _ => rfl

theorem Ctx.qlast_landed (fw : Bool) (st : Flags) (x : Ctx) (d : Dest) (h : d.isCsr = false) :
    (x.landed fw st d).qlast = fitStep (·.2) x.qlast d := by
  cases d with
  | csr k v => cases h
  | quant nc nz sc grp => cases sc <;> rfl
  | _ => rfl

/-- A context with what results other than CSRWs write taken from `y`. -/
def Ctx.withResults (x y : Ctx) : Ctx := { x with
  s := y.s, v := y.v, p := y.p, lc := y.lc, status := y.status, qclip := y.qclip, qzero := y.qzero, qrefits := y.qrefits,
  qscale := y.qscale, qlast := y.qlast }

/-- A cluster with what results other than CSRWs write taken from `d`. -/
def Cluster.withResults (c d : Cluster) : Cluster := { c with semIncs := d.semIncs, semSets := d.semSets, bar := d.bar }

theorem Ctx.landed_of_not_csr (fw : Bool) (st : Flags) (x : Ctx) (d : Dest) (h : d.isCsr = false) :
    x.landed fw st d = x.withResults (x.landed fw st d) := by
  cases d with
  | csr k v => cases h
  | _ => rfl

theorem Cluster.landed_of_not_csr (c : Cluster) (d : Dest) (h : d.isCsr = false) : c.landed d = c.withResults (c.landed d) := by
  cases d with
  | csr k v => cases h
  | _ => rfl

/-! ### Folds of a cycle's results -/

theorem getLsb_foldl_flagsStep (due : List Pend) (y : Flags) (i : Fin 12) :
    (due.foldl (fun y p => flagsStep y p.dest) y).getLsb i = (y.getLsb i || due.any (fun p => (flagsStep 0 p.dest).getLsb i)) := by
  induction due generalizing y with
  | nil => simp
  | cons p due ih =>
    have h : (flagsStep y p.dest).getLsb i = (y.getLsb i || (flagsStep 0 p.dest).getLsb i) := by
      cases p.dest with
      | flags f => simp [flagsStep]
      | _ => simp [flagsStep]
    rw [List.foldl_cons, ih, h, List.any_cons, Bool.or_assoc]

theorem toNat_capAdd (x : Word) (n : Nat) : (capAdd x n).toNat = min (x.toNat + n) 0xFFFFFFFF := by
  rw [capAdd, BitVec.toNat_ofNat]
  omega

theorem capAdd_zero (x : Word) : capAdd x 0 = x := by
  apply BitVec.eq_of_toNat_eq
  rw [toNat_capAdd]
  omega

theorem capAdd_capAdd (x : Word) (m n : Nat) : capAdd (capAdd x m) n = capAdd x (m + n) := by
  apply BitVec.eq_of_toNat_eq
  rw [toNat_capAdd, toNat_capAdd, toNat_capAdd]
  omega

theorem foldl_countStep (count : Nat × Nat × Option Word × Word → Nat) (due : List Pend) (y : Word) :
    due.foldl (fun y p => countStep count y p.dest) y = capAdd y ((due.filterMap (fun p => quantOf p.dest)).map count).sum := by
  induction due generalizing y with
  | nil => exact (capAdd_zero y).symm
  | cons p due ih =>
    rw [List.foldl_cons, ih, countStep]
    cases h : quantOf p.dest <;> simp [h, capAdd_capAdd]

theorem sum_refits (qs : List (Nat × Nat × Option Word × Word)) :
    (qs.map (fun q => if q.2.2.1.isSome then 1 else 0)).sum = (qs.filterMap fitOf).length := by
  induction qs with
  | nil => rfl
  | cons q qs ih => cases h : q.2.2.1 <;> simp [ih, fitOf, h, Nat.add_comm]

theorem foldl_fitStep (get : Word × Word → Word) (due : List Pend) (y : Word) :
    due.foldl (fun y p => fitStep get y p.dest) y =
      (((due.filterMap (fun p => quantOf p.dest)).filterMap fitOf).getLast?.map get).getD y := by
  rw [List.filterMap_filterMap]
  exact foldl_getLast (fun p : Pend => (quantOf p.dest).bind fitOf) get due y

/-- COUNT and SCOPE that a BARINIT gives a barrier. -/
def barOf (n : Fin 16) : Dest → Option (Nat × Bool)
  | .barInit k count rg => if k = n then some (count, rg) else none
  | _ => none

theorem foldl_barStep (n : Fin 16) (due : List Pend) (y : Barrier) : due.foldl (fun y p => barStep n y p.dest) y =
    ((due.filterMap (fun p => barOf n p.dest)).getLast?.map (fun x => { y with count := x.1, arr := 0, rg := x.2 })).getD y := by
  induction due using List.reverseRecOn with
  | nil => rfl
  | append_singleton due p ih =>
    rw [List.foldl_append, List.filterMap_append, List.getLast?_append, ih]
    generalize (due.filterMap (fun p => barOf n p.dest)).getLast? = o
    cases hp : p.dest with
    | barInit k count rg => by_cases hk : k = n <;> cases o <;> simp [barStep, barOf, hp, hk]
    | _ => simp [barStep, barOf, hp]

/-- An increment that a result brings to a semaphore. -/
def semAddOf : Dest → Option (Fin 256 × Int)
  | .semAdd n i => some (n, i)
  | _ => none

theorem foldl_semAdd (due : List Pend) (l : List (Fin 256 × Int)) :
    due.foldl (fun l p => l ++ (semAddOf p.dest).toList) l = l ++ due.filterMap (fun p => semAddOf p.dest) := by
  induction due generalizing l with
  | nil => simp
  | cons p due ih =>
    rw [List.foldl_cons, ih]
    cases h : semAddOf p.dest <;> simp [h]

/-- A semaphore's sets of a cycle, in the order of R226. -/
def semSetStep (l : List (Nat × Fin 256 × Int)) : Dest → List (Nat × Fin 256 × Int)
  | .semSet n v o => insSet (o, n, v) l
  | _ => l

theorem Cluster.sems_landed (c : Cluster) (d : Dest) : (c.landed d).semIncs = c.semIncs ++ (semAddOf d).toList ∧
    (c.landed d).semSets = semSetStep c.semSets d := by
  cases d with
  | semAdd n i => exact ⟨rfl, rfl⟩
  | _ => exact ⟨(List.append_nil _).symm, rfl⟩

/-! ### One result in flight -/

/-- `t` is `s` with one result in flight in its context, `k` issue cycles from its landing. -/
def State.awaits (s t : State) (d : Dest) (k : Nat) : Prop :=
  t.cur = s.cur ∧ t.curFw = s.curFw ∧ ∃ p : Pend, p.dest = d ∧ p.left = k ∧ p.waits = [] ∧ p.owed = false ∧
    t.me = s.me.setCtx s.curFw { s.ctx with pend := [p] }

theorem State.me_issueCycle (s : State) : s.issueCycle.me = (s.me.setCtx s.curFw s.ctx.age).landAll s.curFw := by
  rw [State.issueCycle, State.me_updMe, State.me_updCtx]

theorem Ctx.with_pend_nil {x : Ctx} (h : x.pend = []) : { x with pend := [] } = x := by rw [← h]

theorem Ctx.age_idle {x : Ctx} (h : x.pend = []) : x.age = x := by
  rw [Ctx.age, h]
  exact Ctx.with_pend_nil h

theorem Cluster.landAll_idle {c : Cluster} {fw : Bool} (h : (c.ctx fw).pend = []) : c.landAll fw = c := by
  rw [Cluster.landAll, h, List.filter_nil, List.filter_nil, Ctx.with_pend_nil h, Cluster.setCtx_ctx]
  rfl

theorem State.awaits_push (s : State) (d : Dest) (k : Nat) (h : s.ctx.pend = []) : s.awaits (s.push k d) d k := by
  refine ⟨rfl, rfl, mkPend k d, rfl, rfl, rfl, rfl, ?_⟩
  rw [State.push, State.me_updCtx, Ctx.push, h, List.nil_append]

section
variable {s t : State} {d : Dest} {k : Nat}

/-- The result alone in flight, one issue cycle nearer. -/
theorem State.awaits.me_issueCycle (h : s.awaits t d (k + 1)) : ∃ p : Pend, p.dest = d ∧ p.left = k ∧ p.waits = [] ∧
    p.owed = false ∧ t.issueCycle.me = (s.me.setCtx s.curFw { s.ctx with pend := [p] }).landAll s.curFw := by
  obtain ⟨-, hf, p, hd, hl, hw, ho, hm⟩ := h
  have hx : t.ctx = { s.ctx with pend := [p] } := by
    show t.me.ctx t.curFw = _
    rw [hm, hf, Cluster.ctx_setCtx_self]
  refine ⟨{ p with left := p.left - 1, fresh := false }, hd, by simp [hl], hw, ho, ?_⟩
  rw [t.me_issueCycle, hm, hx, hf, Cluster.setCtx_setCtx]
  rfl

/-- A result whose latency has not elapsed stays in flight. -/
theorem State.awaits.issueCycle (h : s.awaits t d (k + 2)) : s.awaits t.issueCycle d (k + 1) := by
  obtain ⟨p, hd, hl, hw, ho, hm⟩ := h.me_issueCycle
  have hdue : p.due = false := by simp [Pend.due, hl]
  refine ⟨h.1, h.2.1, p, hd, hl, hw, ho, ?_⟩
  rw [hm, Cluster.landAll, Cluster.ctx_setCtx_self, Cluster.setCtx_setCtx]
  simp [hdue]

/-- A result whose latency has elapsed lands. -/
theorem State.awaits.lands (h : s.awaits t d 1) (hs : s.ctx.pend = []) : t.issueCycle.me = landDest s.curFw s.me d := by
  obtain ⟨p, hd, hl, hw, ho, hm⟩ := h.me_issueCycle
  have hdue : p.due = true := by simp [Pend.due, hl, hw, ho]
  have hx : ({ s.ctx with pend := [] } : Ctx) = s.me.ctx s.curFw := Ctx.with_pend_nil hs
  rw [hm, Cluster.landAll, Cluster.ctx_setCtx_self, Cluster.setCtx_setCtx]
  cases hc : d.isCsr <;> simp [hdue, hd, hc, hx, Cluster.setCtx_ctx]

theorem State.awaits_iterate (s : State) (d : Dest) (n : Nat) (h : s.ctx.pend = []) (j : Nat) (hj : j ≤ n) :
    s.awaits (State.issueCycle^[j] (s.push (n + 1) d)) d (n + 1 - j) := by
  induction j with
  | zero => exact s.awaits_push d (n + 1) h
  | succ j ih =>
    have hk : n + 1 - j = n - (j + 1) + 2 := by omega
    have hi := ih (by omega)
    rw [hk] at hi
    rw [Function.iterate_succ_apply', show n + 1 - (j + 1) = n - (j + 1) + 1 by omega]
    exact hi.issueCycle

end

/-- A context with nothing in flight passes its issue cycles unchanged. -/
theorem State.iterate_issueCycle_idle (s : State) (h : s.ctx.pend = []) (j : Nat) :
    (State.issueCycle^[j] s).ctx = s.ctx := by
  have hme (j : Nat) : (State.issueCycle^[j] s).me = s.me ∧ (State.issueCycle^[j] s).curFw = s.curFw := by
    induction j with
    | zero => exact ⟨rfl, rfl⟩
    | succ j ih =>
      obtain ⟨hm, hf⟩ := ih
      have hx : (State.issueCycle^[j] s).ctx = s.ctx := by
        show (State.issueCycle^[j] s).me.ctx (State.issueCycle^[j] s).curFw = _
        rw [hm, hf]
        rfl
      have hc : s.me.setCtx s.curFw s.ctx = s.me := s.me.setCtx_ctx s.curFw
      rw [Function.iterate_succ_apply', State.me_issueCycle, hm, hf, hx, Ctx.age_idle h, hc]
      exact ⟨Cluster.landAll_idle h, hf⟩
  obtain ⟨hm, hf⟩ := hme j
  show (State.issueCycle^[j] s).me.ctx (State.issueCycle^[j] s).curFw = _
  rw [hm, hf]
  rfl

theorem Cluster.ctx_landDest_sreg (c : Cluster) (fw : Bool) (r : SReg) (v : SVal) :
    (landDest fw c (.sreg r v)).ctx fw = (c.ctx fw).wrS r v := c.ctx_setCtx_self fw _

theorem Cluster.ctx_landDest_vreg (c : Cluster) (fw : Bool) (r : VReg) (m : Pred) (v : VVal) :
    (landDest fw c (.vreg r m v)).ctx fw = (c.ctx fw).wrV r m v := c.ctx_setCtx_self fw _

theorem Cluster.ctx_landDest_preg (c : Cluster) (fw : Bool) (r : PReg) (m v : Pred) :
    (landDest fw c (.preg r m v)).ctx fw = (c.ctx fw).wrP r m v := c.ctx_setCtx_self fw _

/-- A result alone in flight: its context stands as it was, but for the result, until its latency has elapsed, and then the
result has landed. -/
theorem State.push_latency (s : State) (n : Nat) (h : s.ctx.pend = []) (d : Dest) :
    (∀ j ≤ n, ∃ p : Pend, p.dest = d ∧ (State.issueCycle^[j] (s.push (n + 1) d)).ctx = { s.ctx with pend := [p] } ∧
      (State.issueCycle^[j] (s.push (n + 1) d)).me = s.me.setCtx s.curFw { s.ctx with pend := [p] }) ∧
    (State.issueCycle^[n + 1] (s.push (n + 1) d)).me = landDest s.curFw s.me d ∧
    (State.issueCycle^[n + 1] (s.push (n + 1) d)).ctx = (landDest s.curFw s.me d).ctx s.curFw := by
  have hlast := s.awaits_iterate d n h n le_rfl
  rw [Nat.add_sub_cancel_left] at hlast
  have hme : (State.issueCycle^[n + 1] (s.push (n + 1) d)).me = landDest s.curFw s.me d := by
    rw [Function.iterate_succ_apply']
    exact hlast.lands h
  refine ⟨fun j hj => ?_, hme, ?_⟩
  · obtain ⟨-, hf, p, hd, -, -, -, hm⟩ := s.awaits_iterate d n h j hj
    refine ⟨p, hd, ?_, hm⟩
    show (State.issueCycle^[j] (s.push (n + 1) d)).me.ctx (State.issueCycle^[j] (s.push (n + 1) d)).curFw = _
    rw [hm, hf, Cluster.ctx_setCtx_self]
  · show (State.issueCycle^[n + 1] (s.push (n + 1) d)).me.ctx (State.issueCycle^[n + 1] (s.push (n + 1) d)).curFw = _
    have hf : (State.issueCycle^[n + 1] (s.push (n + 1) d)).curFw = s.curFw := by
      rw [Function.iterate_succ_apply']
      exact hlast.2.1
    rw [hme, hf]

/-- A register of the context reads as before up to the landing of a result in flight, and then as the landing leaves it. -/
theorem State.push_reads {α : Type} (s : State) (n : Nat) (h : s.ctx.pend = []) (d : Dest) (read : Ctx → α)
    (hr : ∀ x l, read { x with pend := l } = read x) :
    (∀ j ≤ n, read (State.issueCycle^[j] (s.push (n + 1) d)).ctx = read s.ctx) ∧
    read (State.issueCycle^[n + 1] (s.push (n + 1) d)).ctx = read ((landDest s.curFw s.me d).ctx s.curFw) := by
  obtain ⟨hwait, -, hland⟩ := s.push_latency n h d
  refine ⟨fun j hj => ?_, congrArg read hland⟩
  obtain ⟨p, -, hx, -⟩ := hwait j hj
  rw [hx, hr]

theorem State.pushS_latency (s : State) (n : Nat) (h : s.ctx.pend = []) (d : SReg) (v : DWord) (p : Bool) (r : SReg) :
    (∀ j ≤ n, (State.issueCycle^[j] (s.pushS (n + 1) d v p)).ctx.rdS r = s.ctx.rdS r) ∧
    (State.issueCycle^[n + 1] (s.pushS (n + 1) d v p)).ctx.rdS r = if r = d ∧ d ≠ 0 then ⟨v, p⟩ else s.ctx.rdS r := by
  by_cases hd : d = 0
  · have idle j := congrArg (fun x : Ctx => x.rdS r) (s.iterate_issueCycle_idle h j)
    rw [State.pushS, if_pos hd]
    exact ⟨fun j _ => idle j, (idle (n + 1)).trans (if_neg fun e => e.2 hd).symm⟩
  · rw [State.pushS, if_neg hd]
    obtain ⟨hwait, hland⟩ := s.push_reads n h (.sreg d ⟨v, p⟩) (fun x => x.rdS r) (fun _ _ => rfl)
    refine ⟨hwait, hland.trans ?_⟩
    rw [Cluster.ctx_landDest_sreg, Ctx.rdS_wrS]
    exact if_congr (by aesop) rfl rfl

theorem State.pushP_latency (s : State) (n : Nat) (h : s.ctx.pend = []) (d : PReg) (m v : Pred) (r : PReg) (i : Fin 16) :
    (∀ j ≤ n, (State.issueCycle^[j] (s.pushP (n + 1) d m v)).ctx.rdP r = s.ctx.rdP r) ∧
    ((State.issueCycle^[n + 1] (s.pushP (n + 1) d m v)).ctx.rdP r).getLsb i =
      if r = d ∧ d ≠ 0 ∧ m.getLsb i = true then v.getLsb i else (s.ctx.rdP r).getLsb i := by
  by_cases hd : d = 0
  · have idle j := s.iterate_issueCycle_idle h j
    rw [State.pushP, if_pos hd]
    exact ⟨fun j _ => congrArg (fun x : Ctx => x.rdP r) (idle j),
      (congrArg (fun x : Ctx => (x.rdP r).getLsb i) (idle (n + 1))).trans (if_neg fun e => e.2.1 hd).symm⟩
  · rw [State.pushP, if_neg hd]
    obtain ⟨hwait, -⟩ := s.push_reads n h (.preg d m v) (fun x => x.rdP r) (fun _ _ => rfl)
    obtain ⟨-, hland⟩ := s.push_reads n h (.preg d m v) (fun x => (x.rdP r).getLsb i) (fun _ _ => rfl)
    refine ⟨hwait, hland.trans ?_⟩
    rw [Cluster.ctx_landDest_preg, Ctx.rdP_wrP]
    exact if_congr (by aesop) rfl rfl

theorem State.pushV_latency (s : State) (n : Nat) (h : s.ctx.pend = []) (d : VReg) (m : Pred) (v : VVal) (r : VReg) (i : Fin 16) :
    (∀ j ≤ n, (State.issueCycle^[j] (s.push (n + 1) (.vreg d m v))).ctx.rdV r = s.ctx.rdV r) ∧
    ((State.issueCycle^[n + 1] (s.push (n + 1) (.vreg d m v))).ctx.rdV r)[i] =
      if r = d ∧ m.getLsb i = true then v[i] else (s.ctx.rdV r)[i] := by
  obtain ⟨hwait, -⟩ := s.push_reads n h (.vreg d m v) (fun x => x.rdV r) (fun _ _ => rfl)
  obtain ⟨-, hland⟩ := s.push_reads n h (.vreg d m v) (fun x => (x.rdV r)[i]) (fun _ _ => rfl)
  refine ⟨hwait, hland.trans ?_⟩
  rw [Cluster.ctx_landDest_vreg]
  exact (Ctx.rdV_wrV ..).trans (if_congr (by rw [eq_comm]) rfl rfl)

/-! ### The landing of a cycle -/

/-- The state in which a cycle's results have landed: its context, the rest of its cluster, and what it leaves. -/
theorem exec_latencyResultWrite (u : State) : ∃ t, exec .latencyResultWrite u = .next t ∧ t = { u with cl := t.cl } ∧
    (∀ k ≠ u.cur, t.cluster k = u.cluster k) ∧
    t.ctx = landIn (fun x d => x.landed u.curFw u.me.statusIn d) { u.ctx with pend := u.ctx.pend.filter (fun p => !p.due) }
      (u.ctx.pend.filter Pend.due) ∧
    t.me = (landIn Cluster.landed u.me (u.ctx.pend.filter Pend.due)).setCtx u.curFw t.ctx := by
  have hme := (u.me_updMe (fun c => c.landAll u.curFw)).trans (u.me.landAll_eq u.curFw)
  have hctx := (congrArg (Cluster.ctx · u.curFw) hme).trans (Cluster.ctx_setCtx_self ..)
  exact ⟨_, rfl, rfl, fun k hk => u.cluster_setCluster_of_ne _ hk, hctx, hme.trans (congrArg _ hctx.symm)⟩

/-- The last value that the due CSRWs of register `n` write. -/
def csrLast (n : Nat) (due : List Pend) : Option DWord := (due.filterMap (fun p => csrOf n p.dest)).getLast?

/-- The quantisations among the due results. -/
def quantsOf (due : List Pend) : List (Nat × Nat × Option Word × Word) := due.filterMap (fun p => quantOf p.dest)

section
variable (fw : Bool) (st : Flags) (x : Ctx) (due : List Pend)

/-- A field of the context that CSRWs alone write. -/
theorem Ctx.landIn_csr {δ : Type} {π : Ctx → δ} {n : Nat} {g : DWord → δ}
    (hc : ∀ (x : Ctx) k v, π (x.landed fw st (.csr k v)) = if k.toNat = n then g v else π x)
    (hr : ∀ x y : Ctx, π (x.withResults y) = π x) :
    π (landIn (fun x d => x.landed fw st d) x due) = ((csrLast n due).map g).getD (π x) := by
  rw [landIn_csr_step due x (step := fun y _ => y) hc (fun x d h => (congrArg π (x.landed_of_not_csr fw st d h)).trans (hr _ _))
    (fun _ _ _ => rfl), List.foldl_fixed]
  rfl

/-- A count of quantisations after the landings of a cycle. -/
theorem Ctx.landIn_count {π : Ctx → Word} {n : Nat} {g : DWord → Word} {count : Nat × Nat × Option Word × Word → Nat}
    (hc : ∀ (x : Ctx) k v, π (x.landed fw st (.csr k v)) = if k.toNat = n then g v else π x)
    (hr : ∀ (x : Ctx) d, d.isCsr = false → π (x.landed fw st d) = countStep count (π x) d) :
    π (landIn (fun x d => x.landed fw st d) x due) =
      capAdd (((csrLast n due).map g).getD (π x)) ((quantsOf due).map count).sum := by
  rw [landIn_csr_step due x hc hr (fun _ _ _ => rfl), foldl_countStep]
  rfl

/-- What the fitted scales of a cycle leave. -/
theorem Ctx.landIn_fit {π : Ctx → Word} {n : Nat} {g : DWord → Word} {get : Word × Word → Word}
    (hc : ∀ (x : Ctx) k v, π (x.landed fw st (.csr k v)) = if k.toNat = n then g v else π x)
    (hr : ∀ (x : Ctx) d, d.isCsr = false → π (x.landed fw st d) = fitStep get (π x) d) :
    π (landIn (fun x d => x.landed fw st d) x due) =
      (((quantsOf due).filterMap fitOf).getLast?.map get).getD (((csrLast n due).map g).getD (π x)) := by
  rw [landIn_csr_step due x hc hr (fun _ _ _ => rfl), foldl_fitStep]
  rfl

theorem Ctx.landIn_status (i : Fin 12) : (landIn (fun x d => x.landed fw st d) x due).status.getLsb i =
    ((((csrLast 0x000 due).map (fun v => (v.setWidth 12 &&& 0xF1F) ||| (if fw then 0 else st))).getD x.status).getLsb i ||
      due.any (fun p => (flagsStep 0 p.dest).getLsb i)) := by
  rw [landIn_csr_step (π := Ctx.status) (n := 0x000) (step := flagsStep) due x (fun _ _ _ => rfl)
    (fun x d h => x.status_landed fw st h) (fun _ _ _ => rfl), getLsb_foldl_flagsStep]
  rfl

theorem Ctx.landIn_lc (i : Fin 3) : (landIn (fun x d => x.landed fw st d) x due).lc[i] =
    due.foldl (fun y p => lcStep i y p.dest) (((csrLast (0x070 + i.val) due).map id).getD x.lc[i]) :=
  landIn_csr_step (π := fun x : Ctx => x.lc[i]) (step := lcStep i) due x (fun x k v => x.lc_landed_csr fw st k v i)
    (fun x _ h => x.lc_landed fw st i h) (fun _ _ _ => rfl)

end

/-- A field of the cluster that CSRWs alone write. -/
theorem Cluster.landIn_csr {δ : Type} {π : Cluster → δ} {n : Nat} {g : DWord → δ}
    (hc : ∀ (c : Cluster) k v, π (c.landed (.csr k v)) = if k.toNat = n then g v else π c)
    (hr : ∀ c d : Cluster, π (c.withResults d) = π c) (c : Cluster) (due : List Pend) :
    π (landIn Cluster.landed c due) = ((csrLast n due).map g).getD (π c) := by
  rw [landIn_csr_step due c (step := fun y _ => y) hc (fun c d h => (congrArg π (c.landed_of_not_csr d h)).trans (hr _ _))
    (fun _ _ _ => rfl), List.foldl_fixed]
  rfl

/-- The changes of semaphores that land in a cycle join those of the cycle. -/
theorem Cluster.landIn_semIncs (c : Cluster) (due : List Pend) :
    (landIn Cluster.landed c due).semIncs = c.semIncs ++ due.filterMap (fun p => semAddOf p.dest) := by
  rw [landIn_step (π := Cluster.semIncs) (step := fun l d => l ++ (semAddOf d).toList) due c (fun _ _ _ => rfl)
    (fun c d _ => (c.sems_landed d).1) (fun l _ _ => List.append_nil l), foldl_semAdd]

theorem Cluster.landIn_semSets (c : Cluster) (due : List Pend) :
    (landIn Cluster.landed c due).semSets = due.foldl (fun l p => semSetStep l p.dest) c.semSets :=
  landIn_step (π := Cluster.semSets) due c (fun _ _ _ => rfl) (fun c d _ => (c.sems_landed d).2) (fun _ _ _ => rfl)

theorem Cluster.landIn_bar (c : Cluster) (due : List Pend) (n : Fin 16) : (landIn Cluster.landed c due).bar[n] =
    ((due.filterMap (fun p => barOf n p.dest)).getLast?.map
      (fun x => { c.bar[n] with count := x.1, arr := 0, rg := x.2 })).getD c.bar[n] := by
  rw [landIn_step (π := fun c : Cluster => c.bar[n]) (step := barStep n) due c (fun _ _ _ => rfl)
    (fun c d _ => c.bar_landed n d) (fun _ _ _ => rfl), foldl_barStep]

/-- A count that adds nothing leaves its field; one that adds stops at its top. -/
theorem capAdd_eq_ite {α : Type} (l : List α) (y : Word) (k : Nat) (hk : l = [] → k = 0) [Decidable (l = [])] :
    capAdd y k = if l = [] then y else BitVec.ofNat 32 (min (y.toNat + k) 0xFFFFFFFF) := by
  split
  · next h => rw [hk h, capAdd_zero]
  · rfl

/-- Settles O8: the landing of a cycle field by field, and one result in flight cycle by cycle. -/
theorem resultsLandAtLatency : Obligations.ResultsLandAtLatency := by
  refine ⟨fun u => ?_, fun s n h => ⟨fun d => ?_, s.pushS_latency n h, s.pushV_latency n h, s.pushP_latency n h⟩⟩
  · intro due c m last csr field quants fits adds status lc bar
    obtain ⟨t, hx, ht, hk, hd, he⟩ := exec_latencyResultWrite u
    have hpend : t.ctx.pend = c.pend.filter (fun p => !p.due) := by rw [hd, Ctx.landIn_frame]; rfl
    refine ⟨t, hx, ht, hk, ⟨hpend, fun r => ?s, fun r i => ?v, fun r i => ?p, fun i => ?status, fun i => ?lc, ?info, ?swcode, ?code,
      ?slotres, ?nseed, ?nstep, ?qlimit, ?qrefit, ?qclip, ?qzero, ?qrefits, ?qscale, ?qlast, ?ctx⟩, ?cluster⟩
    case s =>
      rw [hd]
      exact landIn_last (π := fun x : Ctx => x.rdS r) (f := sregOf r) due _ (fun _ _ => rfl) (fun x d => x.rdS_landed _ _ r d)
    case v =>
      rw [hd]
      exact landIn_last (π := fun x : Ctx => (x.rdV r)[i]) (f := vlaneOf r i) due _ (fun _ _ => rfl) (fun x d => x.rdV_landed _ _ r i d)
    case p =>
      rw [hd]
      exact landIn_last (π := fun x : Ctx => (x.rdP r).getLsb i) (f := predBitOf r i) due _ (fun _ _ => rfl)
        (fun x d => x.rdP_landed _ _ r i d)
    case status =>
      rw [hd, Ctx.landIn_status]
      refine congrArg _ (congrArg _ (funext fun p => ?_))
      cases p.dest with
      | flags f => simp [flagsStep]
      | _ => exact getLsb_zero i
    case lc => rw [hd]; exact Ctx.landIn_lc ..
    case info => rw [hd]; exact Ctx.landIn_csr _ _ _ _ (fun _ _ _ => rfl) (fun _ _ => rfl)
    case swcode => rw [hd]; exact Ctx.landIn_csr _ _ _ _ (fun _ _ _ => rfl) (fun _ _ => rfl)
    case code => rw [hd]; exact Ctx.landIn_csr _ _ _ _ (fun _ _ _ => rfl) (fun _ _ => rfl)
    case slotres => rw [hd]; exact Ctx.landIn_csr _ _ _ _ (fun _ _ _ => rfl) (fun _ _ => rfl)
    case nseed => rw [hd]; exact Ctx.landIn_csr _ _ _ _ (g := id) (fun _ _ _ => rfl) (fun _ _ => rfl)
    case nstep => rw [hd]; exact Ctx.landIn_csr _ _ _ _ (g := id) (fun _ _ _ => rfl) (fun _ _ => rfl)
    case qlimit => rw [hd]; exact Ctx.landIn_csr _ _ _ _ (fun _ _ _ => rfl) (fun _ _ => rfl)
    case qrefit => rw [hd]; exact Ctx.landIn_csr _ _ _ _ (fun _ _ _ => rfl) (fun _ _ => rfl)
    case qclip =>
      rw [hd, Ctx.landIn_count (n := 0x032) (g := BitVec.setWidth 32) _ _ _ _ (fun _ _ _ => rfl) (Ctx.qclip_landed _ _)]
      exact capAdd_eq_ite quants _ _ (fun h => by rw [show quantsOf _ = [] from h]; rfl)
    case qzero =>
      rw [hd, Ctx.landIn_count (n := 0x033) (g := BitVec.setWidth 32) _ _ _ _ (fun _ _ _ => rfl) (Ctx.qzero_landed _ _)]
      exact capAdd_eq_ite quants _ _ (fun h => by rw [show quantsOf _ = [] from h]; rfl)
    case qrefits =>
      rw [hd, Ctx.landIn_count (n := 0x034) (g := BitVec.setWidth 32) _ _ _ _ (fun _ _ _ => rfl) (Ctx.qrefits_landed _ _), sum_refits]
      exact capAdd_eq_ite fits _ _ (fun h => congrArg List.length h)
    case qscale => rw [hd]; exact Ctx.landIn_fit _ _ _ _ (fun _ _ _ => rfl) (Ctx.qscale_landed _ _)
    case qlast => rw [hd]; exact Ctx.landIn_fit _ _ _ _ (fun _ _ _ => rfl) (Ctx.qlast_landed _ _)
    case ctx =>
      rw [hpend]
      exact hd.trans ((Ctx.landIn_frame ..).trans (by rw [← hd]; rfl))
    case cluster =>
      have shared {δ : Type} (π : Cluster → δ) (hπ : ∀ (e : Cluster) (b : Bool) (x : Ctx), π (e.setCtx b x) = π e) :
          π t.me = π (landIn Cluster.landed m due) := (congrArg π he).trans (hπ ..)
      refine ⟨?share, ?chainlim, ?waitlim, ?ckpt, ?semIncs, ?semSets, fun n => ?bar, ?frame⟩
      case share =>
        exact (shared _ Cluster.setCtx_share).trans (Cluster.landIn_csr (fun _ _ _ => rfl) (fun _ _ => rfl) _ _)
      case chainlim =>
        exact (shared _ Cluster.setCtx_chainlim).trans (Cluster.landIn_csr (fun _ _ _ => rfl) (fun _ _ => rfl) _ _)
      case waitlim =>
        exact (shared _ Cluster.setCtx_waitlim).trans (Cluster.landIn_csr (fun _ _ _ => rfl) (fun _ _ => rfl) _ _)
      case ckpt =>
        exact (shared _ Cluster.setCtx_ckpt).trans (Cluster.landIn_csr (fun _ _ _ => rfl) (fun _ _ => rfl) _ _)
      case semIncs => exact (shared _ Cluster.setCtx_semIncs).trans (Cluster.landIn_semIncs ..)
      case semSets => exact (shared _ Cluster.setCtx_semSets).trans (Cluster.landIn_semSets ..)
      case bar =>
        exact (shared (fun e => e.bar[n]) fun e b x => congrArg (·[n]) (e.setCtx_bar b x)).trans (Cluster.landIn_bar ..)
      case frame =>
        rw [he, Cluster.landIn_frame]
        cases u.curFw <;> rfl
  · obtain ⟨hwait, hme, -⟩ := s.push_latency n h d
    exact ⟨hwait, hme⟩

end Sys2Proof.Machine
end

section
/-! SUPPORT. Links that go down (19 R357): a chain of modules on which the report of a link does not go where the statement
says. -/

namespace Sys2Proof.Machine

/-- Two modules that are both roots, recorded in falling order; link 0 of module 0 is up. -/
def twoRoots : State := { State.reset with
  md := [(1, { Module.reset with root := true }),
         (0, { Module.reset with root := true, links := [(0, { Link.reset with up := true })] })] }

/-- Before link 0 of module 0 goes down, the supervising firmware is found on module 1. -/
theorem twoRoots_supervisor : twoRoots.supervisor = some 1 := by decide

/-- Writing the link back puts module 0 first among the modules, where the supervising firmware is then found: module 0 reports
the link at once, and no message sets out. -/
theorem twoRoots_linkDown_net : (twoRoots.linkDown 0 0).net = [] := by decide

/-- Refutes O51: the report of a link that goes down is sent to the root found once the link has been written back, and where
the modules do not stand in rising order that root can be another than the one found before. -/
theorem not_linksAndStrokes : ¬ Obligations.LinksAndStrokes := by
  intro h
  obtain ⟨-, -, -, -, hdown, -⟩ := h twoRoots 0 0 0 0 0
  obtain ⟨t, ht, -, -, -, -, hreport, -⟩ := hdown (by decide) (by decide)
  obtain ⟨w, hw, -⟩ := hreport 1 twoRoots_supervisor (by decide)
  have ht : twoRoots.linkDown 0 0 = t := by injection ht
  rw [← ht, twoRoots_linkDown_net] at hw
  exact List.not_mem_nil hw

end Sys2Proof.Machine
end

section
/-! SUPPORT. The life of a launch: selection, translation, binding, phases and end (04 R99, 22 R372 to R377). -/

namespace Sys2Proof.Machine

/-! ### Sparse maps and folds over clusters -/

/-- A key that a write names is found with what was written. -/
theorem find?_kset_self {α : Type} (m : KMap α) (k : Nat) (x : α) : (kset m k x).find? (fun y => y.1 == k) = some (k, x) := by
  induction m with
  | nil => simp [kset]
  | cons e r ih =>
    obtain ⟨j, y⟩ := e
    rcases lt_trichotomy k j with h | h | h
    · simp [kset, h]
    · simp [kset, h]
    · simp [kset, Nat.not_lt.mpr h.le, h.ne', h.ne, ih]

theorem find?_kdel_self {α : Type} (m : KMap α) (k : Nat) : (kdel m k).find? (fun y => y.1 == k) = none := by
  simp [kdel]

section
variable {f : State → Nat → State} (hne : ∀ s i j, j ≠ i → (f s i).cluster j = s.cluster j)
include hne

theorem cluster_foldl_of_not_mem {ms : List Nat} {k : Nat} (hk : k ∉ ms) (s : State) : (ms.foldl f s).cluster k = s.cluster k := by
  induction ms generalizing s with
  | nil => rfl
  | cons i ms ih =>
    obtain ⟨hi, hms⟩ : k ≠ i ∧ k ∉ ms := by simpa using hk
    rw [List.foldl_cons, ih hms, hne s i k hi]

/-- Each of several clusters changed in turn ends as its own change leaves it. -/
theorem cluster_foldl_of_mem {R : Nat → Cluster → Cluster → Prop} (hR : ∀ s i, R i (s.cluster i) ((f s i).cluster i))
    {ms : List Nat} {k : Nat} (hd : ms.Nodup) (hk : k ∈ ms) (s : State) : R k (s.cluster k) ((ms.foldl f s).cluster k) := by
  induction ms generalizing s with
  | nil => cases hk
  | cons i ms ih =>
    obtain ⟨hi, hms⟩ := List.nodup_cons.mp hd
    rw [List.foldl_cons]
    by_cases h : k = i
    · subst h
      rw [cluster_foldl_of_not_mem hne hi]
      exact hR s k
    · rw [← hne s i k h]
      exact ih hms ((List.mem_cons.mp hk).resolve_left h) _

end

/-- Several clusters changed alike, some perhaps twice, by a change that a second time changes nothing. -/
theorem cluster_foldl_updCluster {g : Cluster → Cluster} (hg : ∀ c, g (g c) = g c) (ms : List Nat) (s : State) (k : Nat) :
    (ms.foldl (fun s k => s.updCluster k g) s).cluster k = if k ∈ ms then g (s.cluster k) else s.cluster k := by
  induction ms generalizing s with
  | nil => rfl
  | cons i ms ih =>
    rw [List.foldl_cons, ih]
    by_cases h : k = i
    · subst h; simp [hg]
    · simp [h, s.cluster_updCluster_of_ne g h]

/-- What a fold of changes to clusters leaves of the rest of the state. -/
theorem foldl_updates_clusters {f : State → Nat → State} (hf : ∀ s i, f s i = { s with cl := (f s i).cl }) (ms : List Nat)
    (s : State) : ms.foldl f s = { s with cl := (ms.foldl f s).cl } := by
  induction ms generalizing s with
  | nil => rfl
  | cons i ms ih =>
    rw [List.foldl_cons, ih, hf s i]

/-! ### Selection (22 R372) -/

/-- The better of the best launch so far and one more. -/
def betterOf (md : Module) (m : Option Launch) (l : Launch) : Option Launch :=
  match m with
  | none => some l
  | some x => if l.before md x then some l else some x

theorem Module.best_eq (md : Module) (d : Nat) : md.best d = (md.ready.filter (fun l => l.die == d)).foldl (betterOf md) none := rfl

/-- The priority of a launch's queue. -/
def Module.prio (md : Module) (l : Launch) : Nat := (kget Queue.reset md.queues l.q).prio

theorem Launch.prio_le_of_before {md : Module} {a b : Launch} (h : a.before md b = true) : md.prio b ≤ md.prio a := by
  unfold Launch.before at h
  simp only at h
  split_ifs at h with hp
  all_goals unfold Module.prio
  · exact Nat.le_of_lt (decide_eq_true_iff.mp h)
  all_goals exact Nat.le_of_eq (not_not.mp hp).symm

theorem Launch.prio_le_of_not_before {md : Module} {a b : Launch} (h : a.before md b = false) : md.prio a ≤ md.prio b := by
  by_contra hlt
  have hp : (kget Queue.reset md.queues a.q).prio ≠ (kget Queue.reset md.queues b.q).prio := by
    unfold Module.prio at hlt; omega
  unfold Launch.before at h
  simp only [if_pos hp, decide_eq_false_iff_not] at h
  exact hlt (Nat.not_lt.mp h)

/-- The better of two launches is one of them, and neither has a higher priority. -/
theorem betterOf_spec (md : Module) (y a : Launch) : ∃ z, betterOf md (some y) a = some z ∧ (z = y ∨ z = a) ∧
    md.prio y ≤ md.prio z ∧ md.prio a ≤ md.prio z := by
  cases hb : a.before md y with
  | true => exact ⟨a, if_pos hb, .inr rfl, Launch.prio_le_of_before hb, le_rfl⟩
  | false => exact ⟨y, if_neg (by rw [hb]; decide), .inl rfl, le_rfl, Launch.prio_le_of_not_before hb⟩

/-- The best of some launches is one of them, and none has a higher priority. -/
theorem foldl_betterOf (md : Module) (ls : List Launch) : (ls.foldl (betterOf md) none = none → ls = []) ∧
    ∀ l, ls.foldl (betterOf md) none = some l → l ∈ ls ∧ ∀ x ∈ ls, md.prio x ≤ md.prio l := by
  induction ls using List.reverseRecOn with
  | nil => exact ⟨fun _ => rfl, fun l h => by cases h⟩
  | append_singleton ls a ih =>
    obtain ⟨hnil, hbest⟩ := ih
    rw [List.foldl_append, List.foldl_cons, List.foldl_nil]
    cases h : ls.foldl (betterOf md) none with
    | none => simp [betterOf, hnil h]
    | some y =>
      obtain ⟨hy, hmax⟩ := hbest y h
      obtain ⟨z, hz, hza, hyz, haz⟩ := betterOf_spec md y a
      refine ⟨fun e => absurd (hz.symm.trans e) (Option.some_ne_none z), fun l hl => ?_⟩
      obtain rfl : z = l := Option.some.inj (hz.symm.trans hl)
      refine ⟨?_, fun x hx => ?_⟩
      · rcases hza with rfl | rfl
        · exact List.mem_append_left _ hy
        · exact List.mem_append_right _ (List.mem_singleton_self _)
      · rcases List.mem_append.mp hx with hx | hx
        · exact (hmax x hx).trans hyz
        · exact List.mem_singleton.mp hx ▸ haz

theorem Module.best_spec {md : Module} {d : Nat} {l : Launch} (h : md.best d = some l) : l ∈ md.ready ∧ l.die = d ∧
    ∀ x ∈ md.ready, x.die = d → md.prio x ≤ md.prio l := by
  rw [Module.best_eq] at h
  obtain ⟨hl, hmax⟩ := (foldl_betterOf md _).2 l h
  simp only [List.mem_filter, beq_iff_eq] at hl hmax
  exact ⟨hl.1, hl.2, fun x hx he => hmax x ⟨hx, he⟩⟩

theorem execLaunchSelect_idle {m g : Nat} {s : State}
    (h : (s.dieAt g).sel.isSome = true ∨ g / 4 ≠ m ∨ (s.module m).fwBusy = true ∨ (s.module m).best (g % 4) = none) :
    execLaunchSelect m g s = .next s := by
  unfold execLaunchSelect
  congr 1
  split_ifs with hi
  · rfl
  · rw [not_or, not_or] at hi
    obtain ⟨hs, hg, hf⟩ := hi
    have hn : (s.module m).best (g % 4) = none := by
      rcases h with h | h | h | h
      · exact absurd h hs
      · exact absurd h hg
      · exact absurd h hf
      · exact h
    simp only [hn]

theorem execLaunchSelect_takes {m g : Nat} {s : State} {l : Launch}
    (h : ¬ ((s.dieAt g).sel.isSome = true ∨ g / 4 ≠ m ∨ (s.module m).fwBusy = true ∨ (s.module m).best (g % 4) = none))
    (hl : (s.module m).best (g % 4) = some l) : execLaunchSelect m g s = .next
      ((s.updModule m (fun d => { d with ready := d.ready.erase l })).updDie g (fun d => { d with
        sel := some { l with prio := (s.queue m l.q).prio, pclass := (s.queue m l.q).pclass } })) := by
  unfold execLaunchSelect
  congr 1
  rw [if_neg fun hi => h (hi.imp_right (Or.imp_right .inl))]
  simp only [hl]
  rfl

/-! ### Binding (22 R374, R375) -/

/-- Two states that differ in channel routes and standing alone. -/
def State.onlyOch (s t : State) : Prop :=
  t = { s with cl := t.cl } ∧ ∀ i, t.cluster i = { s.cluster i with och := (t.cluster i).och }

theorem State.onlyOch_refl (s : State) : s.onlyOch s := ⟨rfl, fun _ => rfl⟩

theorem State.onlyOch.trans {s t u : State} (h : s.onlyOch t) (h' : t.onlyOch u) : s.onlyOch u := by
  obtain ⟨hs, hc⟩ := h
  obtain ⟨hs', hc'⟩ := h'
  refine ⟨hs'.trans (by rw [hs]), fun i => (hc' i).trans (by rw [hc i])⟩

theorem State.onlyOch_updCluster (s : State) (k : Nat) (f : Cluster → Cluster)
    (h : f (s.cluster k) = { s.cluster k with och := (f (s.cluster k)).och }) : s.onlyOch (s.updCluster k f) := by
  refine ⟨rfl, fun i => ?_⟩
  by_cases hi : i = k
  · subst hi
    rw [State.cluster_updCluster_self]
    exact h
  · rw [State.cluster_updCluster_of_ne s f hi]

theorem State.onlyOch_foldl {α : Type} {f : State → α → State} (hf : ∀ (s : State) a, s.onlyOch (f s a)) (l : List α) (s : State) :
    s.onlyOch (l.foldl f s) := by
  induction l generalizing s with
  | nil => exact s.onlyOch_refl
  | cons a l ih => exact (hf s a).trans (ih _)

theorem State.onlyOch_linkOch (s : State) (k o : Nat) : s.onlyOch (s.linkOch k o) := by
  unfold State.linkOch
  dsimp only
  split
  · exact s.onlyOch_refl
  · split
    · exact s.onlyOch_updCluster k _ rfl
    · exact s.onlyOch_refl

theorem State.onlyOch_linkChannels (s : State) (k : Nat) : s.onlyOch (s.linkChannels k) := by
  unfold State.linkChannels
  refine (State.onlyOch_foldl (fun t o => State.onlyOch_linkOch t k o) _ s).trans (State.onlyOch_foldl (fun t x => ?_) _ _)
  dsimp only
  split
  · exact t.onlyOch_linkOch _ _
  · exact t.onlyOch_refl

/-- A phase starts on a member: what 01 R16 gives anew, and what stands. -/
structure Cluster.PhaseStarted (c c' : Cluster) (ph : Phase) (j : Nat) : Prop where
  phase : c'.phase = j
  done : c'.done = false
  park : c'.prog.park = .run
  pc : c'.prog.pc = ph.code
  loops : c'.prog.loops = []
  v : c'.prog.v = c.prog.v
  p : c'.prog.p = c.prog.p
  det : c'.det = ph.det
  fmtcfg : c'.fmtcfg = ph.fmt
  rest : c' = { c with phase := c'.phase, prog := c'.prog, det := c'.det, fmtcfg := c'.fmtcfg, phbase := c'.phbase, done := c'.done }

theorem Ctx.wrS_eq (x : Ctx) (r : SReg) (v : SVal) : x.wrS r v = { x with s := (x.wrS r v).s } := by
  unfold Ctx.wrS
  split <;> rfl

/-- Initial values change the scalar registers alone. -/
theorem Ctx.foldl_wrS_eq (l : List (SReg × DWord)) (x : Ctx) : l.foldl (fun (x : Ctx) i => x.wrS i.1 ⟨i.2, false⟩) x =
    { x with s := (l.foldl (fun (x : Ctx) i => x.wrS i.1 ⟨i.2, false⟩) x).s } := by
  induction l generalizing x with
  | nil => rfl
  | cons i l ih =>
    rw [List.foldl_cons, ih, Ctx.wrS_eq x]

theorem Cluster.startPhase_spec {c : Cluster} {j : Nat} {ph : Phase} (h : c.phases[j]? = some ph) (index stroke : Nat) :
    c.PhaseStarted (c.startPhase j index stroke) ph j := by
  have hx : ∃ v, c.startPhase j index stroke = { c with
      phase := j, det := ph.det, fmtcfg := ph.fmt, phbase := stroke, done := false
      prog := { c.prog with s := v, pc := ph.code, loops := [], target := none, entry := 0, unstamped := false, rest := [],
                            strokes := [], runLeft := 0, park := .run, qseq := 0 } } := by
    unfold Cluster.startPhase
    simp only [h]
    split
    · rw [Ctx.foldl_wrS_eq]
      exact ⟨_, rfl⟩
    · rw [Ctx.wrS_eq, Ctx.foldl_wrS_eq]
      exact ⟨_, rfl⟩
  obtain ⟨v, hv⟩ := hx
  rw [hv]
  exact ⟨rfl, rfl, rfl, rfl, rfl, rfl, rfl, rfl, rfl, rfl⟩

/-- A member that a launch binds: what its reset and the start of phase 0 give it, and what stands of it (05 R107, 16 R308). -/
structure Cluster.Bound (c c' : Cluster) (l : Launch) (d : Desc) (k cox : Nat) (ph : Phase) : Prop where
  bind : c'.bind = some ⟨cox, l.row0, l.col0, l.rows, l.cols, l.index k, l.key⟩
  phases : c'.phases = d.phases
  phase : c'.phase = 0
  pc : c'.prog.pc = ph.code
  park : c'.prog.park = .run
  loops : c'.prog.loops = []
  v : c'.prog.v = Ctx.reset.v
  p : c'.prog.p = Ctx.reset.p
  det : c'.det = ph.det
  fmtcfg : c'.fmtcfg = ph.fmt
  sem : ∀ i : Fin 256, c'.sem[i] = if i.val < 240 then 0 else c.sem[i]
  semLocal : c'.semLocal = d.localsem
  mx : c'.mx = Mx.reset
  ibuf : c'.ibuf = []
  padm : c'.padm = c.padm
  windows : c'.windows = c.windows
  fw : c'.fw = c.fw

theorem Cluster.bindReset_startPhase (c : Cluster) {l : Launch} {d : Desc} {ph : Phase} (k cox : Nat) (pos kept : List Nat)
    (stroke : Nat) (h : d.phases[0]? = some ph) :
    c.Bound ((c.bindReset l d k cox pos kept).startPhase 0 (l.index k) stroke) l d k cox ph := by
  obtain ⟨hphase, -, hpark, hpc, hloops, hv, hp, hdet, hfmt, hrest⟩ :=
    Cluster.startPhase_spec (c := c.bindReset l d k cox pos kept) (j := 0) h (l.index k) stroke
  refine ⟨?_, ?_, hphase, hpc, hpark, hloops, hv, hp, hdet, hfmt, fun i => ?_, ?_, ?_, ?_, ?_, ?_, ?_⟩
  case refine_3 =>
    rw [hrest]
    exact (Vector.getElem_ofFn ..)
  all_goals rw [hrest]; rfl

theorem Cluster.Bound.och {c c' : Cluster} {l : Launch} {d : Desc} {k cox : Nat} {ph : Phase} (h : c.Bound c' l d k cox ph)
    (o : KMap Och) : c.Bound { c' with och := o } l d k cox ph := by
  obtain ⟨h1, h2, h3, h4, h5, h6, h7, h8, h9, h10, h11, h12, h13, h14, h15, h16, h17⟩ := h
  exact ⟨h1, h2, h3, h4, h5, h6, h7, h8, h9, h10, h11, h12, h13, h14, h15, h16, h17⟩

theorem execLaunchBind_none {g : Nat} {s : State} (h : (s.dieAt g).sel = none) : execLaunchBind g s = .next s := by
  simp only [execLaunchBind, h]

theorem execLaunchBind_untranslated {g : Nat} {s : State} {l : Launch} (h : (s.dieAt g).sel = some l) (ht : l.tr = none) :
    execLaunchBind g s = .next s := by
  simp only [execLaunchBind, h, ht]

theorem execLaunchBind_fenced {g : Nat} {s : State} {l : Launch} {d : Desc} (h : (s.dieAt g).sel = some l) (ht : l.tr = some d)
    (hf : ∃ k ∈ l.members (g / 4), (s.cluster k).fenced = true) : execLaunchBind g s = .next (s.failSel g l 0x06) := by
  simp only [execLaunchBind, h, ht]
  exact congrArg _ (if_pos (List.any_eq_true.mpr hf))

/-- The members of a launch bound to a cox, each with phase 0 started. -/
def State.bindMembers (s : State) (m cox : Nat) (l : Launch) (d : Desc) (pos : List (Nat × List Nat)) : State :=
  (l.members m).foldl (fun t k => t.updCluster k (fun c =>
    (c.bindReset l d k cox (((pos.find? (fun x => x.1 == k)).map (·.2)).getD []) (t.savedOn m k)).startPhase 0 (l.index k)
      (s.strokeOf m))) s

theorem State.bindMembers_frame (s : State) (m cox : Nat) (l : Launch) (d : Desc) (pos : List (Nat × List Nat)) :
    s.bindMembers m cox l d pos = { s with cl := (s.bindMembers m cox l d pos).cl } :=
  foldl_updates_clusters (fun _ _ => rfl) _ s

theorem State.bindMembers_bound (s : State) {m k : Nat} (cox : Nat) {l : Launch} {d : Desc} (pos : List (Nat × List Nat))
    {ph : Phase} (hp : d.phases[0]? = some ph) (hd : (l.members m).Nodup) (hk : k ∈ l.members m) :
    (s.cluster k).Bound ((s.bindMembers m cox l d pos).cluster k) l d k cox ph := by
  refine cluster_foldl_of_mem (R := fun k c c' => c.Bound c' l d k cox ph)
    (fun t i j hj => t.cluster_updCluster_of_ne _ hj) (fun t i => ?_) hd hk s
  rw [State.cluster_updCluster_self]
  exact Cluster.bindReset_startPhase _ i cox _ _ _ hp

/-- A translated launch whose members are free and unfenced binds a free cox, and each member starts phase 0. -/
theorem execLaunchBind_binds {g cox : Nat} {s : State} {l : Launch} {d : Desc} {pos : List (Nat × List Nat)} {ph : Phase}
    (h : (s.dieAt g).sel = some l) (ht : l.tr = some d)
    (hfree : ∀ k ∈ l.members (g / 4), (s.cluster k).fenced = false ∧ (s.cluster k).bind = none ∧ (s.cluster k).mx.queue = [])
    (hd : (l.members (g / 4)).Nodup) (hs : l.saved = none) (hb : (s.module (g / 4)).fwBusy = false)
    (hc : (s.dieAt g).freeCox = some cox) (hw : wheelAllot d.scpos (s.wheelUsed (g / 4)) (l.members (g / 4)) = some pos)
    (hp : d.phases[0]? = some ph) : ∃ t, execLaunchBind g s = .next t ∧ (t.mem = s.mem ∧ t.pmem = s.pmem) ∧
      (t.dieAt g).sel = none ∧
      (∀ x, kget x (t.dieAt g).coxes cox = ⟨l, 0, l.members (g / 4), none, none, .run⟩) ∧
      ∀ k ∈ l.members (g / 4), (s.cluster k).Bound (t.cluster k) l d k cox ph := by
  have hfenced : (l.members (g / 4)).any (fun k => (s.cluster k).fenced) = false := by
    simpa using fun k hk => (hfree k hk).1
  have hmembers : s.membersFree (l.members (g / 4)) = true := by
    simpa [State.membersFree] using fun k hk => (hfree k hk).2.1
  have hqueues : (l.members (g / 4)).any (fun k => !(s.cluster k).mx.queue.isEmpty) = false := by
    simpa using fun k hk => (hfree k hk).2.2
  obtain ⟨hlink, hoch⟩ := State.onlyOch_foldl State.onlyOch_linkChannels (l.members (g / 4)) (s.bindMembers (g / 4) cox l d pos)
  refine ⟨((l.members (g / 4)).foldl State.linkChannels (s.bindMembers (g / 4) cox l d pos)).updDie g (fun x => { x with
    sel := none, coxes := kset x.coxes cox ⟨l, 0, l.members (g / 4), none, none, .run⟩ }), ?exec, ?mem, ?sel, fun x => ?cox,
    fun k hk => ?bound⟩
  case exec =>
    simp only [execLaunchBind, h, ht, hfenced, hc, hw, hmembers, hs, hb, hqueues, Bool.false_eq_true, if_false, Bool.not_true,
      Option.isSome_none, or_self]
    rfl
  case mem =>
    rw [hlink, State.bindMembers_frame]
    exact ⟨rfl, rfl⟩
  case sel => rw [State.dieAt_updDie_self]
  case cox => rw [State.dieAt_updDie_self, kget_kset_self]
  case bound =>
    rw [State.cluster_updDie, hoch]
    exact (s.bindMembers_bound cox pos hp hd hk).och _

/-! ### A member signals done (04 R99) -/

theorem Cluster.closeWindow_eq (c : Cluster) (q at_ stroke : Nat) : c.closeWindow q at_ stroke =
    { c with windows := (c.closeWindow q at_ stroke).windows, drlNew := (c.closeWindow q at_ stroke).drlNew } := by
  unfold Cluster.closeWindow
  split <;> rfl

theorem Cluster.depositAll_prog (c : Cluster) (at_ stroke : Nat) : (c.depositAll at_ stroke).prog = c.prog := by
  have h (l : List (Nat × Window)) (c : Cluster) :
      (l.foldl (fun c w => c.closeWindow w.1 at_ stroke) c).prog = c.prog := by
    induction l generalizing c with
    | nil => rfl
    | cons w l ih => rw [List.foldl_cons, ih, Cluster.closeWindow_eq]
  exact h _ c

section
variable {s : State} {k : Nat} {e : PhEnd} {b : Binding} (hp : (s.cluster k).prog.park = .phase e)
  (hb : (s.cluster k).bind = some b)
include hp hb

theorem execMemberDone_idle (h : (s.cluster k).done = true ∨ s.drained k = false) : execMemberDone k s = .next s := by
  have hd : (s.cluster k).done = true ∨ (!s.drained k) = true := h.imp_right (by simp)
  simp only [execMemberDone, hp, hb, if_pos hd]

theorem execMemberDone_signals_eq (hn : (s.cluster k).done = false) (hd : s.drained k = true) :
    ∃ f, execMemberDone k s = .next ((s.setCluster k
      { (s.cluster k).depositAll (s.cyc k) (s.strokeOf (modOf k)) with done := true }).updDie (dieKey k) f) :=
  ⟨_, by
    simp only [execMemberDone, hp, hb, hn, hd, Bool.false_eq_true, Bool.not_true, or_self, if_false]
    rfl⟩

theorem execMemberDone_signals (hn : (s.cluster k).done = false) (hd : s.drained k = true) :
    ∃ t, execMemberDone k s = .next t ∧ (t.mem = s.mem ∧ t.pmem = s.pmem) ∧ (t.cluster k).done = true ∧
      (t.cluster k).prog = (s.cluster k).prog ∧ ∀ i, i ≠ k → t.cluster i = s.cluster i := by
  obtain ⟨f, hf⟩ := execMemberDone_signals_eq hp hb hn hd
  refine ⟨_, hf, ⟨rfl, rfl⟩, ?done, ?prog, fun i hi => ?other⟩
  case done => rw [State.cluster_updDie, State.cluster_setCluster_self]
  case prog =>
    rw [State.cluster_updDie, State.cluster_setCluster_self]
    exact Cluster.depositAll_prog ..
  case other => exact s.cluster_setCluster_of_ne _ hi

end

/-! ### Phases (04 R99) -/


/-- The bit a member's end gives to a PHEND of mode `m`. -/
def PhEnd.bitOf (m : BMode) : PhEnd → Option Bool
  | .phend m2 b => if m2 = m then some b else none
  | _ => none

/-- What a PHEND's mode makes of the members' bits. -/
def phendReduces (m : BMode) (bits : List Bool) : Bool :=
  match m with
  | .any => bits.any id
  | .all => bits.all id
  | .none => !bits.any id

/-- Where every member ended with a PHEND of mode `m`, the bits are the members' own. -/
theorem filterMap_bitOf {s : State} {m : BMode} {ks : List Nat} (h : ∀ k ∈ ks, ∃ bit, s.phEnd k = .phend m bit) :
    (ks.map s.phEnd).filterMap (PhEnd.bitOf m) = ks.map (fun k => decide (s.phEnd k = .phend m true)) := by
  induction ks with
  | nil => rfl
  | cons k ks ih =>
    obtain ⟨⟨bit, hk⟩, hks⟩ := List.forall_mem_cons.mp h
    rw [List.map_cons, List.filterMap_cons, ih hks, hk, List.map_cons, hk]
    cases bit <;> simp [PhEnd.bitOf]

/-- A state in which a cox is written as `x`. -/
def State.setCox (s : State) (g cox : Nat) (x : Cox) : State :=
  s.updDie g (fun d => { d with coxes := kset d.coxes cox x })

theorem State.find?_setCox (s : State) (g cox : Nat) (x : Cox) :
    ((s.setCox g cox x).dieAt g).coxes.find? (fun y => y.1 == cox) = some (cox, x) := by
  unfold State.setCox
  rw [State.dieAt_updDie_self]
  exact find?_kset_self ..

theorem head?_bind_eq {α β : Type} {ks : List α} {f : α → Option β} {b : β} (hne : ks ≠ []) (h : ∀ k ∈ ks, f k = some b) :
    ks.head?.bind f = some b := by
  cases ks with
  | nil => exact absurd rfl hne
  | cons k ks => exact h k List.mem_cons_self

/-- What a step to phase `j` leaves of a member. -/
structure Cluster.Stepped (c c' : Cluster) (j : Nat) : Prop where
  phase : c'.phase = j
  done : c'.done = false
  park : c'.prog.park = .run
  pc : c.phases[j]?.map (·.code) = some c'.prog.pc

/-- Phase `j` started on every member of a cox, which drops the graphs that its table does not name. -/
def State.startMembers (s : State) (g j : Nat) (x : Cox) : State :=
  x.members.foldl (fun t k => t.updCluster k (fun c =>
    (c.startPhase j (x.launch.index k) (s.strokeOf (g / 4))).dropGraphs)) s

/-- A step to phase `j` starts it on every member. -/
theorem stepTo_some (s : State) {g cox j : Nat} {x : Cox} (hd : x.members.Nodup)
    (hp : ∀ k ∈ x.members, ∃ p, (s.cluster k).phases[j]? = some p) :
    ((s.stepTo g cox x (some j) (fun _ => none)).mem = s.mem ∧ (s.stepTo g cox x (some j) (fun _ => none)).pmem = s.pmem) ∧
    ((s.stepTo g cox x (some j) (fun _ => none)).dieAt g).coxes.find? (fun y => y.1 == cox) =
      some (cox, { x with phase := j, lastDone := none }) ∧
    ∀ k ∈ x.members, (s.cluster k).Stepped ((s.stepTo g cox x (some j) (fun _ => none)).cluster k) j := by
  have hstep : s.stepTo g cox x (some j) (fun _ => none) =
      (s.startMembers g j x).setCox g cox { x with phase := j, lastDone := none } := rfl
  have hframe : s.startMembers g j x = { s with cl := (s.startMembers g j x).cl } :=
    foldl_updates_clusters (fun _ _ => rfl) _ s
  rw [hstep]
  refine ⟨?mem, State.find?_setCox .., fun k hk => ?members⟩
  case mem =>
    rw [hframe]
    exact ⟨rfl, rfl⟩
  case members =>
    refine cluster_foldl_of_mem (R := fun _ c c' => (∃ p, c.phases[j]? = some p) → c.Stepped c' j)
      (fun t i i' hi => t.cluster_updCluster_of_ne _ hi) (fun t i => ?_) hd hk s (hp k hk)
    rintro ⟨p, h⟩
    rw [State.cluster_updCluster_self]
    obtain ⟨hphase, hdone, hpark, hpc, -⟩ := Cluster.startPhase_spec h (x.launch.index i) (s.strokeOf (g / 4))
    exact ⟨hphase, hdone, hpark, by rw [h, Option.map_some, ← hpc]; rfl⟩

section
variable {s : State} {g cox : Nat}

theorem execPhaseStep_none (h : (s.dieAt g).coxes.find? (fun y => y.1 == cox) = none) : execPhaseStep g cox s = .next s := by
  simp only [execPhaseStep, h]

theorem execLaunchEnd_none (h : (s.dieAt g).coxes.find? (fun y => y.1 == cox) = none) : execLaunchEnd g cox s = .next s := by
  simp only [execLaunchEnd, h]

theorem members_not_done_iff {x : Cox} :
    (!(x.members.all (fun k => (s.cluster k).done))) = true ↔ ∃ k ∈ x.members, (s.cluster k).done = false := by
  simp

/-- The cox decides when the members have signalled done. -/
theorem execPhaseStep_due {x : Cox} (hf : x.fail = none) (hp : x.phase < 8) (hm : x.mode = .run)
    (hd : ∀ k ∈ x.members, (s.cluster k).done = true) :
    ¬ (x.fail.isSome = true ∨ x.phase ≥ 8 ∨ x.mode ≠ .run ∨ (!(x.members.all (fun k => (s.cluster k).done))) = true) := by
  rw [members_not_done_iff, hf, hm]
  simpa using ⟨hp, hd⟩

variable {x : Cox} (hx : (s.dieAt g).coxes.find? (fun y => y.1 == cox) = some (cox, x))
include hx

theorem execPhaseStep_idle
    (h : x.fail.isSome = true ∨ 8 ≤ x.phase ∨ x.mode ≠ .run ∨ ∃ k ∈ x.members, (s.cluster k).done = false) :
    execPhaseStep g cox s = .next s := by
  simp only [execPhaseStep, hx, members_not_done_iff]
  rw [if_pos h]

variable (hdue : ¬ (x.fail.isSome = true ∨ x.phase ≥ 8 ∨ x.mode ≠ .run ∨ (!(x.members.all (fun k => (s.cluster k).done))) = true))
include hdue

theorem execPhaseStep_halt (hh : ∃ k ∈ x.members, s.phEnd k = .halt) :
    execPhaseStep g cox s = .next (s.setCox g cox { x with phase := 8 }) := by
  have hc : (x.members.map s.phEnd).contains .halt = true := by simpa using hh
  simp only [execPhaseStep, hx]
  rw [if_neg hdue, if_pos hc]
  rfl

section
variable {p : Phase} (hc : ∀ k ∈ x.members, s.phEnd k ≠ .halt) (hcur : x.members.head?.bind (fun k => (s.cluster k).cur) = some p)
include hc hcur

theorem execPhaseStep_phend {mode : BMode} {b : Bool} (hh : (x.members.map s.phEnd).head? = some (.phend mode b)) :
    execPhaseStep g cox s = .next (
      let bits := (x.members.map s.phEnd).filterMap (PhEnd.bitOf mode)
      if bits.length ≠ (x.members.map s.phEnd).length then s.setCox g cox { x with fail := some 0x07 }
      else s.stepTo g cox x (if phendReduces mode bits then p.taken else p.other) (fun _ => none)) := by
  have hn : ¬ (x.members.map s.phEnd).contains .halt = true := by simpa using hc
  simp only [execPhaseStep, hx]
  rw [if_neg hdue, if_neg hn]
  simp only [hh, hcur]
  rfl

/-- Ends that are PHENDs of one mode step every member to the phase that their bits name. -/
theorem execPhaseStep_phends {mode : BMode} (hall : ∀ k ∈ x.members, ∃ bit, s.phEnd k = .phend mode bit) :
    execPhaseStep g cox s = .next (s.stepTo g cox x
      (if phendReduces mode (x.members.map (fun k => decide (s.phEnd k = .phend mode true))) then p.taken else p.other)
      (fun _ => none)) := by
  obtain ⟨k, r, hm⟩ : ∃ k r, x.members = k :: r := by
    cases hm : x.members with
    | nil => rw [hm] at hcur; cases hcur
    | cons k r => exact ⟨k, r, rfl⟩
  obtain ⟨bit, hk⟩ := hall k (by simp [hm])
  rw [execPhaseStep_phend hx hdue hc hcur (mode := mode) (b := bit) (by rw [hm]; simp [hk]), filterMap_bitOf hall]
  simp only [List.length_map, ne_eq, not_true_eq_false, if_false]

/-- A PHEND and a BSEL among the members' ends do not step together. -/
theorem execPhaseStep_mixed (ha : ∀ k ∈ x.members, s.phEnd k ≠ .abort) {mode : BMode} {i i' : Nat} (hi : i ∈ x.members)
    (hi' : i' ∈ x.members) {bit : Bool} {n : Nat} (he : s.phEnd i = .phend mode bit) (he' : s.phEnd i' = .bsel n) :
    execPhaseStep g cox s = .next (s.setCox g cox { x with fail := some 0x07 }) := by
  have hlen {α β : Type} {f : α → Option β} {l : List α} {a : α} (h : a ∈ l) (hf : f a = none) :
      (l.filterMap f).length ≠ l.length := by
    rw [Ne, List.filterMap_length_eq_length]
    intro hall
    have := hall a h
    rw [hf] at this
    cases this
  obtain ⟨i0, r, hm⟩ := List.exists_cons_of_ne_nil (List.ne_nil_of_mem hi)
  have hmem : i0 ∈ x.members := by simp [hm]
  cases h0 : s.phEnd i0 with
  | halt => exact absurd h0 (hc i0 hmem)
  | abort => exact absurd h0 (ha i0 hmem)
  | phend m0 b0 =>
    rw [execPhaseStep_phend hx hdue hc hcur (mode := m0) (b := b0) (by rw [hm]; simp [h0])]
    congr 1
    refine if_pos (hlen (List.mem_map_of_mem hi') ?_)
    rw [he']
    rfl
  | bsel n0 =>
    have hn : ¬ (x.members.map s.phEnd).contains .halt = true := by simpa using hc
    have hh : (x.members.map s.phEnd).head? = some (.bsel n0) := by rw [hm]; simp [h0]
    simp only [execPhaseStep, hx]
    rw [if_neg hdue, if_neg hn]
    simp only [hh, hcur]
    congr 1
    refine if_pos ?_
    rw [List.length_map]
    refine hlen hi ?_
    simp only [he]

end

end

/-! ### The end of a launch (22 R375) -/

section
variable {s : State} {g cox : Nat} {x : Cox} (hx : (s.dieAt g).coxes.find? (fun y => y.1 == cox) = some (cox, x))
include hx

theorem execLaunchEnd_idle (h : (x.phase < 8 ∧ x.fail = none) ∨ ∃ k ∈ x.members, (s.cluster k).done = false) :
    execLaunchEnd g cox s = .next s := by
  simp only [execLaunchEnd, hx, members_not_done_iff, Option.isNone_iff_eq_none]
  rw [if_pos h]

theorem execLaunchEnd_ends (hp : 8 ≤ x.phase) (hd : ∀ k ∈ x.members, (s.cluster k).done = true) :
    execLaunchEnd g cox s = .next (s.endLaunch g cox x) := by
  have h : ¬ ((x.phase < 8 ∧ x.fail = none) ∨ ∃ k ∈ x.members, (s.cluster k).done = false) := by
    rintro (⟨hlt, -⟩ | ⟨k, hk, hn⟩)
    · exact Nat.not_lt.mpr hp hlt
    · rw [hd k hk] at hn
      cases hn
  simp only [execLaunchEnd, hx, members_not_done_iff, Option.isNone_iff_eq_none]
  rw [if_neg h]

end

theorem Queue.setPkt_finished (q : Queue) (i : Nat) :
    ∀ y ∈ (q.setPkt i (fun y => { y with st := .finished })).window, y.idx = i → y.st = .finished := by
  intro y hy hi
  obtain ⟨z, -, rfl⟩ := List.mem_map.mp hy
  by_cases h : z.idx = i
  · simp only [h, if_true]
  · rw [if_neg h] at hi
    exact absurd hi h

theorem State.queue_updQueue_self (s : State) (m n : Nat) (f : Queue → Queue) :
    (s.updQueue m n f).queue m n = f (s.queue m n) := by
  unfold State.queue State.updQueue
  rw [State.module_updModule_self, kget_kset_self]

/-- A cluster whose launch has ended. -/
def Cluster.unbound (c : Cluster) : Cluster :=
  { c with bind := none, scPos := [], done := false, block := none, ckptHold := false, prog := { c.prog with park := .halted } }

/-- The state in which a completed launch's cox and members are reclaimed and what checkpoints hold of it is over. -/
def State.reclaimed (s : State) (g cox : Nat) (x : Cox) : State :=
  let gone (y : Nat × Image) : Bool := x.members.contains y.1 && y.2.launch.key == x.launch.key
  let s := x.members.foldl (fun s k => s.updCluster k Cluster.unbound) s
  { s.updDie g (fun d => { d with coxes := kdel d.coxes cox }) with
    staged := s.staged.filter (fun y => !gone y), images := s.images.filter (fun y => !gone y) }

theorem State.endLaunch_completed {s : State} {g cox : Nat} {x : Cox} (hf : x.fail = none) : s.endLaunch g cox x =
    if x.launch.moved then s.reclaimed g cox x
    else (s.reclaimed g cox x).updQueue (g / 4) x.launch.q (fun q => q.setPkt x.launch.idx (fun y => { y with st := .finished })) := by
  unfold State.endLaunch
  rw [hf]
  rfl

theorem State.cluster_reclaimed (s : State) (g cox : Nat) (x : Cox) {k : Nat} (hk : k ∈ x.members) :
    (s.reclaimed g cox x).cluster k = (s.cluster k).unbound := by
  have h := cluster_foldl_updCluster (g := Cluster.unbound) (fun _ => rfl) x.members s k
  rw [if_pos hk] at h
  exact h

/-- A launch that completed: its cox is free, its packet finished and its members halted. -/
theorem State.endLaunch_spec {s : State} {g cox : Nat} {x : Cox} (hf : x.fail = none) :
    ((s.endLaunch g cox x).mem = s.mem ∧ (s.endLaunch g cox x).pmem = s.pmem) ∧
    ((s.endLaunch g cox x).dieAt g).coxes.find? (fun y => y.1 == cox) = none ∧
    (x.launch.moved = false → ∀ y ∈ ((s.endLaunch g cox x).queue (g / 4) x.launch.q).window, y.idx = x.launch.idx →
      y.st = .finished) ∧
    ∀ k ∈ x.members, (s.endLaunch g cox x).cluster k = (s.cluster k).unbound := by
  have hkept : (s.reclaimed g cox x).mem = s.mem ∧ (s.reclaimed g cox x).pmem = s.pmem := by
    have h := foldl_updates_clusters (f := fun s k => s.updCluster k Cluster.unbound) (fun _ _ => rfl) x.members s
    exact ⟨(congrArg State.mem h :), (congrArg State.pmem h :)⟩
  have hcox : ((s.reclaimed g cox x).dieAt g).coxes.find? (fun y => y.1 == cox) = none := by
    have h := State.dieAt_updDie_self (x.members.foldl (fun s k => s.updCluster k Cluster.unbound) s) g
      (fun d => { d with coxes := kdel d.coxes cox })
    exact (congrArg (fun d : Die => d.coxes.find? (fun y => y.1 == cox)) h).trans (find?_kdel_self ..)
  rw [State.endLaunch_completed hf]
  by_cases hm : x.launch.moved = true
  · rw [if_pos hm]
    exact ⟨hkept, hcox, fun h => absurd hm (by rw [h]; decide), fun k hk => s.cluster_reclaimed g cox x hk⟩
  · rw [if_neg hm]
    refine ⟨hkept, hcox, fun _ => ?_, fun k hk => s.cluster_reclaimed g cox x hk⟩
    rw [State.queue_updQueue_self]
    exact Queue.setPkt_finished _ _

/-! ### Translation (22 R373) -/

theorem execLaunchTranslate_idle {g : Nat} {s : State} {l : Launch}
    (h : (s.dieAt g).sel = none ∨ ((s.dieAt g).sel = some l ∧ l.tr.isSome = true)) : execLaunchTranslate g s = .next s := by
  rcases h with h | ⟨h, ht⟩
  · simp only [execLaunchTranslate, h]
  · simp only [execLaunchTranslate, h, ht, if_true]

section
variable {g : Nat} {s : State} {l : Launch} (h : (s.dieAt g).sel = some l) (ht : l.tr = none)
include h ht

theorem execLaunchTranslate_translates {d : Desc} (hd : s.translate (g / 4) l = .inl d) : execLaunchTranslate g s =
    .next (s.updDie g (fun x => { x with sel := some { l with tr := some d } })) := by
  simp only [execLaunchTranslate, h, ht, hd, Option.isSome_none, Bool.false_eq_true, if_false]

theorem execLaunchTranslate_fails {f : Failure} (hf : s.translate (g / 4) l = .inr f) :
    (f.at_ = none → execLaunchTranslate g s = .next (s.failSel g l f.code)) ∧
    ∀ j j', f.at_ = some (j, j') → execLaunchTranslate g s = .next { s.failSel g l f.code with
      outputs := (s.failSel g l f.code).outputs ++ [.extentBad (g / 4) l.q l.idx j j'] } := by
  refine ⟨fun ha => ?_, fun j j' ha => ?_⟩
  all_goals simp only [execLaunchTranslate, h, ht, hf, ha, Option.isSome_none, Bool.false_eq_true, if_false]

end

/-! ### The obligation -/

/-- Settles O53: each step of a launch's life by the lemma that says what it does. -/
theorem launches : Obligations.Launches := by
  unfold Obligations.Launches
  intro s m g cox k j j' l l' d pos b x mode ph e md dg ms kept idle coxIs
  refine ⟨execLaunchSelect_idle, fun hi hl => ?select, fun hl => ?best, execLaunchTranslate_idle, fun hs ht => ?translate,
    fun h => ?unbound, fun hs ht => ⟨execLaunchBind_fenced hs ht, fun hfree hd hsv hb hc hw hp => ?bind⟩,
    fun hp hb => ⟨execMemberDone_idle hp hb, execMemberDone_signals hp hb⟩,
    fun h => ⟨execPhaseStep_none h, execLaunchEnd_none h⟩, fun hx => ⟨execPhaseStep_idle hx, fun hf h8 hm hd => ?step,
      execLaunchEnd_idle hx, fun h8 hf hd => ?ends⟩⟩
  case select =>
    refine ⟨_, execLaunchSelect_takes hi hl, ⟨rfl, rfl⟩, rfl, ?_, ?_⟩
    · rw [State.dieAt_updDie_self]
    · rw [State.module_updDie, State.module_updModule_self]
  case best =>
    obtain ⟨hmem, hdie, hmax⟩ := Module.best_spec hl
    exact ⟨hmem, hdie, hmax l'⟩
  case translate =>
    refine ⟨fun htr => ⟨_, execLaunchTranslate_translates hs ht htr, ⟨rfl, rfl⟩, rfl, ?_⟩, fun f htr => ?_⟩
    · rw [State.dieAt_updDie_self]
    · obtain ⟨hnone, hsome⟩ := execLaunchTranslate_fails hs ht htr
      exact ⟨hnone, hsome j j'⟩
  case unbound =>
    rcases h with h | ⟨h, ht⟩
    · exact execLaunchBind_none h
    · exact execLaunchBind_untranslated h ht
  case bind =>
    obtain ⟨t, hexec, hkept, hsel, hcox, hbound⟩ := execLaunchBind_binds hs ht hfree hd hsv hb hc hw hp
    refine ⟨t, hexec, hkept, hsel, hcox _, fun hk => ?_⟩
    have h := hbound k hk
    exact ⟨h.bind, h.pc, h.park, h.loops, h.v, h.p, h.det, h.fmtcfg, h.phases, h.phase, h.sem, h.semLocal, h.mx, h.ibuf, h.padm,
      h.windows, congrArg Ctx.s h.fw, congrArg Ctx.pc h.fw, congrArg Ctx.park h.fw⟩
  case step =>
    have hdue := execPhaseStep_due hf h8 hm hd
    refine ⟨fun hh => ⟨_, execPhaseStep_halt hx hdue hh, ⟨rfl, rfl⟩, rfl, State.find?_setCox ..⟩,
      fun hall hnd hcur hph hj => ?_, fun hp hb hh ha hcur => ?_⟩
    · have hhalt : ∀ k ∈ x.members, s.phEnd k ≠ .halt := by
        intro k hk h
        obtain ⟨bit, hbit⟩ := hall k hk
        cases h.symm.trans hbit
      have hexec := execPhaseStep_phends hx hdue hhalt hcur hall
      rw [show (if phendReduces mode _ then ph.taken else ph.other) = some j from hj] at hexec
      obtain ⟨hkept, hcox, hstep⟩ := stepTo_some s (g := g) (cox := cox) hnd hph
      refine ⟨_, hexec, hkept, hcox, fun hk => ?_⟩
      have h := hstep k hk
      exact ⟨h.phase, h.done, h.park, h.pc⟩
    · obtain ⟨i, hi, bit, he⟩ := hp
      obtain ⟨i', hi', n, he'⟩ := hb
      refine ⟨_, execPhaseStep_mixed hx hdue hh (head?_bind_eq (List.ne_nil_of_mem hi) hcur) ha hi hi' he he', ⟨rfl, rfl⟩, rfl,
        State.find?_setCox ..⟩
  case ends =>
    obtain ⟨hkept, hcox, hpkt, hmembers⟩ := State.endLaunch_spec (s := s) (g := g) (cox := cox) hf
    refine ⟨_, execLaunchEnd_ends hx h8 hd, hkept, hcox, hpkt, fun hk => ?_⟩
    rw [hmembers k hk]
    exact ⟨rfl, rfl, rfl, rfl⟩

end Sys2Proof.Machine
end

section
/-! SUPPORT. The scalar instructions (05 R112 to R120) as operations on vectors of W bits: what each operation of Scalar
writes, and the operand forms with the value that they send to their register. -/

namespace Sys2Proof.Machine

/-! ### Operations that write a vector of W bits -/

/-- The signed reading of a W-bit vector, written, is the vector sign-extended. -/
theorem put_toInt (w : Width) (v : BitVec (wbits w)) : put w v.toInt = v.signExtend 64 := by
  rw [put_eq, BitVec.ofInt_toInt]

/-- The unsigned reading of a W-bit vector, written, is the vector sign-extended. -/
theorem put_toNat (w : Width) (v : BitVec (wbits w)) : put w (v.toNat : Int) = v.signExtend 64 := by
  rw [put_eq, BitVec.ofInt_natCast, BitVec.ofNat_toNat, BitVec.setWidth_eq]

/-- A natural number, written. -/
theorem put_natCast (w : Width) (n : Nat) : put w (n : Int) = (BitVec.ofNat (wbits w) n).signExtend 64 := by
  rw [put_eq, BitVec.ofInt_natCast]

theorem uv_eq_zero (w : Width) (y : DWord) : uv w y = 0 ↔ y.setWidth (wbits w) = 0 := by
  rw [uv_eq, BitVec.toNat_eq]
  rfl

section
variable (w : Width) (x y : DWord)

theorem opMin_eq :
    opMin w x y = (if (x.setWidth (wbits w)).toInt ≤ (y.setWidth (wbits w)).toInt then x.setWidth (wbits w)
      else y.setWidth (wbits w)).signExtend 64 := by
  rw [opMin, sv_eq, sv_eq, min_def, ← put_toInt, apply_ite BitVec.toInt]

theorem opMax_eq :
    opMax w x y = (if (x.setWidth (wbits w)).toInt ≤ (y.setWidth (wbits w)).toInt then y.setWidth (wbits w)
      else x.setWidth (wbits w)).signExtend 64 := by
  rw [opMax, sv_eq, sv_eq, max_def, ← put_toInt, apply_ite BitVec.toInt]

theorem opMinu_eq :
    opMinu w x y = (if (x.setWidth (wbits w)).toNat ≤ (y.setWidth (wbits w)).toNat then x.setWidth (wbits w)
      else y.setWidth (wbits w)).signExtend 64 := by
  rw [opMinu, uv_eq, uv_eq, min_def, ← put_toNat, apply_ite BitVec.toNat]

theorem opMaxu_eq :
    opMaxu w x y = (if (x.setWidth (wbits w)).toNat ≤ (y.setWidth (wbits w)).toNat then y.setWidth (wbits w)
      else x.setWidth (wbits w)).signExtend 64 := by
  rw [opMaxu, uv_eq, uv_eq, max_def, ← put_toNat, apply_ite BitVec.toNat]

theorem opSlt_eq :
    opSlt w x y = if decide ((x.setWidth (wbits w)).toInt < (y.setWidth (wbits w)).toInt) then 1 else 0 := by
  simp only [opSlt, sv_eq, decide_eq_true_eq]

theorem opSltu_eq :
    opSltu w x y = if decide ((x.setWidth (wbits w)).toNat < (y.setWidth (wbits w)).toNat) then 1 else 0 := by
  simp only [opSltu, uv_eq, decide_eq_true_eq]

theorem opSeq_eq : opSeq w x y = if decide (x.setWidth (wbits w) = y.setWidth (wbits w)) then 1 else 0 := by
  simp only [opSeq, uv_eq, BitVec.toNat_inj, decide_eq_true_eq]

theorem opMulh_eq :
    opMulh w x y = (BitVec.ofInt (wbits w)
      ((x.setWidth (wbits w)).toInt * (y.setWidth (wbits w)).toInt / (2 ^ wbits w : Nat))).signExtend 64 := by
  rw [opMulh, floorShr, sv_eq, sv_eq, put_eq]

theorem opMulhu_eq :
    opMulhu w x y = (BitVec.ofNat (wbits w)
      ((x.setWidth (wbits w)).toNat * (y.setWidth (wbits w)).toNat / 2 ^ wbits w)).signExtend 64 := by
  rw [opMulhu, uv_eq, uv_eq, put_natCast]

/-! ### Divides (05 R116) -/

/-- A divide writes one vector for a zero divisor and another for any other. -/
theorem ite_divisor {A B : BitVec (wbits w)} {p q : DWord} (hp : p = A.signExtend 64) (hq : q = B.signExtend 64) :
    (if uv w y = 0 then p else q) = (if y.setWidth (wbits w) = 0 then A else B).signExtend 64 := by
  rw [hp, hq, apply_ite (BitVec.signExtend 64)]
  simp only [uv_eq_zero]

theorem opDiv_eq :
    opDiv w x y = (if y.setWidth (wbits w) = 0 then -1
      else (x.setWidth (wbits w)).sdiv (y.setWidth (wbits w))).signExtend 64 := by
  refine ite_divisor w y ?zero ?quotient
  case zero => rw [put_eq, BitVec.ofInt_neg]; rfl
  case quotient =>
    rw [put_eq, sv_eq, sv_eq]
    exact congrArg _ (BitVec.eq_of_toInt_eq (by rw [BitVec.toInt_ofInt, BitVec.toInt_sdiv]))

theorem opDivu_eq :
    opDivu w x y = (if y.setWidth (wbits w) = 0 then -1 else x.setWidth (wbits w) / y.setWidth (wbits w)).signExtend 64 := by
  refine ite_divisor w y ?zero ?quotient
  case zero => rw [← BitVec.toNat_allOnes, put_toNat, ← BitVec.neg_one_eq_allOnes]; rfl
  case quotient => rw [uv_eq, uv_eq, ← BitVec.toNat_udiv, put_toNat]

theorem opRem_eq :
    opRem w x y = (if y.setWidth (wbits w) = 0 then x.setWidth (wbits w)
      else (x.setWidth (wbits w)).srem (y.setWidth (wbits w))).signExtend 64 := by
  refine ite_divisor w y ?zero ?remainder
  case zero => rw [sv_eq, put_toInt]
  case remainder => rw [← Int.tmod_def, sv_eq, sv_eq, ← BitVec.toInt_srem, put_toInt]

theorem opRemu_eq :
    opRemu w x y = (if y.setWidth (wbits w) = 0 then x.setWidth (wbits w)
      else x.setWidth (wbits w) % y.setWidth (wbits w)).signExtend 64 := by
  refine ite_divisor w y ?zero ?remainder
  case zero => rw [uv_eq, put_toNat]
  case remainder => rw [uv_eq, uv_eq, ← BitVec.toNat_umod, put_toNat]

/-! ### Shifts (05 R117): a count of W or more shifts every bit out -/

variable (n : Nat)

theorem signExtend_zero (W : Nat) : (0#W).signExtend 64 = 0 := by
  rw [BitVec.signExtend, BitVec.toInt_zero]
  rfl

theorem opShl_eq : opShl w x n = (x.setWidth (wbits w) <<< n).signExtend 64 := by
  unfold opShl
  split
  · next h => rw [BitVec.shiftLeft_eq_zero h]; exact (signExtend_zero _).symm
  · rw [uv_eq, ← Nat.shiftLeft_eq, put_natCast]; rfl

theorem opShr_eq : opShr w x n = (x.setWidth (wbits w) >>> n).signExtend 64 := by
  unfold opShr
  split
  · next h => rw [BitVec.ushiftRight_eq_zero h]; exact (signExtend_zero _).symm
  · rw [uv_eq, ← Nat.shiftRight_eq_div_pow, ← BitVec.toNat_ushiftRight, put_toNat]

/-- A shift by more than 64 leaves of a 64-bit number what a shift by 64 leaves: its sign. -/
theorem toInt_div_two_pow_min {W : Nat} (hW : W ≤ 64) (X : BitVec W) :
    X.toInt / ((2 ^ min n 64 : Nat) : Int) = X.toInt / ((2 ^ n : Nat) : Int) := by
  rcases Nat.le_total n 64 with h | h
  · rw [Nat.min_eq_left h]
  · have hpow (k : Nat) (hk : 64 ≤ k) : ((2 : Int) ^ W) ≤ ((2 ^ k : Nat) : Int) := by
      exact_mod_cast Nat.pow_le_pow_right two_pos (hW.trans hk)
    have hlo : -(2 : Int) ^ W ≤ 2 * X.toInt := BitVec.le_two_mul_toInt
    have hhi : 2 * X.toInt < (2 : Int) ^ W := BitVec.two_mul_toInt_lt
    have h64 := hpow 64 le_rfl
    have hn := hpow n h
    rw [Nat.min_eq_right h]
    rcases lt_or_ge X.toInt 0 with hneg | hpos
    · rw [Int.ediv_eq_neg_one_of_neg_of_le hneg (by omega), Int.ediv_eq_neg_one_of_neg_of_le hneg (by omega)]
    · rw [Int.ediv_eq_zero_of_lt hpos (by omega), Int.ediv_eq_zero_of_lt hpos (by omega)]

theorem opSra_eq : opSra w x n = ((x.setWidth (wbits w)).sshiftRight n).signExtend 64 := by
  rw [opSra, floorShr, sv_eq, toInt_div_two_pow_min n (wbits_le w), ← Int.shiftRight_eq_div_pow, put_eq, BitVec.sshiftRight_eq]

end

/-! ### Counts (05 R118) -/

theorem leadZeros_spec {n u : Nat} (hu : u < 2 ^ n) :
    leadZeros n u ≤ n ∧ u < 2 ^ (n - leadZeros n u) ∧ (leadZeros n u < n → u.testBit (n - 1 - leadZeros n u) = true) := by
  unfold leadZeros
  split
  · next h => simp [h]
  · next h =>
    have hlog : u.log2 < n := (Nat.log2_lt h).mpr hu
    refine ⟨by omega, ?_, fun _ => ?_⟩
    · rw [show n - (n - 1 - u.log2) = u.log2 + 1 by omega]
      exact Nat.lt_log2_self
    · rw [show n - 1 - (n - 1 - u.log2) = u.log2 by omega]
      exact Nat.testBit_log2 h

theorem trailZeros_spec (n u : Nat) :
    trailZeros n u ≤ n ∧ 2 ^ trailZeros n u ∣ u ∧ (trailZeros n u < n → u.testBit (trailZeros n u) = true) := by
  induction n generalizing u with
  | zero => simp [trailZeros]
  | succ n ih =>
    unfold trailZeros
    split
    · next h => simp [h]
    · next h =>
      obtain ⟨hle, hdvd, hbit⟩ := ih (u / 2)
      refine ⟨by omega, ?_, fun hlt => ?_⟩
      · have heven : u / 2 * 2 = u := by omega
        have h := Nat.mul_dvd_mul_right hdvd 2
        rwa [heven, ← pow_succ] at h
      · rw [Nat.testBit_succ]
        exact hbit (by omega)

theorem popBits_eq (n u : Nat) : popBits n u = ((List.range n).filter (fun i => u.testBit i)).length := by
  induction n generalizing u with
  | zero => rfl
  | succ n ih =>
    have htail : (fun i => u.testBit (i + 1)) = fun i => (u / 2).testBit i := funext fun i => Nat.testBit_succ ..
    rw [List.range_succ_eq_map, List.filter_cons, List.filter_map, popBits, ih]
    simp only [Function.comp_def, Nat.succ_eq_add_one, htail, Nat.testBit_zero]
    rcases Nat.mod_two_eq_zero_or_one u with h | h <;> simp [h, Nat.add_comm]

/-! ### Fields (05 R119) -/

theorem ofNat_fld_zeroExtended (x : DWord) (lo n : Nat) :
    BitVec.ofNat 64 (fld x.toNat lo n) = (x.extractLsb' lo n).setWidth 64 := by
  have hfld : (BitVec.ofNat n (fld x.toNat lo n)).toNat = fld x.toNat lo n := by
    rw [BitVec.toNat_ofNat, fld, Nat.mod_mod]
  rw [← ofNat_fld, ← BitVec.ofNat_toNat, hfld]

/-- A number with a field replaced: what stands above the field, the field's new value, and what stands below it. -/
theorem setFld_eq (x lo n v : Nat) :
    setFld x lo n v = 2 ^ lo * (2 ^ n * (x / 2 ^ lo / 2 ^ n) + v % 2 ^ n) + x % 2 ^ lo := by
  have parts : 2 ^ lo * (2 ^ n * (x / 2 ^ lo / 2 ^ n)) + 2 ^ lo * (x / 2 ^ lo % 2 ^ n) + x % 2 ^ lo = x := by
    rw [← mul_add, Nat.div_add_mod, Nat.div_add_mod]
  rw [setFld, fld, mul_add, mul_comm _ (2 ^ lo), mul_comm _ (2 ^ lo)]
  omega

theorem setFld_testBit (x lo n v i : Nat) :
    (setFld x lo n v).testBit i = if lo ≤ i ∧ i < lo + n then v.testBit (i - lo) else x.testBit i := by
  rw [setFld_eq, Nat.testBit_two_pow_mul_add _ (Nat.mod_lt _ (Nat.two_pow_pos lo)),
    Nat.testBit_two_pow_mul_add _ (Nat.mod_lt _ (Nat.two_pow_pos n))]
  split
  · next below => rw [if_neg (by omega), Nat.testBit_mod_two_pow, decide_eq_true below, Bool.true_and]
  · split
    · next inside => rw [if_pos (by omega), Nat.testBit_mod_two_pow, decide_eq_true inside, Bool.true_and]
    · next above => rw [if_neg (by omega), Nat.testBit_div_two_pow, Nat.testBit_div_two_pow]; congr 1; omega

/-! ### The operand forms, with the value they send to their register -/

section
variable {s : State} {lat : Nat} {d a b : SReg} {w : Width} {v : DWord}

theorem State.scalar2_of_eq {f : DWord → DWord → DWord} (h : f (s.ctx.rdS a).val (s.ctx.rdS b).val = v) :
    (.next (s.scalar2 lat d a b f) : Out) = .next (s.pushS lat d v ((s.ctx.rdS a).poison || (s.ctx.rdS b).poison)) := by
  rw [State.scalar2, h]

theorem State.scalar1_of_eq {f : DWord → DWord} (h : f (s.ctx.rdS a).val = v) :
    (.next (s.scalar1 lat d a f) : Out) = .next (s.pushS lat d v (s.ctx.rdS a).poison) := by
  rw [State.scalar1, h]

/-- A shift by an unmarked register carries the mark of what it shifts. -/
theorem State.shift_of_eq {f : DWord → Nat → DWord} (hb : (s.ctx.rdS b).poison = false)
    (h : f (s.ctx.rdS a).val (s.ctx.rdS b).val.toNat = v) :
    (.next (s.shift d a b f) : Out) = .next (s.pushS 1 d v (s.ctx.rdS a).poison) := by
  simp [State.shift, State.scalar2, hb, h]

theorem State.shift_marked {f : DWord → Nat → DWord} (hb : (s.ctx.rdS b).poison = true) :
    (.next (s.shift d a b f) : Out) = .next s.poisonUse := by
  rw [State.shift, if_pos hb]

theorem State.divide_s0 {f : DWord → DWord → DWord} (h0 : s.slot = 0) (h : f (s.ctx.rdS a).val (s.ctx.rdS b).val = v) :
    (.next (s.divide d a b w f) : Out) = .next (s.updCtx (fun c => c.push
      { mkPend (divLat w) (.sreg d ⟨v, (s.ctx.rdS a).poison || (s.ctx.rdS b).poison⟩) with div := true })) := by
  subst h
  rw [State.divide, if_pos h0]

theorem State.divide_elsewhere {f : DWord → DWord → DWord} (h0 : s.slot ≠ 0) :
    (.next (s.divide d a b w f) : Out) = .next s.illegalOp := by
  rw [State.divide, if_neg h0]

end

/-! ### The statements -/

/-- Settles O1: each operation is the one on W-bit vectors. -/
theorem scalarArithmetic : Obligations.ScalarArithmetic := fun _ _ _ _ _ _ _ =>
  ⟨State.scalar2_of_eq (opAdd_eq ..), State.scalar2_of_eq (opSub_eq ..), State.scalar2_of_eq (opAnd_eq ..),
    State.scalar2_of_eq (opOr_eq ..), State.scalar2_of_eq (opXor_eq ..), State.scalar2_of_eq (opMin_eq ..),
    State.scalar2_of_eq (opMax_eq ..), State.scalar2_of_eq (opMinu_eq ..), State.scalar2_of_eq (opMaxu_eq ..),
    State.scalar2_of_eq (opSlt_eq ..), State.scalar2_of_eq (opSltu_eq ..), State.scalar2_of_eq (opSeq_eq ..), rfl, rfl,
    State.scalar1_of_eq (opAdd_eq ..), State.scalar1_of_eq (opAnd_eq ..), State.scalar1_of_eq (opOr_eq ..),
    State.scalar1_of_eq (opXor_eq ..)⟩

/-- Settles O2: the product of the readings, and the floors of its quotients by 2^W. -/
theorem scalarMultiplies : Obligations.ScalarMultiplies := fun _ _ _ _ _ =>
  ⟨State.scalar2_of_eq (opMul_eq ..), State.scalar2_of_eq (opMulh_eq ..), State.scalar2_of_eq (opMulhu_eq ..)⟩

/-- Settles O3: R116's quotients and remainders are those of W-bit vectors, its corners apart. -/
theorem scalarDivides : Obligations.ScalarDivides := fun _ _ _ _ _ =>
  ⟨fun h0 => ⟨State.divide_s0 h0 (opDiv_eq ..), State.divide_s0 h0 (opDivu_eq ..), State.divide_s0 h0 (opRem_eq ..),
      State.divide_s0 h0 (opRemu_eq ..)⟩,
    fun h0 => ⟨State.divide_elsewhere h0, State.divide_elsewhere h0, State.divide_elsewhere h0, State.divide_elsewhere h0⟩⟩

/-- Settles O4: shifts of W-bit vectors, and fields bit by bit. -/
theorem scalarShiftsAndFields : Obligations.ScalarShiftsAndFields := by
  refine ⟨fun s d a b w k => ⟨fun hb => ?shifts, fun hb => ?marked, ?shli, ?shri, ?srai⟩,
    fun s d a pos lenm1 => ⟨?bfx, _, rfl, fun i hi => ?bfi⟩⟩
  case shifts =>
    exact ⟨State.shift_of_eq hb (opShl_eq ..), State.shift_of_eq hb (opShr_eq ..), State.shift_of_eq hb (opSra_eq ..)⟩
  case marked => exact ⟨State.shift_marked hb, State.shift_marked hb, State.shift_marked hb⟩
  case shli => exact State.scalar1_of_eq (opShl_eq ..)
  case shri => exact State.scalar1_of_eq (opShr_eq ..)
  case srai => exact State.scalar1_of_eq (opSra_eq ..)
  case bfx => exact State.scalar1_of_eq (ofNat_fld_zeroExtended ..)
  case bfi =>
    rw [BitVec.getLsbD_ofNat, decide_eq_true hi, Bool.true_and, setFld_testBit]
    rfl

/-- Settles O5: each count by what defines it. -/
theorem scalarCounts : Obligations.ScalarCounts := by
  intro s d a w
  refine ⟨⟨_, rfl, ?clz⟩, ⟨_, rfl, ?ctz⟩, ?popc⟩
  case clz => rw [uv_eq]; exact leadZeros_spec (BitVec.isLt _)
  case ctz => rw [uv_eq]; exact trailZeros_spec ..
  case popc => exact State.scalar1_of_eq (by rw [opPopc, uv_eq, popBits_eq]; rfl)

/-- Settles O6. -/
theorem scalarImmediates : Obligations.ScalarImmediates := by
  refine fun s d i => ⟨rfl, State.scalar1_of_eq ?_⟩
  rw [BitVec.ofNat_add, BitVec.ofNat_mul, BitVec.ofNat_toNat, BitVec.ofNat_toNat, BitVec.setWidth_eq]
  rfl

end Sys2Proof.Machine
end

section
/-! SUPPORT. Control registers read and written by an instruction (05 R110, R121, Tables 5.2 to 5.10). -/

namespace Sys2Proof.Machine

/-- The control registers that Table 5.2 assigns: the number of each, and what its fields in their places make up. -/
def State.csrFields (s : State) : List (Nat × Nat) :=
  let x := s.ctx
  let m := s.me
  let h := s.module (modOf s.cur)
  let bit (b : Bool) (n : Nat) : Nat := if b then 2 ^ n else 0
  [(0x000, x.status.toNat + bit s.curFw 15), (0x001, x.info.toNat * 2 ^ 32 + x.swcode.toNat * 2 ^ 8 + x.code.toNat),
    (0x002, x.slotres.toNat), (0x008, bit m.det 15 + m.share.toNat * 2 ^ 8), (0x009, m.fwcnt), (0x00A, m.phbase),
    (0x010, h.gts % 2 ^ 64 / 4096), (0x011, h.gts % 4096), (0x012, h.gts), (0x020, x.nseed.toNat), (0x021, x.nstep.toNat),
    (0x030, x.qscale.toNat), (0x031, x.qlimit.toNat * 2 ^ 8 + bit x.qrefit 0), (0x032, x.qclip.toNat), (0x033, x.qzero.toNat),
    (0x034, x.qlast.toNat * 2 ^ 32 + x.qrefits.toNat), (0x040, m.padm.toNat), (0x041, m.fmtcfg.toNat), (0x050, m.chainlim.toNat),
    (0x051, m.waitlim.toNat), (0x060, m.ckpt.toNat), (0x061, h.lease.toNat * 2 ^ 32 + bit h.held 8 + h.owner),
    (0x070, x.lc[(0 : Fin 3)].toNat), (0x071, x.lc[(1 : Fin 3)].toNat), (0x072, x.lc[(2 : Fin 3)].toNat)]

/-- The control registers that a context may write. -/
def csrWrites (fw : Bool) : List Nat :=
  [0x000, 0x020, 0x021, 0x030, 0x031, 0x032, 0x033, 0x034, 0x070, 0x071, 0x072] ++
    if fw then [0x001, 0x002, 0x008, 0x050, 0x051, 0x060] else []

/-- An assigned register reads as its fields. -/
theorem State.csrRead_of_mem (s : State) :
    ∀ r ∈ s.csrFields, s.csrRead s.cur s.curFw r.1 = some (BitVec.ofNat 64 r.2) := by
  have hme : s.cluster s.cur = s.me := rfl
  have hctx : s.me.ctx s.curFw = s.ctx := rfl
  simp [State.csrFields, State.csrRead, hme, hctx, hsemWord, State.gtsOf, ofBool]

/-- A number that no register has reads as nothing. -/
theorem State.csrRead_of_unassigned (s : State) {n : Nat} (h : ∀ r ∈ s.csrFields, n ≠ r.1) :
    s.csrRead s.cur s.curFw n = none := by
  simp only [State.csrFields, List.forall_mem_cons] at h
  unfold State.csrRead
  split
  case h_26 => rfl
  all_goals simp at h

theorem csrWritable_iff (fw : Bool) (n : Nat) : csrWritable fw n = true ↔ n ∈ csrWrites fw := by
  unfold csrWritable
  split
  case h_18 => cases fw <;> simp_all [csrWrites]
  all_goals cases fw <;> simp [csrWrites]

section
variable {s : State} {d a : SReg} {c : BitVec 12} {v : DWord}

theorem execCsrr_assigned (h : s.csrRead s.cur s.curFw c.toNat = some v) :
    execCsrr d c s = .next (s.pushS 1 d v false) := by
  rw [execCsrr, h]

theorem execCsrr_unassigned (h : s.csrRead s.cur s.curFw c.toNat = none) : execCsrr d c s = .next s.illegalField := by
  rw [execCsrr, h]

theorem execCsrw_unassigned (h : s.csrRead s.cur s.curFw c.toNat = none) : execCsrw d a c s = .next s.illegalField := by
  rw [execCsrw, h]

/-- A register that the context may not write: the access is found bad before the mark (log 6). -/
theorem execCsrw_readOnly (hw : c.toNat ∉ csrWrites s.curFw) : execCsrw d a c s = .next s.illegalField := by
  rw [← csrWritable_iff, Bool.not_eq_true] at hw
  unfold execCsrw
  split
  · rfl
  · simp [hw]

theorem execCsrw_marked (h : s.csrRead s.cur s.curFw c.toNat = some v) (hw : c.toNat ∈ csrWrites s.curFw)
    (hp : (s.ctx.rdS a).poison = true) : execCsrw d a c s = .next s.poisonUse := by
  rw [← csrWritable_iff] at hw
  simp [execCsrw, h, hw, hp]

theorem execCsrw_written (h : s.csrRead s.cur s.curFw c.toNat = some v) (hw : c.toNat ∈ csrWrites s.curFw)
    (hp : (s.ctx.rdS a).poison = false) :
    execCsrw d a c s = .next ((s.pushS 1 d v false).push 1 (.csr c (s.ctx.rdS a).val)) := by
  rw [← csrWritable_iff] at hw
  simp [execCsrw, h, hw, hp]

end

/-- Settles O7, register by register of Table 5.2. -/
theorem controlRegisterAccess : Obligations.ControlRegisterAccess := by
  intro s d a c
  refine ⟨fun r hr hc => ?assigned, fun hn => ?unassigned, rfl⟩
  case assigned =>
    have hread := s.csrRead_of_mem r hr
    rw [← hc] at hread ⊢
    exact ⟨execCsrr_assigned hread, execCsrw_readOnly, fun hw => ⟨execCsrw_marked hread hw, execCsrw_written hread hw⟩⟩
  case unassigned =>
    have hread := s.csrRead_of_unassigned hn
    exact ⟨execCsrr_unassigned hread, execCsrw_unassigned hread⟩

end Sys2Proof.Machine
end

section
/-! SUPPORT. Vector registers above v15 in a firmware bundle (05 R106): every form that names one is refused before it does
anything else. -/

namespace Sys2Proof.Machine

/-! ### The check of the registers -/

/-- In firmware a list of registers with one above v15 is refused. -/
theorem State.fwBad_of_high {s : State} (hfw : s.curFw = true) {rs : List VReg} (h : ∃ m ∈ rs.map Fin.val, 16 ≤ m) :
    s.fwBad rs = true := by
  obtain ⟨m, hm, hhigh⟩ := h
  obtain ⟨r, hr, rfl⟩ := List.mem_map.mp hm
  rw [State.fwBad, hfw, Bool.true_and]
  exact List.any_eq_true.mpr ⟨r, hr, decide_eq_true hhigh⟩

theorem grp_val {r : VReg} {k : Nat} (h : r.val + k < 64) : (grp r k).val = r.val + k := Nat.mod_eq_of_lt h

/-- The numbers of a group of registers, given by its first register and the distance of its last. -/
def groupNumbers (g : VReg × Nat) : List Nat := (List.range (g.2 + 1)).map (g.1.val + ·)

theorem le_of_mem_groupNumbers {g : VReg × Nat} {m : Nat} (h : m ∈ groupNumbers g) : m ≤ g.1.val + g.2 := by
  obtain ⟨k, hk, rfl⟩ := List.mem_map.mp h
  have := List.mem_range.mp hk
  omega

/-- The last register of a group stands for all of them: where one of the groups has a register above v15, the last one of
that group is above v15. -/
theorem State.fwBad_of_high_group {s : State} (hfw : s.curFw = true) {gs : List (VReg × Nat)}
    (hfit : ∀ g ∈ gs, g.1.val + g.2 < 64) (h : ∃ m ∈ gs.flatMap groupNumbers, 16 ≤ m) :
    s.fwBad (gs.map fun g => grp g.1 g.2) = true := by
  obtain ⟨m, hm, hhigh⟩ := h
  obtain ⟨g, hg, hmg⟩ := List.mem_flatMap.mp hm
  refine fwBad_of_high hfw ⟨_, List.mem_map_of_mem (List.mem_map_of_mem hg), ?_⟩
  rw [grp_val (hfit g hg)]
  exact hhigh.trans (le_of_mem_groupNumbers hmg)

/-! ### The operand forms -/

section
variable {s : State}

/-- A form that checks its registers first goes no further when they are refused. -/
theorem State.refused {rs : List VReg} {t : State} (h : s.fwBad rs = true) :
    (.next (if s.fwBad rs then s.illegalField else t) : Out) = .next s.illegalField := congrArg _ (if_pos h)

theorem State.vperm_bad (d a b : VReg) (p : PReg) (g : Fin 16 → Bool × Fin 16) (h : s.fwBad [d, a, b] = true) :
    s.vperm d a b p g = s.illegalField := by
  rw [State.vperm, if_pos h]

theorem State.reduce_bad (op : Red) (d a : VReg) (t : ElemTy) (p : PReg) (lat : Nat) (h : s.fwBad [d, a] = true) :
    s.reduce op d a t p lat = s.illegalField := by
  rw [State.reduce, if_pos h]

theorem State.vload_bad (d : VReg) (base : SReg) (ty : ElemTy) (rp : PReg) (all : Bool) (regs : List VReg) (bad : Bool)
    (va : DWord → Fin 16 → Nat) (h : s.fwBad (d :: regs) = true) : s.vload d base ty rp all regs bad va = s.illegalField := by
  rw [State.vload, if_pos h]

theorem State.vstore_bad (d : VReg) (base : SReg) (ty : ElemTy) (regs : List VReg) (bad : Bool)
    (va : DWord → Fin 16 → Nat) (h : s.fwBad (d :: regs) = true) : s.vstore d base ty regs bad va = s.illegalField := by
  rw [State.vstore, if_pos h]

/-- The distance of the last register of an atomic's group, which holds its offsets. -/
def atomSpan (o : Aop) : Nat := if o = .cas then 2 else 1

/-- The vector atomics check the registers they are given, the first of their group and the last. -/
theorem State.atomVector_bad (hfw : s.curFw = true) (base : SReg) (ty : ElemTy) (o : Aop) (b : VReg) (sc ret : Bool)
    (regs : List VReg) (dest : (Nat → Nat) → Dest) (hfit : b.val + atomSpan o < 64)
    (h : ∃ m ∈ regs.map Fin.val ++ groupNumbers (b, atomSpan o), 16 ≤ m) :
    s.atomVector base ty o b sc ret regs dest = s.illegalField := by
  refine if_pos (State.fwBad_of_high (rs := regs ++ [b, grp b (atomSpan o)]) hfw ?_)
  obtain ⟨m, hm, hhigh⟩ := h
  rcases List.mem_append.mp hm with hr | hg
  · exact ⟨m, by simpa using Or.inl (List.mem_map.mp hr), hhigh⟩
  · refine ⟨(grp b (atomSpan o)).val, by simp, ?_⟩
    rw [grp_val hfit]
    exact hhigh.trans (le_of_mem_groupNumbers hg)

variable {d a b : VReg} {p : PReg}

/-- The forms that name a narrow type refuse one that Table 8.1 does not list, and else check their registers. -/
theorem execVqnt_bad {rm : Rm} {t2 : ElemTy} {t : QTy} (h : s.fwBad [d, a] = true) :
    execVqnt d a rm t2 t p s = .next s.illegalField := by
  rw [execVqnt]
  split <;> simp [h]

theorem execVdq_bad {rm : Rm} {t2 : QTy} {t : ElemTy} (h : s.fwBad [d, a] = true) :
    execVdq d a rm t2 t p s = .next s.illegalField := by
  rw [execVdq]
  split <;> simp [h]

theorem execVqfit_bad {t2 : ElemTy} {t : QTy} (h : s.fwBad [d, a] = true) :
    execVqfit d a t2 t p s = .next s.illegalField := by
  rw [execVqfit]
  split <;> simp [h]

/-- The group of a well-formed vector atomic ends at v63 or before. -/
theorem atomSpan_fits {r : SReg} {t : ElemTy} {o : Aop} {sc : Bool} (hw : (Instr.vatomn r t o b sc).wf = true) :
    b.val + atomSpan o < 64 := by
  simp only [Instr.wf, Bool.and_eq_true, Bool.or_eq_true, bne_iff_ne, decide_eq_true_eq] at hw
  obtain ⟨⟨-, hb⟩, hcas⟩ := hw
  unfold atomSpan
  split
  · next ho => rcases hcas with hno | ⟨-, hb⟩ <;> [exact absurd ho hno; omega]
  · omega

/-- MRD checks the number of the last register that it writes. -/
theorem execMrd_bad {acc : Acc} {row : Fin 32} {n : Fin 8} {c : EClause} (hfw : s.curFw = true)
    (h : 16 ≤ d.val + 2 * n.val + 1) : execMrd acc row d n c s = .next s.illegalField := by
  have hlast : d.val + 2 * (n.val + 1) - 1 > 15 := by omega
  simp [execMrd, hfw, hlast]

/-- XOP of a usable graph checks the registers that the graph names. -/
theorem execXop_bad {n : Fin 16} {g : Graph} (hg : s.usablePlane.find? (fun g => g.n == n) = some g)
    (h : (g.results = 2 ∧ d = 63) ∨
      s.fwBad ([d, a] ++ (if g.srcs ≥ 2 then [b] else []) ++ (if g.results = 2 then [grp d 1] else [])) = true) :
    execXop d a b n p s = .next s.illegalField := by
  simp only [execXop, hg, if_pos (Or.inr h)]

end

/-- Settles O19, form by form. -/
theorem firmwareVectorRegisters : Obligations.FirmwareVectorRegisters := by
  intro s d a b r rb e t t2 rm qt p rp cc l pat k off o sc acc row n c g hfw D A B upTo three two dest names
  have hthree (h : s.fwBad [d, a, b] = true) : ∀ i ∈ three, exec i s = .next s.illegalField := by
    have vec3 {lat useD f} : (.next (s.vec3 lat d a b p useD f) : Out) = .next s.illegalField :=
      congrArg _ (s.vec3_bad lat d a b p useD f h)
    simp only [three, List.forall_mem_cons]
    exact ⟨vec3, vec3, vec3, vec3, vec3, vec3, vec3, vec3, vec3, vec3, vec3, vec3, vec3, vec3, vec3, State.refused h,
      State.refused h, congrArg _ (State.vperm_bad d a b p _ h), List.forall_mem_nil _⟩
  have htwo (h : s.fwBad [d, a] = true) : ∀ i ∈ two, exec i s = .next s.illegalField := by
    have vec2 {lat f} : (.next (s.vec2 lat d a p f) : Out) = .next s.illegalField := congrArg _ (s.vec2_bad lat d a p f h)
    have reduce {op lat} : (.next (s.reduce op d a t p lat) : Out) = .next s.illegalField :=
      congrArg _ (State.reduce_bad op d a t p lat h)
    have haa : s.fwBad [d, a, a] = true := by simpa [State.fwBad] using h
    simp only [two, List.forall_mem_cons]
    exact ⟨vec2, vec2, vec2, vec2, vec2, vec2, vec2, vec2, vec2, congrArg _ (State.vperm_bad d a a p _ haa), reduce, reduce,
      reduce, reduce, vec2, State.refused h, State.refused h, execVqnt_bad h, execVdq_bad h, execVqfit_bad h,
      List.forall_mem_nil _⟩
  have hdest (h : s.fwBad [d] = true) : ∀ i ∈ dest, exec i s = .next s.illegalField := by
    have vload {all bad va} : (.next (s.vload d r t rp all [] bad va) : Out) = .next s.illegalField :=
      congrArg _ (State.vload_bad d r t rp all [] bad va h)
    have vstore {bad va} : (.next (s.vstore d r t [] bad va) : Out) = .next s.illegalField :=
      congrArg _ (State.vstore_bad d r t [] bad va h)
    simp only [dest, List.forall_mem_cons]
    exact ⟨State.refused h, State.refused h, vload, vload, vload, vstore, vstore, List.forall_mem_nil _⟩
  have hspan : (if o = .cas then 3 else 2) = atomSpan o + 1 := by unfold atomSpan; split <;> rfl
  refine ⟨?names, ?xop⟩
  case names =>
    simp only [names, List.forall_mem_append, List.forall_mem_map, List.forall_mem_cons]
    refine ⟨⟨⟨fun i hi _ h => hthree (State.fwBad_of_high hfw h) i hi, fun i hi _ h => htwo (State.fwBad_of_high hfw h) i hi⟩,
      fun i hi _ h => hdest (State.fwBad_of_high hfw h) i hi⟩, ?rest⟩
    refine ⟨?vcmp, ?vext, ?vgath, ?vscat, ?vqch, ?vbf2, ?vbf4, ?vcmul, ?vconj, ?vtwid, ?mrd, ?vatom, ?vatomn,
      List.forall_mem_nil _⟩ <;> intro hw h
    case vcmp => exact State.refused (State.fwBad_of_high (rs := [a, b]) hfw h)
    case vext => exact State.refused (State.fwBad_of_high (rs := [a]) hfw h)
    case vgath => exact congrArg _ (State.vload_bad d r t rp false [b] _ _ (State.fwBad_of_high hfw h))
    case vscat => exact congrArg _ (State.vstore_bad d r t [b] _ _ (State.fwBad_of_high hfw h))
    case vqch =>
      refine State.refused (State.fwBad_of_high_group (gs := [(d, 2), (a, 1)]) hfw ?_ h)
      simp [Instr.wf] at hw ⊢; omega
    case vbf2 =>
      refine State.refused (State.fwBad_of_high_group (gs := [(d, 3), (a, 1), (b, 1)]) hfw ?_ h)
      simp [Instr.wf, evenUpTo] at hw ⊢; omega
    case vbf4 =>
      refine State.refused (State.fwBad_of_high_group (gs := [(d, 7), (a, 7), (b, 5)]) hfw ?_ h)
      simp [Instr.wf, evenUpTo] at hw ⊢; omega
    case vcmul =>
      refine State.refused (State.fwBad_of_high_group (gs := [(d, 1), (a, 1), (b, 1)]) hfw ?_ h)
      simp [Instr.wf, evenUpTo] at hw ⊢; omega
    case vconj =>
      refine State.refused (State.fwBad_of_high_group (gs := [(d, 1), (a, 1)]) hfw ?_ h)
      simp [Instr.wf, evenUpTo] at hw ⊢; omega
    case vtwid =>
      refine State.refused (State.fwBad_of_high_group (gs := [(d, 1)]) hfw ?_ h)
      simp [Instr.wf, evenUpTo] at hw ⊢; omega
    case mrd =>
      obtain ⟨m, hm, hhigh⟩ := h
      exact execMrd_bad hfw (hhigh.trans (le_of_mem_groupNumbers (g := (d, 2 * n.val + 1)) hm))
    case vatom =>
      rw [hspan] at h
      exact congrArg _ (State.atomVector_bad hfw r t o b sc true [d] _ (atomSpan_fits (r := r) (sc := sc) hw) h)
    case vatomn =>
      rw [hspan] at h
      exact congrArg _ (State.atomVector_bad hfw r t o b sc false [] _ (atomSpan_fits (r := r) (sc := sc) hw) h)
  case xop =>
    intro hg h
    refine execXop_bad hg ?_
    rcases h with h | h | ⟨hs, h⟩ | ⟨hr, h⟩
    · exact .inr (State.fwBad_of_high hfw ⟨d.val, by simp, h⟩)
    · exact .inr (State.fwBad_of_high hfw ⟨a.val, by simp, h⟩)
    · exact .inr (State.fwBad_of_high hfw ⟨b.val, by simp [hs], h⟩)
    · by_cases hd : d.val = 63
      · exact .inl ⟨hr, Fin.ext hd⟩
      · have hnext : (grp d 1).val = d.val + 1 := grp_val (by omega)
        exact .inr (State.fwBad_of_high hfw ⟨(grp d 1).val, by simp [hr], hnext ▸ h⟩)

end Sys2Proof.Machine
end

section
/-! SUPPORT. Rounding over the real numbers (06 R127): a real number rounds to one integer, the rounding is monotone, and
the model's quotient, remainder and decision to go up are that rounding. -/

namespace Sys2Proof.Machine

/-- The factor of a sign bit. -/
def signR (neg : Bool) : ℝ := if neg then -1 else 1

@[simp] theorem signR_false : signR false = 1 := rfl
@[simp] theorem signR_true : signR true = -1 := rfl

theorem signR_ne_zero (neg : Bool) : signR neg ≠ 0 := by cases neg <;> simp

@[simp] theorem abs_signR (neg : Bool) : |signR neg| = 1 := by cases neg <;> simp

theorem signR_not (neg : Bool) : signR (!neg) = -signR neg := by cases neg <;> simp

theorem signR_bne (a b : Bool) : signR (a != b) = signR a * signR b := by cases a <;> cases b <;> simp

@[simp] theorem cast_sgn (neg : Bool) (n : Nat) : ((sgn neg n : ℤ) : ℝ) = signR neg * n := by
  cases neg <;> simp [sgn]

@[simp] theorem natAbs_sgn (neg : Bool) (n : Nat) : (sgn neg n).natAbs = n := by
  cases neg <;> simp [sgn]

theorem even_sgn {neg : Bool} {n : Nat} : Even (sgn neg n) ↔ Even n := by
  cases neg <;> simp [sgn]

theorem isReal_fin {neg : Bool} {m : Nat} {e : ℤ} {X : ℝ} :
    (FVal.fin neg m e).IsReal X ↔ X = signR neg * m * (2 : ℝ) ^ e := Iff.rfl

theorem two_zpow_pos (e : ℤ) : (0 : ℝ) < (2 : ℝ) ^ e := zpow_pos two_pos e

/-- A finite value of magnitude other than 0 has the sign of its real number. -/
theorem signR_mul_neg_iff {neg : Bool} {x : ℝ} (hx : 0 < x) : signR neg * x < 0 ↔ neg = true := by
  cases neg <;> simp [hx, hx.le]

/-! ### The rounding of a real number -/

theorem roundsTo_intCast (rm : Rm) (k : ℤ) : RoundsTo rm k k := by
  cases rm <;> simp [RoundsTo, mul_self_nonneg]

/-- Rounding is monotone. -/
theorem RoundsTo.mono {rm : Rm} {X Y : ℝ} {n m : ℤ} (hX : RoundsTo rm X n) (hY : RoundsTo rm Y m) (h : X ≤ Y) : n ≤ m := by
  by_contra hlt
  have hmn : (m : ℝ) + 1 ≤ n := by exact_mod_cast Int.add_one_le_of_lt (not_le.mp hlt)
  cases rm with
  | rne =>
    obtain ⟨hX, hXe⟩ := hX
    obtain ⟨hY, hYe⟩ := hY
    have hX' := abs_le.mp hX
    have hY' := abs_le.mp hY
    have hmn : (n : ℝ) = m + 1 := by linarith
    have hXn : X - n = -(1 / 2) := by linarith
    have hYm : Y - m = 1 / 2 := by linarith
    have hne : Even n := hXe (by rw [hXn, abs_neg, abs_of_pos one_half_pos])
    have hme : Even m := hYe (by rw [hYm, abs_of_pos one_half_pos])
    have hn : n = m + 1 := by exact_mod_cast hmn
    rw [hn] at hne
    exact (Int.even_add_one.mp hne) hme
  | rz =>
    obtain ⟨hX1, hX2, hX3⟩ := hX
    obtain ⟨hY1, hY2, hY3⟩ := hY
    have hX2 := abs_lt.mp hX2
    have hY2 := abs_lt.mp hY2
    rcases le_or_gt X 0 with hX0 | hX0
    · have hn : (n : ℝ) ≤ 0 := by
        rcases hX0.lt_or_eq with hneg | hzero
        · exact nonpos_of_mul_nonneg_left hX3 hneg
        · rw [hzero, abs_zero] at hX1
          exact (abs_nonpos_iff.mp hX1).le
      rw [abs_of_nonpos hX0, abs_of_nonpos hn] at hX1
      have hm : (m : ℝ) < 0 := by linarith
      have hY0 : Y ≤ 0 := by
        by_contra hY0
        exact absurd hY3 (not_le.mpr (mul_neg_of_neg_of_pos hm (not_le.mp hY0)))
      rw [abs_of_neg hm, abs_of_nonpos hY0] at hY1
      linarith
    · have hn : (0 : ℝ) ≤ n := nonneg_of_mul_nonneg_left hX3 hX0
      rw [abs_of_pos hX0, abs_of_nonneg hn] at hX1
      linarith
  | rd => linarith [hX.1, hY.2]
  | ru => linarith [hX.2, hY.1]

/-- A real number rounds to one integer. -/
theorem RoundsTo.unique {rm : Rm} {X : ℝ} {n m : ℤ} (hn : RoundsTo rm X n) (hm : RoundsTo rm X m) : n = m :=
  le_antisymm (hn.mono hm le_rfl) (hm.mono hn le_rfl)

/-- A remainder of 0 leaves nothing to decide. -/
theorem roundsUp_zero {rm : Rm} {neg : Bool} {n d : Nat} (hd : 0 < d) : roundsUp rm neg n 0 d = false := by
  cases rm <;> simp [roundsUp, hd.ne]

/-- The magnitude that `n + r / d` rounds to. -/
def roundedMag (rm : Rm) (neg : Bool) (n r d : Nat) : Nat := if roundsUp rm neg n r d then n + 1 else n

/-- The decision of `roundsUp` is the rounding of the mode. -/
theorem roundsTo_roundedMag (rm : Rm) (neg : Bool) {n r d : Nat} (hr : r < d) :
    RoundsTo rm (signR neg * (n + (r : ℝ) / d)) (sgn neg (roundedMag rm neg n r d)) := by
  have hd : (0 : ℝ) < d := by exact_mod_cast (Nat.zero_le r).trans_lt hr
  have ht0 : 0 ≤ (r : ℝ) / d := by positivity
  have ht1 : (r : ℝ) / d < 1 := by rw [div_lt_one hd]; exact_mod_cast hr
  have htz : (r : ℝ) / d = 0 ↔ r = 0 := by simp [hd.ne']
  have hlt : (r : ℝ) / d < 1 / 2 ↔ 2 * r < d := by
    rw [div_lt_div_iff₀ hd two_pos]; norm_cast; constructor <;> intro h <;> linarith
  have heq : (r : ℝ) / d = 1 / 2 ↔ 2 * r = d := by
    rw [div_eq_div_iff hd.ne' two_ne_zero]; norm_cast; constructor <;> intro h <;> linarith
  have hn0 : (0 : ℝ) ≤ n := Nat.cast_nonneg n
  generalize (r : ℝ) / d = t at *
  rw [RoundsTo.eq_def, cast_sgn, ← mul_sub, abs_mul, abs_mul, abs_mul, abs_signR, one_mul, one_mul, one_mul]
  cases rm with
  | rne =>
    simp only [roundedMag, roundsUp, Bool.or_eq_true, Bool.and_eq_true, decide_eq_true_eq, beq_iff_eq]
    split_ifs with hup
    · have ht : 1 / 2 ≤ t := not_lt.mp fun h => by have := hlt.mp h; omega
      have hdist : (n : ℝ) + t - (n + 1 : ℕ) = -(1 - t) := by push_cast; ring
      rw [hdist, abs_neg, abs_of_pos (by linarith)]
      refine ⟨by linarith, fun h => ?_⟩
      have := heq.mp (by linarith)
      exact even_sgn.mpr (Nat.even_iff.mpr (by omega))
    · have ht : t ≤ 1 / 2 := not_lt.mp fun h => by
        have h1 := mt hlt.mpr (not_lt.mpr h.le)
        have h2 := mt heq.mpr h.ne'
        omega
      rw [add_sub_cancel_left, abs_of_nonneg ht0]
      refine ⟨ht, fun h => ?_⟩
      have := heq.mp h
      exact even_sgn.mpr (Nat.even_iff.mpr (by omega))
  | rz =>
    have hsq : signR neg * n * (signR neg * (n + t)) = n * (n + t) := by cases neg <;> simp [signR]; ring
    simp only [roundedMag, roundsUp, Bool.false_eq_true, if_false, hsq, add_sub_cancel_left, abs_of_nonneg ht0]
    exact ⟨abs_le_abs_of_nonneg hn0 (by linarith), ht1, by positivity⟩
  | rd =>
    rcases Nat.eq_zero_or_pos r with hz | hp
    · have ht := htz.mpr hz
      cases neg <;> simp [roundedMag, roundsUp, ht, hz]
    · have ht : t ≠ 0 := mt htz.mp hp.ne'
      have ht : 0 < t := lt_of_le_of_ne ht0 ht.symm
      cases neg <;> simp [roundedMag, roundsUp, hp.ne'] <;> constructor <;> linarith
  | ru =>
    rcases Nat.eq_zero_or_pos r with hz | hp
    · have ht := htz.mpr hz
      cases neg <;> simp [roundedMag, roundsUp, ht, hz]
    · have ht : t ≠ 0 := mt htz.mp hp.ne'
      have ht : 0 < t := lt_of_le_of_ne ht0 ht.symm
      cases neg <;> simp [roundedMag, roundsUp, hp.ne'] <;> constructor <;> linarith

/-- The rounded magnitude is the exact one where nothing is left over, and only there. -/
theorem roundedMag_eq_iff (rm : Rm) (neg : Bool) {n r d : Nat} (hr : r < d) :
    (roundedMag rm neg n r d : ℝ) = n + (r : ℝ) / d ↔ r = 0 := by
  have hd : (0 : ℝ) < d := by exact_mod_cast (Nat.zero_le r).trans_lt hr
  have ht1 : (r : ℝ) / d < 1 := by rw [div_lt_one hd]; exact_mod_cast hr
  constructor
  · intro h
    by_contra h0
    have ht0 : 0 < (r : ℝ) / d := div_pos (by exact_mod_cast Nat.pos_of_ne_zero h0) hd
    rw [roundedMag] at h
    split_ifs at h
    · push_cast at h; linarith
    · linarith
  · rintro rfl
    have hd : 0 < d := hr
    simp [roundedMag, roundsUp_zero hd]

/-- Quotient, remainder and divisor are those of the scaled ratio. -/
theorem scaleDiv_spec {num den : Nat} (s : ℤ) (hd : 0 < den) :
    (scaleDiv num den s).2.1 < (scaleDiv num den s).2.2 ∧
    (num : ℝ) / den * (2 : ℝ) ^ s = (scaleDiv num den s).1 + ((scaleDiv num den s).2.1 : ℝ) / (scaleDiv num den s).2.2 := by
  have hdiv (a : Nat) {b : Nat} (hb : 0 < b) : (a : ℝ) / b = (a / b : ℕ) + ((a % b : ℕ) : ℝ) / b := by
    have hb' : (b : ℝ) ≠ 0 := by exact_mod_cast hb.ne'
    rw [div_eq_iff hb', add_mul, div_mul_cancel₀ _ hb', mul_comm]
    exact_mod_cast (Nat.div_add_mod a b).symm
  unfold scaleDiv
  split_ifs with hs
  · refine ⟨Nat.mod_lt _ hd, ?_⟩
    rw [← hdiv _ hd, div_mul_eq_mul_div]
    push_cast
    rw [← zpow_natCast, Int.toNat_of_nonneg hs]
  · have hpos : 0 < den * 2 ^ (-s).toNat := by positivity
    refine ⟨Nat.mod_lt _ hpos, ?_⟩
    rw [← hdiv _ hpos]
    push_cast
    rw [← zpow_natCast, Int.toNat_of_nonneg (by omega), zpow_neg, ← div_eq_mul_inv, div_div_eq_mul_div, div_mul_eq_mul_div]

/-- `round_int` of an exact ratio: the rounding of the mode, and whether it differs from the ratio. -/
theorem roundIntRatio_spec (rm : Rm) (neg : Bool) (num : Nat) {den : Nat} (hd : 0 < den) (e : ℤ) :
    RoundsTo rm (signR neg * ((num : ℝ) / den * (2 : ℝ) ^ e)) (roundIntRatio rm neg num den e).1 ∧
    ((roundIntRatio rm neg num den e).2 = true ↔
      ((roundIntRatio rm neg num den e).1 : ℝ) ≠ signR neg * ((num : ℝ) / den * (2 : ℝ) ^ e)) := by
  obtain ⟨hr, hval⟩ := scaleDiv_spec (num := num) e hd
  have hfst : (roundIntRatio rm neg num den e).1 = sgn neg (roundedMag rm neg (scaleDiv num den e).1
      (scaleDiv num den e).2.1 (scaleDiv num den e).2.2) := rfl
  have hsnd : (roundIntRatio rm neg num den e).2 = ((scaleDiv num den e).2.1 != 0) := rfl
  rw [hval, hfst, hsnd, cast_sgn, ne_eq, mul_right_inj' (signR_ne_zero neg), roundedMag_eq_iff rm neg hr, bne_iff_ne]
  exact ⟨roundsTo_roundedMag rm neg hr, Iff.rfl⟩

end Sys2Proof.Machine
end

section
/-! SUPPORT. Floating-point patterns and `round_fp` over the real numbers (06 R122, R123, R127, R128): the fields of a
pattern and its magnitude, and the rounding of an exact ratio. -/

namespace Sys2Proof.Machine

/-! ### The formats -/

/-- The formats of 06 Table 6.1. -/
abbrev specFmts : List Fmt := [fmtF32, fmtF16, fmtBF16, fmtE4M3, fmtE5M2]

/-- What the proofs use of a format: a sign bit, an exponent field that `emax` fills, and a fraction below it. -/
structure Fmt.Std (f : Fmt) : Prop where
  fbits_pos : 0 < f.fbits
  fbits_le : f.fbits ≤ 23
  fbits_lt : f.fbits + 1 < f.width
  bias_le : f.bias ≤ 127
  emax_eq : f.emax + 1 = 2 ^ (f.width - 1 - f.fbits)
  emax_ge : 2 ≤ f.emax
  emax_le : f.emax ≤ 255

theorem Fmt.std_of_mem {f : Fmt} (h : f ∈ specFmts) : f.Std := by
  simp only [specFmts, List.mem_cons, List.not_mem_nil, or_false] at h
  rcases h with rfl | rfl | rfl | rfl | rfl <;> constructor <;> decide

theorem fmtOf_mem (t : ElemTy) : fmtOf t ∈ specFmts := by cases t <;> decide

theorem fmtOf_std (t : ElemTy) : (fmtOf t).Std := Fmt.std_of_mem (fmtOf_mem t)

/-- A fraction and an exponent field fill the bits below the sign. -/
theorem Fmt.Std.emax_mul {f : Fmt} (hf : f.Std) : (f.emax + 1) * 2 ^ f.fbits = 2 ^ (f.width - 1) := by
  have := hf.fbits_lt
  rw [hf.emax_eq, ← pow_add]
  congr 1
  omega

theorem Fmt.Std.pattern_lt {f : Fmt} (hf : f.Std) {e fr : Nat} (he : e ≤ f.emax) (hfr : fr < 2 ^ f.fbits) :
    fr + e * 2 ^ f.fbits < 2 ^ (f.width - 1) := by
  have := Nat.mul_le_mul_right (2 ^ f.fbits) he
  have := hf.emax_mul
  rw [add_mul, one_mul] at this
  omega

theorem Fmt.Std.maxPat_lt {f : Fmt} (hf : f.Std) : maxPat f < f.emax * 2 ^ f.fbits + if f = fmtE4M3 then 7 else 0 := by
  have := hf.emax_ge
  unfold maxPat
  split_ifs with h
  · subst h; decide
  · have : 0 < f.emax * 2 ^ f.fbits := by positivity
    omega

/-- A pattern with a larger exponent field than `emax` is larger than every number's. -/
theorem Fmt.Std.maxPat_lt_of_emax_lt {f : Fmt} (hf : f.Std) {e : Nat} (he : f.emax < e) (N : Nat) :
    maxPat f < e * 2 ^ f.fbits + N := by
  have hle := Nat.mul_le_mul_right (2 ^ f.fbits) he
  have hmax := hf.maxPat_lt
  rw [Nat.succ_eq_add_one, add_mul, one_mul] at hle
  have h7 : (if f = fmtE4M3 then 7 else 0) ≤ 2 ^ f.fbits := by
    split_ifs with h
    · subst h; decide
    · exact Nat.zero_le _
  omega

/-! ### The fields of a pattern -/

theorem bitAt_add_signPat {f : Fmt} {s : Bool} {p : Nat} (hp : p < 2 ^ (f.width - 1)) :
    bitAt (p + signPat f s) (f.width - 1) = s := by
  cases s <;> simp [bitAt, signPat, Nat.div_eq_of_lt hp]

theorem fld_pattern {f : Fmt} (hf : f.Std) {s : Bool} {e fr : Nat} (he : e ≤ f.emax) (hfr : fr < 2 ^ f.fbits) :
    fld (fr + e * 2 ^ f.fbits + signPat f s) f.fbits (f.width - 1 - f.fbits) = e := by
  have hlt := hf.emax_eq
  have hw : 2 ^ (f.width - 1) = 2 ^ f.fbits * 2 ^ (f.width - 1 - f.fbits) := by
    have := hf.fbits_lt
    rw [← pow_add]; congr 1; omega
  have hs : signPat f s = 2 ^ f.fbits * (2 ^ (f.width - 1 - f.fbits) * s.toNat) := by
    cases s <;> simp [signPat, hw]
  have hq : (fr + e * 2 ^ f.fbits + signPat f s) / 2 ^ f.fbits = e + 2 ^ (f.width - 1 - f.fbits) * s.toNat := by
    rw [hs, mul_comm e, add_assoc, ← mul_add, Nat.add_mul_div_left _ _ (by positivity), Nat.div_eq_of_lt hfr, zero_add]
  rw [fld, hq, Nat.add_mul_mod_self_left, Nat.mod_eq_of_lt (by omega)]

theorem mod_pattern {f : Fmt} (hf : f.Std) {s : Bool} {e fr : Nat} (hfr : fr < 2 ^ f.fbits) :
    (fr + e * 2 ^ f.fbits + signPat f s) % 2 ^ f.fbits = fr := by
  have hs : 2 ^ f.fbits ∣ signPat f s := by
    cases s
    · exact dvd_zero _
    · exact pow_dvd_pow 2 (by have := hf.fbits_lt; omega)
  rw [Nat.add_mod, Nat.mod_eq_zero_of_dvd hs, add_zero, Nat.mod_mod, Nat.add_mul_mod_self_right, Nat.mod_eq_of_lt hfr]

/-- The value of a pattern by its fields. -/
def fieldsValue (f : Fmt) (s : Bool) (e fr : Nat) : FVal :=
  if f = fmtE4M3 ∧ e = 15 ∧ fr = 7 then .nan false
  else if f ≠ fmtE4M3 ∧ e = f.emax then (if fr = 0 then .inf s else .nan (!(bitAt fr (f.fbits - 1))))
  else if e = 0 then .fin s fr (1 - (f.bias : ℤ) - f.fbits)
  else .fin s (2 ^ f.fbits + fr) ((e : ℤ) - f.bias - f.fbits)

theorem fpDecode_pattern {f : Fmt} (hf : f.Std) {s : Bool} {e fr : Nat} (he : e ≤ f.emax) (hfr : fr < 2 ^ f.fbits) :
    fpDecode f (fr + e * 2 ^ f.fbits + signPat f s) = fieldsValue f s e fr := by
  rw [fpDecode, bitAt_add_signPat (hf.pattern_lt he hfr), fld_pattern hf he hfr, mod_pattern hf hfr, fieldsValue]
  by_cases h : f = fmtE4M3 <;> simp [h]

/-- Fields of a number: not of an infinity nor of a NaN. -/
def FiniteFields (f : Fmt) (e fr : Nat) : Prop := e < f.emax ∨ f = fmtE4M3 ∧ e = f.emax ∧ fr < 7

theorem fieldsValue_finite {f : Fmt} {e fr : Nat} (s : Bool) (h : FiniteFields f e fr) :
    fieldsValue f s e fr = if e = 0 then .fin s fr (1 - (f.bias : ℤ) - f.fbits)
      else .fin s (2 ^ f.fbits + fr) ((e : ℤ) - f.bias - f.fbits) := by
  have hnan : ¬ (f = fmtE4M3 ∧ e = 15 ∧ fr = 7) := by
    rintro ⟨rfl, rfl, rfl⟩
    rcases h with h | ⟨-, -, h⟩ <;> revert h <;> decide
  have hinf : ¬ (f ≠ fmtE4M3 ∧ e = f.emax) := by
    rintro ⟨hne, rfl⟩
    rcases h with h | ⟨h, -⟩
    · exact lt_irrefl _ h
    · exact hne h
  rw [fieldsValue, if_neg hnan, if_neg hinf]

/-! ### The magnitude of a pattern -/

/-- The exponent of the smallest subnormal of a format, which is the unit of its magnitudes. -/
def unitExp (f : Fmt) : ℤ := 1 - (f.bias : ℤ) - f.fbits

/-- The magnitude of a number's pattern without its sign, in units of the smallest subnormal. -/
def patMag (f : Fmt) (p : Nat) : Nat :=
  if p / 2 ^ f.fbits = 0 then p % 2 ^ f.fbits else (2 ^ f.fbits + p % 2 ^ f.fbits) * 2 ^ (p / 2 ^ f.fbits - 1)

theorem patMag_fields (f : Fmt) {e fr : Nat} (hfr : fr < 2 ^ f.fbits) :
    patMag f (fr + e * 2 ^ f.fbits) = if e = 0 then fr else (2 ^ f.fbits + fr) * 2 ^ (e - 1) := by
  have hdiv : (fr + e * 2 ^ f.fbits) / 2 ^ f.fbits = e := by
    rw [Nat.add_mul_div_right _ _ (by positivity), Nat.div_eq_of_lt hfr, zero_add]
  rw [patMag, hdiv, Nat.add_mul_mod_self_right, Nat.mod_eq_of_lt hfr]

theorem patMag_strictMono (f : Fmt) : StrictMono (patMag f) := by
  refine strictMono_nat_of_lt_succ fun p => ?_
  have hfr : p % 2 ^ f.fbits < 2 ^ f.fbits := Nat.mod_lt _ (by positivity)
  have hp : p = p % 2 ^ f.fbits + p / 2 ^ f.fbits * 2 ^ f.fbits := (Nat.mod_add_div' _ _).symm
  generalize p % 2 ^ f.fbits = fr at hp hfr
  generalize p / 2 ^ f.fbits = e at hp
  subst hp
  rcases Nat.lt_or_ge (fr + 1) (2 ^ f.fbits) with hlt | hge
  · rw [Nat.add_right_comm, patMag_fields f hfr, patMag_fields f hlt]
    split_ifs
    · exact Nat.lt_succ_self _
    · exact Nat.mul_lt_mul_of_pos_right (by omega) (by positivity)
  · have hnext : fr + e * 2 ^ f.fbits + 1 = 0 + (e + 1) * 2 ^ f.fbits := by rw [add_mul, one_mul]; omega
    rw [hnext, patMag_fields f hfr, patMag_fields f (by positivity), if_neg (Nat.succ_ne_zero e), add_zero, Nat.add_sub_cancel]
    rcases e with _ | e
    · simpa using hfr
    · rw [if_neg (Nat.succ_ne_zero e), Nat.add_sub_cancel, pow_succ' 2 e, ← mul_assoc, mul_two]
      exact Nat.mul_lt_mul_of_pos_right (by omega) (by positivity)

/-- A significand `N` of up to one bit more than the format's at `k` places above the unit: the pattern is a sum, whose carry
goes into the exponent field. -/
theorem patMag_carry (f : Fmt) {k N : Nat} (hN : N ≤ 2 ^ (f.fbits + 1)) (hk : 0 < k → 2 ^ f.fbits ≤ N) :
    patMag f (k * 2 ^ f.fbits + N) = N * 2 ^ k := by
  have hpow : 2 ^ (f.fbits + 1) = 2 * 2 ^ f.fbits := pow_succ' 2 f.fbits
  have hpos : 0 < 2 ^ f.fbits := by positivity
  rcases Nat.lt_or_ge N (2 ^ f.fbits) with hlt | hge
  · have hk0 : k = 0 := by by_contra h; have := hk (Nat.pos_of_ne_zero h); omega
    have := patMag_fields f (e := 0) hlt
    rw [hk0]
    simpa using this
  · rcases hN.lt_or_eq with hlt | heq
    · have hsplit : k * 2 ^ f.fbits + N = (N - 2 ^ f.fbits) + (k + 1) * 2 ^ f.fbits := by rw [add_mul, one_mul]; omega
      rw [hsplit, patMag_fields f (by omega), if_neg (Nat.succ_ne_zero k), Nat.add_sub_cancel, Nat.add_sub_cancel' hge]
    · have hsplit : k * 2 ^ f.fbits + N = 0 + (k + 2) * 2 ^ f.fbits := by rw [heq, hpow]; ring
      rw [hsplit, patMag_fields f hpos, if_neg (Nat.succ_ne_zero _), heq, hpow, add_zero, show k + 2 - 1 = k + 1 from rfl]
      ring

/-- A pattern up to the largest finite one is a number with the fields of its bits. -/
theorem fpDecode_of_le_maxPat {f : Fmt} (hf : f.Std) (neg : Bool) {p : Nat} (hp : p ≤ maxPat f) :
    (fpDecode f (signPat f neg + p)).IsReal (signR neg * (patMag f p * (2 : ℝ) ^ unitExp f)) ∧
    (fpDecode f (signPat f neg + p)).negBit = neg ∧ signPat f neg + p < 2 ^ f.width := by
  have hmax := hp.trans_lt hf.maxPat_lt
  have hfr : p % 2 ^ f.fbits < 2 ^ f.fbits := Nat.mod_lt _ (by positivity)
  have hsplit : p = p % 2 ^ f.fbits + p / 2 ^ f.fbits * 2 ^ f.fbits := (Nat.mod_add_div' _ _).symm
  generalize p % 2 ^ f.fbits = fr at hsplit hfr
  generalize p / 2 ^ f.fbits = e at hsplit
  subst hsplit
  have hfin : FiniteFields f e fr := by
    by_cases h4 : f = fmtE4M3
    · subst h4
      change _ < 15 * 2 ^ 3 + 7 at hmax
      change fr < 2 ^ 3 at hfr
      change fr + e * 2 ^ 3 < _ at hmax
      show e < 15 ∨ _ ∧ e = 15 ∧ _
      simp only [true_and]
      omega
    · rw [if_neg h4, add_zero] at hmax
      exact .inl (lt_of_mul_lt_mul_right (by omega) (Nat.zero_le (2 ^ f.fbits)))
  have he : e ≤ f.emax := by rcases hfin with h | ⟨-, h, -⟩ <;> omega
  have hlt := hf.pattern_lt he hfr
  have hw : 2 ^ f.width = 2 * 2 ^ (f.width - 1) := by
    rw [← pow_succ']; congr 1; have := hf.fbits_lt; omega
  rw [add_comm (signPat f neg), fpDecode_pattern hf he hfr, fieldsValue_finite neg hfin, patMag_fields f hfr]
  refine ⟨?value, by split_ifs <;> rfl, ?width⟩
  case value =>
    rcases e with _ | e
    · simp [isReal_fin, unitExp, mul_assoc]
    · rw [if_neg (Nat.succ_ne_zero e), if_neg (Nat.succ_ne_zero e), isReal_fin, Nat.add_sub_cancel]
      have hexp : ((e + 1 : ℕ) : ℤ) - f.bias - f.fbits = e + unitExp f := by unfold unitExp; push_cast; ring
      rw [hexp, zpow_add₀ two_ne_zero, zpow_natCast]
      push_cast
      ring
  case width => cases neg <;> simp only [signPat, Bool.false_eq_true, if_true, if_false] <;> omega

/-- The largest finite value of 06 Table 6.2 is that of the pattern `maxPat`. -/
theorem patMag_maxPat {f : Fmt} (hf : f.Std) :
    (patMag f (maxPat f) : ℝ) * (2 : ℝ) ^ unitExp f = if f = fmtE4M3 then 448
      else (2 - (2 : ℝ) ^ (-(f.fbits : ℤ))) * (2 : ℝ) ^ ((f.emax : ℤ) - 1 - f.bias) := by
  by_cases h4 : f = fmtE4M3
  · subst h4
    have : patMag fmtE4M3 (maxPat fmtE4M3) = 448 * 2 ^ 9 := by decide
    rw [if_pos rfl, this]
    norm_num [unitExp, fmtE4M3]
  · have hpos : 0 < 2 ^ f.fbits := by positivity
    obtain ⟨e, he⟩ : ∃ e, f.emax = e + 2 := ⟨f.emax - 2, by have := hf.emax_ge; omega⟩
    have hmax : maxPat f = (2 ^ f.fbits - 1) + (e + 1) * 2 ^ f.fbits := by
      rw [maxPat, if_neg h4, he]
      simp only [add_mul, one_mul]
      omega
    have hexp : ((e + 2 : ℕ) : ℤ) - 1 - f.bias = e + f.fbits + unitExp f := by unfold unitExp; push_cast; ring
    rw [if_neg h4, hmax, patMag_fields f (by omega), if_neg (Nat.succ_ne_zero e), he, hexp, Nat.add_sub_cancel,
      zpow_add₀ two_ne_zero, zpow_add₀ two_ne_zero, zpow_natCast, zpow_natCast, zpow_neg, zpow_natCast]
    push_cast [Nat.one_le_two_pow]
    field_simp
    ring

/-! ### The rounding of a real number to a format -/

theorem log_eq_of_bounds {x : ℝ} {l : ℤ} (h1 : (2 : ℝ) ^ l ≤ x) (h2 : x < (2 : ℝ) ^ (l + 1)) : Int.log 2 x = l := by
  have hx : 0 < x := (two_zpow_pos l).trans_le h1
  have h1 := (Int.zpow_le_iff_le_log (b := 2) one_lt_two hx).mp (by exact_mod_cast h1)
  have h2 := (Int.lt_zpow_iff_log_lt (b := 2) one_lt_two hx).mp (by exact_mod_cast h2)
  omega

theorem two_zpow_le_iff {x : ℝ} (hx : 0 < x) (l : ℤ) : (2 : ℝ) ^ l ≤ x ↔ l ≤ Int.log 2 x := by
  exact_mod_cast Int.zpow_le_iff_le_log (b := 2) one_lt_two hx

theorem lt_two_zpow_iff {x : ℝ} (hx : 0 < x) (l : ℤ) : x < (2 : ℝ) ^ l ↔ Int.log 2 x < l := by
  exact_mod_cast Int.lt_zpow_iff_log_lt (b := 2) one_lt_two hx

/-- The exponent of the last place of a value whose leading bit stands at `l`. -/
def ulpExp (f : Fmt) (l : ℤ) : ℤ := max (l - f.fbits) (unitExp f)

/-- Pattern and flags of a magnitude rounded to `N` last places, its leading bit at `l`. -/
def packRound (f : Fmt) (rm : Rm) (neg : Bool) (l : ℤ) (N : Nat) (exact : Bool) : Nat × Flags :=
  if maxPat f < (ulpExp f l - unitExp f).toNat * 2 ^ f.fbits + N then (overflowPat f rm neg, flOF ||| flNX)
  else (signPat f neg + ((ulpExp f l - unitExp f).toNat * 2 ^ f.fbits + N),
    if exact then 0 else if l < 1 - (f.bias : ℤ) then flUF ||| flNX else flNX)

theorem RoundsTo.mag_le {rm : Rm} {neg : Bool} {x : ℝ} {N k : Nat} (h : RoundsTo rm (signR neg * x) (sgn neg N))
    (hx : x ≤ k) : N ≤ k := by
  cases neg
  · simpa [sgn] using h.mono (roundsTo_intCast rm k) (by simpa using hx)
  · simpa [sgn] using (roundsTo_intCast rm (-k)).mono h (by simpa using hx)

theorem RoundsTo.le_mag {rm : Rm} {neg : Bool} {x : ℝ} {N k : Nat} (h : RoundsTo rm (signR neg * x) (sgn neg N))
    (hx : k ≤ x) : k ≤ N := by
  cases neg
  · simpa [sgn] using (roundsTo_intCast rm k).mono h (by simpa using hx)
  · simpa [sgn] using h.mono (roundsTo_intCast rm (-k)) (by simpa using hx)

/-- An infinity of a sign: E4M3 has none and gives its NaN. -/
theorem infSigned_eq (f : Fmt) (neg : Bool) :
    infSigned f neg = if f = fmtE4M3 then 0x7F else f.emax * 2 ^ f.fbits + if neg then 2 ^ (f.width - 1) else 0 := by
  unfold infSigned infPat signPat
  split_ifs <;> simp_all [add_comm]

/-- The largest finite magnitude with a sign. -/
theorem signPat_add_maxPat (f : Fmt) (neg : Bool) : signPat f neg + maxPat f =
    (if f = fmtE4M3 then 0x7E else f.emax * 2 ^ f.fbits - 1) + if neg then 2 ^ (f.width - 1) else 0 := add_comm ..

theorem overflowPat_false (f : Fmt) (rm : Rm) :
    overflowPat f rm false = if rm = .rne ∨ rm = .ru then infSigned f false else signPat f false + maxPat f := by
  cases rm <;> simp [overflowPat, signPat]

theorem overflowPat_true (f : Fmt) (rm : Rm) :
    overflowPat f rm true = if rm = .rne ∨ rm = .rd then infSigned f true else signPat f true + maxPat f := by
  cases rm <;> simp [overflowPat]

/-- A magnitude rounded to its last places is the rounded value of R127 and R128. -/
theorem rounded_packRound {f : Fmt} (hf : f.Std) {rm : Rm} {neg exact : Bool} {x : ℝ} {N : Nat} (hx : 0 < x)
    (hN : RoundsTo rm (signR neg * (x / (2 : ℝ) ^ ulpExp f (Int.log 2 x))) (sgn neg N))
    (hexact : exact = true ↔ (N : ℝ) * (2 : ℝ) ^ ulpExp f (Int.log 2 x) = x) :
    Rounded f rm (signR neg * x) (packRound f rm neg (Int.log 2 x) N exact) := by
  have hneg := signR_mul_neg_iff (neg := neg) hx

  have hupper : x / (2 : ℝ) ^ ulpExp f (Int.log 2 x) ≤ (2 ^ (f.fbits + 1) : ℕ) := by
    push_cast
    rw [div_le_iff₀ (two_zpow_pos _), ← zpow_natCast, ← zpow_add₀ two_ne_zero]
    refine ((lt_two_zpow_iff hx _).mpr ?_).le
    unfold ulpExp; push_cast; omega
  have hlower (hq : 0 < (ulpExp f (Int.log 2 x) - unitExp f).toNat) :
      ((2 ^ f.fbits : ℕ) : ℝ) ≤ x / (2 : ℝ) ^ ulpExp f (Int.log 2 x) := by
    push_cast
    rw [le_div_iff₀ (two_zpow_pos _), ← zpow_natCast, ← zpow_add₀ two_ne_zero]
    refine (two_zpow_le_iff hx _).mpr ?_
    unfold ulpExp at hq ⊢; omega
  have hunit : (ulpExp f (Int.log 2 x) - unitExp f).toNat + unitExp f = ulpExp f (Int.log 2 x) := by
    unfold ulpExp; omega
  have hmag : (patMag f ((ulpExp f (Int.log 2 x) - unitExp f).toNat * 2 ^ f.fbits + N) : ℝ) * (2 : ℝ) ^ unitExp f =
      N * (2 : ℝ) ^ ulpExp f (Int.log 2 x) := by
    rw [patMag_carry f (hN.mag_le hupper) fun hq => hN.le_mag (hlower hq), Nat.cast_mul, Nat.cast_pow, Nat.cast_ofNat,
      mul_assoc, ← zpow_natCast, ← zpow_add₀ two_ne_zero, hunit]
  have habs : |signR neg * x| = x := by rw [abs_mul, abs_signR, one_mul, abs_of_pos hx]
  have hy : |((sgn neg N : ℤ) : ℝ) * (2 : ℝ) ^ ulpExp f (Int.log 2 x)| = N * (2 : ℝ) ^ ulpExp f (Int.log 2 x) := by
    rw [cast_sgn, abs_mul, abs_mul, abs_signR, one_mul, Nat.abs_cast, abs_of_pos (two_zpow_pos _)]
  have hyX : ((sgn neg N : ℤ) : ℝ) * (2 : ℝ) ^ ulpExp f (Int.log 2 x) = signR neg * x ↔ exact = true := by
    rw [hexact, cast_sgn, mul_assoc, mul_right_inj' (signR_ne_zero neg)]
  unfold Rounded packRound
  rw [habs, ← patMag_maxPat hf]
  refine ⟨sgn neg N, mul_div_assoc (signR neg) x _ ▸ hN, ?_⟩
  change (|((sgn neg N : ℤ) : ℝ) * (2 : ℝ) ^ ulpExp f (Int.log 2 x)| ≤ _ → _) ∧
    (_ < |((sgn neg N : ℤ) : ℝ) * (2 : ℝ) ^ ulpExp f (Int.log 2 x)| → _)
  rw [hy, ← hmag, mul_le_mul_iff_left₀ (two_zpow_pos _), mul_lt_mul_iff_left₀ (two_zpow_pos _), Nat.cast_le, Nat.cast_lt,
    (patMag_strictMono f).le_iff_le, (patMag_strictMono f).lt_iff_lt]
  refine ⟨fun hle => ?inRange, fun hgt => ?overflow⟩
  case inRange =>
    obtain ⟨hreal, hbit, hwidth⟩ := fpDecode_of_le_maxPat hf neg hle
    have hsmall : x < (2 : ℝ) ^ (1 - (f.bias : ℤ)) ↔ Int.log 2 x < 1 - (f.bias : ℤ) := lt_two_zpow_iff hx _
    rw [if_neg (not_lt.mpr hle)]
    refine ⟨?_, hwidth, by rw [hbit, hneg], fun h => ?_, fun h hlt => ?_, fun h hle => ?_⟩
    · rwa [hmag, ← mul_assoc, ← cast_sgn] at hreal
    · exact if_pos (hyX.mp h)
    · exact (if_neg (mt hyX.mpr h)).trans (if_pos (hsmall.mp hlt))
    · exact (if_neg (mt hyX.mpr h)).trans (if_neg (mt hsmall.mpr (not_lt.mpr hle)))
  case overflow =>
    rw [if_pos hgt]
    refine ⟨rfl, ?_, ?_, ?_, ?_⟩ <;> rintro rfl <;> cases neg <;>
      simp [overflowPat_false, overflowPat_true, infSigned_eq, signPat_add_maxPat, hx, hx.le]

/-! ### The rounding of an exact ratio -/

/-- Does a power of two lie at or below the ratio `num / den`? -/
def ratioGe (num den : Nat) (l : ℤ) : Bool := if l ≥ 0 then num ≥ den * 2 ^ l.toNat else num * 2 ^ (-l).toNat ≥ den

theorem ratioGe_iff {num den : Nat} (hd : 0 < den) (l : ℤ) : ratioGe num den l = true ↔ (2 : ℝ) ^ l ≤ (num : ℝ) / den := by
  have hd' : (0 : ℝ) < den := by exact_mod_cast hd
  rw [le_div_iff₀ hd', ratioGe]
  split_ifs with hl
  · obtain ⟨k, rfl⟩ := Int.eq_ofNat_of_zero_le hl
    rw [decide_eq_true_iff, Int.toNat_natCast, zpow_natCast, mul_comm, ge_iff_le]
    exact_mod_cast Iff.rfl
  · obtain ⟨k, hk⟩ := Int.eq_ofNat_of_zero_le (a := -l) (by omega)
    rw [decide_eq_true_iff, hk, Int.toNat_natCast, ← neg_neg l, hk, zpow_neg, zpow_natCast, ge_iff_le,
      inv_mul_le_iff₀ (by positivity), mul_comm]
    exact_mod_cast Iff.rfl

theorem floorLog2_eq {num den : Nat} (hn : 0 < num) (hd : 0 < den) : floorLog2 num den = Int.log 2 ((num : ℝ) / den) := by
  have hn' : (0 : ℝ) < num := by exact_mod_cast hn
  have hd' : (0 : ℝ) < den := by exact_mod_cast hd
  have bounds {a : Nat} (ha : a ≠ 0) : (2 : ℝ) ^ (Nat.log2 a : ℤ) ≤ a ∧ (a : ℝ) < (2 : ℝ) ^ ((Nat.log2 a : ℤ) + 1) := by
    have h1 := Nat.log2_self_le ha
    have h2 := Nat.lt_log2_self (n := a)
    exact ⟨by exact_mod_cast h1, by exact_mod_cast h2⟩
  obtain ⟨hn1, hn2⟩ := bounds hn.ne'
  obtain ⟨hd1, hd2⟩ := bounds hd.ne'
  have hlow : (2 : ℝ) ^ ((Nat.log2 num : ℤ) - Nat.log2 den - 1) ≤ (num : ℝ) / den := by
    rw [sub_sub, zpow_sub₀ two_ne_zero]
    exact div_le_div₀ hn'.le hn1 hd' hd2.le
  have hhigh : (num : ℝ) / den < (2 : ℝ) ^ ((Nat.log2 num : ℤ) - Nat.log2 den + 1) := by
    rw [sub_add_eq_add_sub, zpow_sub₀ two_ne_zero]
    exact div_lt_div₀ hn2 hd1 (by positivity) (two_zpow_pos _)
  have hge := ratioGe_iff (num := num) hd ((Nat.log2 num : ℤ) - Nat.log2 den)
  have hdef : floorLog2 num den = if ratioGe num den ((Nat.log2 num : ℤ) - Nat.log2 den) then (Nat.log2 num : ℤ) - Nat.log2 den
      else (Nat.log2 num : ℤ) - Nat.log2 den - 1 := rfl
  rw [hdef]
  split_ifs with h
  · exact (log_eq_of_bounds (hge.mp h) hhigh).symm
  · exact (log_eq_of_bounds hlow (by rw [sub_add_cancel]; exact not_le.mp (mt hge.mpr h))).symm

theorem log_mul_two_zpow {x : ℝ} (hx : 0 < x) (e : ℤ) : Int.log 2 (x * (2 : ℝ) ^ e) = Int.log 2 x + e := by
  have h1 := (two_zpow_le_iff hx (Int.log 2 x)).mpr le_rfl
  have h2 := (lt_two_zpow_iff hx (Int.log 2 x + 1)).mpr (Int.lt_succ _)
  refine log_eq_of_bounds ?_ ?_
  · rw [zpow_add₀ two_ne_zero]
    exact mul_le_mul_of_nonneg_right h1 (two_zpow_pos e).le
  · rw [add_right_comm, zpow_add₀ two_ne_zero]
    exact mul_lt_mul_of_pos_right h2 (two_zpow_pos e)

/-- The model rounds a ratio to the last places of the format. -/
theorem roundRatio_eq (f : Fmt) (rm : Rm) (neg : Bool) (num den : Nat) (e : ℤ) :
    roundRatio f rm neg num den e =
      packRound f rm neg (floorLog2 num den + e)
        (roundIntRatio rm neg num den (e - ulpExp f (floorLog2 num den + e))).1.natAbs
        (!(roundIntRatio rm neg num den (e - ulpExp f (floorLog2 num den + e))).2) := by
  have hmag (s : ℤ) : (roundIntRatio rm neg num den s).1.natAbs = roundedMag rm neg (scaleDiv num den s).1
      (scaleDiv num den s).2.1 (scaleDiv num den s).2.2 := natAbs_sgn _ _
  have hexact (s : ℤ) : (!(roundIntRatio rm neg num den s).2) = ((scaleDiv num den s).2.1 == 0) := Bool.not_not _
  rw [hmag, hexact]
  simp only [packRound, beq_iff_eq]
  rfl

/-- The model's rounding of an exact ratio is the rounded value of R127 and R128. -/
theorem rounded_roundRatio {f : Fmt} (hf : f.Std) (rm : Rm) (neg : Bool) {num den : Nat} (hn : 0 < num) (hd : 0 < den)
    (e : ℤ) : Rounded f rm (signR neg * ((num : ℝ) / den * (2 : ℝ) ^ e)) (roundRatio f rm neg num den e) := by
  have hn' : (0 : ℝ) < num := by exact_mod_cast hn
  have hd' : (0 : ℝ) < den := by exact_mod_cast hd
  have hratio : 0 < (num : ℝ) / den := div_pos hn' hd'
  have hlog : floorLog2 num den + e = Int.log 2 ((num : ℝ) / den * (2 : ℝ) ^ e) := by
    rw [log_mul_two_zpow hratio, floorLog2_eq hn hd]
  rw [roundRatio_eq, hlog]
  have hx := mul_pos hratio (two_zpow_pos e)
  have hscale (q : ℤ) : (num : ℝ) / den * (2 : ℝ) ^ (e - q) = (num : ℝ) / den * (2 : ℝ) ^ e / (2 : ℝ) ^ q := by
    rw [zpow_sub₀ two_ne_zero, mul_div_assoc]
  obtain ⟨hround, hinexact⟩ := roundIntRatio_spec rm neg num hd (e - ulpExp f (Int.log 2 ((num : ℝ) / den * (2 : ℝ) ^ e)))
  obtain ⟨N, hN⟩ : ∃ N, (roundIntRatio rm neg num den (e - ulpExp f (Int.log 2 ((num : ℝ) / den * (2 : ℝ) ^ e)))).1 = sgn neg N :=
    ⟨_, rfl⟩
  rw [hscale, hN] at hround
  rw [hN, cast_sgn, hscale, ne_eq, mul_right_inj' (signR_ne_zero neg), eq_div_iff (two_zpow_pos _).ne'] at hinexact
  rw [hN, natAbs_sgn]
  refine rounded_packRound hf hx hround ?_
  rw [Bool.not_eq_true', ← Bool.not_eq_true, hinexact, not_not]

/-- `round_fp` of a number other than 0. -/
theorem rounded_roundFp {f : Fmt} (hf : f.Std) (rm : Rm) (neg : Bool) {m : Nat} (hm : m ≠ 0) (e : ℤ) {X : ℝ}
    (hX : (FVal.fin neg m e).IsReal X) : Rounded f rm X (roundFp f rm (.fin neg m e)) := by
  have := rounded_roundRatio hf rm neg (Nat.pos_of_ne_zero hm) one_pos e
  rw [isReal_fin] at hX
  rw [roundFp, if_neg hm, hX, mul_assoc]
  simpa using this

end Sys2Proof.Machine
end

section
/-! SUPPORT. Exact sums, products and comparisons of decoded values over the real numbers (06 R124, R129; 07 R145, R147). -/

namespace Sys2Proof.Machine

/-! ### Finite values -/

theorem exists_fin_of_isReal {x : FVal} {X : ℝ} (h : x.IsReal X) : ∃ neg m e, x = .fin neg m e := by
  cases x with
  | fin neg m e => exact ⟨neg, m, e, rfl⟩
  | _ => exact h.elim

theorem exists_fin_of_isReal_ne_zero {x : FVal} {X : ℝ} (h : x.IsReal X) (hX : X ≠ 0) : ∃ neg m e, x = .fin neg m e ∧ m ≠ 0 := by
  obtain ⟨neg, m, e, rfl⟩ := exists_fin_of_isReal h
  exact ⟨neg, m, e, rfl, fun hm => hX (by rw [isReal_fin.mp h, hm]; simp)⟩

/-- A finite value brought to a smaller exponent. -/
theorem aligned_real (neg : Bool) (m : Nat) {e e' : ℤ} (h : e ≤ e') :
    ((sgn neg (m * 2 ^ (e' - e).toNat) : ℤ) : ℝ) * (2 : ℝ) ^ e = signR neg * m * (2 : ℝ) ^ e' := by
  have hexp : (((e' - e).toNat : ℕ) : ℤ) + e = e' := by omega
  rw [cast_sgn, Nat.cast_mul, Nat.cast_pow, Nat.cast_ofNat, ← mul_assoc, mul_assoc (signR neg * m), ← zpow_natCast,
    ← zpow_add₀ two_ne_zero, hexp]

/-- An integer as an exact value. -/
theorem intVal_isReal (v : ℤ) (e : ℤ) : (FVal.fin (v < 0) v.natAbs e).IsReal (v * (2 : ℝ) ^ e) := by
  rw [isReal_fin]
  congr 1
  rcases lt_or_ge v 0 with h | h
  · simp [h, abs_of_neg h]
  · simp [not_lt.mpr h, abs_of_nonneg h]

theorem isReal_zero_iff {neg : Bool} {m : Nat} {e : ℤ} : (FVal.fin neg m e).IsReal 0 ↔ m = 0 := by
  rw [isReal_fin, eq_comm, mul_eq_zero, mul_eq_zero]
  simp [signR_ne_zero, (two_zpow_pos e).ne']

/-- Away from 0 the sign bit of a finite value is the sign of its real number. -/
theorem isReal_neg_iff {neg : Bool} {m : Nat} {e : ℤ} {X : ℝ} (h : (FVal.fin neg m e).IsReal X) (hX : X ≠ 0) :
    X < 0 ↔ neg = true := by
  have hm : m ≠ 0 := fun hm => hX (by simpa [hm, isReal_fin] using h)
  have hm : 0 < m := Nat.pos_of_ne_zero hm
  rw [isReal_fin.mp h, mul_assoc, signR_mul_neg_iff (by positivity)]

/-! ### Comparison -/

theorem cmpF_fin {n1 n2 : Bool} {m1 m2 : Nat} {e1 e2 : ℤ} {A B : ℝ} (hA : (FVal.fin n1 m1 e1).IsReal A)
    (hB : (FVal.fin n2 m2 e2).IsReal B) :
    (cmpF (.fin n1 m1 e1) (.fin n2 m2 e2) < 0 ↔ A < B) ∧ (cmpF (.fin n1 m1 e1) (.fin n2 m2 e2) = 0 ↔ A = B) := by
  have hdiff : ((sgn n1 (m1 * 2 ^ (e1 - min e1 e2).toNat) - sgn n2 (m2 * 2 ^ (e2 - min e1 e2).toNat) : ℤ) : ℝ) *
      (2 : ℝ) ^ min e1 e2 = A - B := by
    rw [Int.cast_sub, sub_mul, aligned_real n1 m1 (min_le_left _ _), aligned_real n2 m2 (min_le_right _ _),
      isReal_fin.mp hA, isReal_fin.mp hB]
  simp only [cmpF]
  generalize sgn n1 (m1 * 2 ^ (e1 - min e1 e2).toNat) - sgn n2 (m2 * 2 ^ (e2 - min e1 e2).toNat) = v at hdiff ⊢
  have hpos := two_zpow_pos (min e1 e2)
  have hlt : A < B ↔ v < 0 := by
    have hv : (v : ℝ) < 0 ↔ v < 0 := by exact_mod_cast Iff.rfl
    rw [← sub_neg, ← hdiff, ← hv, ← mul_lt_mul_iff_left₀ (b := (v : ℝ)) hpos, zero_mul]
  have heq : A = B ↔ v = 0 := by
    rw [← sub_eq_zero, ← hdiff, mul_eq_zero_iff_right hpos.ne']; exact_mod_cast Iff.rfl
  rw [hlt, heq]
  split_ifs <;> simp <;> omega

/-! ### Sums and products -/

theorem addFin_spec (rm : Rm) {n1 n2 : Bool} {m1 m2 : Nat} {e1 e2 : ℤ} {A B : ℝ} (hA : (FVal.fin n1 m1 e1).IsReal A)
    (hB : (FVal.fin n2 m2 e2).IsReal B) :
    (addFin rm n1 m1 e1 n2 m2 e2).IsReal (A + B) ∧
    (A + B = 0 → (addFin rm n1 m1 e1 n2 m2 e2).negBit = if m1 = 0 ∧ m2 = 0 ∧ n1 = n2 then n1 else rm == .rd) := by
  have hsum : ((sgn n1 (m1 * 2 ^ (e1 - min e1 e2).toNat) + sgn n2 (m2 * 2 ^ (e2 - min e1 e2).toNat) : ℤ) : ℝ) *
      (2 : ℝ) ^ min e1 e2 = A + B := by
    rw [Int.cast_add, add_mul, aligned_real n1 m1 (min_le_left _ _), aligned_real n2 m2 (min_le_right _ _),
      isReal_fin.mp hA, isReal_fin.mp hB]
  simp only [addFin]
  generalize sgn n1 (m1 * 2 ^ (e1 - min e1 e2).toNat) + sgn n2 (m2 * 2 ^ (e2 - min e1 e2).toNat) = v at hsum ⊢
  have hzero : A + B = 0 ↔ v = 0 := by
    rw [← hsum, mul_eq_zero_iff_right (two_zpow_pos _).ne']; exact_mod_cast Iff.rfl
  split_ifs with hv hz
  · exact ⟨by rw [hzero.mpr hv, isReal_zero_iff], fun _ => rfl⟩
  · exact ⟨by rw [hzero.mpr hv, isReal_zero_iff], fun _ => rfl⟩
  all_goals exact ⟨hsum ▸ intVal_isReal v _, fun h => absurd (hzero.mp h) hv⟩

end Sys2Proof.Machine
end

section
/-! SUPPORT. SX blocks over the real numbers (06 R131 to R133): the largest magnitude, the exponent, the shifts and the codes
of an encoded block. -/

namespace Sys2Proof.Machine

/-! ### Decoding -/

theorem sxDecode_spec (blk F k : Nat) :
    sxDecode blk F k =
      if blk % 2 ^ 8 = 0 ∨ blk % 2 ^ 8 = 255 ∨ blk / 2 ^ (16 + k * (1 + F)) % 2 ^ F = 0 then .fin false 0 0
      else .fin (blk.testBit (16 + k * (1 + F) + F)) (blk / 2 ^ (16 + k * (1 + F)) % 2 ^ F)
        (((blk % 2 ^ 8 : ℕ) : ℤ) - 127 - F - (blk / 2 ^ (8 + 2 * (k / 4)) % 4 : ℕ)) := by
  have hE : fld blk 0 8 = blk % 2 ^ 8 := by simp [fld]
  have hm : fld blk (16 + k * (1 + F)) (1 + F) % 2 ^ F = blk / 2 ^ (16 + k * (1 + F)) % 2 ^ F := by
    rw [fld, Nat.mod_mod_of_dvd _ (pow_dvd_pow 2 (by omega))]
  have hs : bitAt (fld blk (16 + k * (1 + F)) (1 + F)) F = blk.testBit (16 + k * (1 + F) + F) := by
    have hbit (x j : Nat) : bitAt x j = x.testBit j := by rw [bitAt, Nat.testBit_eq_decide_div_mod_eq]; rfl
    rw [fld, hbit, Nat.testBit_mod_two_pow, Nat.testBit_div_two_pow, decide_eq_true (by omega), Bool.true_and, add_comm F]
  simp only [sxDecode, hE, hm, hs]
  rfl

/-! ### The inputs of the encoder -/

/-- A sign, a magnitude and an exponent. -/
abbrev SxInput := Bool × Nat × Int

/-- The real number of an input. -/
noncomputable def SxInput.real (v : SxInput) : ℝ := signR v.1 * (v.2.1 * (2 : ℝ) ^ v.2.2)

/-- The real number of a magnitude and an exponent. -/
noncomputable def magReal (a : Nat × Int) : ℝ := a.1 * (2 : ℝ) ^ a.2

theorem magReal_nonneg (a : Nat × Int) : 0 ≤ magReal a := mul_nonneg (Nat.cast_nonneg _) (two_zpow_pos _).le

theorem magReal_eq_zero_iff (a : Nat × Int) : magReal a = 0 ↔ a.1 = 0 := by
  simp [magReal, (two_zpow_pos _).ne']

theorem SxInput.abs_real (v : SxInput) : |v.real| = magReal v.2 := by
  rw [SxInput.real, abs_mul, abs_signR, one_mul]
  exact abs_of_nonneg (magReal_nonneg v.2)

theorem magReal_magMax (a b : Nat × Int) : magReal (magMax a b) = max (magReal a) (magReal b) := by
  have hreal (a : Nat × Int) : (FVal.fin false a.1 a.2).IsReal (magReal a) := by simp [isReal_fin, magReal]
  obtain ⟨hlt, -⟩ := cmpF_fin (hreal a) (hreal b)
  rw [magMax]
  split_ifs with h
  · exact (max_eq_right (hlt.mp h).le).symm
  · exact (max_eq_left (not_lt.mp (mt hlt.mpr h))).symm

/-- The largest magnitude of the inputs, as the encoder finds it. -/
def sxLargest (vs : List SxInput) (a : Nat × Int) : Nat × Int := vs.foldl (fun a v => magMax a (v.2.1, v.2.2)) a

theorem sxLargest_spec (vs : List SxInput) (a : Nat × Int) :
    magReal a ≤ magReal (sxLargest vs a) ∧ (∀ v ∈ vs, |v.real| ≤ magReal (sxLargest vs a)) ∧
    (magReal (sxLargest vs a) = magReal a ∨ ∃ v ∈ vs, magReal (sxLargest vs a) = |v.real|) := by
  induction vs generalizing a with
  | nil => simp [sxLargest]
  | cons v vs ih =>
    obtain ⟨ha, hall, hex⟩ := ih (magMax a v.2)
    have hstep : sxLargest (v :: vs) a = sxLargest vs (magMax a v.2) := rfl
    rw [magReal_magMax, max_le_iff] at ha
    rw [magReal_magMax] at hex
    rw [hstep]
    refine ⟨ha.1, ?_, ?_⟩
    · rw [List.forall_mem_cons, SxInput.abs_real]
      exact ⟨ha.2, hall⟩
    · rcases hex with hmax | ⟨w, hw, heq⟩
      · rcases max_choice (magReal a) (magReal v.2) with h | h
        · exact .inl (hmax.trans h)
        · exact .inr ⟨v, List.mem_cons_self, by rw [hmax, h, SxInput.abs_real]⟩
      · exact .inr ⟨w, List.mem_cons_of_mem _ hw, heq⟩

/-- The value of an element that enters the encoder (06 R133). -/
theorem sxInput_real (F : Nat) (x : FVal) {X : ℝ} (h : match x with
      | .nan _ => X = 0
      | .inf neg => X = (if neg then -1 else 1) * ((2 : ℝ) ^ F - 1) * (2 : ℝ) ^ (127 - (F : ℤ))
      | .fin .. => x.IsReal X) : SxInput.real (sxInput F x).1 = X := by
  cases x with
  | nan sig => simp_all [sxInput, SxInput.real]
  | inf neg =>
    have h : X = signR neg * ((2 : ℝ) ^ F - 1) * (2 : ℝ) ^ (127 - (F : ℤ)) := h
    rw [h, mul_assoc]
    simp [sxInput, SxInput.real]
  | fin neg m e => rw [isReal_fin.mp h, mul_assoc]; rfl

/-! ### The flags of NaNs -/

/-- The flags of NaNs among the elements (06 R124). -/
def nanInputFlags (xs : List FVal) : Flags :=
  if xs.any FVal.isNan then (if xs.any FVal.isSig then flNANQ ||| flNV else flNANQ) else 0

theorem any_isNan_of_any_isSig {xs : List FVal} (h : xs.any FVal.isSig = true) : xs.any FVal.isNan = true := by
  obtain ⟨x, hx, hs⟩ := List.any_eq_true.mp h
  refine List.any_eq_true.mpr ⟨x, hx, ?_⟩
  cases x <;> simp_all [FVal.isSig, FVal.isNan]

theorem nanInputFlags_cons (F : Nat) (x : FVal) (xs : List FVal) :
    nanInputFlags (x :: xs) = (sxInput F x).2 ||| nanInputFlags xs := by
  have hsig := any_isNan_of_any_isSig (xs := xs)
  simp only [nanInputFlags, List.any_cons]
  by_cases hs : xs.any FVal.isSig = true
  · cases x with
    | nan s =>
      cases s <;> simp [hs, hsig hs, sxInput, FVal.isNan, FVal.isSig]
      rfl
    | _ => simp [hs, hsig hs, sxInput, FVal.isNan, FVal.isSig]
  · by_cases hn : xs.any FVal.isNan = true <;> cases x with
    | nan s => cases s <;> simp [hs, hn, sxInput, FVal.isNan, FVal.isSig] <;> decide
    | _ => simp [hs, hn, sxInput, FVal.isNan, FVal.isSig]

theorem foldl_sxInput_flags (F : Nat) (xs : List FVal) (f : Flags) :
    (xs.map (sxInput F)).foldl (fun f i => f ||| i.2) f = f ||| nanInputFlags xs := by
  induction xs generalizing f with
  | nil => simp [nanInputFlags]
  | cons x xs ih => rw [List.map_cons, List.foldl_cons, ih, nanInputFlags_cons F, BitVec.or_assoc]

/-! ### Codes and shifts -/

/-- The step of a quad of shift `u` in a block of exponent `E`. -/
noncomputable def sxStep (F : Nat) (E u : ℤ) : ℝ := (2 : ℝ) ^ (E - 127 - F - u)

/-- The signed code of an element before it is clipped: `q(v, E, u)` of 06 R133. -/
def sxCode (F : Nat) (rm : Rm) (v : SxInput) (E u : Nat) : ℤ := (roundIntRatio rm v.1 v.2.1 1 (v.2.2 - ((E : ℤ) - 127 - F - u))).1

theorem sxCode_spec (F : Nat) (rm : Rm) (v : SxInput) (E u : Nat) :
    RoundsTo rm (v.real / sxStep F E u) (sxCode F rm v E u) ∧
    ((sxQ F rm v.1 v.2.1 v.2.2 E u).2 = true ↔ sxCode F rm v E u * sxStep F E u ≠ v.real) := by
  obtain ⟨hround, hexact⟩ := roundIntRatio_spec rm v.1 v.2.1 one_pos (v.2.2 - ((E : ℤ) - 127 - F - u))
  have hval : signR v.1 * ((v.2.1 : ℝ) / (1 : ℕ) * (2 : ℝ) ^ (v.2.2 - ((E : ℤ) - 127 - F - u))) = v.real / sxStep F E u := by
    rw [Nat.cast_one, div_one, zpow_sub₀ two_ne_zero, SxInput.real, sxStep]
    ring
  rw [hval] at hround hexact
  have hpos : sxStep F E u ≠ 0 := (two_zpow_pos _).ne'
  exact ⟨hround, hexact.trans (not_congr (eq_div_iff hpos))⟩

/-- A bound on what an element rounds to is a bound on its code. -/
theorem sxCode_abs_le_iff (F : Nat) (rm : Rm) (v : SxInput) (E u : Nat) (M : ℤ) :
    |sxCode F rm v E u| ≤ M ↔ ∀ n : ℤ, RoundsTo rm (v.real / sxStep F E u) n → |n| ≤ M := by
  have hround := (sxCode_spec F rm v E u).1
  exact ⟨fun h n hn => hn.unique hround ▸ h, fun h => h _ hround⟩

theorem sxQ_fst (F : Nat) (rm : Rm) (v : SxInput) (E u : Nat) :
    (sxQ F rm v.1 v.2.1 v.2.2 E u).1 = (sxCode F rm v E u).natAbs := rfl

theorem sxCode_eq_sgn (F : Nat) (rm : Rm) (v : SxInput) (E u : Nat) :
    sxCode F rm v E u = sgn v.1 (sxCode F rm v E u).natAbs := by
  obtain ⟨N, hN⟩ : ∃ N, sxCode F rm v E u = sgn v.1 N := ⟨_, rfl⟩
  rw [hN, natAbs_sgn]

/-- A code fits the magnitude of F bits. -/
theorem sxQ_le_iff (F : Nat) (rm : Rm) (v : SxInput) (E u : Nat) :
    (sxQ F rm v.1 v.2.1 v.2.2 E u).1 ≤ 2 ^ F - 1 ↔ |sxCode F rm v E u| ≤ 2 ^ F - 1 := by
  have hpow : ((2 ^ F : ℕ) : ℤ) = 2 ^ F := by push_cast; rfl
  have : 0 < 2 ^ F := by positivity
  rw [sxQ_fst, Int.abs_eq_natAbs, ← hpow]
  omega

/-- The shift is the largest one up to `n` at which the codes of the quad fit, or 0. -/
theorem sxShift_spec (F : Nat) (rm : Rm) (E : Nat) (quad : List SxInput) (n : Nat) :
    sxShift F rm E quad n ≤ n ∧
    (∀ u, sxShift F rm E quad n < u → u ≤ n → ¬ ∀ v ∈ quad, |sxCode F rm v E u| ≤ 2 ^ F - 1) ∧
    (0 < sxShift F rm E quad n → ∀ v ∈ quad, |sxCode F rm v E (sxShift F rm E quad n)| ≤ 2 ^ F - 1) := by
  have hfits (u : Nat) : quad.all (fun v => decide ((sxQ F rm v.1 v.2.1 v.2.2 E u).1 ≤ 2 ^ F - 1)) = true ↔
      ∀ v ∈ quad, |sxCode F rm v E u| ≤ 2 ^ F - 1 := by
    simp only [List.all_eq_true, decide_eq_true_eq, sxQ_le_iff]
  induction n with
  | zero => exact ⟨le_rfl, fun u h0 h1 => absurd (h0.trans_le h1) (Nat.not_lt_zero _), fun h => absurd h (Nat.not_lt_zero _)⟩
  | succ n ih =>
    obtain ⟨hle, hmax, hfit⟩ := ih
    rw [sxShift]
    split_ifs with h
    · exact ⟨le_rfl, fun u h0 h1 => absurd (h0.trans_le h1) (lt_irrefl _), fun _ => (hfits _).mp h⟩
    · refine ⟨hle.trans (Nat.le_succ n), fun u h0 h1 => ?_, hfit⟩
      rcases h1.lt_or_eq with hlt | rfl
      · exact hmax u h0 (Nat.lt_succ_iff.mp hlt)
      · exact mt (hfits _).mpr h

/-- An element outside its list is zero. -/
def sxAt (vs : List SxInput) (k : Nat) : SxInput := nth vs k (false, 0, 0)

/-- The shift of quad `j` of a block with exponent `E`. -/
def sxShiftAt (F : Nat) (rm : Rm) (vs : List SxInput) (E j : Nat) : Nat := sxShift F rm E ((vs.drop (4 * j)).take 4) 3

/-- The elements of a quad. -/
theorem mem_quad_iff {vs : List SxInput} (hlen : vs.length = 16) {j : Nat} (hj : j < 4) (v : SxInput) :
    v ∈ (vs.drop (4 * j)).take 4 ↔ ∃ i < 4, v = sxAt vs (4 * j + i) := by
  rw [List.mem_take_iff_getElem]
  simp only [List.getElem_drop, List.length_drop, hlen, sxAt, nth, List.getD_eq_getElem?_getD]
  constructor
  · rintro ⟨i, hi, rfl⟩
    refine ⟨i, by omega, ?_⟩
    rw [List.getElem?_eq_getElem, Option.getD_some]
  · rintro ⟨i, hi, rfl⟩
    refine ⟨i, by omega, ?_⟩
    rw [List.getElem?_eq_getElem (by omega), Option.getD_some]

theorem sxShiftAt_spec (F : Nat) (rm : Rm) {vs : List SxInput} (hlen : vs.length = 16) (E : Nat) {j : Nat} (hj : j < 4) :
    sxShiftAt F rm vs E j ≤ 3 ∧
    (∀ u, sxShiftAt F rm vs E j < u → u ≤ 3 → ¬ ∀ i < 4, |sxCode F rm (sxAt vs (4 * j + i)) E u| ≤ 2 ^ F - 1) ∧
    (0 < sxShiftAt F rm vs E j → ∀ i < 4, |sxCode F rm (sxAt vs (4 * j + i)) E (sxShiftAt F rm vs E j)| ≤ 2 ^ F - 1) := by
  have hquad (u : Nat) : (∀ v ∈ (vs.drop (4 * j)).take 4, |sxCode F rm v E u| ≤ 2 ^ F - 1) ↔
      ∀ i < 4, |sxCode F rm (sxAt vs (4 * j + i)) E u| ≤ 2 ^ F - 1 := by
    simp only [mem_quad_iff hlen hj]
    exact ⟨fun h i hi => h _ ⟨i, hi, rfl⟩, by rintro h _ ⟨i, hi, rfl⟩; exact h i hi⟩
  simp only [← hquad]
  exact sxShift_spec F rm E ((vs.drop (4 * j)).take 4) 3

/-! ### The block -/

@[simp] theorem nth_tabulate {α : Type} {n k : Nat} (f : Nat → α) (d : α) (h : k < n) : nth (tabulate n f) k d = f k := by
  simp [nth, tabulate, List.getD_eq_getElem?_getD, h]

theorem foldl_add_map (l : List Nat) (f : Nat → Nat) (b : Nat) : l.foldl (fun b k => b + f k) b = b + (l.map f).sum := by
  induction l generalizing b with
  | nil => rfl
  | cons k l ih => rw [List.foldl_cons, ih, List.map_cons, List.sum_cons, Nat.add_assoc]

theorem cast_sum_map (l : List Nat) (f : Nat → Nat) : (((l.map f).sum : ℕ) : ℤ) = (l.map fun k => (f k : ℤ)).sum := by
  rw [Nat.cast_list_sum, List.map_map]
  rfl

/-- The exponent of a block whose largest magnitude is `A`. -/
def sxExponent (F : Nat) (rm : Rm) (A : Nat × Int) : Nat :=
  let E0 := (min (max (floorLog2 A.1 1 + A.2 + 128) 1) 254).toNat
  if (sxQ F rm false A.1 A.2 E0 0).1 = 2 ^ F ∧ E0 < 254 then E0 + 1 else E0

/-- Sign, clipped magnitude and flags of an element encoded with exponent `E` and shift `u`. -/
def sxElement (F : Nat) (rm : Rm) (v : SxInput) (E u : Nat) : Bool × Nat × Flags :=
  if (sxQ F rm v.1 v.2.1 v.2.2 E u).1 > 2 ^ F - 1 then (v.1, 2 ^ F - 1, flOF ||| flNX)
  else (v.1, (sxQ F rm v.1 v.2.1 v.2.2 E u).1, if (sxQ F rm v.1 v.2.1 v.2.2 E u).2 then flNX else 0)

/-- The bits of an element in its block. -/
def sxElementBits (F : Nat) (c : Bool × Nat × Flags) : Nat := if c.2.1 = 0 then 0 else (if c.1 then 2 ^ F else 0) + c.2.1



/-- Element `k` of a block with exponent `E`. -/
def sxElementAt (F : Nat) (rm : Rm) (vs : List SxInput) (E k : Nat) : Bool × Nat × Flags :=
  sxElement F rm (sxAt vs k) E (sxShiftAt F rm vs E (k / 4))

theorem sxEncode_eq (F : Nat) (rm : Rm) (xs : List FVal) :
    let vs := (xs.map (sxInput F)).map (·.1)
    let A := sxLargest vs (0, 0)
    let E := sxExponent F rm A
    let codes := tabulate 16 (sxElementAt F rm vs E)
    sxEncode F rm xs = if A.1 = 0 then (0, nanInputFlags xs) else
      (if codes.all (fun c => c.2.1 == 0) then 0
        else E + ((List.range 4).map (fun j => sxShiftAt F rm vs E j * 2 ^ (8 + 2 * j))).sum +
          ((List.range 16).map (fun k => sxElementBits F (sxElementAt F rm vs E k) * 2 ^ (16 + k * (1 + F)))).sum,
        codes.foldl (fun f c => f ||| c.2.2) (nanInputFlags xs)) := by
  intro vs A E codes
  have hdef : sxEncode F rm xs =
      (let d := tabulate 4 (sxShiftAt F rm vs E)
       let codes := tabulate 16 (fun k => sxElement F rm (sxAt vs k) E (nth d (k / 4) 0))
       let fl0 := (xs.map (sxInput F)).foldl (fun f i => f ||| i.2) (0 : Flags)
       let fl := codes.foldl (fun f c => f ||| c.2.2) fl0
       if A.1 = 0 then (0, fl0) else if codes.all (fun c => c.2.1 == 0) then (0, fl)
       else (E + (List.range 4).foldl (fun b j => b + nth d j 0 * 2 ^ (8 + 2 * j)) 0 +
          (List.range 16).foldl (fun b k => b + sxElementBits F (nth codes k (false, 0, 0)) * 2 ^ (16 + k * (1 + F))) 0, fl)) :=
    rfl
  have hcodes : tabulate 16 (fun k => sxElement F rm (sxAt vs k) E (nth (tabulate 4 (sxShiftAt F rm vs E)) (k / 4) 0)) = codes :=
    List.map_congr_left fun k hk => by
      have := List.mem_range.mp hk
      rw [nth_tabulate _ _ (by omega)]
      rfl
  have hshifts : (List.range 4).map (fun j => nth (tabulate 4 (sxShiftAt F rm vs E)) j 0 * 2 ^ (8 + 2 * j)) =
      (List.range 4).map (fun j => sxShiftAt F rm vs E j * 2 ^ (8 + 2 * j)) :=
    List.map_congr_left fun j hj => by rw [nth_tabulate _ _ (List.mem_range.mp hj)]
  have hbits : (List.range 16).map (fun k => sxElementBits F (nth codes k (false, 0, 0)) * 2 ^ (16 + k * (1 + F))) =
      (List.range 16).map (fun k => sxElementBits F (sxElementAt F rm vs E k) * 2 ^ (16 + k * (1 + F))) :=
    List.map_congr_left fun k hk => by rw [nth_tabulate _ _ (List.mem_range.mp hk)]
  have hnan : (xs.map (sxInput F)).foldl (fun f i => f ||| i.2) (0 : Flags) = nanInputFlags xs :=
    (foldl_sxInput_flags F xs 0).trans BitVec.zero_or
  rw [hdef]
  simp only [hcodes, hnan, foldl_add_map, hshifts, hbits, Nat.zero_add]
  split_ifs <;> rfl

/-- A code clipped to F bits of magnitude (06 R133). -/
def sxClip (F : Nat) (n : ℤ) : ℤ := max (-(2 ^ F - 1)) (min n (2 ^ F - 1))

/-- A clipped code as its bits in the block: the sign above F bits of magnitude (06 R131). -/
def sxBits (F : Nat) (n : ℤ) : ℤ := if n < 0 then 2 ^ F - n else n

theorem sxElement_fst (F : Nat) (rm : Rm) (v : SxInput) (E u : Nat) : (sxElement F rm v E u).1 = v.1 := by
  unfold sxElement
  split_ifs <;> rfl

theorem sxElement_mag (F : Nat) (rm : Rm) (v : SxInput) (E u : Nat) :
    (sxElement F rm v E u).2.1 = min (sxCode F rm v E u).natAbs (2 ^ F - 1) := by
  unfold sxElement
  rw [sxQ_fst]
  by_cases h : (sxCode F rm v E u).natAbs > 2 ^ F - 1
  · rw [if_pos h, min_eq_right h.le]
  · rw [if_neg h, min_eq_left (not_lt.mp h)]

/-- The flags of an element: OF and NX where its code is clipped, NX where it is inexact. -/
theorem sxElement_flags (F : Nat) (rm : Rm) (v : SxInput) (E u : Nat) (i : Fin 12) :
    (sxElement F rm v E u).2.2.getLsb i = true ↔ (i = 2 ∧ 2 ^ F - 1 < |sxCode F rm v E u|) ∨
      (i = 0 ∧ (2 ^ F - 1 < |sxCode F rm v E u| ∨ sxCode F rm v E u * sxStep F E u ≠ v.real)) := by
  obtain ⟨-, hinexact⟩ := sxCode_spec F rm v E u
  have hover : 2 ^ F - 1 < (sxQ F rm v.1 v.2.1 v.2.2 E u).1 ↔ 2 ^ F - 1 < |sxCode F rm v E u| := by
    rw [← not_le, ← not_le, sxQ_le_iff]
  have hofnx (i : Fin 12) : (flOF ||| flNX).getLsb i = true ↔ i = 2 ∨ i = 0 := by revert i; decide
  have hnx (i : Fin 12) : flNX.getLsb i = true ↔ i = 0 := by revert i; decide
  rw [← hover, ← hinexact]
  unfold sxElement
  split_ifs with h1 h2
  · simp only [hofnx, gt_iff_lt.mp h1, true_or, and_true]
  · simp only [hnx, h1, h2, and_false, false_or, or_true, and_true]
  · simp only [getLsb_zero, h1, h2, Bool.false_eq_true, and_false, or_false]

theorem one_le_sxMax {F : Nat} (hF : 0 < F) : (1 : ℤ) ≤ 2 ^ F - 1 := by
  have : (2 : ℤ) ^ 1 ≤ 2 ^ F := pow_le_pow_right₀ one_le_two hF
  omega

/-- The bits of an element are the sign and the magnitude of its clipped code. -/
theorem sxElementBits_eq {F : Nat} (hF : 0 < F) (rm : Rm) (v : SxInput) (E u : Nat) :
    (sxElementBits F (sxElement F rm v E u) : ℤ) = sxBits F (sxClip F (sxCode F rm v E u)) := by
  have hmax := one_le_sxMax hF
  have hpow : ((2 ^ F : ℕ) : ℤ) = 2 ^ F := by push_cast; rfl
  have hsgn := sxCode_eq_sgn F rm v E u
  rw [sxElementBits, sxElement_fst, sxElement_mag]
  generalize (sxCode F rm v E u).natAbs = N at hsgn ⊢
  rw [hsgn, sxBits, sxClip]
  rw [← hpow] at hmax ⊢
  generalize (2 ^ F : ℕ) = M at hmax ⊢
  cases v.1 <;> simp only [sgn, Bool.false_eq_true, if_true, if_false] <;> split_ifs <;> omega

theorem sxElement_zero_iff {F : Nat} (hF : 0 < F) (rm : Rm) (v : SxInput) (E u : Nat) :
    (sxElement F rm v E u).2.1 = 0 ↔ sxCode F rm v E u = 0 := by
  have : 2 ^ 1 ≤ 2 ^ F := Nat.pow_le_pow_right two_pos hF
  rw [sxElement_mag]
  omega

/-- The signed code of element `k` of a block before it is clipped. -/
def sxCodeAt (F : Nat) (rm : Rm) (vs : List SxInput) (E k : Nat) : ℤ :=
  sxCode F rm (sxAt vs k) E (sxShiftAt F rm vs E (k / 4))

/-- The block and the flags of inputs of which one is not zero, by their codes. -/
theorem sxEncode_codes {F : Nat} (hF : 0 < F) (rm : Rm) (xs : List FVal) :
    let vs := (xs.map (sxInput F)).map (·.1)
    let E := sxExponent F rm (sxLargest vs (0, 0))
    let n := sxCodeAt F rm vs E
    (sxLargest vs (0, 0)).1 ≠ 0 →
    ((∀ k < 16, n k = 0) → (sxEncode F rm xs).1 = 0) ∧
    (¬ (∀ k < 16, n k = 0) → ((sxEncode F rm xs).1 : ℤ) = E +
      ((List.range 4).map (fun j => (sxShiftAt F rm vs E j : ℤ) * 2 ^ (8 + 2 * j))).sum +
      ((List.range 16).map (fun k => sxBits F (sxClip F (n k)) * 2 ^ (16 + k * (1 + F)))).sum) ∧
    ∀ i : Fin 12, (sxEncode F rm xs).2.getLsb i = true ↔ (nanInputFlags xs).getLsb i = true ∨
      (i = 2 ∧ ∃ k < 16, 2 ^ F - 1 < |n k|) ∨
      (i = 0 ∧ ∃ k < 16, (2 ^ F - 1 < |n k| ∨ n k * sxStep F E (sxShiftAt F rm vs E (k / 4)) ≠ (sxAt vs k).real)) := by
  intro vs E n hA
  have hblock := (sxEncode_eq F rm xs).trans (if_neg hA)
  have hzero : (tabulate 16 (sxElementAt F rm vs E)).all (fun c => c.2.1 == 0) = true ↔ ∀ k < 16, n k = 0 := by
    simp only [tabulate, List.all_map, List.all_eq_true, List.mem_range, Function.comp_apply, beq_iff_eq, sxElementAt,
      sxElement_zero_iff hF]
    exact Iff.rfl
  have hflags (i : Fin 12) := foldl_or_bit (tabulate 16 (sxElementAt F rm vs E)) (fun _ => true) (·.2.2) (nanInputFlags xs) i
  simp only [if_true, tabulate, List.mem_map, List.mem_range, true_and, exists_exists_and_eq_and, sxElementAt,
    sxElement_flags] at hflags
  rw [hblock]
  refine ⟨fun h => if_pos (hzero.mpr h), fun h => ?_, fun i => (hflags i).trans ?_⟩
  · rw [if_neg (mt hzero.mp h)]
    simp only [Nat.cast_add, cast_sum_map, Nat.cast_mul, Nat.cast_pow, Nat.cast_ofNat, sxElementAt, sxElementBits_eq hF]
    rfl
  · simp only [and_or_left, exists_or, ← exists_and_left, and_left_comm]
    rfl

end Sys2Proof.Machine
end

section
/-! SUPPORT. The number formats (06 R122, R123, R127, R128, R131 to R133): patterns decoded, values rounded, SX blocks decoded
and encoded. -/

namespace Sys2Proof.Machine

/-! ### Floating-point patterns -/

theorem fpDecode_normal {f : Fmt} (hf : f.Std) {s : Bool} {e fr : Nat} (hfr : fr < 2 ^ f.fbits) (he : 0 < e)
    (hfin : FiniteFields f e fr) :
    let d := fpDecode f (fr + e * 2 ^ f.fbits + signPat f s)
    d.negBit = s ∧ d.IsReal (signR s * (1 + (fr : ℝ) / 2 ^ f.fbits) * (2 : ℝ) ^ ((e : ℤ) - f.bias)) := by
  have hle : e ≤ f.emax := by rcases hfin with h | ⟨-, h, -⟩ <;> omega
  rw [fpDecode_pattern hf hle hfr, fieldsValue_finite s hfin, if_neg he.ne']
  refine ⟨rfl, isReal_fin.mpr ?_⟩
  rw [zpow_sub₀ two_ne_zero _ (f.fbits : ℤ), zpow_natCast]
  push_cast
  field_simp

theorem fpDecode_subnormal {f : Fmt} (hf : f.Std) {s : Bool} {fr : Nat} (hfr : fr < 2 ^ f.fbits) :
    let d := fpDecode f (fr + 0 * 2 ^ f.fbits + signPat f s)
    d.negBit = s ∧ d.IsReal (signR s * ((fr : ℝ) / 2 ^ f.fbits) * (2 : ℝ) ^ (1 - (f.bias : ℤ))) := by
  have hfin : FiniteFields f 0 fr := .inl (by have := hf.emax_ge; omega)
  rw [fpDecode_pattern hf (Nat.zero_le _) hfr, fieldsValue_finite s hfin, if_pos rfl]
  refine ⟨rfl, isReal_fin.mpr ?_⟩
  rw [zpow_sub₀ two_ne_zero _ (f.fbits : ℤ), zpow_natCast]
  field_simp

theorem fpDecode_special {f : Fmt} (hf : f.Std) {s : Bool} {fr : Nat} (hfr : fr < 2 ^ f.fbits) (h4 : f ≠ fmtE4M3) :
    let d := fpDecode f (fr + f.emax * 2 ^ f.fbits + signPat f s)
    (fr = 0 → d = .inf s) ∧ (fr ≠ 0 → d = .nan (decide (fr < 2 ^ (f.fbits - 1)))) := by
  rw [fpDecode_pattern hf le_rfl hfr, fieldsValue, if_neg (fun h => h4 h.1), if_pos ⟨h4, rfl⟩]
  refine ⟨fun h => if_pos h, fun h => (if_neg h).trans ?_⟩
  have hpow : 2 ^ f.fbits = 2 * 2 ^ (f.fbits - 1) := by rw [← pow_succ']; congr 1; have := hf.fbits_pos; omega
  have hdiv : fr / 2 ^ (f.fbits - 1) < 2 := Nat.div_lt_of_lt_mul (by omega)
  have hquiet : (!(bitAt fr (f.fbits - 1))) = decide (fr < 2 ^ (f.fbits - 1)) := by
    rw [Bool.eq_iff_iff, decide_eq_true_iff, Bool.not_eq_true', bitAt, beq_eq_false_iff_ne,
      ← Nat.div_eq_zero_iff_lt (by positivity)]
    generalize fr / 2 ^ (f.fbits - 1) = x at hdiv
    omega
  rw [hquiet]

/-! ### SX blocks encoded -/

theorem sxExponent_spec (F : Nat) (rm : Rm) {a : Nat × Int} {A : ℝ} (ha : magReal a = A) (hA : 0 < A) :
    let E0 : ℤ := min (max (Int.log 2 A + 128) 1) 254
    (RoundsTo rm (A / sxStep F E0 0) (2 ^ F) ∧ E0 < 254 → (sxExponent F rm a : ℤ) = E0 + 1) ∧
    (¬ (RoundsTo rm (A / sxStep F E0 0) (2 ^ F) ∧ E0 < 254) → (sxExponent F rm a : ℤ) = E0) := by
  intro E0
  have hpos : 0 < a.1 := Nat.pos_of_ne_zero fun h => hA.ne' (by rw [← ha, magReal_eq_zero_iff, h])
  have hlog : floorLog2 a.1 1 + a.2 = Int.log 2 A := by
    rw [floorLog2_eq hpos one_pos, Nat.cast_one, div_one, ← log_mul_two_zpow (by exact_mod_cast hpos), ← ha, magReal]
  obtain ⟨E, hE⟩ : ∃ E : ℕ, E0 = E := Int.eq_ofNat_of_zero_le (by omega)
  have hreal : SxInput.real (false, a) = A := by rw [SxInput.real, signR_false, one_mul, ← ha, magReal]
  obtain ⟨hround, -⟩ := sxCode_spec F rm (false, a) E 0
  rw [hreal] at hround
  have hcode : sxCode F rm (false, a) E 0 = (sxQ F rm false a.1 a.2 E 0).1 := sxCode_eq_sgn F rm (false, a) E 0
  rw [hcode] at hround
  have hup : RoundsTo rm (A / sxStep F E 0) (2 ^ F) ↔ (sxQ F rm false a.1 a.2 E 0).1 = 2 ^ F := by
    constructor
    · intro h
      exact_mod_cast hround.unique h
    · intro h
      simpa [h] using hround
  have hdef : sxExponent F rm a = if (sxQ F rm false a.1 a.2 E 0).1 = 2 ^ F ∧ E < 254 then E + 1 else E := by
    have : (min (max (floorLog2 a.1 1 + a.2 + 128) 1) 254).toNat = E := by rw [hlog]; omega
    simp only [sxExponent, this]
  rw [hE, hup, hdef, Nat.cast_lt_ofNat]
  exact ⟨fun h => by rw [if_pos h]; push_cast; rfl, fun h => by rw [if_neg h]⟩

theorem sxLargest_eq {vs : List SxInput} {A : ℝ} (hA : 0 < A) (hex : ∃ v ∈ vs, |v.real| = A) (hle : ∀ v ∈ vs, |v.real| ≤ A) :
    magReal (sxLargest vs (0, 0)) = A := by
  obtain ⟨-, hall, hor⟩ := sxLargest_spec vs (0, 0)
  obtain ⟨v, hv, hvA⟩ := hex
  refine le_antisymm ?_ (hvA ▸ hall v hv)
  rcases hor with h | ⟨w, hw, h⟩
  · rw [h, (magReal_eq_zero_iff (0, 0)).mpr rfl]; exact hA.le
  · exact h ▸ hle w hw

theorem mem_iff_sxAt {vs : List SxInput} (hlen : vs.length = 16) (v : SxInput) : v ∈ vs ↔ ∃ k < 16, v = sxAt vs k := by
  rw [List.mem_iff_getElem]
  simp only [sxAt, nth, List.getD_eq_getElem?_getD]
  constructor
  · rintro ⟨k, hk, rfl⟩
    exact ⟨k, by omega, by rw [List.getElem?_eq_getElem hk, Option.getD_some]⟩
  · rintro ⟨k, hk, rfl⟩
    exact ⟨k, by omega, by rw [List.getElem?_eq_getElem (by omega), Option.getD_some]⟩

/-- Settles O12: the patterns by their fields, the rounding as that of an exact ratio, and the encoder by the integers that its
codes round to. -/
theorem numberFormats : Obligations.NumberFormats := by
  refine ⟨fun f s e fr rm hmem hle hfr => ?patterns, by decide, by decide, by decide, by decide, by decide,
    fun F blk k _ _ => ?decoded, fun F rm xs v hF hlen hv => ?encoded⟩
  case patterns =>
    have hf := Fmt.std_of_mem hmem
    refine ⟨fun he hfin => ?_, ?_, ?_, ?_, fun X hX hX0 => ?_,
      fun neg m k hm X hX => rounded_roundFp hf rm neg hm k hX, fun neg k => rfl⟩
    · refine fpDecode_normal hf hfr he ?_
      rcases hfin with h | ⟨h4, h7⟩
      · exact .inl h
      · rcases hle.lt_or_eq with h | h
        · exact .inl h
        · exact .inr ⟨h4, h, h7⟩
    · rintro rfl
      exact fpDecode_subnormal hf hfr
    · rintro rfl h4
      exact fpDecode_special hf hfr h4
    · rintro rfl rfl rfl
      cases s <;> decide
    · obtain ⟨neg, m, k, hd, hm⟩ := exists_fin_of_isReal_ne_zero hX hX0
      rw [hd] at hX ⊢
      exact rounded_roundFp hf rm neg hm k hX
  case decoded =>
    rw [sxDecode_spec]
    refine ⟨fun h => ?_, fun hE0 hE255 hm => ?_⟩
    · rw [if_pos h]
      exact ⟨rfl, isReal_zero_iff.mpr rfl⟩
    · rw [if_neg (by tauto)]
      rfl
  case encoded =>
    intro r nan
    have hF0 : 0 < F := by
      simp only [List.mem_cons, List.not_mem_nil, or_false] at hF
      omega
    have hvs : ((xs.map (sxInput F)).map (·.1)).length = 16 := by simpa using hlen
    have hval (k : Nat) (hk : k < 16) : (sxAt ((xs.map (sxInput F)).map (·.1)) k).real = v k := by
      have hx : xs[k]? = some xs[k] := List.getElem?_eq_getElem (by omega)
      have hat : sxAt ((xs.map (sxInput F)).map (·.1)) k = (sxInput F xs[k]).1 := by
        simp [sxAt, nth, List.getD_eq_getElem?_getD, hx]
      rw [hat]
      exact sxInput_real F xs[k] (hv k hk _ hx)
    generalize hvsdef : (xs.map (sxInput F)).map (·.1) = vs at hvs hval
    have hmem := mem_iff_sxAt hvs
    refine ⟨fun h0 => ?zero, fun A hA hex hle => ?positive⟩
    case zero =>
      have hlargest : magReal (sxLargest vs (0, 0)) = 0 := by
        obtain ⟨-, -, h | ⟨w, hw, h⟩⟩ := sxLargest_spec vs (0, 0)
        · rw [h, magReal_eq_zero_iff]
        · obtain ⟨k, hk, rfl⟩ := (hmem w).mp hw
          rw [h, hval k hk, h0 k hk, abs_zero]
      have := sxEncode_eq F rm xs
      simp only [hvsdef] at this
      exact this.trans (if_pos ((magReal_eq_zero_iff _).mp hlargest))
    case positive =>
      intro step E0
      have hlargest : magReal (sxLargest vs (0, 0)) = A := by
        refine sxLargest_eq hA ?_ fun w hw => ?_
        · obtain ⟨k, hk, h⟩ := hex
          exact ⟨_, (hmem _).mpr ⟨k, hk, rfl⟩, by rw [hval k hk, h]⟩
        · obtain ⟨k, hk, rfl⟩ := (hmem w).mp hw
          exact hval k hk ▸ hle k hk
      have hcodes := sxEncode_codes hF0 rm xs
      simp only [hvsdef] at hcodes
      obtain ⟨hzero, hblock, hflags⟩ := hcodes fun h => hA.ne' (by rw [← hlargest, magReal_eq_zero_iff, h])
      have hexp := sxExponent_spec F rm hlargest hA
      generalize sxExponent F rm (sxLargest vs (0, 0)) = E at *
      refine ⟨E, fun j => sxShiftAt F rm vs E j, sxCodeAt F rm vs E, hexp, fun j hj => ?_, fun k hk => ?_, ?_⟩
      · obtain ⟨hle3, hmax, hfit⟩ := sxShiftAt_spec F rm hvs E hj
        have hquad (u : ℕ) : (∀ i < 4, |sxCode F rm (sxAt vs (4 * j + i)) E u| ≤ 2 ^ F - 1) ↔
            ∀ i < 4, ∀ n : ℤ, RoundsTo rm (v (4 * j + i) / step E u) n → |n| ≤ 2 ^ F - 1 :=
          forall₂_congr fun i hi => by rw [← hval _ (by omega)]; exact sxCode_abs_le_iff F rm _ E u _
        beta_reduce
        refine ⟨Nat.cast_nonneg _, by exact_mod_cast hle3, fun u h0 h1 => ?_, fun h => (hquad _).mp (hfit (by exact_mod_cast h))⟩
        obtain ⟨u, rfl⟩ := Int.eq_ofNat_of_zero_le (a := u) (le_trans (Nat.cast_nonneg _) h0.le)
        exact mt (hquad u).mpr (hmax u (by exact_mod_cast h0) (by exact_mod_cast h1))
      · rw [← hval k hk]
        exact (sxCode_spec F rm (sxAt vs k) E (sxShiftAt F rm vs E (k / 4))).1
      · refine ⟨hzero, hblock, fun i => (hflags i).trans ?_⟩
        refine or_congr_right (or_congr_right (and_congr_right fun _ => exists_congr fun k => and_congr_right fun hk => ?_))
        rw [hval k hk]
        rfl

end Sys2Proof.Machine
end

section
/-! SUPPORT. The reciprocal, the roots, 2^A and log2 A (07 R150, Table 7.2): a number that lies between two half places rounds
as any other number there, so that a sticky bit stands for what a root leaves over. -/

namespace Sys2Proof.Machine

/-! ### Numbers on the same side of every multiple of a power of two -/

/-- `X` and `Y` lie on the same side of every multiple of `2 ^ e`. -/
def SameSide (e : ℤ) (X Y : ℝ) : Prop :=
  ∀ j : ℤ, (j * (2 : ℝ) ^ e < X ↔ j * (2 : ℝ) ^ e < Y) ∧ (X < j * (2 : ℝ) ^ e ↔ Y < j * (2 : ℝ) ^ e)

theorem SameSide.eq_iff {e : ℤ} {X Y : ℝ} (h : SameSide e X Y) (j : ℤ) : j * (2 : ℝ) ^ e = X ↔ j * (2 : ℝ) ^ e = Y := by
  obtain ⟨hlt, hgt⟩ := h j
  rw [le_antisymm_iff, le_antisymm_iff, ← not_lt, ← not_lt, ← not_lt, ← not_lt, hlt, hgt]

theorem SameSide.scale {e : ℤ} {X Y : ℝ} (h : SameSide e X Y) (c : ℤ) : SameSide (e + c) (X * (2 : ℝ) ^ c) (Y * (2 : ℝ) ^ c) := by
  intro j
  rw [zpow_add₀ two_ne_zero, ← mul_assoc]
  simp only [mul_lt_mul_iff_left₀ (two_zpow_pos c)]
  exact h j

theorem SameSide.coarsen {e e' : ℤ} {X Y : ℝ} (h : SameSide e X Y) (he : e ≤ e') : SameSide e' X Y := by
  intro j
  have hj : (j : ℝ) * (2 : ℝ) ^ e' = ((j * 2 ^ (e' - e).toNat : ℤ) : ℝ) * (2 : ℝ) ^ e := by
    have hexp : (((e' - e).toNat : ℕ) : ℤ) + e = e' := by omega
    push_cast
    rw [mul_assoc, ← zpow_natCast, ← zpow_add₀ two_ne_zero, hexp]
  rw [hj]
  exact h _

/-- Numbers on the same side of every half round alike. -/
theorem SameSide.roundsTo {X Y : ℝ} (h : SameSide (-1) X Y) (hX : 0 < X) (hY : 0 < Y) {rm : Rm} {n : ℤ}
    (hn : RoundsTo rm X n) : RoundsTo rm Y n := by
  have half (j : ℤ) : (j : ℝ) * (2 : ℝ) ^ (-1 : ℤ) = j / 2 := by rw [zpow_neg_one]; ring
  have hle (j : ℤ) : (j : ℝ) / 2 ≤ X ↔ (j : ℝ) / 2 ≤ Y := by
    rw [← half, ← not_lt, ← not_lt, (h j).2]
  have hge (j : ℤ) : X ≤ (j : ℝ) / 2 ↔ Y ≤ (j : ℝ) / 2 := by
    rw [← half, ← not_lt, ← not_lt, (h j).1]
  have hlow := hle (2 * n - 1)
  have hmid := hle (2 * n)
  have hhigh := hge (2 * n + 1)
  have hlow' := hge (2 * n - 1)
  have hmid' := hge (2 * n)
  have hhigh' := hle (2 * n + 1)
  have hup := hle (2 * n + 2)
  have hdown := hge (2 * n - 2)
  push_cast at hlow hmid hhigh hlow' hmid' hhigh' hup hdown
  cases rm with
  | rne =>
    obtain ⟨hn, htie⟩ := hn
    have hn := abs_le.mp hn
    have hlow := hlow.mp (by linarith)
    have hhigh := hhigh.mp (by linarith)
    refine ⟨abs_le.mpr ⟨by linarith, by linarith⟩, fun habs => htie ?_⟩
    rcases (abs_eq one_half_pos.le).mp habs with hpos | hneg
    · have := hhigh'.mpr (by linarith)
      rw [abs_of_nonneg] <;> linarith
    · have := hlow'.mpr (by linarith)
      rw [abs_of_nonpos] <;> linarith
  | rz =>
    obtain ⟨h1, h2, h3⟩ := hn
    have hn0 : (0 : ℝ) ≤ n := nonneg_of_mul_nonneg_left h3 hX
    rw [abs_of_nonneg hn0, abs_of_pos hX] at h1
    have h2 := abs_lt.mp h2
    have hY1 := hmid.mp (by linarith)
    have hY2 := mt hup.mpr (by linarith)
    refine ⟨?_, abs_lt.mpr ⟨by linarith, by linarith⟩, by positivity⟩
    rw [abs_of_nonneg hn0, abs_of_pos hY]
    linarith
  | rd =>
    obtain ⟨h1, h2⟩ := hn
    have hY1 := hmid.mp (by linarith)
    have hY2 := mt hup.mpr (by linarith)
    exact ⟨by linarith, by linarith⟩
  | ru =>
    obtain ⟨h1, h2⟩ := hn
    have hY1 := hmid'.mp (by linarith)
    have hY2 := mt hdown.mpr (by linarith)
    exact ⟨by linarith, by linarith⟩

theorem SameSide.log_eq {e : ℤ} {X Y : ℝ} (h : SameSide e X Y) (hX : 0 < X) (he : e ≤ Int.log 2 X) :
    Int.log 2 Y = Int.log 2 X := by
  have hpow (l : ℤ) (hl : e ≤ l) : X < (2 : ℝ) ^ l ↔ Y < (2 : ℝ) ^ l := by
    have := (h.coarsen hl 1).2
    rwa [Int.cast_one, one_mul] at this
  refine log_eq_of_bounds (not_lt.mp (mt (hpow _ he).mpr (not_lt.mpr ?_))) ((hpow _ (by omega)).mp ?_)
  · exact (two_zpow_le_iff hX _).mpr le_rfl
  · exact (lt_two_zpow_iff hX _).mpr (Int.lt_succ _)

/-- Numbers on the same side of every half place round alike in a format. -/
theorem Rounded.congr {f : Fmt} {rm : Rm} {X Y : ℝ} {r : Nat × Flags} (hX : 0 < X) (hY : 0 < Y)
    (hlog : Int.log 2 Y = Int.log 2 X) (hside : SameSide (ulpExp f (Int.log 2 X) - 1) X Y) (h : Rounded f rm X r) :
    Rounded f rm Y r := by
  unfold Rounded at h ⊢
  rw [abs_of_pos hX] at h
  rw [abs_of_pos hY, hlog]
  obtain ⟨n, hn, hrange, hover⟩ := h
  have hround : RoundsTo rm (Y / (2 : ℝ) ^ ulpExp f (Int.log 2 X)) n := by
    have hscaled := hside.scale (-ulpExp f (Int.log 2 X))
    rw [show ulpExp f (Int.log 2 X) - 1 + -ulpExp f (Int.log 2 X) = -1 by ring, zpow_neg, ← div_eq_mul_inv,
      ← div_eq_mul_inv] at hscaled
    exact hscaled.roundsTo (div_pos hX (two_zpow_pos _)) (div_pos hY (two_zpow_pos _)) hn
  have heq : (n : ℝ) * (2 : ℝ) ^ ulpExp f (Int.log 2 X) = X ↔ (n : ℝ) * (2 : ℝ) ^ ulpExp f (Int.log 2 X) = Y :=
    (hside.coarsen (sub_le_self _ zero_le_one)).eq_iff n
  have hsmall (l : ℤ) : X < (2 : ℝ) ^ l ↔ Y < (2 : ℝ) ^ l := by rw [lt_two_zpow_iff hX, lt_two_zpow_iff hY, hlog]
  refine ⟨n, hround, fun hle => ?_, fun hgt => ?_⟩
  · obtain ⟨hreal, hwidth, hneg, hexact, htiny, hinexact⟩ := hrange hle
    refine ⟨hreal, hwidth, ?_, fun h => hexact (heq.mpr h), fun h hlt => htiny (mt heq.mp h) ((hsmall _).mpr hlt),
      fun h hle => hinexact (mt heq.mp h) (not_lt.mp (mt (hsmall _).mp (not_lt.mpr hle)))⟩
    rw [hneg]
    exact ⟨fun h => absurd h hX.le.not_gt, fun h => absurd h hY.le.not_gt⟩
  · simpa only [hX, hY, hX.le.not_gt, hY.le.not_gt] using hover hgt

/-! ### Roots -/

theorem isqrtGo_spec (n r x : Nat) (h1 : r * r ≤ x) (h2 : x < (r + 2 ^ n) * (r + 2 ^ n)) :
    isqrtGo n r x * isqrtGo n r x ≤ x ∧ x < (isqrtGo n r x + 1) * (isqrtGo n r x + 1) := by
  induction n generalizing r with
  | zero => exact ⟨h1, h2⟩
  | succ n ih =>
    rw [isqrtGo]
    split_ifs with h
    · exact ih _ h (by rwa [Nat.add_assoc, ← two_mul, ← pow_succ'])
    · exact ih _ h1 (not_le.mp h)

theorem isqrt_eq_sqrt (x : Nat) : isqrt x = Nat.sqrt x := by
  refine Nat.eq_sqrt.mpr (isqrtGo_spec _ 0 x (Nat.zero_le _) ?_)
  rw [Nat.zero_add, ← pow_add]
  exact Nat.lt_log2_self.trans_le (Nat.pow_le_pow_right two_pos (by omega))

/-- `n` and a sticky bit half a place below it stand for a number from `n` on below `n + 1`. -/
theorem sameSide_sticky {Z : ℝ} {n : Nat} {exact : Prop} [Decidable exact] (h1 : (n : ℝ) ≤ Z) (h2 : Z < n + 1)
    (hexact : exact ↔ Z = n) : SameSide 0 (((2 * n + if exact then 0 else 1 : ℕ) : ℝ) / 2) Z := by
  intro j
  rw [zpow_zero, mul_one]
  split_ifs with h
  · rw [hexact.mp h]
    push_cast
    rw [add_zero, mul_div_cancel_left₀ _ two_ne_zero]
    exact ⟨Iff.rfl, Iff.rfl⟩
  · have h1 : (n : ℝ) < Z := lt_of_le_of_ne h1 fun he => h (hexact.mpr he.symm)
    push_cast
    rcases le_or_gt j n with hj | hj
    · have hj : (j : ℝ) ≤ n := by exact_mod_cast hj
      exact ⟨⟨fun _ => by linarith, fun _ => by linarith⟩, ⟨fun _ => by linarith, fun _ => by linarith⟩⟩
    · have hj : (n : ℝ) + 1 ≤ j := by exact_mod_cast hj
      exact ⟨⟨fun _ => by linarith, fun _ => by linarith⟩, ⟨fun _ => by linarith, fun _ => by linarith⟩⟩

/-- A number rounded by its integer part and a sticky bit, where the integer part has more places than the format. -/
theorem rounded_sticky {f : Fmt} (hf : f.Std) (rm : Rm) {Z : ℝ} {n : Nat} {exact : Prop} [Decidable exact] (c : ℤ)
    (hn : 2 ^ 24 ≤ n) (h1 : (n : ℝ) ≤ Z) (h2 : Z < n + 1) (hexact : exact ↔ Z = n) :
    Rounded f rm (Z * (2 : ℝ) ^ c) (roundRatio f rm false (2 * n + if exact then 0 else 1) 1 (c - 1)) := by
  have hnum : 0 < 2 * n + if exact then 0 else 1 := by omega
  have hround := rounded_roundRatio hf rm false hnum one_pos (c - 1)
  have hval : signR false * (((2 * n + if exact then 0 else 1 : ℕ) : ℝ) / (1 : ℕ) * (2 : ℝ) ^ (c - 1)) =
      ((2 * n + if exact then 0 else 1 : ℕ) : ℝ) / 2 * (2 : ℝ) ^ c := by
    rw [signR_false, Nat.cast_one, zpow_sub_one₀ two_ne_zero]
    ring
  rw [hval] at hround
  have hside : SameSide c (((2 * n + if exact then 0 else 1 : ℕ) : ℝ) / 2 * (2 : ℝ) ^ c) (Z * (2 : ℝ) ^ c) := by
    simpa using (sameSide_sticky h1 h2 hexact).scale c
  have hn' : (2 : ℝ) ^ (24 : ℤ) ≤ ((2 * n + if exact then 0 else 1 : ℕ) : ℝ) / 2 := by
    rw [le_div_iff₀ two_pos]
    exact_mod_cast (by omega : 2 ^ 24 * 2 ≤ 2 * n + if exact then 0 else 1)
  have hpos := (two_zpow_pos 24).trans_le hn'
  have hX := mul_pos hpos (two_zpow_pos c)
  have hlog : c + 24 ≤ Int.log 2 (((2 * n + if exact then 0 else 1 : ℕ) : ℝ) / 2 * (2 : ℝ) ^ c) := by
    rw [log_mul_two_zpow hpos, add_comm]
    exact Int.add_le_add_right ((two_zpow_le_iff hpos 24).mp hn') c
  have hZ : 0 < Z := (by positivity : (0 : ℝ) < 2 ^ 24).trans_le ((by exact_mod_cast hn : (2 : ℝ) ^ 24 ≤ n).trans h1)
  have hulp := hf.fbits_le
  exact hround.congr hX (mul_pos hZ (two_zpow_pos c)) (hside.log_eq hX (by omega)) (hside.coarsen (by unfold ulpExp; omega))

/-- An even exponent leaves the value, and at most doubles the magnitude. -/
theorem evenExp_spec (m : Nat) (e : ℤ) :
    m ≤ (evenExp m e).1 ∧ (evenExp m e).1 ≤ 2 * m ∧
      ((evenExp m e).1 : ℝ) * ((2 : ℝ) ^ (evenExp m e).2) ^ 2 = m * (2 : ℝ) ^ e := by
  have hsq (h : ℤ) : ((2 : ℝ) ^ h) ^ 2 = (2 : ℝ) ^ (2 * h) := by rw [← zpow_natCast, ← zpow_mul, mul_comm]; rfl
  unfold evenExp
  rw [hsq]
  split_ifs with h
  · exact ⟨le_rfl, by omega, by rw [show 2 * (e / 2) = e by omega]⟩
  · refine ⟨by omega, by omega, ?_⟩
    simp only
    rw [show e = 2 * ((e - 1) / 2) + 1 by omega, zpow_add_one₀ two_ne_zero,
      show (2 * ((e - 1) / 2) + 1 - 1) / 2 = (e - 1) / 2 by omega]
    push_cast
    ring

theorem sqrtF_spec {f : Fmt} (hf : f.Std) (rm : Rm) {m : Nat} (hm : m ≠ 0) (e : ℤ) :
    Rounded f rm (Real.sqrt (m * (2 : ℝ) ^ e)) (sqrtF f rm (.fin false m e)) := by
  obtain ⟨hle, -, hval⟩ := evenExp_spec m e
  have hdef : sqrtF f rm (.fin false m e) = roundRatio f rm false (2 * isqrt ((evenExp m e).1 * 2 ^ 128) +
      (if isqrt ((evenExp m e).1 * 2 ^ 128) * isqrt ((evenExp m e).1 * 2 ^ 128) = (evenExp m e).1 * 2 ^ 128 then 0 else 1)) 1
      ((evenExp m e).2 - 64 - 1) := by
    rw [sub_sub]
    exact if_neg hm
  rw [hdef, ← hval, isqrt_eq_sqrt]
  have hm' : 1 ≤ (evenExp m e).1 := by omega
  generalize (evenExp m e).1 = m' at hm' ⊢
  generalize (evenExp m e).2 = h
  have hroot : Real.sqrt (m' * ((2 : ℝ) ^ h) ^ 2) = Real.sqrt ((m' * 2 ^ 128 : ℕ) : ℝ) * (2 : ℝ) ^ (h - 64) := by
    have h64 : Real.sqrt ((2 : ℝ) ^ 128) = 2 ^ 64 := by
      rw [show (2 : ℝ) ^ 128 = (2 ^ 64) ^ 2 from by rw [← pow_mul], Real.sqrt_sq (by positivity)]
    rw [Nat.cast_mul, Nat.cast_pow, Nat.cast_ofNat, Real.sqrt_mul (by positivity), Real.sqrt_sq (two_zpow_pos h).le,
      Real.sqrt_mul (by positivity), h64, zpow_sub₀ two_ne_zero]
    field_simp
  rw [hroot]
  refine rounded_sticky hf rm _ ?_ (Real.nat_sqrt_le_real_sqrt) (by exact_mod_cast Real.real_sqrt_lt_nat_sqrt_succ) ?_
  · exact Nat.le_sqrt.mpr (by norm_num; omega)
  · rw [Real.sqrt_eq_iff_mul_self_eq (Nat.cast_nonneg _) (Nat.cast_nonneg _)]
    exact_mod_cast eq_comm

theorem rsqF_spec {f : Fmt} (hf : f.Std) (rm : Rm) {m : Nat} (hm : m ≠ 0) (hlt : m < 2 ^ 24) (e : ℤ) :
    Rounded f rm (1 / Real.sqrt (m * (2 : ℝ) ^ e)) (rsqF f rm (.fin false m e)) := by
  obtain ⟨hle, hle2, hval⟩ := evenExp_spec m e
  have hdef : rsqF f rm (.fin false m e) = roundRatio f rm false (2 * isqrt (2 ^ 160 / (evenExp m e).1) +
      (if isqrt (2 ^ 160 / (evenExp m e).1) * isqrt (2 ^ 160 / (evenExp m e).1) * (evenExp m e).1 = 2 ^ 160 then 0 else 1)) 1
      (-(evenExp m e).2 - 80 - 1) := by
    rw [sub_sub (-(evenExp m e).2)]
    exact if_neg hm
  rw [hdef, ← hval, isqrt_eq_sqrt]
  have hm' : 1 ≤ (evenExp m e).1 := by omega
  have hm'' : (evenExp m e).1 < 2 ^ 25 := by omega
  generalize (evenExp m e).1 = m' at hm' hm'' ⊢
  generalize (evenExp m e).2 = h
  have hm0 : (0 : ℝ) < m' := by exact_mod_cast hm'
  have hroot : 1 / Real.sqrt (m' * ((2 : ℝ) ^ h) ^ 2) = Real.sqrt (2 ^ 160 / m') * (2 : ℝ) ^ (-h - 80) := by
    have h80 : Real.sqrt ((2 : ℝ) ^ 160) = 2 ^ 80 := by
      rw [show (2 : ℝ) ^ 160 = (2 ^ 80) ^ 2 from by rw [← pow_mul], Real.sqrt_sq (by positivity)]
    rw [Real.sqrt_mul (by positivity), Real.sqrt_sq (two_zpow_pos h).le, Real.sqrt_div (by positivity), h80,
      zpow_sub₀ two_ne_zero, zpow_neg]
    field_simp
  have hn1 := (Nat.le_div_iff_mul_le hm').mp (Nat.sqrt_le (2 ^ 160 / m'))
  have hn2 := (Nat.div_lt_iff_lt_mul hm').mp (Nat.lt_succ_sqrt (2 ^ 160 / m'))
  have hn : 2 ^ 24 ≤ Nat.sqrt (2 ^ 160 / m') :=
    Nat.le_sqrt.mpr ((Nat.le_div_iff_mul_le hm').mpr (by norm_num; omega))
  generalize Nat.sqrt (2 ^ 160 / m') = n at hn1 hn2 hn ⊢
  rw [hroot]
  refine rounded_sticky hf rm _ hn ?_ ?_ ?_
  · rw [Real.le_sqrt' (by positivity), le_div_iff₀ hm0, pow_two]
    exact_mod_cast hn1
  · rw [Real.sqrt_lt' (by positivity), div_lt_iff₀ hm0, pow_two]
    exact_mod_cast hn2
  · rw [Real.sqrt_eq_iff_mul_self_eq (by positivity) (Nat.cast_nonneg _), div_eq_iff hm0.ne']
    exact_mod_cast eq_comm

/-! ### The reciprocal -/

theorem rcpF_spec {f : Fmt} (hf : f.Std) (rm : Rm) {neg : Bool} {m : Nat} (hm : m ≠ 0) {e : ℤ} {A : ℝ}
    (hA : (FVal.fin neg m e).IsReal A) : Rounded f rm (1 / A) (rcpF f rm (.fin neg m e)) := by
  have hround := rounded_roundRatio hf rm neg one_pos (Nat.pos_of_ne_zero hm) (-e)
  have hval : signR neg * (((1 : ℕ) : ℝ) / m * (2 : ℝ) ^ (-e)) = 1 / A := by
    rw [isReal_fin.mp hA, zpow_neg, Nat.cast_one]
    cases neg <;> simp [div_eq_mul_inv, mul_comm]
  rw [hval] at hround
  rwa [rcpF, if_neg hm]

/-! ### 2^A at an integer A -/

theorem roundRatio_one_eq (f : Fmt) (rm : Rm) (k : ℤ) : roundRatio f rm false 1 1 k =
    packRound f rm false k (roundIntRatio rm false 1 1 (k - ulpExp f k)).1.natAbs
      (!(roundIntRatio rm false 1 1 (k - ulpExp f k)).2) := by
  have hlog : floorLog2 1 1 = 0 := by decide
  rw [roundRatio_eq, hlog, zero_add]

/-- A power of two that no format holds overflows, however large it is. -/
theorem roundRatio_one_of_large {f : Fmt} (hf : f.Std) (rm : Rm) {k : ℤ} (hk : 1024 ≤ k) :
    roundRatio f rm false 1 1 k = roundRatio f rm false 1 1 1024 := by
  have hover (k : ℤ) (hk : 1024 ≤ k) (N : Nat) (exact : Bool) :
      packRound f rm false k N exact = (overflowPat f rm false, flOF ||| flNX) := by
    refine if_pos (hf.maxPat_lt_of_emax_lt (e := (ulpExp f k - unitExp f).toNat) ?_ N)
    have := hf.emax_le
    unfold ulpExp unitExp
    omega
  rw [roundRatio_one_eq, roundRatio_one_eq, hover k hk, hover 1024 le_rfl]

/-- A quarter and less rounds to 0, but upward. -/
theorem roundIntRatio_one_of_small (rm : Rm) {s : ℤ} (hs : s ≤ -2) :
    roundIntRatio rm false 1 1 s = (if rm = .ru then 1 else 0, true) := by
  obtain ⟨t, ht⟩ : ∃ t : ℕ, (-s).toNat = t + 2 := ⟨(-s).toNat - 2, by omega⟩
  have hpow : 2 ^ (t + 2) = 4 * 2 ^ t := by rw [pow_add]; ring
  have hpos : 0 < 2 ^ t := by positivity
  have hdiv : scaleDiv 1 1 s = (0, 1, 2 ^ (t + 2)) := by
    have hlt : 1 < 2 ^ (t + 2) := by omega
    rw [scaleDiv, if_neg (by omega), ht]
    simp only [one_mul, Nat.div_eq_of_lt hlt, Nat.mod_eq_of_lt hlt]
  have hup : roundsUp rm false 0 1 (2 ^ (t + 2)) = decide (rm = .ru) := by
    cases rm with
    | rne => simp [roundsUp]
    | _ => rfl
  rw [roundIntRatio, hdiv]
  simp only [hup, decide_eq_true_eq]
  split_ifs <;> rfl

/-- A power of two far below every format rounds as any other one there. -/
theorem roundRatio_one_of_small {f : Fmt} (hf : f.Std) (rm : Rm) {k : ℤ} (hk : k ≤ -1024) :
    roundRatio f rm false 1 1 k = roundRatio f rm false 1 1 (-1024) := by
  have hbias := hf.bias_le
  have hfbits := hf.fbits_le
  have hulp (k : ℤ) (hk : k ≤ -1024) : ulpExp f k = unitExp f := by unfold ulpExp unitExp; omega
  have hpack (k : ℤ) (hk : k ≤ -1024) (N : Nat) : packRound f rm false k N false =
      if maxPat f < N then (overflowPat f rm false, flOF ||| flNX) else (signPat f false + N, flUF ||| flNX) := by
    have hlt : k < 1 - (f.bias : ℤ) := by omega
    simp [packRound, hulp k hk, hlt]
  have hsmall (k : ℤ) (hk : k ≤ -1024) := roundIntRatio_one_of_small rm (s := k - unitExp f) (by unfold unitExp; omega)
  rw [roundRatio_one_eq, roundRatio_one_eq, hulp k hk, hulp _ le_rfl, hsmall k hk, hsmall _ le_rfl, Bool.not_true, hpack k hk,
    hpack _ le_rfl]

theorem rounded_two_zpow {f : Fmt} (hf : f.Std) (rm : Rm) (k : ℤ) :
    Rounded f rm ((2 : ℝ) ^ k) (roundRatio f rm false 1 1 k) := by
  simpa using rounded_roundRatio hf rm false one_pos one_pos k

/-- The integer that a finite value is. -/
theorem int_of_isReal {neg : Bool} {m : Nat} {e k : ℤ} (h : (FVal.fin neg m e).IsReal k) :
    (0 ≤ e → sgn neg (m * 2 ^ e.toNat) = k) ∧ (e < 0 → m % 2 ^ (-e).toNat = 0 ∧ sgn neg (m / 2 ^ (-e).toNat) = k) := by
  rw [isReal_fin] at h
  refine ⟨fun he => ?_, fun he => ?_⟩
  · have hcast : ((sgn neg (m * 2 ^ e.toNat) : ℤ) : ℝ) = k := by
      rw [cast_sgn, h, Nat.cast_mul, Nat.cast_pow, ← zpow_natCast, Int.toNat_of_nonneg he, mul_assoc]
      rfl
    exact_mod_cast hcast
  · have hexp : e = -(((-e).toNat : ℕ) : ℤ) := by omega
    generalize (-e).toNat = t at hexp ⊢
    have hm : ((sgn neg m : ℤ) : ℝ) = ((k * 2 ^ t : ℤ) : ℝ) := by
      rw [cast_sgn, Int.cast_mul, h, hexp, zpow_neg, zpow_natCast]
      push_cast
      field_simp
    have hm : sgn neg m = k * 2 ^ t := by exact_mod_cast hm
    have hmag : m = k.natAbs * 2 ^ t := by
      rw [← natAbs_sgn neg m, hm, Int.natAbs_mul, Int.natAbs_pow]
      rfl
    have hpos : 0 < 2 ^ t := by positivity
    refine ⟨by rw [hmag, Nat.mul_mod_left], ?_⟩
    rw [hmag, Nat.mul_div_cancel _ hpos]
    have hk : sgn neg k.natAbs * 2 ^ t = k * 2 ^ t := by
      rw [← hm, hmag]
      cases neg <;> simp [sgn]
    exact mul_right_cancel₀ (by positivity) hk

theorem exp2F_spec {f : Fmt} (hf : f.Std) (rm : Rm) {neg : Bool} {m : Nat} {e k : ℤ} (h : (FVal.fin neg m e).IsReal k) :
    Rounded f rm ((2 : ℝ) ^ k) (exp2F f rm (.fin neg m e)) := by
  obtain ⟨hnonneg, hneg⟩ := int_of_isReal h
  have hround := rounded_two_zpow hf rm k
  rw [exp2F]
  have hlarge (hm : m ≠ 0) (hbig : floorLog2 m 1 + e ≥ 10) : (1024 : ℝ) ≤ m * (2 : ℝ) ^ e := by
    have hpos : (0 : ℝ) < m := by exact_mod_cast Nat.pos_of_ne_zero hm
    rw [floorLog2_eq (Nat.pos_of_ne_zero hm) one_pos, Nat.cast_one, div_one, ← log_mul_two_zpow hpos, ge_iff_le,
      ← two_zpow_le_iff (mul_pos hpos (two_zpow_pos e))] at hbig
    exact le_trans (by norm_num) hbig
  have hk := isReal_fin.mp h
  rw [mul_assoc] at hk
  split_ifs with hm hbig hsign he hmod
  · have hk : k = 0 := by
      have : (k : ℝ) = 0 := by rw [isReal_fin.mp h, hm]; simp
      exact_mod_cast this
    rwa [hk] at hround ⊢
  · have hle : (k : ℝ) ≤ (-1024 : ℤ) := by rw [hk, hsign, signR_true]; push_cast; linarith [hlarge hm hbig]
    rwa [roundRatio_one_of_small hf rm (by exact_mod_cast hle)] at hround
  · have hle : ((1024 : ℤ) : ℝ) ≤ k := by
      rw [hk, Bool.eq_false_of_not_eq_true hsign, signR_false]; push_cast; linarith [hlarge hm hbig]
    rwa [roundRatio_one_of_large hf rm (by exact_mod_cast hle)] at hround
  · rwa [hnonneg he]
  · rwa [(hneg (not_le.mp he)).2]
  · exact absurd (hneg (not_le.mp he)).1 hmod

/-! ### log2 A at a power of two -/

theorem log2F_two_zpow (f : Fmt) (rm : Rm) {neg : Bool} {m : Nat} {e k : ℤ} (h : (FVal.fin neg m e).IsReal ((2 : ℝ) ^ k)) :
    log2F f rm (.fin neg m e) = roundFp f rm (intVal k) := by
  have hpos := two_zpow_pos k
  have hm : m ≠ 0 := by
    rintro rfl
    exact hpos.ne' (by rw [isReal_fin.mp h]; simp)
  have hneg : neg = false := by
    rw [← Bool.not_eq_true, ← isReal_neg_iff h hpos.ne']
    exact hpos.le.not_gt
  have hval : (m : ℝ) = (2 : ℝ) ^ (k - e) := by
    rw [zpow_sub₀ two_ne_zero, isReal_fin.mp h, hneg, signR_false, one_mul, mul_div_cancel_right₀ _ (two_zpow_pos e).ne']
  have hexp : 0 ≤ k - e := by
    have : (1 : ℝ) ≤ m := by exact_mod_cast Nat.pos_of_ne_zero hm
    rw [hval] at this
    exact (one_le_zpow_iff_right₀ one_lt_two).mp this
  have hpow : m = 2 ^ (k - e).toNat := by
    rw [← Int.toNat_of_nonneg hexp, zpow_natCast] at hval
    exact_mod_cast hval
  have hlog : Nat.log2 m = (k - e).toNat := by rw [hpow, Nat.log2_two_pow]
  have hint : (Nat.log2 m : ℤ) + e = k := by omega
  rw [log2F, if_neg hm, if_neg (by simp [hneg]), hint, if_pos (by rw [hlog, ← hpow])]

/-- An integer other than 0, rounded. -/
theorem rounded_intVal {f : Fmt} (hf : f.Std) (rm : Rm) {k : ℤ} (hk : k ≠ 0) : Rounded f rm k (roundFp f rm (intVal k)) := by
  have hreal := intVal_isReal k 0
  rw [zpow_zero, mul_one] at hreal
  exact rounded_roundFp hf rm _ (Int.natAbs_ne_zero.mpr hk) 0 hreal

theorem roundFp_intVal_zero (f : Fmt) (rm : Rm) : roundFp f rm (intVal 0) = (0, 0) := rfl

/-! ### The magnitude of an operand -/

theorem fpDecode_mag_lt {f : Fmt} (hf : f.Std) {p : Nat} {neg : Bool} {m : Nat} {e : ℤ} (h : fpDecode f p = .fin neg m e) :
    m < 2 ^ 24 := by
  have hfr : p % 2 ^ f.fbits < 2 ^ f.fbits := Nat.mod_lt _ (by positivity)
  have hle : 2 ^ f.fbits ≤ 2 ^ 23 := Nat.pow_le_pow_right two_pos hf.fbits_le
  have hm : m = p % 2 ^ f.fbits ∨ m = 2 ^ f.fbits + p % 2 ^ f.fbits := by
    simp only [fpDecode] at h
    split_ifs at h <;> cases h <;> simp
  omega

/-! ### The functions -/

/-- The pattern and the flags that a function of 07 R150 gives. -/
def funcOf (op : Func) (f : Fmt) (rm : Rm) (x : FVal) : Nat × Flags :=
  match op with
  | .rcp => rcpF f rm x
  | .rsq => rsqF f rm x
  | .sqrt => sqrtF f rm x
  | .exp2 => exp2F f rm x
  | .log2 => log2F f rm x

theorem funcOf_nan (op : Func) (f : Fmt) (rm : Rm) (s : Bool) :
    funcOf op f rm (.nan s) = (canonNan f, if s then flNV else 0) := by
  cases op <;> rfl

/-- The functions at a number other than 0 that an operand of format `g` can be. -/
theorem funcOf_number {f g : Fmt} (hf : f.Std) (hg : g.Std) (rm : Rm) {p : Nat} {A : ℝ} (hA : (fpDecode g p).IsReal A)
    (hA0 : A ≠ 0) :
    Rounded f rm (1 / A) (funcOf .rcp f rm (fpDecode g p)) ∧
    (0 < A → Rounded f rm (Real.sqrt A) (funcOf .sqrt f rm (fpDecode g p)) ∧
      Rounded f rm (1 / Real.sqrt A) (funcOf .rsq f rm (fpDecode g p))) ∧
    (A < 0 → ∀ op ∈ [Func.sqrt, .rsq, .log2], funcOf op f rm (fpDecode g p) = (canonNan f, flNV)) ∧
    (∀ k : ℤ, A = k → Rounded f rm ((2 : ℝ) ^ k) (funcOf .exp2 f rm (fpDecode g p))) ∧
    ∀ k : ℤ, A = (2 : ℝ) ^ k → funcOf .log2 f rm (fpDecode g p) = roundFp f rm (intVal k) := by
  obtain ⟨neg, m, e, hx, hm⟩ := exists_fin_of_isReal_ne_zero hA hA0
  have hlt := fpDecode_mag_lt hg hx
  rw [hx] at hA ⊢
  have hsign := isReal_neg_iff hA hA0
  refine ⟨rcpF_spec hf rm hm hA, fun hpos => ?_, fun hneg => ?_, fun k hk => exp2F_spec hf rm (hk ▸ hA),
    fun k hk => log2F_two_zpow f rm (hk ▸ hA)⟩
  · obtain rfl : neg = false := by rw [← Bool.not_eq_true, ← hsign]; exact hpos.le.not_gt
    have hval := isReal_fin.mp hA
    rw [signR_false, one_mul] at hval
    rw [hval]
    exact ⟨sqrtF_spec hf rm hm e, rsqF_spec hf rm hm hlt e⟩
  · obtain rfl := hsign.mp hneg
    simp [funcOf, sqrtF, rsqF, log2F, hm]

end Sys2Proof.Machine
end

section
/-! SUPPORT. One lane of the floating-point types over the real numbers (07 R145, R147, R150; 08 R160): exact results and
their flags, written as rounded elements. -/

namespace Sys2Proof.Machine

/-! ### Exact results -/

/-- NV where one of the values is a signalling NaN (06 R124). -/
def sigNV (l : List FVal) : Flags := if l.any FVal.isSig then flNV else 0

theorem sigFlags_eq (x y : FVal) : sigFlags x y = sigNV [x, y] := by simp [sigFlags, sigNV]

theorem exists_nan_of_isNan {x : FVal} (h : x.isNan = true) : ∃ s, x = .nan s := by
  cases x with
  | nan s => exact ⟨s, rfl⟩
  | _ => cases h

theorem exists_zero_of_isZero {x : FVal} (h : x.isZero = true) : ∃ neg e, x = .fin neg 0 e := by
  cases x with
  | fin neg m e => exact ⟨neg, e, by rw [show m = 0 by simpa [FVal.isZero] using h]⟩
  | _ => cases h

/-- `v` with the flags `g` is the exact sum of `u` and `w` (06 R124, R129). -/
def IsSum (rm : Rm) (u w v : FVal) (g : Flags) : Prop :=
  ((u.isNan = true ∨ w.isNan = true) → v = .nan false ∧ g = sigNV [u, w]) ∧
  (∀ i j, u = .inf i → w = .inf j → (i = j → v = .inf i ∧ g = 0) ∧ (i ≠ j → v = .nan false ∧ g = flNV)) ∧
  (∀ (i : Bool) (A : ℝ), (u = .inf i ∧ w.IsReal A) ∨ (w = .inf i ∧ u.IsReal A) → v = .inf i ∧ g = 0) ∧
  (∀ A B : ℝ, u.IsReal A → w.IsReal B → v.IsReal (A + B) ∧ g = 0 ∧
    (A + B = 0 → v.negBit = if u.isZero && w.isZero && u.negBit == w.negBit then u.negBit else decide (rm = .rd)))

theorem addF_nan_right (rm : Rm) (u : FVal) (s : Bool) : addF rm u (.nan s) = (.nan false, sigFlags u (.nan s)) := by
  cases u <;> rfl

theorem addF_isSum (rm : Rm) (u w : FVal) : IsSum rm u w (addF rm u w).1 (addF rm u w).2 := by
  refine ⟨?nan, ?infs, ?infNumber, ?numbers⟩
  case nan =>
    rw [← sigFlags_eq]
    rintro (h | h) <;> obtain ⟨s, rfl⟩ := exists_nan_of_isNan h
    · exact ⟨rfl, rfl⟩
    · rw [addF_nan_right]
      exact ⟨rfl, rfl⟩
  case infs =>
    rintro i j rfl rfl
    simp only [addF]
    exact ⟨fun h => by rw [if_pos h]; exact ⟨rfl, rfl⟩, fun h => by rw [if_neg h]; exact ⟨rfl, rfl⟩⟩
  case infNumber =>
    rintro i A (⟨rfl, h⟩ | ⟨rfl, h⟩) <;> obtain ⟨neg, m, e, rfl⟩ := exists_fin_of_isReal h <;> exact ⟨rfl, rfl⟩
  case numbers =>
    intro A B hA hB
    obtain ⟨n1, m1, e1, rfl⟩ := exists_fin_of_isReal hA
    obtain ⟨n2, m2, e2, rfl⟩ := exists_fin_of_isReal hB
    obtain ⟨hreal, hzero⟩ := addFin_spec rm hA hB
    refine ⟨hreal, rfl, fun h => (hzero h).trans ?_⟩
    have hrd : (rm == .rd) = decide (rm = .rd) := by cases rm <;> rfl
    rw [hrd]
    refine if_congr ?_ rfl rfl
    simp [FVal.isZero, FVal.negBit, and_assoc]

/-- `v` with the flags `g` is the exact product of `u` and `w` (06 R124, R129; 07 R145). -/
def IsProduct (u w v : FVal) (g : Flags) : Prop :=
  ((u.isNan = true ∨ w.isNan = true) → v = .nan false ∧ g = sigNV [u, w]) ∧
  (∀ i, ((u = .inf i ∧ w.isZero = true) ∨ (w = .inf i ∧ u.isZero = true)) → v = .nan false ∧ g = flNV) ∧
  (∀ i, ((u = .inf i ∧ w.isZero = false ∧ w.isNan = false) ∨ (w = .inf i ∧ u.isZero = false ∧ u.isNan = false)) →
    v = .inf (u.negBit != w.negBit) ∧ g = 0) ∧
  (∀ A B : ℝ, u.IsReal A → w.IsReal B → v.IsReal (A * B) ∧ v.negBit = (u.negBit != w.negBit) ∧ g = 0)

theorem mulF_nan_right (u : FVal) (s : Bool) : mulF u (.nan s) = (.nan false, sigFlags u (.nan s)) := by
  cases u <;> rfl

theorem mulF_isProduct (u w : FVal) : IsProduct u w (mulF u w).1 (mulF u w).2 := by
  refine ⟨?nan, ?zero, ?inf, ?numbers⟩
  case nan =>
    rw [← sigFlags_eq]
    rintro (h | h) <;> obtain ⟨s, rfl⟩ := exists_nan_of_isNan h
    · exact ⟨rfl, rfl⟩
    · rw [mulF_nan_right]
      exact ⟨rfl, rfl⟩
  case zero =>
    rintro i (⟨rfl, h⟩ | ⟨rfl, h⟩)
    · cases w <;> simp_all [FVal.isZero, mulF]
    · cases u <;> simp_all [FVal.isZero, mulF]
  case inf =>
    rintro i (⟨rfl, h1, h2⟩ | ⟨rfl, h1, h2⟩)
    · cases w <;> simp_all [FVal.isZero, FVal.isNan, FVal.negBit, mulF]
    · cases u <;> simp_all [FVal.isZero, FVal.isNan, FVal.negBit, mulF]
  case numbers =>
    intro A B hA hB
    obtain ⟨n1, m1, e1, rfl⟩ := exists_fin_of_isReal hA
    obtain ⟨n2, m2, e2, rfl⟩ := exists_fin_of_isReal hB
    refine ⟨?_, rfl, rfl⟩
    rw [mulF, isReal_fin, signR_bne, zpow_add₀ two_ne_zero, isReal_fin.mp hA, isReal_fin.mp hB, Nat.cast_mul]
    ring

/-! ### Exact results written -/

theorem written_roundFp (t : ElemTy) (rm : Rm) (v : FVal) :
    Written t rm v (wrElem t (roundFp (fmtOf t) rm v).1, (roundFp (fmtOf t) rm v).2) := by
  cases v with
  | nan s => rfl
  | inf neg =>
    simp only [Written, roundFp, infSigned_eq]
    split_ifs <;> rfl
  | fin neg m e =>
    refine ⟨fun hm => ?_, fun hm => ⟨_, rfl, fun X hX => rounded_roundFp (fmtOf_std t) rm neg hm e hX⟩⟩
    rw [roundFp, if_pos hm]
    rfl

theorem putFloat_writes (t : ElemTy) (rm : Rm) (x : FVal × Flags) :
    ∃ h, Written t rm x.1 ((putFloat t rm x).1, h) ∧ (putFloat t rm x).2 = x.2 ||| h :=
  ⟨_, written_roundFp t rm x.1, rfl⟩

/-! ### Minimum and maximum -/

/-- `u` lies below `w`, which are no NaNs; -0 lies below +0 (07 R147). -/
def Below (u w : FVal) : Prop := (u = .inf true ∧ w ≠ .inf true) ∨ (w = .inf false ∧ u ≠ .inf false) ∨
  ∃ A B : ℝ, u.IsReal A ∧ w.IsReal B ∧ (A < B ∨ (A = B ∧ u.negBit = true ∧ w.negBit = false))

theorem belowF_iff {u w : FVal} (hu : u.isNan = false) (hw : w.isNan = false) : belowF u w = true ↔ Below u w := by
  cases u with
  | nan s => cases hu
  | inf a =>
    cases w with
    | nan s => cases hw
    | inf b => cases a <;> cases b <;> simp [belowF, cmpF, Below, FVal.negBit, FVal.IsReal]
    | fin n m e => cases a <;> simp [belowF, cmpF, Below, FVal.negBit, FVal.IsReal]
  | fin n m e =>
    cases w with
    | nan s => cases hw
    | inf b => cases b <;> simp [belowF, cmpF, Below, FVal.negBit, FVal.IsReal]
    | fin n2 m2 e2 =>
      obtain ⟨hlt, heq⟩ := cmpF_fin (isReal_fin.mpr rfl : (FVal.fin n m e).IsReal _)
        (isReal_fin.mpr rfl : (FVal.fin n2 m2 e2).IsReal _)
      simp [belowF, Below, hlt, heq, isReal_fin, FVal.negBit, and_assoc]

theorem Below.asymm {u w : FVal} (h : Below u w) : ¬ Below w u := by
  have hfin {x : FVal} {A B : ℝ} (hA : x.IsReal A) (hB : x.IsReal B) : A = B := by
    obtain ⟨neg, m, e, rfl⟩ := exists_fin_of_isReal hA
    rw [isReal_fin.mp hA, isReal_fin.mp hB]
  rintro h'
  rcases h with ⟨rfl, hw⟩ | ⟨rfl, hu⟩ | ⟨A, B, hA, hB, h⟩ <;>
    rcases h' with ⟨h1, h2⟩ | ⟨h1, h2⟩ | ⟨B', A', hB', hA', h'⟩
  · exact hw h1
  · cases h1
  · exact hA'.elim
  · cases h1
  · exact hu h1
  · exact hB'.elim
  · subst h1; exact hB.elim
  · subst h1; exact hA.elim
  · rw [hfin hA' hA, hfin hB' hB] at h'
    rcases h with h | ⟨h, hn, hn'⟩ <;> rcases h' with h' | ⟨h', hm, hm'⟩
    · exact lt_asymm h h'
    · exact h.ne h'.symm
    · exact h'.ne h.symm
    · rw [hn] at hm'; cases hm'

theorem minMaxNum_nan_left {f : Fmt} {max : Bool} {a b : Nat} (ha : (fpDecode f a).isNan = true) :
    minMaxNum f max a b = (if (fpDecode f b).isNan then canonNan f else b, sigNV [fpDecode f a, fpDecode f b]) := by
  rw [minMaxNum, if_pos ha, sigFlags_eq]

theorem minMaxNum_nan_right {f : Fmt} {max : Bool} {a b : Nat} (ha : (fpDecode f a).isNan = false)
    (hb : (fpDecode f b).isNan = true) : minMaxNum f max a b = (a, sigNV [fpDecode f a, fpDecode f b]) := by
  rw [minMaxNum, if_neg (by simp [ha]), if_pos hb, sigFlags_eq]

theorem minMaxNum_numbers {f : Fmt} {a b : Nat} (max : Bool) (ha : (fpDecode f a).isNan = false)
    (hb : (fpDecode f b).isNan = false) :
    minMaxNum f max a b = (if (if max then belowF (fpDecode f a) (fpDecode f b) else belowF (fpDecode f b) (fpDecode f a)) = true
      then b else a, 0) := by
  have hsig {x : FVal} (h : x.isNan = false) : x.isSig = false := by cases x <;> simp_all [FVal.isNan, FVal.isSig]
  have hfl : sigFlags (fpDecode f a) (fpDecode f b) = 0 := by simp [sigFlags, hsig ha, hsig hb]
  simp only [minMaxNum, ha, hb, hfl, Bool.false_eq_true, if_false]
  cases max <;> rfl

/-- Of two values that are no NaNs the one that the order puts first or last, and the first operand where it puts neither. -/
theorem minMaxNum_of_below {f : Fmt} {a b : Nat} (max : Bool) (ha : (fpDecode f a).isNan = false)
    (hb : (fpDecode f b).isNan = false) :
    (Below (fpDecode f a) (fpDecode f b) → minMaxNum f max a b = (if max then b else a, 0)) ∧
    (Below (fpDecode f b) (fpDecode f a) → minMaxNum f max a b = (if max then a else b, 0)) ∧
    (¬ Below (fpDecode f a) (fpDecode f b) → ¬ Below (fpDecode f b) (fpDecode f a) → minMaxNum f max a b = (a, 0)) := by
  rw [minMaxNum_numbers max ha hb]
  refine ⟨fun h => ?_, fun h => ?_, fun hab hba => ?_⟩
  · have := Below.asymm h
    cases max <;> simp [belowF_iff, ha, hb, h, this]
  · have := Below.asymm h
    cases max <;> simp [belowF_iff, ha, hb, h, this]
  · cases max <;> simp [belowF_iff, ha, hb, hab, hba]

end Sys2Proof.Machine
end

section
/-! SUPPORT. Conversions to and from integers (06 R130; 08 R160), and one lane of a floating-point type with all its operations
(07 R145 to R150, Table 7.2). -/

namespace Sys2Proof.Machine

/-! ### Conversions -/

/-- A lane of an integer type that holds an integer modulo its width. -/
def intLane (t : ElemTy) (n : ℤ) : Word :=
  if isSigned t then (BitVec.ofInt (ebits t) n).signExtend 32 else (BitVec.ofInt (ebits t) n).setWidth 32

theorem ebits_pos (t : ElemTy) : 0 < ebits t := by cases t <;> decide

theorem wrElem_wrapNat (t : ElemTy) (n : ℤ) : wrElem t (wrapNat (ebits t) n) = intLane t n := by
  have hlt : (BitVec.ofInt (ebits t) n).toNat % 2 ^ ebits t = (BitVec.ofInt (ebits t) n).toNat := Nat.mod_eq_of_lt (BitVec.isLt _)
  rw [wrElem, intLane, wrapNat_eq_toNat, sext_eq_toInt _ _ (ebits_pos t), BitVec.ofNat_toNat, BitVec.setWidth_eq, hlt,
    BitVec.ofNat_toNat]
  rfl

theorem intOf_rdElem (t : ElemTy) (a : Word) :
    intOf t (rdElem t a) = if isSigned t then (a.setWidth (ebits t)).toInt else ((a.setWidth (ebits t)).toNat : ℤ) := by
  have hmod : BitVec.ofNat (ebits t) (a.toNat % 2 ^ ebits t) = a.setWidth (ebits t) := by
    apply BitVec.eq_of_toNat_eq
    simp
  rw [intOf, rdElem, sext_eq_toInt _ _ (ebits_pos t), hmod, Nat.mod_mod, BitVec.toNat_setWidth]

theorem intLane_zero (t : ElemTy) : intLane t 0 = 0 := by cases t <;> decide

theorem intLo_le_intHi (t : ElemTy) : intLo t ≤ intHi t := by cases t <;> decide

/-- Where a conversion to an integer goes, by the integer that the value rounds to (06 R130). -/
theorem cvtF2I_fin (t : ElemTy) (rm : Rm) {x : FVal} {X : ℝ} (hx : x.IsReal X) : ∃ n : ℤ, RoundsTo rm X n ∧
    (n < intLo t → cvtF2I t rm x = (intLo t, flNV)) ∧ (intHi t < n → cvtF2I t rm x = (intHi t, flNV)) ∧
    (intLo t ≤ n → n ≤ intHi t → (X = n → cvtF2I t rm x = (n, 0)) ∧ (X ≠ n → cvtF2I t rm x = (n, flNX))) := by
  obtain ⟨neg, m, e, rfl⟩ := exists_fin_of_isReal hx
  obtain ⟨hround, hexact⟩ := roundIntRatio_spec rm neg m one_pos e
  have hval : signR neg * ((m : ℝ) / (1 : ℕ) * (2 : ℝ) ^ e) = X := by
    rw [isReal_fin.mp hx, Nat.cast_one, div_one, mul_assoc]
  rw [hval] at hround hexact
  have hle := intLo_le_intHi t
  have hdef : cvtF2I t rm (.fin neg m e) =
      if (roundIntRatio rm neg m 1 e).1 < intLo t ∨ (roundIntRatio rm neg m 1 e).1 > intHi t
      then (satInt t (roundIntRatio rm neg m 1 e).1, flNV)
      else ((roundIntRatio rm neg m 1 e).1, if (roundIntRatio rm neg m 1 e).2 then flNX else 0) := rfl
  rw [hdef]
  refine ⟨_, hround, fun h => ?_, fun h => ?_, fun h1 h2 => ⟨fun h => ?_, fun h => ?_⟩⟩
  · rw [if_pos (.inl h), satInt, min_eq_left (by omega), max_eq_left h.le]
  · rw [if_pos (.inr h), satInt, min_eq_right h.le, max_eq_right hle]
  · rw [if_neg (by omega), if_neg (fun hne => hexact.mp hne h.symm)]
  · rw [if_neg (by omega), if_pos (hexact.mpr (Ne.symm h))]

theorem isFloat_of_isInt {t : ElemTy} (h : t.isInt = true) : isFloat t = false := by revert h; cases t <;> decide

theorem laneCvt_float {t t2 : ElemTy} (ht : isFloat t = true) (ht2 : isFloat t2 = true) (rm : Rm) (a : Word) :
    laneCvt t t2 rm a = (wrElem t2 (roundFp (fmtOf t2) rm (fpVal t (rdElem t a))).1,
      (roundFp (fmtOf t2) rm (fpVal t (rdElem t a))).2) := by
  rw [laneCvt, if_pos ht, if_pos ht2]

theorem laneCvt_toInt {t t2 : ElemTy} (ht : isFloat t = true) (ht2 : t2.isInt = true) (rm : Rm) (a : Word) :
    laneCvt t t2 rm a = (intLane t2 (cvtF2I t2 rm (fpVal t (rdElem t a))).1, (cvtF2I t2 rm (fpVal t (rdElem t a))).2) := by
  rw [laneCvt, if_pos ht, if_neg (by simp [isFloat_of_isInt ht2]), ← wrElem_wrapNat]

theorem laneCvt_ofInt {t t2 : ElemTy} (ht : isFloat t = true) (ht2 : t2.isInt = true) (rm : Rm) (a : Word) :
    laneCvt t2 t rm a = (wrElem t (roundFp (fmtOf t) rm (intVal (intOf t2 (rdElem t2 a)))).1,
      (roundFp (fmtOf t) rm (intVal (intOf t2 (rdElem t2 a)))).2) := by
  rw [laneCvt, if_neg (by simp [isFloat_of_isInt ht2]), if_pos ht]

/-! ### The lanes of a floating-point type -/

theorem fmtOf_eq_e4m3_iff (t : ElemTy) : fmtOf t = fmtE4M3 ↔ t = .e4m3 := by cases t <;> decide

section
variable {t : ElemTy} (ht : isFloat t = true)
include ht

theorem width_fmtOf : (fmtOf t).width = ebits t := by revert ht; cases t <;> decide

theorem signPat_fmtOf (neg : Bool) : signPat (fmtOf t) neg = 0 + if neg then 2 ^ (ebits t - 1) else 0 := by
  rw [signPat, width_fmtOf ht, zero_add]

theorem infSigned_fmtOf (neg : Bool) : infSigned (fmtOf t) neg =
    if t = .e4m3 then 0x7F else (fmtOf t).emax * 2 ^ (fmtOf t).fbits + if neg then 2 ^ (ebits t - 1) else 0 := by
  rw [infSigned_eq, width_fmtOf ht]
  exact if_congr (fmtOf_eq_e4m3_iff t) rfl rfl

theorem laneMinMax_eq (max : Bool) (a b : Word) : laneMinMax max t a b =
    (wrElem t (minMaxNum (fmtOf t) max (rdElem t a) (rdElem t b)).1, (minMaxNum (fmtOf t) max (rdElem t a) (rdElem t b)).2) := by
  rw [laneMinMax, if_pos ht]

end

theorem laneFunc_eq (op : Func) (t : ElemTy) (rm : Rm) (a : Word) :
    laneFunc op t rm a = (wrElem t (funcOf op (fmtOf t) rm (fpVal t (rdElem t a))).1,
      (funcOf op (fmtOf t) rm (fpVal t (rdElem t a))).2) := by
  cases op <;> rfl

/-- Settles O11: each operation forms the exact value, which is rounded once. -/
theorem floatLanes : Obligations.FloatLanes := by
  intro t t2 rm a b c ht x y z sig canon pat minus sum product writes adds fused less picks fn rounds inf
  have hf := fmtOf_std t
  have harith (op : Arith) (v : FVal × Flags) (h : laneArith op t rm a b c = putFloat t rm v) :
      writes (laneArith op t rm a b c) v.1 v.2 :=
    h ▸ putFloat_writes t rm v
  have hadds (op : Arith) (w : FVal) (h : laneArith op t rm a b c = putFloat t rm (addF rm x w)) : adds op w :=
    ⟨_, _, addF_isSum rm x w, harith op _ h⟩
  have hfused (op : Arith) (neg : Bool) (w : FVal) (h : laneArith op t rm a b c = putFloat t rm (fmaF rm neg x y w)) :
      fused op neg w :=
    ⟨_, _, _, _, mulF_isProduct x y, addF_isSum rm _ w, harith op _ h⟩
  have hfn (op : Func) : fn op = (wrElem t (funcOf op (fmtOf t) rm x).1, (funcOf op (fmtOf t) rm x).2) := laneFunc_eq op t rm a
  have hrounds (op : Func) (X : ℝ) (h : Rounded (fmtOf t) rm X (funcOf op (fmtOf t) rm x)) : rounds (fn op) X :=
    ⟨_, by rw [hfn], by rw [hfn]; exact h⟩
  have hpicks (max : Bool) : picks max (laneMinMax max t a b) := by
    have hr := laneMinMax_eq ht max a b
    refine ⟨fun hx hy => ?_, fun hx hy => ?_, fun hx hy => ?_, fun hx hy => ?_⟩
    · rw [hr, minMaxNum_nan_left hx, if_pos (show (fpDecode _ (rdElem t b)).isNan = true from hy)]
      rfl
    · rw [hr, minMaxNum_nan_left hx, if_neg (by rw [show (fpDecode _ (rdElem t b)).isNan = false from hy]; decide)]
      rfl
    · rw [hr, minMaxNum_nan_right hx hy]
      rfl
    · obtain ⟨hless, hmore, hneither⟩ := minMaxNum_of_below max hx hy
      refine ⟨fun h => ?_, fun h => ?_, fun h h' => ?_⟩
      · rw [hr, hless h]
        cases max <;> rfl
      · rw [hr, hmore h]
        cases max <;> rfl
      · rw [hr, hneither h h']
  refine ⟨hadds .add y (if_pos ht), hadds .sub y.negate (if_pos ht), ⟨_, _, mulF_isProduct x y, harith .mul _ (if_pos ht)⟩,
    hfused .fma false z (if_pos ht), hfused .fms false z.negate (if_pos ht), hfused .fnma true z (if_pos ht), hpicks false,
    hpicks true, ?cvtFloat, ?cvtInt, ?functions, ?nan, ?posInf, ?negInf, ?zero⟩
  case cvtFloat =>
    intro ht2
    rw [laneCvt_float ht ht2]
    exact written_roundFp t2 rm x
  case cvtInt =>
    intro ht2 lane i num
    have hto := laneCvt_toInt ht ht2 rm a
    have hof := laneCvt_ofInt ht ht2 rm a
    have hnum : intOf t2 (rdElem t2 a) = num := intOf_rdElem t2 a
    refine ⟨fun s hs => ?_, fun s hs => ?_, fun X hX => ?_, fun h0 => ?_, fun h0 => ?_⟩
    · rw [hto, show fpVal t (rdElem t a) = .nan s from hs, cvtF2I, intLane_zero]
    · rw [hto, show fpVal t (rdElem t a) = .inf s from hs]
      rfl
    · obtain ⟨n, hround, hlow, hhigh, hin⟩ := cvtF2I_fin t2 rm hX
      refine ⟨n, hround, fun h => ?_, fun h => ?_, fun h1 h2 => ⟨fun h => ?_, fun h => ?_⟩⟩ <;> rw [hto]
      · rw [hlow h]; rfl
      · rw [hhigh h]; rfl
      · rw [(hin h1 h2).1 h]; rfl
      · rw [(hin h1 h2).2 h]; rfl
    · rw [hof, hnum, h0, roundFp_intVal_zero]
    · rw [hof, hnum]
      exact ⟨_, rfl, rounded_intVal hf rm h0⟩
  case functions =>
    intro A hA hA0
    obtain ⟨hrcp, hroots, hneg, hexp2, hlog2⟩ := funcOf_number hf hf rm hA hA0
    refine ⟨hrounds _ _ hrcp, fun hpos => ⟨hrounds _ _ (hroots hpos).1, hrounds _ _ (hroots hpos).2⟩, fun h => ?_,
      fun k => ⟨fun hk => hrounds _ _ (hexp2 k hk), fun hk => ⟨fun hk0 => ?_, fun hk0 => hrounds _ _ ?_⟩⟩⟩
    · have hinvalid (op : Func) (hop : op ∈ [Func.sqrt, .rsq, .log2]) : fn op = canon flNV := by
        rw [hfn, show funcOf op (fmtOf t) rm x = _ from hneg h op hop]
      exact ⟨hinvalid _ (by simp), hinvalid _ (by simp), hinvalid _ (by simp)⟩
    · rw [hfn, show funcOf .log2 (fmtOf t) rm x = _ from hlog2 k hk, hk0, roundFp_intVal_zero]
    · rw [show funcOf .log2 (fmtOf t) rm x = _ from hlog2 k hk]
      exact rounded_intVal hf rm hk0
  case nan =>
    intro s hs op
    rw [hfn, hs, funcOf_nan]
  case posInf =>
    intro hx
    simp only [hfn, hx, funcOf, rcpF, rsqF, sqrtF, exp2F, log2F, infSigned_fmtOf ht, signPat_fmtOf ht]
    exact ⟨rfl, rfl, rfl, rfl, rfl⟩
  case negInf =>
    intro hx
    simp only [hfn, hx, funcOf, rcpF, rsqF, sqrtF, exp2F, log2F, signPat_fmtOf ht]
    exact ⟨rfl, rfl, rfl, rfl, rfl⟩
  case zero =>
    intro hzero
    obtain ⟨neg, e, hx⟩ := exists_zero_of_isZero hzero
    have hone : Rounded (fmtOf t) rm 1 (exp2F (fmtOf t) rm x) := by
      have hreal : x.IsReal ((0 : ℤ) : ℝ) := by rw [hx, Int.cast_zero, isReal_zero_iff]
      rw [hx] at hreal ⊢
      simpa using exp2F_spec hf rm hreal
    refine ⟨?_, ?_, ?_, ?_, hrounds _ _ hone⟩
    all_goals
      rw [hfn, hx]
      simp only [funcOf, rcpF, rsqF, sqrtF, log2F, if_true, infSigned_fmtOf ht, signPat_fmtOf ht]
      rfl

end Sys2Proof.Machine
end

section
/-! SUPPORT. One lane of the integer types (07 R140, R145 to R149): the element as a vector of W bits, and each lane operation as
the operation on such vectors. -/

namespace Sys2Proof.Machine

/-- The element that a lane holds under a type: its low W bits (07 R140). -/
abbrev elemVec (t : ElemTy) (a : Word) : BitVec (ebits t) := a.setWidth (ebits t)

/-- The number that an element is, as its type is signed or not. -/
def vecNum (t : ElemTy) (X : BitVec (ebits t)) : ℤ := if isSigned t then X.toInt else X.toNat

/-- The lane that an element is written to, extended as its type is signed or not (07 R140). -/
def vecLane (t : ElemTy) (X : BitVec (ebits t)) : Word := if isSigned t then X.signExtend 32 else X.setWidth 32

/-! ### Reading and writing an element -/

theorem not_isFloat_of_isInt {t : ElemTy} (h : t.isInt = true) : ¬ isFloat t = true := Bool.eq_false_iff.mp (isFloat_of_isInt h)

theorem ebits_le (t : ElemTy) : ebits t ≤ 32 := by cases t <;> decide

theorem intOf_rdElem_eq_vecNum (t : ElemTy) (a : Word) : intOf t (rdElem t a) = vecNum t (elemVec t a) := intOf_rdElem t a

theorem rdElem_eq_toNat (t : ElemTy) (a : Word) : rdElem t a = (elemVec t a).toNat := by rw [rdElem, BitVec.toNat_setWidth]

theorem sext_toNat (t : ElemTy) (X : BitVec (ebits t)) : sext (ebits t) X.toNat = X.toInt := by
  rw [sext_eq_toInt _ _ (ebits_pos t), BitVec.ofNat_toNat, BitVec.setWidth_eq]

theorem wrElem_toNat (t : ElemTy) (X : BitVec (ebits t)) : wrElem t X.toNat = vecLane t X := by
  rw [wrElem, sext_toNat, Nat.mod_eq_of_lt X.isLt, BitVec.ofNat_toNat]
  rfl

theorem ofInt_sub {W : Nat} (x y : ℤ) : BitVec.ofInt W (x - y) = BitVec.ofInt W x - BitVec.ofInt W y := by
  rw [Int.sub_eq_add_neg, BitVec.ofInt_add, BitVec.ofInt_neg, BitVec.sub_eq_add_neg]

theorem putInt_eq (t : ElemTy) (n : ℤ) : putInt t n = (vecLane t (BitVec.ofInt (ebits t) n), 0) := by
  rw [putInt, wrElem_wrapNat]
  rfl

@[simp] theorem ofInt_vecNum (t : ElemTy) (X : BitVec (ebits t)) : BitVec.ofInt (ebits t) (vecNum t X) = X := by
  unfold vecNum
  split
  · exact BitVec.ofInt_toInt
  · rw [BitVec.ofInt_natCast, BitVec.ofNat_toNat, BitVec.setWidth_eq]

/-! ### The lane operations -/

/-- The arithmetic forms on vectors (07 R145). -/
def Arith.onVec {W : Nat} (op : Arith) (A B C : BitVec W) : BitVec W :=
  match op with
  | .add => A + B
  | .sub => A - B
  | .mul => A * B
  | .fma => A * B + C
  | .fms => A * B - C
  | .fnma => C - A * B

section
variable {t : ElemTy} (ht : t.isInt = true) (a b c : Word)
include ht

theorem laneArith_int (op : Arith) (rm : Rm) :
    laneArith op t rm a b c = (vecLane t (op.onVec (elemVec t a) (elemVec t b) (elemVec t c)), 0) := by
  rw [laneArith, if_neg (not_isFloat_of_isInt ht), putInt_eq]
  simp only [intOf_rdElem_eq_vecNum]
  cases op with
  | fnma => simp only [Arith.onVec, neg_add_eq_sub, ofInt_sub, BitVec.ofInt_mul, ofInt_vecNum]
  | _ => simp only [Arith.onVec, BitVec.ofInt_add, ofInt_sub, BitVec.ofInt_mul, ofInt_vecNum]

theorem laneMinMax_int (wantMax : Bool) : laneMinMax wantMax t a b =
    (vecLane t (if vecNum t (elemVec t a) ≤ vecNum t (elemVec t b) then (if wantMax then elemVec t b else elemVec t a)
      else (if wantMax then elemVec t a else elemVec t b)), 0) := by
  rw [laneMinMax, if_neg (not_isFloat_of_isInt ht), putInt_eq]
  simp only [intOf_rdElem_eq_vecNum]
  by_cases h : vecNum t (elemVec t a) ≤ vecNum t (elemVec t b)
  · rw [min_eq_left h, max_eq_right h, if_pos h]
    cases wantMax <;> simp
  · rw [min_eq_right (le_of_not_ge h), max_eq_left (le_of_not_ge h), if_neg h]
    cases wantMax <;> simp

theorem laneAbs_int : laneAbs t a = vecLane t (if vecNum t (elemVec t a) < 0 then -elemVec t a else elemVec t a) := by
  rw [laneAbs, if_neg (not_isFloat_of_isInt ht), putInt_eq, intOf_rdElem_eq_vecNum]
  split
  · next h => rw [Int.ofNat_natAbs_of_nonpos h.le, BitVec.ofInt_neg, ofInt_vecNum]
  · next h => rw [Int.natAbs_of_nonneg (not_lt.mp h), ofInt_vecNum]

theorem laneNeg_int : laneNeg t a = vecLane t (-elemVec t a) := by
  rw [laneNeg, if_neg (not_isFloat_of_isInt ht), putInt_eq, intOf_rdElem_eq_vecNum, BitVec.ofInt_neg, ofInt_vecNum]

end

section
variable (t : ElemTy) (a b : Word) (n : Nat)

theorem laneMulh_eq : laneMulh t a b =
    (vecLane t (BitVec.ofInt (ebits t) (vecNum t (elemVec t a) * vecNum t (elemVec t b) / (2 ^ ebits t : Nat))), 0) := by
  rw [laneMulh, putInt_eq, floorShr, intOf_rdElem_eq_vecNum, intOf_rdElem_eq_vecNum]

theorem wrElem_zero : wrElem t 0 = vecLane t 0 := by simpa using wrElem_toNat t 0

theorem laneShift_shl : laneShift .shl t a n = vecLane t (elemVec t a <<< n) := by
  unfold laneShift
  dsimp only
  split
  · next h => rw [wrElem_zero, BitVec.shiftLeft_eq_zero h]; rfl
  · rw [rdElem_eq_toNat, ← Nat.shiftLeft_eq, ← BitVec.toNat_shiftLeft, wrElem_toNat]

theorem laneShift_shr : laneShift .shr t a n = vecLane t (elemVec t a >>> n) := by
  unfold laneShift
  dsimp only
  split
  · next h => rw [wrElem_zero, BitVec.ushiftRight_eq_zero h]; rfl
  · rw [rdElem_eq_toNat, ← Nat.shiftRight_eq_div_pow, ← BitVec.toNat_ushiftRight, wrElem_toNat]

theorem laneShift_sra : laneShift .sra t a n = vecLane t ((elemVec t a).sshiftRight n) := by
  have hW : ebits t ≤ 64 := (ebits_le t).trans (by decide)
  unfold laneShift
  dsimp only
  rw [rdElem_eq_toNat, sext_toNat, floorShr, toInt_div_two_pow_min n hW, ← Int.shiftRight_eq_div_pow, wrapNat_eq_toNat, wrElem_toNat,
    ← BitVec.sshiftRight_eq]

end

/-- Settles O10: each lane operation of an integer type is the one on vectors of its width. -/
theorem integerLanes : Obligations.IntegerLanes := by
  unfold Obligations.IntegerLanes
  intro t rm a b c n ht W A B C num lane
  have harith (op : Arith) : laneArith op t rm a b c = (lane (op.onVec A B C), 0) := laneArith_int ht a b c op rm
  exact ⟨harith .add, harith .sub, harith .mul, harith .fma, harith .fms, harith .fnma, laneMulh_eq t a b,
    laneMinMax_int ht a b false, laneMinMax_int ht a b true, laneAbs_int ht a, laneNeg_int ht a, laneShift_shl t a n,
    laneShift_shr t a n, laneShift_sra t a n⟩

end Sys2Proof.Machine
end

section
/-! SUPPORT. The vector and predicate instructions (chapter 07; VCVT and VDQ of 08): what each answers where the register check
of the firmware context passes (05 R106). -/

namespace Sys2Proof.Machine

theorem State.fwBad_of_subset {s : State} {rs rs' : List VReg} (h : s.fwBad rs' = false) (hsub : rs ⊆ rs') :
    s.fwBad rs = false := by
  cases hfw : s.curFw with
  | false => exact s.fwBad_program rs hfw
  | true =>
    simp only [State.fwBad, hfw, Bool.true_and, List.any_eq_false] at h ⊢
    exact fun r hr => h r (hsub hr)

theorem State.ite_fwBad {s : State} {rs : List VReg} (h : s.fwBad rs = false) (t u : State) :
    (if s.fwBad rs then t else u) = u := if_neg (Bool.eq_false_iff.mp h)

/-! ### Governed forms (07 R141) -/

/-- An instruction that is one governed form behind the register check answers that form. -/
theorem lanesTo_of_exec {i : Instr} {s : State} {rs : List VReg} {lat : Nat} {d : VReg} {m : Pred} {g : Fin 16 → LaneRes}
    (h : s.fwBad rs = false) (hi : exec i s = .next (if s.fwBad rs then s.illegalField else s.vlanes lat d m g)) :
    ∃ t', exec i s = .next t' ∧ LanesTo s t' lat d m g :=
  ⟨_, by rw [hi, State.ite_fwBad h], s.vlanes_spec lat d m g⟩

/-- Settles O9: each instruction is the three-register form of its lane operation. -/
theorem vectorThreeRegister : Obligations.VectorThreeRegister := by
  unfold Obligations.VectorThreeRegister
  intro s d a b t p h x y z lanes lat
  have hlanes {i : Instr} {lat : Nat} {useD : Bool} {f : Word → Word → Word → Word × Flags}
      (hi : exec i s = .next (s.vec3 lat d a b p useD f)) : lanes i lat useD f :=
    ⟨_, hi, s.vec3_spec lat d a b p useD f h⟩
  clear_value lanes -- opaque from here on, so that `hlanes` is matched argument by argument
  exact ⟨hlanes rfl, hlanes rfl, hlanes rfl, hlanes rfl, hlanes rfl, hlanes rfl, hlanes rfl, hlanes rfl, hlanes rfl, hlanes rfl,
    hlanes rfl, hlanes rfl, hlanes rfl, hlanes rfl, hlanes rfl⟩

/-! ### VDQ (08 R167) -/

section
variable {s : State} {d a : VReg} {rm : Rm} {qt : QTy} {t ty : ElemTy} {p : PReg}
  (hty : narrowOf s.me.fmtcfg true qt = some ty) (h : s.fwBad [d, a] = false)
include hty h

theorem exec_vdq_of_badScale (hq : posFinite (fpVal .f32 s.ctx.qscale.toNat) = none) : exec (.vdq d a rm qt t p) s =
    .next ((s.vec2 3 d a p (fun _ => (wrElem t (canonNan (fmtOf t)), 0))).pushFlags 3 flNV) := by
  show execVdq d a rm qt t p s = _
  simp only [execVdq, hty, State.ite_fwBad h, hq]

theorem exec_vdq_of_scale {q : Nat × Int} (hq : posFinite (fpVal .f32 s.ctx.qscale.toNat) = some q) :
    exec (.vdq d a rm qt t p) s = .next (s.vec2 3 d a p
      (fun u => putFloat t rm (mulF (codeVal ty (rdElem ty u)) (fpVal .f32 s.ctx.qscale.toNat)))) := by
  show execVdq d a rm qt t p s = _
  simp only [execVdq, hty, State.ite_fwBad h, hq]

end

/-- Settles O13: each instruction is the two-register form of its lane operation, VDQ by its scale. -/
theorem vectorTwoRegister : Obligations.VectorTwoRegister := by
  unfold Obligations.VectorTwoRegister
  intro s d a rm t2 t qt p h x lanes
  have hlanes {i : Instr} {lat : Nat} {f : Word → Word × Flags} (hi : exec i s = .next (s.vec2 lat d a p f)) : lanes i lat f :=
    ⟨_, hi, s.vec2_spec lat d a p f h⟩
  clear_value lanes -- opaque from here on, so that `hlanes` is matched argument by argument
  refine ⟨hlanes rfl, hlanes rfl, hlanes rfl, hlanes rfl, hlanes rfl, hlanes rfl, hlanes rfl, hlanes rfl, hlanes rfl, hlanes rfl,
    fun ty hty => ?vdq⟩
  case vdq =>
    cases hq : posFinite (fpVal .f32 s.ctx.qscale.toNat) with
    | none => exact ⟨_, exec_vdq_of_badScale hty h hq, s.vec2_spec 3 d a p _ h⟩
    | some q => exact hlanes (exec_vdq_of_scale hty h hq)

/-! ### Moves of lanes (07 R151 to R154) -/

theorem predOf_single (l : Fin 16) : predOf (fun i => i == l) = 1 <<< l.val := by
  apply BitVec.eq_of_getLsbD_eq
  intro i hi
  have hbit : (predOf fun i => i == l).getLsbD i = ((⟨i, hi⟩ : Fin 16) == l) := predOf_spec _ ⟨i, hi⟩
  rw [hbit, BitVec.natCast_eq_ofNat, BitVec.getLsbD_ofNat, decide_eq_true hi, Bool.true_and, Nat.one_shiftLeft,
    Nat.testBit_two_pow, beq_eq_decide, decide_eq_decide, Fin.ext_iff, eq_comm]

theorem extractVal_eq (t : ElemTy) (x : Word) : extractVal t x =
    if isSigned t then (elemVec t x).signExtend 64 else (elemVec t x).setWidth 64 := by
  rw [extractVal, rdElem_eq_toNat, sext_eq_toInt _ _ (ebits_pos t), BitVec.ofNat_toNat, BitVec.ofNat_toNat]
  rfl

theorem State.vperm_spec (s : State) (d a b : VReg) (p : PReg) (g : Fin 16 → Bool × Fin 16) (h : s.fwBad [d, a, b] = false) :
    LanesTo s (s.vperm d a b p g) 2 d (s.ctx.rdP p) (fun i =>
      let q := if (g i).1 then (s.ctx.rdV b)[(g i).2] else (s.ctx.rdV a)[(g i).2]
      (q.val, 0, q.poison)) := by
  rw [State.vperm, State.ite_fwBad h]
  exact s.vlanes_spec _ _ _ _

/-- Settles O14: each move of lanes is one governed form; VCMP's predicate and flags bit by bit, VINS's mask, VEXT's value. -/
theorem vectorMoves : Obligations.VectorMoves := by
  unfold Obligations.VectorMoves
  intro s d a b r e pd cc t l pat p h x y v m lanes
  have hd : s.fwBad [d] = false := State.fwBad_of_subset h (by simp)
  have ha : s.fwBad [a] = false := State.fwBad_of_subset h (by simp)
  have hab : s.fwBad [a, b] = false := State.fwBad_of_subset h (by simp)
  have hda : s.fwBad [d, a, a] = false := State.fwBad_of_subset h (by simp)
  refine ⟨?vcmp, ?vsel, ?vbcst, ?vins, ?vext, ?vperm, ?vshuf, ?vrot⟩
  case vcmp =>
    refine ⟨_, _, congrArg Host.Outcome.next (State.ite_fwBad hab _ _), fun i => predOf_spec _ i, fun k => ?_⟩
    simpa [getLsb_zero] using foldl_or_bit (List.finRange 16) (fun _ => true) (fun i => (laneCmp cc t x[i].val y[i].val).2) 0 k
  case vsel => exact lanesTo_of_exec h rfl
  case vbcst => exact lanesTo_of_exec hd rfl
  case vins =>
    rw [← predOf_single]
    exact lanesTo_of_exec hd rfl
  case vext =>
    rw [← extractVal_eq]
    exact congrArg Host.Outcome.next (State.ite_fwBad ha _ _)
  case vperm => exact lanesTo_of_exec h rfl
  case vshuf => exact ⟨_, rfl, s.vperm_spec d a b p (shufLane pat) h⟩
  case vrot => exact ⟨_, rfl, s.vperm_spec d a a p (fun i => (false, Fin.ofNat 16 (i.val + l.val))) hda⟩

/-! ### Reductions and predicates (07 R155, R156) -/

theorem popBits_eq_finRange (n u : Nat) : popBits n u = ((List.finRange n).filter (fun i => u.testBit i.val)).length := by
  rw [popBits_eq, ← List.map_coe_finRange_eq_range, List.filter_map, List.length_map]
  rfl

/-- Settles O15: each reduction is one governed form over all lanes, and PCNT counts the ones of the predicate. -/
theorem reductionsAndPredicates : Obligations.ReductionsAndPredicates := by
  unfold Obligations.ReductionsAndPredicates
  refine ⟨fun s d a t p h => ?reductions, fun s pd pa pb d i => ?predicates⟩
  case reductions =>
    exact ⟨lanesTo_of_exec h rfl, lanesTo_of_exec h rfl, lanesTo_of_exec h rfl, lanesTo_of_exec h rfl⟩
  case predicates =>
    exact ⟨rfl, rfl, rfl, rfl, rfl,
      congrArg (fun n => Host.Outcome.next (s.pushS 1 d (BitVec.ofNat 64 n) false)) (popBits_eq_finRange 16 _)⟩

end Sys2Proof.Machine
end

section
/-! SUPPORT. Quantising, complex and twiddle instructions (chapter 08): what each answers where the register check of the firmware
context passes (05 R106). A group of registers is written by one governed form after another. -/

namespace Sys2Proof.Machine

/-! ### VQNT by its cases (08 R164, R166) -/

/-- The number of active lanes that a property picks. -/
def activeCount (m : Pred) (f : Fin 16 → Bool) : Nat := ((List.finRange 16).filter (fun i => m.getLsb i && f i)).length

/-- The lanes of a register as values of a type. -/
def State.laneVals (s : State) (a : VReg) (t : ElemTy) : Fin 16 → FVal := fun i => fpVal t (rdElem t (s.ctx.rdV a)[i].val)

/-- A lane quantised under a scale (08 R164). -/
def State.quantOf (s : State) (a : VReg) (rm : Rm) (t2 t : ElemTy) (sc : Nat × Int) (i : Fin 16) : Nat × Flags × Bool × Bool :=
  quantLane t rm sc.1 sc.2 (s.laneVals a t2 i)

/-- The clips that a scale makes among the active lanes. -/
def State.clipCount (s : State) (a : VReg) (rm : Rm) (t2 t : ElemTy) (p : PReg) (sc : Nat × Int) : Nat :=
  activeCount (s.ctx.rdP p) (fun i => (s.quantOf a rm t2 t sc i).2.2.1)

/-- The lanes that a scale makes zero among the active lanes. -/
def State.zeroCount (s : State) (a : VReg) (rm : Rm) (t2 t : ElemTy) (p : PReg) (sc : Nat × Int) : Nat :=
  activeCount (s.ctx.rdP p) (fun i => (s.quantOf a rm t2 t sc i).2.2.2)

/-- Clips or zeros exceed QLIMIT where QREFIT is set for the type. -/
def State.refits (s : State) (a : VReg) (rm : Rm) (t2 t : ElemTy) (p : PReg) (sc : Nat × Int) : Prop :=
  s.ctx.qrefit = true ∧ t ≠ .z8 ∧
    (s.clipCount a rm t2 t p sc > s.ctx.qlimit.toNat ∨ s.zeroCount a rm t2 t p sc > s.ctx.qlimit.toNat)

/-- The scale fitted to the largest active magnitude, with the fit's flags (08 R165). -/
def State.fitOf (s : State) (a : VReg) (t2 t : ElemTy) (p : PReg) : Nat × Flags :=
  fitScale t (largestMag (s.ctx.rdP p) (s.laneVals a t2))

/-- The group sequence takes its next number (08 R164). -/
def State.nextGroup (s : State) : State := s.updCtx (fun c => { c with qseq := c.qseq + 1 })

/-- VQNT's codes of the active lanes, under way from the state that follows the group sequence. -/
def State.writeCodes (s : State) (d a : VReg) (t : ElemTy) (p : PReg) (q : Fin 16 → Nat × Flags × Bool × Bool) : State :=
  s.nextGroup.vlanes 3 d (s.ctx.rdP p) (fun i => (wrElem t (q i).1, (q i).2.1, (s.ctx.rdV a)[i].poison))

theorem flags_or_zero (f : Flags) : f ||| 0 = f := BitVec.or_zero

section
variable {s : State} {d a : VReg} {rm : Rm} {t2 t : ElemTy} {p : PReg}

theorem vqnt_of_badScale (hq : posFinite (fpVal .f32 s.ctx.qscale.toNat) = none) : s.vqnt d a rm t2 t p =
    (s.nextGroup.vlanes 3 d (s.ctx.rdP p) (fun i => (0, 0, (s.ctx.rdV a)[i].poison))).pushFlags 3 flNV := by
  simp only [State.vqnt, hq]
  rfl

section
variable {sc : Nat × Int} (hq : posFinite (fpVal .f32 s.ctx.qscale.toNat) = some sc)
include hq

theorem vqnt_of_kept (hr : ¬ s.refits a rm t2 t p sc) : s.vqnt d a rm t2 t p =
    ((s.writeCodes d a t p (s.quantOf a rm t2 t sc)).pushFlags 3 (if s.clipCount a rm t2 t p sc > 0 then flQSAT else 0)).push 3
      (.quant (s.clipCount a rm t2 t p sc) (s.zeroCount a rm t2 t p sc) none s.ctx.qseq) := by
  simp only [State.vqnt, hq, flags_or_zero]
  exact if_neg hr

theorem vqnt_of_refits (hr : s.refits a rm t2 t p sc) {sc' : Nat × Int}
    (hfit : posFinite (fpVal .f32 (s.fitOf a t2 t p).1) = some sc') : s.vqnt d a rm t2 t p =
    ((s.writeCodes d a t p (s.quantOf a rm t2 t sc')).pushFlags 3 ((s.fitOf a t2 t p).2 ||| flQREF)).push 3
      (.quant (s.clipCount a rm t2 t p sc) (s.zeroCount a rm t2 t p sc) (some (BitVec.ofNat 32 (s.fitOf a t2 t p).1)) s.ctx.qseq) := by
  unfold State.fitOf State.laneVals at hfit
  simp only [State.vqnt, hq, hfit, flags_or_zero]
  exact if_pos hr

end

theorem exec_vqnt {qt : QTy} (h : s.fwBad [d, a] = false) (ht : narrowOf s.me.fmtcfg true qt = some t) (hrm : t = .z8 → rm = .rne) :
    exec (.vqnt d a rm t2 qt p) s = .next (s.vqnt d a rm t2 t p) := by
  have hok : ¬ (s.fwBad [d, a] = true ∨ (t = .z8 ∧ rm ≠ .rne)) := by
    rintro (hbad | ⟨hz, hne⟩)
    · exact Bool.false_ne_true (h.symm.trans hbad)
    · exact hne (hrm hz)
  show execVqnt d a rm t2 qt p s = _
  simp only [execVqnt, ht, if_neg hok]

end

/-- Settles O17: the fitted scale is positive and finite, so VQNT takes its second pass. -/
theorem quantiseRefits : Obligations.QuantiseRefits := by
  unfold Obligations.QuantiseRefits
  intro s d a rm t2 ty qt p ms es mf ef h hty hz hrefit hq x m xs q1 nc nz fit hlimit hfit
  have hr : s.refits a rm t2 ty p (ms, es) := ⟨hrefit, hz, hlimit⟩
  refine ⟨s.writeCodes d a ty p (s.quantOf a rm t2 ty (mf, ef)), ?_, State.vlanes_spec _ _ _ _ _⟩
  rw [exec_vqnt h hty (absurd · hz), vqnt_of_refits hq hr hfit]
  rfl

/-! ### VQFIT (08 R165) -/

theorem exec_vqfit {s : State} {d a : VReg} {t2 t : ElemTy} {qt : QTy} {p : PReg} (ht : narrowOf s.me.fmtcfg false qt = some t) :
    exec (.vqfit d a t2 qt p) s = .next (if s.fwBad [d, a] then s.illegalField else s.vlanes 4 d 0xFFFF (fun _ =>
      (BitVec.ofNat 32 (s.fitOf a t2 t p).1, (s.fitOf a t2 t p).2 ||| nanFlags (s.ctx.rdP p) (s.laneVals a t2),
        (List.finRange 16).any (fun i => (s.ctx.rdP p).getLsb i && (s.ctx.rdV a)[i].poison)))) := by
  show execVqfit d a t2 qt p s = _
  simp only [execVqfit, ht]
  rfl

/-! ### VUPSX (08 R162) -/

/-- Lane `i` of the block that a register holds, rounded to a type. -/
def unpackLane (x : VVal) (rm : Rm) (t2 t : ElemTy) (i : Fin 16) : Nat × Flags :=
  roundFp (fmtOf t) rm (sxDecode (blockOf (sxF t2) x) (sxF t2) i.val)

/-- VUPSX through its rounded lanes, which stay a variable: the kernel would run `roundFp` to see the pair that it answers. -/
theorem exec_vupsx {s : State} {d a : VReg} {rm : Rm} {t2 t : ElemTy} {p : PReg} (r : Fin 16 → Nat × Flags)
    (hr : unpackLane (s.ctx.rdV a) rm t2 t = r) :
    exec (.vupsx d a rm t2 t p) s = .next (if s.fwBad [d, a] then s.illegalField else s.vlanes 3 d (s.ctx.rdP p) (fun i =>
      (wrElem t (r i).1, (r i).2 ||| (if sxBad (blockOf (sxF t2) (s.ctx.rdV a)) then flSXE else 0),
        blockPoison (sxF t2) (s.ctx.rdV a)))) := by
  show execVupsx d a rm t2 t p s = _
  unfold execVupsx
  extract_lets x F blk bad
  refine congrArg (fun g => Host.Outcome.next (if s.fwBad [d, a] then s.illegalField else s.vlanes 3 d (s.ctx.rdP p) g))
    (funext fun i => ?_)
  rw [show roundFp (fmtOf t) rm (sxDecode blk F i.val) = r i from congrFun hr i]

/-- Settles O16: each instruction is one governed form, VQCH three of them; VQNT by its scale. -/
theorem packingAndQuantising : Obligations.PackingAndQuantising := by
  unfold Obligations.PackingAndQuantising
  intro s d a rm t2 t qt p c x m bad
  refine ⟨fun h => ⟨?vpksx, ?vupsx, fun ty hty => ?vqfit, fun ty hty hrm => ?vqnt⟩, fun h => ?vqch⟩
  case vpksx => exact lanesTo_of_exec h rfl
  case vupsx => exact lanesTo_of_exec h (exec_vupsx (unpackLane x rm t2 t) rfl)
  case vqfit => exact lanesTo_of_exec h (exec_vqfit hty)
  case vqnt =>
    intro xs s1 count
    have hexec := exec_vqnt (t2 := t2) (p := p) h hty hrm
    cases hq : posFinite (fpVal .f32 c.qscale.toNat) with
    | none => exact ⟨_, hexec.trans (congrArg _ (vqnt_of_badScale hq)), State.vlanes_spec _ _ _ _ _⟩
    | some sc =>
      intro hkept
      exact ⟨_, hexec.trans (congrArg _ (vqnt_of_kept hq hkept)), State.vlanes_spec _ _ _ _ _⟩
  case vqch =>
    exact ⟨_, _, _, congrArg Host.Outcome.next (State.ite_fwBad h _ _), State.vlanes_spec _ _ _ _ _, State.vlanes_spec _ _ _ _ _,
      State.vlanes_spec _ _ _ _ _⟩

/-! ### Complex vectors and butterflies (08 R169 to R173) -/

/-- An instruction that is two governed forms behind the register check answers the second on top of the first. -/
theorem lanesTo_pair_of_exec {i : Instr} {s : State} {rs : List VReg} {lat : Nat} {d d' : VReg} {m : Pred} {g g' : Fin 16 → LaneRes}
    (h : s.fwBad rs = false)
    (hi : exec i s = .next (if s.fwBad rs then s.illegalField else (s.vlanes lat d m g).vlanes lat d' m g')) :
    ∃ t1 t2, exec i s = .next t2 ∧ LanesTo s t1 lat d m g ∧ LanesTo t1 t2 lat d' m g' :=
  ⟨_, _, by rw [hi, State.ite_fwBad h], State.vlanes_spec _ _ _ _ _, State.vlanes_spec _ _ _ _ _⟩

section
variable (s : State) (t : ElemTy) (d : VReg) (m : Pred) (r : Fin 16 → List (Nat × Flags) × Flags × Bool)

theorem State.writeParts_zero : s.writeParts t d m 0 r = s := rfl

/-- Part `k` is one governed form on top of the parts before it. -/
theorem State.writeParts_succ (k : Nat) : LanesTo (s.writeParts t d m k r) (s.writeParts t d m (k + 1) r) 4 (grp d k) m (fun i =>
    (wrElem t ((r i).1.getD k (0, 0)).1, ((r i).1.getD k (0, 0)).2 ||| (r i).2.1, (r i).2.2)) := by
  simp only [State.writeParts, List.range_succ, List.foldl_append, List.foldl_cons, List.foldl_nil]
  exact State.vlanes_spec _ _ _ _ _

end

/-- A butterfly of `n` parts behind the register check answers the states that its parts lead through. -/
theorem writeParts_of_exec {i : Instr} {s : State} {rs : List VReg} {t : ElemTy} {d : VReg} {m : Pred} {n : Nat}
    {r : Fin 16 → List (Nat × Flags) × Flags × Bool} (h : s.fwBad rs = false)
    (hi : exec i s = .next (if s.fwBad rs then s.illegalField else s.writeParts t d m n r)) :
    ∃ u : Nat → State, u 0 = s ∧ exec i s = .next (u n) ∧ ∀ k < n, LanesTo (u k) (u (k + 1)) 4 (grp d k) m (fun i =>
      (wrElem t ((r i).1.getD k (0, 0)).1, ((r i).1.getD k (0, 0)).2 ||| (r i).2.1, (r i).2.2)) :=
  ⟨fun k => s.writeParts t d m k r, s.writeParts_zero t d m r, by rw [hi, State.ite_fwBad h],
    fun k _ => s.writeParts_succ t d m r k⟩

/-- The twiddle of a lane by the fields of the parameter register (08 R173). -/
def twiddleLane (t : ElemTy) (x : DWord) (l : Fin 64) (i : Fin 16) : (Nat × Flags) × (Nat × Flags) :=
  twiddle (fmtOf t) ((fld x.toNat 40 24 + fld x.toNat 8 24 * (i.val / 2 ^ fld x.toNat 0 4)) % 2 ^ l.val) (2 ^ l.val)

/-- The highest field of a double word needs no mask. -/
theorem fld_top (x : DWord) : fld x.toNat 40 24 = x.toNat / 2 ^ 40 := Nat.mod_eq_of_lt (Nat.div_lt_of_lt_mul x.isLt)

theorem fld_low4 (x : Nat) : fld x 0 4 = x % 16 := by rw [fld, pow_zero, Nat.div_one, show 2 ^ 4 = 16 from rfl]

theorem twiddleLane_eq (t : ElemTy) (x : DWord) (l : Fin 64) (i : Fin 16) : twiddleLane t x l i =
    twiddle (fmtOf t) ((x.toNat / 2 ^ 40 + x.toNat / 2 ^ 8 % 2 ^ 24 * (i.val / 2 ^ (x.toNat % 16))) % 2 ^ l.val) (2 ^ l.val) := by
  rw [twiddleLane, fld_top, fld_low4, fld]

/-- Settles O18: each instruction is one governed form for each register of its group. -/
theorem complexArithmetic : Obligations.ComplexArithmetic := by
  unfold Obligations.ComplexArithmetic
  intro s d a b r l t p c m
  refine ⟨fun h => ⟨?vcmul, ?vconj, ?vtwid⟩, fun h => ?vbf2, fun h => ?vbf4⟩
  case vcmul => exact lanesTo_pair_of_exec h rfl
  case vconj =>
    have hda : s.fwBad [grp d 1, grp a 1] = false := State.fwBad_of_subset h (by simp)
    exact lanesTo_pair_of_exec hda rfl
  case vtwid =>
    have hd : s.fwBad [grp d 1] = false := State.fwBad_of_subset h (by simp)
    simp only [← twiddleLane_eq]
    exact lanesTo_pair_of_exec hd rfl
  case vbf2 => exact writeParts_of_exec h rfl
  case vbf4 => exact writeParts_of_exec h rfl

end Sys2Proof.Machine
end

section
/-! SUPPORT. EXTQ and MAPREQ (11 R209, R216, R217): the fields of EXTQ's value, what a table answers to a request, and what a
request leaves that is recorded. -/

namespace Sys2Proof.Machine

/-! ### The search of a table (11 R209) -/

/-- A hit is an entry of the table, with its number. -/
theorem getElem?_of_mem_hitsOf {t : List Extent} {va n i : Nat} {e : Extent} (h : (i, e) ∈ hitsOf t va n) : t[i]? = some e := by
  simp only [hitsOf, List.mem_map, List.mem_filter, Prod.mk.injEq] at h
  obtain ⟨⟨f, j⟩, ⟨hmem, -⟩, rfl, rfl⟩ := h
  exact List.mem_zipIdx_iff_getElem?.mp hmem

theorem getElem?_of_findExtent {t : List Extent} {va n i : Nat} {e : Extent} (h : findExtent t va n = some (i, e)) :
    t[i]? = some e := by
  unfold findExtent at h
  split_ifs at h
  split at h
  · next x hx =>
    rw [Option.some.injEq] at h
    exact getElem?_of_mem_hitsOf (by rw [hx, h]; exact List.mem_singleton_self _)
  · cases h

/-! ### EXTQ (11 R216, Table 11.5) -/

/-- The fields of Table 11.5 for an entry that alone covers the byte. -/
def extqFields (i : Nat) (e : Extent) : List (Nat × Nat) :=
  [(e.epoch.toNat, 32), (1, 16), (e.fail.toNat, 15), (e.pend.toNat, 14), (i, 8), (resCode e.res, 6), (kindCode e.kind, 4),
    (e.w.toNat, 3), (e.r.toNat, 2)]

theorem resCode_lt (r : Res) : resCode r < 4 := by cases r <;> decide
theorem kindCode_lt (k : EKind) : kindCode k < 4 := by cases k <;> decide

theorem fits_extqFields {i : Nat} (hi : i < 16) (e : Extent) : Fits 64 (extqFields i e) := by
  have hi' : i < 64 := by omega
  simp [extqFields, Fits, resCode_lt, kindCode_lt, hi']

/-- What EXTQ reports of the entries that cover a byte. -/
def extqOf : List (Nat × Extent) → DWord
  | [] => 0
  | [(i, e)] => BitVec.ofNat 64 (pack (extqFields i e))
  | _ => 2

theorem extqWord_eq (t : List Extent) (va : Nat) : extqWord t va = extqOf (if va < 2 ^ 48 then hitsOf t va 1 else []) := by
  unfold extqWord
  by_cases h : va < 2 ^ 48
  · rw [if_neg (Nat.not_le.mpr h), if_pos h]
    rcases hitsOf t va 1 with _ | ⟨⟨i, e⟩, _ | ⟨x, l⟩⟩
    · rfl
    · simp [extqOf, extqFields, pack, bit, bit_eq_toNat, Nat.add_assoc]
    · rfl
  · rw [if_pos (Nat.not_lt.mp h), if_neg h]
    rfl

theorem extqOf_of_many {l : List (Nat × Extent)} (h : 1 < l.length) : extqOf l = 2 := by
  obtain _ | ⟨x, _ | ⟨y, r⟩⟩ := l
  · simp at h
  · simp at h
  · rfl

section
variable {i : Nat} (hi : i < 16) (e : Extent)
include hi

theorem fld_extqOf (lo n : Nat) : fld (extqOf [(i, e)]).toNat lo n = fieldAt (extqFields i e) lo (2 ^ n) := by
  have hfit := fits_extqFields hi e
  rw [extqOf, BitVec.toNat_ofNat, Nat.mod_eq_of_lt (pack_lt_of_fits hfit)]
  exact field_pack hfit

theorem extractLsb'_extqOf (lo n : Nat) :
    (extqOf [(i, e)]).extractLsb' lo n = BitVec.ofNat n (fieldAt (extqFields i e) lo (2 ^ n)) := by
  rw [← ofNat_fld, fld_extqOf hi e]

theorem getLsbD_extqOf (lo : Nat) : (extqOf [(i, e)]).getLsbD lo = (fieldAt (extqFields i e) lo 2 == 1) := by
  rw [← bitAt_toNat, ← pow_one 2, ← fld_extqOf hi e]
  rfl

end

theorem execExtq_marked {s : State} {a : SReg} (d : SReg) (h : (s.ctx.rdS a).poison = true) :
    execExtq d a s = .next s.poisonUse := by
  simp [execExtq, h]

theorem execExtq_unmarked {s : State} {a : SReg} (d : SReg) (h : (s.ctx.rdS a).poison = false) :
    execExtq d a s = .next (s.pushS 1 d (extqWord s.me.table (s.ctx.rdS a).val.toNat) false) := by
  simp [execExtq, h]

/-! ### What a result to come leaves of the other state -/

theorem Cluster.table_setCtx (c : Cluster) (fw : Bool) (x : Ctx) : (c.setCtx fw x).table = c.table := by
  simp [Cluster.table, Cluster.cur]

theorem State.me_pushS (s : State) (n : Nat) (r : SReg) (v : DWord) (p : Bool) :
    (s.pushS n r v p).me = s.me.setCtx s.curFw (s.pushS n r v p).ctx := by
  unfold State.pushS
  split
  · exact (Cluster.setCtx_ctx ..).symm
  · rw [State.push, State.me_updCtx, State.ctx_updCtx]

theorem State.cluster_pushS_of_ne (s : State) (n : Nat) (r : SReg) (v : DWord) (p : Bool) {j : Nat} (h : j ≠ s.cur) :
    (s.pushS n r v p).cluster j = s.cluster j := by
  unfold State.pushS
  split
  · rfl
  · exact s.cluster_setCluster_of_ne _ h

theorem State.ctx_updMe (s : State) (f : Cluster → Cluster) : (s.updMe f).ctx = (f s.me).ctx s.curFw :=
  congrArg (Cluster.ctx · s.curFw) (s.me_updMe f)

/-! ### What a table answers to a request (11 R217) -/

/-- The entry that R209 finds for a range whose length MAPREQ takes. -/
def mapreqEntry (c : Cluster) (va len : Nat) : Option (Nat × Extent) :=
  if len = 0 ∨ 2 ^ 40 < len then none else findExtent c.table va len

theorem getElem?_of_mapreqEntry {c : Cluster} {va len i : Nat} {e : Extent} (h : mapreqEntry c va len = some (i, e)) :
    c.table[i]? = some e := by
  unfold mapreqEntry at h
  split_ifs at h
  exact getElem?_of_findExtent h

section
variable {c : Cluster} {va len i : Nat} {e : Extent}

theorem mapreqResult_of_none (h : mapreqEntry c va len = none) : mapreqResult c va len = (2, false, none) := by
  unfold mapreqEntry at h
  simp only [mapreqResult, gt_iff_lt, h]

/-- Only an entry of a kind that can be elsewhere is brought in (11 R212). -/
theorem mapreqResult_of_kind (h : mapreqEntry c va len = some (i, e)) (hk : e.kind = .none ∨ e.kind = .noise) :
    mapreqResult c va len = (2, false, none) := by
  unfold mapreqEntry at h
  simp only [mapreqResult, gt_iff_lt, h]
  rcases hk with hk | hk <;> simp [hk]

variable (h : mapreqEntry c va len = some (i, e)) (hk : e.kind = .local ∨ e.kind = .remote)
include h hk

theorem mapreqResult_eq : mapreqResult c va len =
    if e.pend then (4, false, none) else if e.res = .resident then (1, true, none)
    else if 8 ≤ c.mapreqs.length then (3, false, none) else (0, false, some i) := by
  unfold mapreqEntry at h
  simp only [mapreqResult, gt_iff_lt, h]
  rcases hk with hk | hk <;> simp [hk]

end

/-! ### MAPREQ at issue (11 R217; 16 R307, R314) -/

/-- The semaphore that MAPREQ names; none with field c zero. -/
def mapreqSem (c : SReg) (z : DWord) : Option (Fin 256) := if c = 0 then none else some (Fin.ofNat 256 z.toNat)

/-- A semaphore named that the context in focus may not name (16 R307; log 62). -/
def State.semRefused (s : State) (sem : Option (Fin 256)) : Bool := sem.any (fun n => s.semNameBad n || s.semLocalBad n)

theorem State.semRefused_some (s : State) (n : Fin 256) : s.semRefused (some n) = false ↔
    (s.curFw = true ∨ n.val < 240) ∧ ¬ (s.curFw = true ∧ s.me.semLocal.getLsbD n.val = true) := by
  have hlocal : s.semLocalBad n = (s.curFw && s.me.semLocal.getLsbD n.val) := rfl
  cases hfw : s.curFw <;> simp [State.semRefused, State.semNameBad, hlocal, hfw]

theorem State.semRefused_mapreqSem (s : State) (c : SReg) (z : DWord) : s.semRefused (mapreqSem c z) = false ↔
    c = 0 ∨ ((s.curFw = true ∨ (Fin.ofNat 256 z.toNat).val < 240) ∧
      ¬ (s.curFw = true ∧ s.me.semLocal.getLsbD (Fin.ofNat 256 z.toNat).val = true)) := by
  unfold mapreqSem
  split_ifs with h
  · simp [h, State.semRefused]
  · simp only [h, false_or, State.semRefused_some]

/-- A cluster with one more request outstanding, of entry `i` of its current phase. -/
def Cluster.recordRequest (m : Cluster) (i : Nat) (sem : Option (Fin 256)) : Cluster :=
  { m with
    phases := m.phases.modify m.phase (fun p => p.updExt i (fun e => { e with pend := true, fail := false }))
    mapreqs := m.mapreqs ++ [⟨m.phase, i, sem⟩] }

theorem Cluster.ctx_recordRequest (m : Cluster) (i : Nat) (sem : Option (Fin 256)) (fw : Bool) :
    (m.recordRequest i sem).ctx fw = m.ctx fw := rfl

theorem Cluster.cur_recordRequest (m : Cluster) (i : Nat) (sem : Option (Fin 256)) : (m.recordRequest i sem).cur =
    m.cur.map (fun p => p.updExt i (fun e => { e with pend := true, fail := false })) := by
  unfold Cluster.cur
  split_ifs with h1 h2 h2
  · rfl
  · exact absurd h1 h2
  · exact absurd h2 h1
  · exact List.getElem?_modify_eq ..

theorem Cluster.table_recordRequest (m : Cluster) (i : Nat) (sem : Option (Fin 256)) :
    (m.recordRequest i sem).table = m.table.modify i (fun e => { e with pend := true, fail := false }) := by
  have hbad : (m.recordRequest i sem).bad = m.bad := rfl
  rw [Cluster.table, Cluster.table, Cluster.cur_recordRequest, hbad]
  cases m.cur with
  | none => simp
  | some p =>
    simp only [Option.map_some]
    split_ifs
    · simp
    · rfl

/-- The state with the answer `r` to a request on its way to register `d`: its semaphore signalled, or its entry's request
recorded, as the answer says. -/
def State.answered (s : State) (d : SReg) (sem : Option (Fin 256)) (r : Nat × Bool × Option Nat) : State :=
  let t := s.pushS 1 d (BitVec.ofNat 64 r.1) false
  let t := match r.2.1, sem with
    | true, some n => t.push 1 (.semAdd n 1)
    | _, _ => t
  match r.2.2 with
  | none => t
  | some i => t.updMe (fun m => m.recordRequest i sem)

theorem execMapreq_eq (s : State) (d a b c : SReg) : execMapreq d a b c s = .next (
    if (s.ctx.rdS a).poison ∨ (s.ctx.rdS b).poison ∨ (c ≠ 0 ∧ (s.ctx.rdS c).poison) then s.poisonUse
    else if s.semRefused (mapreqSem c (s.ctx.rdS c).val) then s.illegalField
    else s.answered d (mapreqSem c (s.ctx.rdS c).val)
      (mapreqResult s.me (s.ctx.rdS a).val.toNat (s.ctx.rdS b).val.toNat)) := rfl

section
variable {s : State} {a b c : SReg} (d : SReg)

theorem execMapreq_marked (h : (s.ctx.rdS a).poison = true ∨ (s.ctx.rdS b).poison = true ∨
    (c ≠ 0 ∧ (s.ctx.rdS c).poison = true)) : execMapreq d a b c s = .next s.poisonUse := by
  rw [execMapreq_eq, if_pos h]

variable (ha : (s.ctx.rdS a).poison = false) (hb : (s.ctx.rdS b).poison = false)
  (hc : c = 0 ∨ (s.ctx.rdS c).poison = false)
include ha hb hc

theorem execMapreq_unmarked : execMapreq d a b c s = .next (
    if s.semRefused (mapreqSem c (s.ctx.rdS c).val) then s.illegalField
    else s.answered d (mapreqSem c (s.ctx.rdS c).val)
      (mapreqResult s.me (s.ctx.rdS a).val.toNat (s.ctx.rdS b).val.toNat)) := by
  have hz : ¬ (c ≠ 0 ∧ (s.ctx.rdS c).poison = true) := fun ⟨h0, hp⟩ => by simp [h0, hp] at hc
  rw [execMapreq_eq, if_neg (by simp [ha, hb, hz])]

theorem execMapreq_refused (hn : s.semRefused (mapreqSem c (s.ctx.rdS c).val) = true) :
    execMapreq d a b c s = .next s.illegalField := by
  rw [execMapreq_unmarked d ha hb hc, if_pos hn]

theorem execMapreq_answered (hn : s.semRefused (mapreqSem c (s.ctx.rdS c).val) = false) :
    execMapreq d a b c s = .next (s.answered d (mapreqSem c (s.ctx.rdS c).val)
      (mapreqResult s.me (s.ctx.rdS a).val.toNat (s.ctx.rdS b).val.toNat)) := by
  rw [execMapreq_unmarked d ha hb hc, if_neg (ne_true_of_eq_false hn)]

end

/-! ### The statement -/

theorem State.answered_signals (s : State) (d c : SReg) (z : DWord) (n : Nat) :
    s.answered d (mapreqSem c z) (n, true, none) = if c = 0 then s.pushS 1 d (BitVec.ofNat 64 n) false
      else (s.pushS 1 d (BitVec.ofNat 64 n) false).push 1 (.semAdd (Fin.ofNat 256 z.toNat) 1) := by
  unfold mapreqSem
  split_ifs <;> rfl

/-- Where a request is recorded, the register, the requests and the entry of the current table change, and nothing else of the
memory and of the other clusters. -/
theorem State.answered_recorded (s : State) (d : SReg) (sem : Option (Fin 256)) {i : Nat} {e : Extent}
    (he : s.me.table[i]? = some e) :
    let t := s.answered d sem (0, false, some i)
    t.ctx = (s.pushS 1 d 0 false).ctx ∧ t.mem = s.mem ∧ (∀ j, j ≠ s.cur → t.cluster j = s.cluster j) ∧
      t.me.mapreqs = s.me.mapreqs ++ [⟨s.me.phase, i, sem⟩] ∧
      ∀ j, t.me.table[j]? = if j = i then some { e with pend := true, fail := false } else s.me.table[j]? := by
  have hme := s.me_pushS 1 d 0 false
  have ht : s.answered d sem (0, false, some i) = (s.pushS 1 d 0 false).updMe (fun m => m.recordRequest i sem) := rfl
  rw [ht]
  refine ⟨State.ctx_updMe .., by simp, fun j hj => ?others, ?requests, fun j => ?table⟩
  case others =>
    rw [State.updMe, State.cluster_setCluster_of_ne _ _ (by simpa using hj), State.cluster_pushS_of_ne _ _ _ _ _ hj]
  case requests =>
    rw [State.me_updMe, hme]
    simp [Cluster.recordRequest]
  case table =>
    rw [State.me_updMe, Cluster.table_recordRequest, hme, Cluster.table_setCtx, List.getElem?_modify]
    split_ifs with h1 h2 h2
    · rw [← h1, he]; rfl
    · exact absurd h1.symm h2
    · exact absurd h2.symm h1
    · simp

/-- The fields of Table 11.5, each in its place. -/
theorem extqOf_fields {i : Nat} (hi : i < 16) (e : Extent) :
    let w := extqOf [(i, e)]
    w.extractLsb' 32 32 = e.epoch ∧ w.getLsbD 16 = true ∧ w.getLsbD 15 = e.fail ∧ w.getLsbD 14 = e.pend ∧
      w.extractLsb' 8 6 = BitVec.ofNat 6 i ∧ w.extractLsb' 6 2 = BitVec.ofNat 2 (resCode e.res) ∧
      w.extractLsb' 4 2 = BitVec.ofNat 2 (kindCode e.kind) ∧ w.getLsbD 3 = e.w ∧ w.getLsbD 2 = e.r := by
  have hi' : i < 64 := by omega
  simp only [extractLsb'_extqOf hi e, getLsbD_extqOf hi e]
  simp [extqFields, resCode_lt, kindCode_lt, hi']

/-- Settles O37: EXTQ by the entries that cover its byte, MAPREQ by the entry that R209 finds. -/
theorem extents : Obligations.Extents := by
  intro s d a b c i e
  refine ⟨fun hx => ⟨execExtq_marked d hx, execMapreq_marked d (.inl hx)⟩, fun hx => ⟨_, execExtq_unmarked d hx, ?extq⟩,
    fun hx hy hz => ⟨fun hn => ?refused, fun hn => ?named⟩⟩
  case extq =>
    rw [extqWord_eq]
    exact ⟨fun h => by rw [h]; rfl, extqOf_of_many, fun h hi => by rw [h]; exact extqOf_fields hi e⟩
  case refused =>
    rw [← State.semRefused_mapreqSem, Bool.not_eq_false] at hn
    exact execMapreq_refused d hx hy hz hn
  case named =>
    rw [← State.semRefused_mapreqSem] at hn
    have hexec : exec (.mapreq d a b c) s = _ := execMapreq_answered d hx hy hz hn
    rw [hexec]
    refine ⟨fun hmiss => ?miss, fun hhit => ⟨fun hk => ?kind, fun hk => ?found⟩⟩
    case miss => rw [mapreqResult_of_none hmiss]; rfl
    case kind => rw [mapreqResult_of_kind hhit hk]; rfl
    case found =>
      rw [mapreqResult_eq hhit hk]
      refine ⟨fun hp => ?pending, fun hp hr => ?resident, fun hp hr hl => ?full, fun hp hr hl => ?recorded⟩
      case pending => rw [if_pos hp]; rfl
      all_goals rw [if_neg (ne_true_of_eq_false hp)]
      case resident => rw [if_pos hr, State.answered_signals]; rfl
      case full => rw [if_neg hr, if_pos hl]; rfl
      case recorded =>
        rw [if_neg hr, if_neg (Nat.not_le.mpr hl)]
        exact ⟨_, rfl, s.answered_recorded d _ (getElem?_of_mapreqEntry hhit)⟩

end Sys2Proof.Machine
end

section
/-! SUPPORT. A range that is RESIDENT again at a new PBASE in a region wider than a die (11 R209, R215): the column offset that
names its new place does not fit the field of PBASE. -/

namespace Sys2Proof.Machine

/-- A MIGRATING range of 64 bytes, copied, in the cluster of a REL entry's own row and column (11 Table 11.3). -/
def wideEntry : Extent := ⟨true, true, .migrating, true, true, .remote, 0, 64, 0, false, false, 0, 0, none⟩

/-- Cluster 1, row 0 and column 1, bound in a region of 32 rows by 64 columns, which R13 lets no launch have. -/
def wideCluster : Cluster := { Cluster.reset with
  phases := [⟨0, [wideEntry], false, 0, none, none, [], [], [], 0⟩]
  bind := some ⟨0, 0, 0, 32, 64, 0, 0⟩ }

def wide : State := { State.reset with cl := [(1, wideCluster)] }

/-- The PBASE that names the cluster 31 columns further round the region. -/
def widePlace : Nat := 31 * 2 ^ 22

/-- Column 1 + 31 is column 0 of the next row. -/
theorem widePlace_physical : { wideEntry with pbase := widePlace }.physical 1 wideCluster 0 = clusterBase 32 := by decide

theorem wide_shiftable : (wide.cluster 1).shiftable 1 wideEntry (wide.module 0).nmod
    (({ wideEntry with pbase := widePlace }.physical 1 wideCluster 0 : Int) - wideEntry.physical 1 wideCluster 0) = true := by
  decide +kernel

/-- From column 1 to column 0 it is 63 columns round the region: 31 in the field of the column, and one row more. So the entry
names row 2 and column 1 + 31, which is column 0 of row 3. -/
theorem wide_residencyChange {t : State} (h : exec (.residencyChange 1 16 (4 * (widePlace + 1))) wide = .next t) :
    ((t.cluster 1).entry 16).map (fun x => x.physical 1 (t.cluster 1) x.vbase) = some (clusterBase 96) := by
  injection h with h
  rw [← h]
  decide +kernel

/-- Refutes O38: no hypothesis keeps the region to the 32 columns of R13, and in a wider one a range that is RESIDENT again at a
new PBASE can lie elsewhere than at the place given. The entry of cluster 1 is given cluster 32, and then names cluster 96. -/
theorem not_residencyService : ¬ Obligations.ResidencyService := by
  intro h
  obtain ⟨-, -, hallowed, -⟩ := h wide 1 16 (4 * (widePlace + 1)) 0 wideEntry ⟨0, 0, none⟩ Cluster.reset
  obtain ⟨-, -, hback⟩ := hallowed (by decide +kernel) (by decide) (by decide +kernel)
  obtain ⟨-, hmoves⟩ := hback rfl rfl (by decide) (by decide)
  obtain ⟨t, ht, ⟨x, hx, -, -, hplace⟩, -⟩ := hmoves (by decide +kernel) (by decide +kernel) (by decide)
    (fun _ => by decide +kernel) wide_shiftable (.inl rfl)
  have hentry : (t.cluster 1).entry 16 = some x := hx
  have hwide := wide_residencyChange ht
  rw [hentry, Option.map_some, Option.some.injEq, hplace] at hwide
  have hsame : clusterBase 32 = clusterBase 96 := widePlace_physical.symm.trans hwide
  exact absurd hsame (by decide)

end Sys2Proof.Machine
end

section
/-! SUPPORT. FENCE, SBAR and DRAIN (09 R198; 12 R232, R235): what each records of the operations under way, and that it leaves
the state where it would record nothing. -/

namespace Sys2Proof.Machine

section
variable (s : State) (sc : Scope) (mask : BitVec 16) (path : Path)

theorem exec_fence (kind : FenceKind) : exec (.fence sc kind) s = .next (
    if (s.fenceRecord kind sc).acc = [] ∧ (s.fenceRecord kind sc).writes = [] then s
    else s.updCtx (fun c => { c with fences := c.fences ++ [s.fenceRecord kind sc] })) := by
  show execFence sc kind s = _
  simp only [execFence, Bool.and_eq_true, List.isEmpty_iff]

/-- An acquire has one list: it holds every later access behind the same loads. -/
theorem exec_fence_acquire : exec (.fence sc .acquire) s = .next (
    if s.acquireDeps s.cur s.curFw = [] then s
    else s.updCtx (fun c => { c with fences := c.fences ++ [⟨.acquire, s.acquireDeps s.cur s.curFw, [], s.slot, 0⟩] })) := by
  simp only [exec_fence, State.fenceRecord, and_true]

/-- A release has one list: only later writes are held. -/
theorem exec_fence_release : exec (.fence sc .release) s = .next (
    if s.releaseDeps s.cur sc = [] then s
    else s.updCtx (fun c => { c with fences := c.fences ++ [⟨.release, [], s.releaseDeps s.cur sc, s.slot, 0⟩] })) := by
  simp only [exec_fence, State.fenceRecord, true_and]

theorem exec_sbar : exec (.sbar mask) s = .next (
    if s.sbarDeps mask = [] then s
    else s.updMe (fun c => { c with sbars := c.sbars ++ [⟨mask, s.sbarDeps mask, s.curFw, s.slot, 0⟩] })) := by
  show execSbar mask s = _
  simp only [execSbar, List.isEmpty_iff]

theorem exec_drain : exec (.drain path) s = .next (
    if s.drainDeps path = [] then s
    else s.updCtx (fun c => { c with holds := c.holds ++ [⟨s.slot - 6, s.drainDeps path, s.slot, 0⟩] })) := by
  show execDrain path s = _
  simp only [execDrain, List.isEmpty_iff]

end

/-- Settles O28: the lists of the statement are those that the records of the model hold. -/
theorem orderingInstructions : Obligations.OrderingInstructions := by
  unfold Obligations.OrderingInstructions
  intro s sc mask path left all mine acq rel acc named bar dr put
  refine ⟨?acquire, ?release, ?full, ?sbar, ?drain⟩
  case acquire => exact exec_fence_acquire s sc
  case release => exact exec_fence_release s sc
  case full => exact exec_fence s sc .full
  case sbar => exact exec_sbar s mask
  case drain => exact exec_drain s path

end Sys2Proof.Machine
end

section
/-! SUPPORT. What the operations of a running block leave unchanged (13 R247, R260 to R265): results that set out and tokens that
leave change its ports alone, and the access of a chain operation leaves the ordering buffer its numbers. -/

namespace Sys2Proof.Machine

/-! ### Firings -/

/-- A result that sets out changes the ports alone. -/
theorem Block.emit_ports (b : Block) (y x : Fin 8) (ds : List NDest) (at_ : Nat) (v : Word) (iter : Nat) (poison : Bool) :
    b.emit y x ds at_ v iter poison = { b with ports := (b.emit y x ds at_ v iter poison).ports } := by
  unfold Block.emit
  refine List.foldlRecOn (motive := fun c : Block => c = { b with ports := c.ports }) ds _ rfl fun c hc d _ => ?_
  split
  · exact hc
  · rw [hc]; rfl

/-- Tokens that leave their ports change the ports alone. -/
theorem Block.take_ports (b : Block) (n : BNode) (ps : List Nat) : b.take n ps = { b with ports := (b.take n ps).ports } := by
  unfold Block.take
  refine List.foldlRecOn (motive := fun c : Block => c = { b with ports := c.ports }) ps _ rfl fun c hc p _ => ?_
  rw [hc]; rfl

/-! ### Changes that leave a cluster its block -/

/-- A change that keeps a field of the cluster it is made in keeps it in every cluster. -/
theorem State.field_updCluster {α : Type} (π : Cluster → α) (s : State) {f : Cluster → Cluster} (j k : Nat)
    (hf : ∀ c, π (f c) = π c) : π ((s.updCluster j f).cluster k) = π (s.cluster k) := by
  by_cases h : k = j
  · rw [h, State.cluster_updCluster_self, hf]
  · rw [State.cluster_updCluster_of_ne s f h]

theorem Cluster.block_signalWord (c : Cluster) (own : Bool) (n : Fin 256) (v : Word) : (c.signalWord own n v).block = c.block := by
  unfold Cluster.signalWord; split <;> rfl

theorem Cluster.block_setWord (c : Cluster) (own : Bool) (n : Fin 256) (v : Word) : (c.setWord own n v).block = c.block := by
  unfold Cluster.setWord; split <;> rfl

theorem State.cl_queueWrite (s : State) (m n i master v : Nat) : (s.queueWrite m n i master v).cl = s.cl := by
  unfold State.queueWrite
  dsimp only
  repeat' split
  all_goals rfl

/-- A program context changes no cluster by a register of the control blocks: those registers that change one take the writes of
firmware, management or a lockhouse alone (11 R432). -/
theorem State.cl_ctlWrite_mProg (s : State) (k off : Nat) (v : DWord) : (s.ctlWrite k off mProg v).cl = s.cl := by
  have hfm : fwOrMgmt mProg = false := rfl
  have hmgmt : mProg ≠ mMgmt := by decide
  have hlock : mProg ≠ mLock := by decide
  have hhost : isHost mProg = false := rfl
  simp only [State.ctlWrite, State.hscmd, hfm, hmgmt, hlock, hhost, Bool.false_eq_true, if_false, Bool.not_false, Bool.false_and,
    true_or, if_true, apply_ite State.cl, State.updModule_cl, State.cl_queueWrite, ite_self]

/-- A write of a program context leaves every cluster its block. -/
theorem State.block_performWrite_mProg (s : State) (own : Bool) (pa : Nat) (bs : List (Byte × Bool)) (k : Nat) :
    ((s.performWrite mProg own pa bs).cluster k).block = (s.cluster k).block := by
  unfold State.performWrite
  dsimp only
  split_ifs
  · rfl
  · exact s.field_updCluster Cluster.block _ k fun _ => rfl
  · rfl
  · exact s.field_updCluster Cluster.block _ k fun _ => rfl
  · exact s.field_updCluster Cluster.block _ k fun c => c.block_signalWord ..
  · exact s.field_updCluster Cluster.block _ k fun c => c.block_setWord ..
  · rfl
  · exact s.field_updCluster Cluster.block _ k fun _ => rfl
  · rfl
  · rw [State.cluster, State.cl_ctlWrite_mProg, State.cluster]
  · rfl
  · rfl

theorem State.block_performAtom (s : State) (pa : Nat) (o : Aop) (ty : ElemTy) (x y k : Nat) :
    ((s.performAtom pa o ty x y).1.cluster k).block = (s.cluster k).block := by
  unfold State.performAtom State.seFlags
  dsimp only
  split_ifs
  · rfl
  · rfl
  · exact (s.writeMarked ..).field_updCluster Cluster.block _ k fun _ => rfl

/-- A message of a chain operation belongs to no core stream, so no dirty window learns of it. -/
theorem State.cluster_send_chain (s : State) (src dst va : Nat) (kind : MsgKind) (cond : List Dep) (after : List Nat) (k : Nat) :
    (s.send .chain src dst va kind cond after).cluster k = s.cluster k := by
  unfold State.send
  split <;> rfl

/-! ### The access of a chain operation (13 R260, R264, R265) -/

/-- `c` is `b` but for results on their way to ports and answers awaited: what the access of a chain operation may change. -/
def Block.keepsNumbers (b c : Block) : Prop := ∃ ports outs, c = { b with ports := ports, outs := outs }

section
variable {s : State} {k : Nat} {b : Block} (hb : (s.cluster k).block = some b)
include hb

theorem State.block_chainResult (n : ChainNode) (iter at_ : Nat) (v : Word) (poison : Bool) :
    ∃ c, ((s.chainResult k n iter at_ v poison).cluster k).block = some c ∧ b.keepsNumbers c := by
  refine ⟨b.emit n.y n.x [n.d0, n.d1] at_ v iter poison, ?_, _, b.outs, b.emit_ports ..⟩
  rw [State.chainResult, State.cluster_updCluster_self, hb, Option.map_some]

theorem State.block_awaiting (w : List (Nat × ChainNode × Nat)) :
    ∃ c, ((s.updCluster k (fun c => { c with block := c.block.map (fun b => { b with outs := b.outs ++ w }) })).cluster k).block =
      some c ∧ b.keepsNumbers c := by
  refine ⟨_, ?_, b.ports, b.outs ++ w, rfl⟩
  rw [State.cluster_updCluster_self, hb, Option.map_some]

theorem State.block_kept : ∃ c, (s.cluster k).block = some c ∧ b.keepsNumbers c := ⟨b, hb, b.ports, b.outs, rfl⟩

/-- Whatever a chain operation accesses, the block keeps its numbers: a result sets out, an answer is awaited, or neither. -/
theorem State.block_chainAccess (o : ChainOp) (e : Extent) (t : ElemTy) :
    ∃ c, ((s.chainAccess k o e t).cluster k).block = some c ∧ b.keepsNumbers c := by
  have posted {src dst va : Nat} {kind : MsgKind} {cond : List Dep} {after : List Nat} :
      ((s.send .chain src dst va kind cond after).cluster k).block = some b := by rw [State.cluster_send_chain, hb]
  unfold State.chainAccess
  dsimp only
  split
  · exact State.block_chainResult hb ..
  · split
    next =>
      split
      · exact State.block_kept (by rw [State.block_performWrite_mProg, hb])
      · exact State.block_kept posted
    next =>
      split
      · exact State.block_chainResult (by rw [State.block_performAtom, hb]) ..
      · split
        · exact State.block_awaiting posted _
        · exact State.block_kept posted
    next =>
      split
      · exact State.block_chainResult hb ..
      · exact State.block_awaiting posted _

end

end Sys2Proof.Machine
end

section
/-! SUPPORT. ARRAY, ARWAIT and the events of a block (13 R242 to R249, R257 to R266). -/

namespace Sys2Proof.Machine

/-! ### ARRAY and ARWAIT (13 R242, R243) -/

section
variable {s : State} {a y : SReg} {chain : BitVec 8} (hfw : s.curFw = false)
include hfw

theorem exec_arwait_running {b : Block} (hb : s.me.block = some b) :
    exec .arwait s = .next (s.updCtx (fun c => { c with park := .arwait, entry := 13 })) := by
  show execArwait s = _
  simp only [execArwait, hfw, hb, Option.isSome_some, if_true, Bool.false_eq_true, if_false]

variable (hn : s.me.block = none)
include hn

theorem exec_arwait_idle : exec .arwait s = .next s := by
  show execArwait s = _
  simp only [execArwait, hfw, hn, Option.isSome_none, Bool.false_eq_true, if_false]

variable (hx : (s.ctx.rdS a).poison = false) (hy : (s.ctx.rdS y).poison = false)
include hx hy

theorem exec_array_misaligned (ha : ((s.ctx.rdS a).val.setWidth 22).toNat % 16 ≠ 0) :
    exec (.array a y chain) s = .next (s.raise 0x06 (((s.ctx.rdS a).val.setWidth 22).setWidth 32)) := by
  show execArray a y chain s = _
  simp only [execArray, hfw, hn, hx, hy, Option.isSome_none, Bool.false_eq_true, if_false, ← BitVec.toNat_setWidth,
    BitVec.ofNat_toNat, if_pos ha]

variable (ha : ((s.ctx.rdS a).val.setWidth 22).toNat % 16 = 0)
include ha

theorem exec_array_badHeader (hw : s.readBlock s.cur ((s.ctx.rdS a).val.setWidth 22).toNat = none) :
    exec (.array a y chain) s = .next (s.raise 0x05 (((s.ctx.rdS a).val.setWidth 22).setWidth 32)) := by
  show execArray a y chain s = _
  simp only [execArray, hfw, hn, hx, hy, Option.isSome_none, Bool.false_eq_true, if_false, ← BitVec.toNat_setWidth,
    BitVec.ofNat_toNat, ne_eq, not_true_eq_false, ha, hw]

theorem exec_array_starts {w : BlockWords} (hw : s.readBlock s.cur ((s.ctx.rdS a).val.setWidth 22).toNat = some w) :
    exec (.array a y chain) s = .next (s.startBlock s.cur ((s.ctx.rdS a).val.setWidth 22).toNat chain.toNat
      ((s.ctx.rdS y).val.setWidth 32).toNat w) := by
  show execArray a y chain s = _
  simp only [execArray, hfw, hn, hx, hy, Option.isSome_none, Bool.false_eq_true, if_false, ← BitVec.toNat_setWidth,
    ne_eq, not_true_eq_false, ha, hw]

end

theorem State.updCluster_focus (s : State) (f : Cluster → Cluster) : s.updCluster s.cur f = s.updMe f := rfl

/-- A legal block is set up as its header says (13 R242). -/
theorem State.startBlock_legal {s : State} {k addr chain trips : Nat} {w : BlockWords} {ns : List BNode}
    (hr : s.readNodes k w w.words [] = .inl ns) (ht : trips ≠ 0) : s.startBlock k addr chain trips w =
      s.updCluster k (fun c => { c with
        block := some (w.block addr (BitVec.ofNat 8 chain) trips (s.cyc k) (s.ctxOf k false) (s.coreOps k) ns none) }) := by
  simp only [State.startBlock, ht, if_false, hr]

/-- An illegal node word blocks the block with its report, and the cox of the launch learns of it (03 R71). -/
theorem State.startBlock_illegal {s : State} {k addr chain trips u : Nat} {w : BlockWords}
    (hr : s.readNodes k w w.words [] = .inr u) (ht : trips ≠ 0) : s.startBlock k addr chain trips w =
      (s.updCluster k (fun c => { c with block := some (w.block addr (BitVec.ofNat 8 chain) trips (s.cyc k) (s.ctxOf k false)
        (s.coreOps k) [] (some (blockedReport k u))) })).failCox k 0x08 := by
  simp only [State.startBlock, ht, if_false, hr]

theorem State.me_failCox (s : State) (k code : Nat) : (s.failCox k code).me = s.me := by
  unfold State.failCox
  split <;> rfl

/-! ### Aborts (13 R266) -/

theorem State.block_abortBlock (s : State) (k code : Nat) (info : Word) (va : Nat) :
    ((s.abortBlock k code info va).cluster k).block = none := by
  simp [State.abortBlock, State.asyncFault, State.setCtxOf]

theorem State.prog_abortBlock (s : State) (k code : Nat) (info : Word) (va : Nat) :
    ((s.abortBlock k code info va).cluster k).prog = (s.cluster k).prog.recordFault
      ⟨code, info, 0, 0, true, false, (s.cluster k).prog.pc, va, s.strokeOf (modOf k), false⟩ := by
  simp [State.abortBlock, State.asyncFault, State.setCtxOf, State.ctxOf, Cluster.ctx, Cluster.setCtx]
  rfl

/-! ### Admission (13 R245, R262) -/

theorem State.mayAdmit_iff (s : State) (k : Nat) (b : Block) : s.mayAdmit k b = true ↔
    b.blocked = none ∧ b.cfgEnd ≤ s.cyc k ∧ (∀ d ∈ b.after, s.met k d = true) ∧ b.nextK < b.trips ∧
      (∀ t, b.lastAdmit = some t → t + b.ii ≤ s.cyc k) ∧ b.reserved + b.S ≤ 64 := by
  cases h : b.lastAdmit <;> simp [State.mayAdmit, State.allMet, h, and_assoc]

/-- `t` is `s` but for sources of the block of cluster `k` that have fired: `b` is the block as it was. -/
def State.sourcesFired (s : State) (k : Nat) (b : Block) (t : State) : Prop :=
  t.mem = s.mem ∧ t.md = s.md ∧ (∀ j, j ≠ k → t.cluster j = s.cluster j) ∧
    ∃ ports fired stuck, (t.cluster k).block = some { b with ports := ports, fired := fired, stuck := stuck }

theorem State.sourcesFired.fireSource {s t : State} {k : Nat} {b : Block} (h : s.sourcesFired k b t) (i : Nat) :
    s.sourcesFired k b (t.fireSource k i) := by
  have ht := h
  obtain ⟨hmem, hmd, hothers, ports, fired, stuck, hb⟩ := h
  unfold State.fireSource
  rw [hb]
  dsimp only
  split
  · split
    · exact ht
    · refine ⟨hmem, hmd, fun j hj => (State.cluster_updCluster_of_ne _ _ hj).trans (hothers j hj), ?_⟩
      rw [State.cluster_updCluster_self, Block.emit_ports]
      exact ⟨_, _, _, rfl⟩
  · exact ht

theorem State.sourcesFired_fireSources {s : State} {k : Nat} {b : Block} (h : (s.cluster k).block = some b) :
    s.sourcesFired k b (s.fireSources k) := by
  unfold State.fireSources
  rw [h]
  exact List.foldlRecOn _ _ ⟨rfl, rfl, fun _ _ => rfl, b.ports, b.fired, b.stuck, h⟩ fun _ ht i _ => ht.fireSource i

/-! ### The operation that the ordering buffer sends (13 R261) -/

/-- It is the nearest of the eligible ones. -/
theorem Block.choice_eq_argmin (b : Block) : b.choice = (b.buf.filter b.eligible).argmin b.dist := by
  unfold Block.choice List.argmin
  congr 1
  funext m o
  cases m <;> rfl

theorem Block.eligible_iff (b : Block) (o : ChainOp) : b.eligible o = true ↔
    (∀ l, b.link = some l → b.own o = l) ∧
      (b.link = none → b.own o = (b.ell + 1) % 2 ^ 24 ∨ b.predOf o = some b.ell) := by
  unfold Block.eligible
  cases b.link <;> simp

theorem Block.choice_spec {b : Block} {o : ChainOp} (h : b.choice = some o) :
    o ∈ b.buf ∧ b.eligible o = true ∧ ∀ o' ∈ b.buf, b.eligible o' = true → b.dist o ≤ b.dist o' := by
  rw [Block.choice_eq_argmin] at h
  obtain ⟨hbuf, hel⟩ := List.mem_filter.mp (List.argmin_mem h)
  exact ⟨hbuf, hel, fun o' hbuf' hel' => List.le_of_mem_argmin (List.mem_filter.mpr ⟨hbuf', hel'⟩) h⟩

theorem State.chainHeld_spec {s : State} {k : Nat} {b : Block} {o : ChainOp} (h : s.chainHeld k b o = true) :
    b.link = none ∧ (s.quiet k b = false ∨ s.outsideWait k b = true) ∧ 1 < b.dist o := by
  simp only [State.chainHeld, Bool.and_eq_true, Option.isNone_iff_eq_none, decide_eq_true_eq, Bool.or_eq_true,
    Bool.not_eq_true'] at h
  obtain ⟨⟨⟨hlink, hdist⟩, hmoves⟩, -⟩ := h
  exact ⟨hlink, hmoves, hdist⟩

theorem findExtent_of_checkElem {t : List Extent} {a : Acc3} {rp : Bool} {va n align : Nat}
    (h : checkElem t a rp va n align = none) : ∃ e, findExtent t va n = some e := by
  cases hf : findExtent t va n with
  | some e => exact ⟨e, rfl⟩
  | none =>
    unfold checkElem at h
    rw [hf] at h
    split at h <;> simp at h

/-- An operation whose checks pass lies in an entry of the table. -/
theorem State.findExtent_of_chainFault {s : State} {k : Nat} {o : ChainOp} {t : ElemTy} (h : s.chainFault k o t = none) :
    ∃ e, findExtent (s.cluster k).table o.addr.toNat (ebytes t) = some e := by
  unfold State.chainFault at h
  dsimp only at h
  split at h
  · simp at h
  · split at h
    · simp at h
    · next hck => exact findExtent_of_checkElem hck

/-! ### The events of a cluster without a block -/

section
variable {s : State} {k : Nat} (hn : (s.cluster k).block = none)
include hn

theorem exec_iterationAdmit_none : exec (.iterationAdmit k) s = .next s := by
  show execIterationAdmit k s = _
  rw [execIterationAdmit, hn]

theorem exec_chainOpSend_none : exec (.chainOpSend k) s = .next s := by
  show execChainOpSend k s = _
  rw [execChainOpSend, hn]

theorem exec_chainGap_none : exec (.chainGap k) s = .next s := by
  show execChainGap k s = _
  rw [execChainGap, hn]

theorem exec_blockEnd_none : exec (.blockEnd k) s = .next s := by
  show execBlockEnd k s = _
  rw [execBlockEnd, hn]

end

/-! ### The events of a block -/

/-- The block once its next iteration has been admitted at `now` (13 R245, R262). -/
def Block.admitted (b : Block) (now : Nat) : Block :=
  { b with nextK := b.nextK + 1, lastAdmit := some now, reserved := b.reserved + b.S }

/-- The block once `o` has been sent: it is the last operation, and the numbers up to it are released (13 R261, R262). -/
def Block.sent (b : Block) (o : ChainOp) : Block :=
  { b with buf := b.buf.erase o, reserved := b.reserved - b.dist o, ell := b.own o, link := b.succOf o, gap := 0, stuck := 0 }

/-- The room that the block's TSENDs wait for will never be there, and nothing else of it can go on (log 30). -/
def State.sendsLost (s : State) (k : Nat) (b : Block) : Bool :=
  s.outsideWait k b && (decide (b.trips ≤ b.nextK) || decide (64 < b.reserved + b.S)) && s.sendsDead k &&
    (match b.choice with
      | none => b.buf.isEmpty
      | some o => s.chainHeld k b o)

/-- What becomes of a block that is over: it ends, or it is aborted for a token that is left (13 R249). -/
def State.blockOver (s : State) (k : Nat) (b : Block) : State :=
  match b.ports with
  | [] => s.updCluster k (fun c => { c with block := none })
  | (key, _) :: _ => s.abortBlock k 0x32 (skewInfo b.chain.toNat (key / 8 % 64) (key / 512))

section
variable {s : State} {k : Nat} {b : Block} (hb : (s.cluster k).block = some b)
include hb

theorem exec_iterationAdmit_admits (h : s.mayAdmit k b = true ∧ s.stopping k = false) : exec (.iterationAdmit k) s =
    .next ((s.updCluster k (fun c => { c with block := some (b.admitted (s.cyc k)) })).fireSources k) := by
  show execIterationAdmit k s = _
  simp only [execIterationAdmit, hb, h, Bool.not_false, and_self, if_true, Block.admitted]

theorem exec_iterationAdmit_waits (h : ¬ (s.mayAdmit k b = true ∧ s.stopping k = false)) :
    exec (.iterationAdmit k) s = .next s := by
  show execIterationAdmit k s = _
  simp only [execIterationAdmit, hb, Bool.not_eq_true', h, if_false]

theorem exec_chainOpSend_ineligible (h : b.choice = none) : exec (.chainOpSend k) s = .next s := by
  show execChainOpSend k s = _
  simp only [execChainOpSend, hb, h]

section
variable {o : ChainOp} (ho : b.choice = some o)
include ho

theorem exec_chainOpSend_held (h : s.chainHeld k b o = true) : exec (.chainOpSend k) s = .next s := by
  show execChainOpSend k s = _
  simp only [execChainOpSend, hb, ho, h, if_true]

variable (hh : s.chainHeld k b o = false)
include hh

theorem exec_chainOpSend_faults {code : Nat} (h : s.chainFault k o (nodeTy o.node.t) = some code) :
    exec (.chainOpSend k) s = .next (s.abortBlock k code o.addr o.addr.toNat) := by
  show execChainOpSend k s = _
  simp only [execChainOpSend, hb, ho, hh, h, Bool.false_eq_true, if_false]

theorem exec_chainOpSend_sends (h : s.chainFault k o (nodeTy o.node.t) = none) {e : Nat × Extent}
    (he : findExtent (s.cluster k).table o.addr.toNat (ebytes (nodeTy o.node.t)) = some e) : exec (.chainOpSend k) s =
      .next ((s.updCluster k (fun c => { c with block := some (b.sent o) })).chainAccess k o e.2 (nodeTy o.node.t)) := by
  have he' : findExtent ((s.updCluster k (fun c => { c with block := some (b.sent o) })).cluster k).table o.addr.toNat
      (ebytes (nodeTy o.node.t)) = some e := by rw [State.cluster_updCluster_self]; exact he
  show execChainOpSend k s = _
  simp only [Block.sent] at he'
  simp only [execChainOpSend, hb, ho, hh, h, Bool.false_eq_true, if_false, he', Block.sent]

end

theorem exec_chainGap_gap (h : b.gapped = true ∧ (s.cluster k).chainlim.toNat < b.gap) :
    exec (.chainGap k) s = .next (s.abortBlock k 0x30 b.gapInfo) := by
  show execChainGap k s = _
  simp only [execChainGap, hb, gt_iff_lt, h, and_self, if_true]

section
variable (hg : ¬ (b.gapped = true ∧ (s.cluster k).chainlim.toNat < b.gap))
include hg

theorem exec_chainGap_overflow (h : s.overflow k b = true) : exec (.chainGap k) s = .next (s.abortBlock k 0x31 b.gapInfo) := by
  show execChainGap k s = _
  simp only [execChainGap, hb, gt_iff_lt, hg, h, if_false, if_true]

theorem exec_chainGap_idle (h : s.overflow k b = false) : exec (.chainGap k) s = .next s := by
  show execChainGap k s = _
  simp only [execChainGap, hb, gt_iff_lt, hg, h, Bool.false_eq_true, if_false]

end

/-! ### The end of a block (13 R249) -/

theorem exec_blockEnd_blocked (h : b.blocked ≠ none) : exec (.blockEnd k) s = .next s := by
  show execBlockEnd k s = _
  simp only [execBlockEnd, hb, Option.isSome_iff_ne_none, h, ne_eq, not_false_eq_true, if_true]

theorem exec_blockEnd_noTrips (h : b.blocked = none) (ht : b.trips = 0) :
    exec (.blockEnd k) s = .next (s.updCluster k (fun c => { c with block := none })) := by
  show execBlockEnd k s = _
  simp only [execBlockEnd, hb, h, ht, Option.isSome_none, Bool.false_eq_true, if_false, if_true]

variable (ht : b.trips ≠ 0)
include ht

/-- The end of a block is judged while it is not blocked, nothing of it moves, and it has nothing more to do or to wait for. -/
theorem exec_blockEnd_eq : exec (.blockEnd k) s = .next (
    if b.blocked.isSome then s else if !s.quiet k b then s
    else if !s.sendsLost k b && (s.outsideWait k b || decide (b.nextK < b.trips) || !b.buf.isEmpty) then s
    else s.blockOver k b) := by
  show execBlockEnd k s = _
  simp only [execBlockEnd, hb, ht, if_false]
  rfl

theorem exec_blockEnd_moving (hq : s.quiet k b = false) : exec (.blockEnd k) s = .next s := by
  simp only [exec_blockEnd_eq hb ht, hq, Bool.not_false, if_true, ite_self]

theorem exec_blockEnd_goesOn (hl : s.sendsLost k b = false)
    (h : b.nextK < b.trips ∨ b.buf ≠ [] ∨ s.outsideWait k b = true) : exec (.blockEnd k) s = .next s := by
  have hmore : (s.outsideWait k b || decide (b.nextK < b.trips) || !b.buf.isEmpty) = true := by
    rcases h with h | h | h <;> simp [h]
  simp only [exec_blockEnd_eq hb ht, hl, hmore, Bool.not_false, Bool.and_self, if_true, ite_self]

theorem exec_blockEnd_over (hn : b.blocked = none) (hq : s.quiet k b = true)
    (h : s.sendsLost k b = true ∨ (b.trips ≤ b.nextK ∧ b.buf = [] ∧ s.outsideWait k b = false)) :
    exec (.blockEnd k) s = .next (s.blockOver k b) := by
  have hdone : (!s.sendsLost k b && (s.outsideWait k b || decide (b.nextK < b.trips) || !b.buf.isEmpty)) = false := by
    rcases h with h | ⟨hk, hbuf, hw⟩
    · simp [h]
    · simp [hk, hbuf, hw]
  simp only [exec_blockEnd_eq hb ht, hn, hq, hdone, Option.isSome_none, Bool.not_true, Bool.false_eq_true, if_false]

end

/-! ### The bytes that a CST stores (13 R260) -/

theorem length_toBytes (n x : Nat) : (toBytes n x).length = n := by
  induction n generalizing x with
  | zero => rfl
  | succ n ih => rw [toBytes, List.length_cons, ih]

theorem getElem_toBytes (n x i : Nat) (h : i < (toBytes n x).length) : (toBytes n x)[i] = BitVec.ofNat 8 (x / 2 ^ (8 * i)) := by
  induction n generalizing x i with
  | zero => exact absurd h (Nat.not_lt_zero i)
  | succ n ih =>
    cases i with
    | zero => rw [Nat.mul_zero, pow_zero, Nat.div_one]; rfl
    | succ i =>
      have hx : x / 2 ^ (8 * (i + 1)) = x / 256 / 2 ^ (8 * i) := by
        rw [Nat.div_div_eq_div_mul, Nat.mul_succ, pow_add, Nat.mul_comm (2 ^ (8 * i)), show 2 ^ 8 = 256 from rfl]
      rw [hx]
      exact ih ..

theorem Extent.physical_local {e : Extent} (h : e.kind = .local) (k : Nat) (c : Cluster) (va : Nat) :
    e.physical k c va = clusterBase k + (e.pbase % 2 ^ 22 + (va - e.vbase)) := by
  simp only [Extent.physical, h]

/-- A CST to scratchpad of its own cluster is performed at once. -/
theorem State.chainAccess_cst {s : State} {k : Nat} {o : ChainOp} {e : Extent} {t : ElemTy} (ho : o.op = .cst)
    (he : e.kind = .local)
    (hk : paCluster (e.physical k (s.cluster k) o.addr.toNat) = k) (hp : paSpace (e.physical k (s.cluster k) o.addr.toNat) = 0) :
    s.chainAccess k o e t =
      s.writeMarked (e.physical k (s.cluster k) o.addr.toNat) (marked (ebytes t) o.data.toNat o.poison) := by
  have hmsg : s.byMessage k (e.physical k (s.cluster k) o.addr.toNat) = false := by
    simp [State.byMessage, State.tileBusy, inTiles, hk, hp]
  simp [State.chainAccess, he, ho, hmsg, State.performWrite, hp]

theorem State.byteAt_marked (s : State) (pa n v : Nat) (poison : Bool) (h : s.kept = true) :
    (∀ i < n, (s.writeMarked pa (marked n v poison)).byteAt (memKey pa + i) = BitVec.ofNat 8 (v / 2 ^ (8 * i))) ∧
    ∀ q, q < memKey pa ∨ memKey pa + n ≤ q → (s.writeMarked pa (marked n v poison)).byteAt q = s.byteAt q := by
  have hlen : (marked n v poison).length = n := by rw [marked, List.length_map, length_toBytes]
  refine ⟨fun i hi => ?_, fun q hq => State.byteAt_writeMarked_outside s pa q _ h (by rwa [hlen])⟩
  rw [State.byteAt_writeMarked_inside s pa i _ h (by rwa [hlen])]
  simp only [marked, List.getElem_map, getElem_toBytes]

/-! ### The statement -/

/-- Settles O46: each event of a block answers by one of its cases, and an admission and a send leave the rest of the block. -/
theorem blockLife : Obligations.BlockLife := by
  unfold Obligations.BlockLife
  intro s a y chain k b w o ns code va info e x z addr m quiet dead
  have hdead : s.sendsLost k b = true ↔ dead := by
    simp only [State.sendsLost, dead, Bool.and_eq_true, Bool.or_eq_true, decide_eq_true_eq, and_assoc]
    cases b.choice <;> simp only [List.isEmpty_iff]
  refine ⟨?firmware, ?idle, ?parks, ?running, ?absent, ?chosen, s.mayAdmit_iff k b, s.block_abortBlock k code info va,
    s.prog_abortBlock k code info va⟩
  case firmware =>
    intro hfw
    have harray : execArray a y chain s = .next s.illegalOp := by simp only [execArray, hfw, if_true]
    have harwait : execArwait s = .next s.illegalOp := by simp only [execArwait, hfw, if_true]
    exact ⟨harray, harwait⟩
  case idle =>
    intro hfw hn hx hz
    refine ⟨exec_arwait_idle hfw hn, exec_array_misaligned hfw hn hx hz, exec_array_badHeader hfw hn hx hz, ?legal, ?illegal⟩
    case legal =>
      intro ha hw hr ht
      have htrips : (z.val.setWidth 32).toNat ≠ 0 := fun h => ht (BitVec.eq_of_toNat_eq h)
      rw [exec_array_starts hfw hn hx hz ha hw, State.startBlock_legal hr htrips, BitVec.ofNat_toNat, BitVec.setWidth_eq,
        State.updCluster_focus]
      exact ⟨_, _, rfl, rfl, congrArg Cluster.block (State.me_updMe s _), State.ctx_updMe s _, rfl, rfl, rfl, rfl, rfl, rfl, rfl,
        rfl, rfl, rfl, rfl, rfl⟩
    case illegal =>
      intro u ha hw hr ht
      have htrips : (z.val.setWidth 32).toNat ≠ 0 := fun h => ht (BitVec.eq_of_toNat_eq h)
      rw [exec_array_starts hfw hn hx hz ha hw, State.startBlock_illegal hr htrips, State.updCluster_focus]
      exact ⟨_, _, rfl, congrArg Cluster.block ((State.me_failCox ..).trans (State.me_updMe s _)), rfl, rfl⟩
  case parks => exact fun hfw hb => exec_arwait_running hfw hb
  case running =>
    intro hb
    refine ⟨?admits, exec_iterationAdmit_waits hb, exec_chainOpSend_ineligible hb, exec_chainOpSend_held hb, State.chainHeld_spec,
      ?sends, exec_chainGap_gap hb, exec_chainGap_overflow hb, exec_chainGap_idle hb,
      fun h => exec_blockEnd_noTrips hb h.1 h.2, ?goesOn, ?ends⟩
    case admits =>
      intro h
      have hb' : ((s.updCluster k (fun c => { c with block := some (b.admitted (s.cyc k)) })).cluster k).block =
          some (b.admitted (s.cyc k)) := by rw [State.cluster_updCluster_self]
      obtain ⟨hmem, hmd, hothers, ports, fired, stuck, ht⟩ := State.sourcesFired_fireSources hb'
      exact ⟨_, _, exec_iterationAdmit_admits hb h, ⟨hmem, hmd, fun j hj => (hothers j hj).trans
        (State.cluster_updCluster_of_ne s _ hj)⟩, ht, rfl, rfl, rfl, rfl, rfl⟩
    case sends =>
      intro ho hh
      refine ⟨exec_chainOpSend_faults hb ho hh, fun hf => ?_⟩
      obtain ⟨e', he'⟩ := State.findExtent_of_chainFault hf
      have hb' : ((s.updCluster k (fun c => { c with block := some (b.sent o) })).cluster k).block = some (b.sent o) := by
        rw [State.cluster_updCluster_self]
      obtain ⟨c, hc, ports, outs, rfl⟩ := State.block_chainAccess hb' o e'.2 (nodeTy o.node.t)
      refine ⟨_, _, exec_chainOpSend_sends hb ho hh hf he', hc, rfl, rfl, rfl, rfl, ?stored⟩
      intro hop hkept he hkind pa len hk hp
      obtain rfl : e' = e := Option.some.inj (he'.symm.trans he)
      have hpa (c : Cluster) : e'.2.physical k c o.addr.toNat = pa := by
        rw [Extent.physical_local hkind, ← Extent.physical_local hkind k m]
      rw [State.chainAccess_cst hop hkind (by rw [hpa, hk]) (by rw [hpa, hp]), hpa]
      exact State.byteAt_marked (s.updCluster k _) pa len _ _ hkept
    case goesOn =>
      rintro (hbl | ⟨ht, hq | ⟨hl, hmore⟩⟩)
      · exact exec_blockEnd_blocked hb hbl
      · exact exec_blockEnd_moving hb ht hq
      · exact exec_blockEnd_goesOn hb ht (Bool.eq_false_iff.mpr fun h => hl (hdead.mp h)) hmore
    case ends =>
      rintro ⟨hn, ht, hq, ho⟩
      rw [exec_blockEnd_over hb ht hn hq (ho.imp_left hdead.mpr), State.blockOver]
      exact ⟨fun h => by rw [h], fun p r h => by rw [h]⟩
  case absent =>
    exact fun hn => ⟨exec_iterationAdmit_none hn, exec_chainOpSend_none hn, exec_chainGap_none hn, exec_blockEnd_none hn⟩
  case chosen =>
    intro ho
    obtain ⟨hbuf, hel, hmin⟩ := Block.choice_spec ho
    obtain ⟨hlink, hfree⟩ := (b.eligible_iff o).mp hel
    exact ⟨hbuf, hlink, hfree, hmin⟩

end Sys2Proof.Machine
end

section
/-! SUPPORT. The firing of the nodes of a block (13 R246 to R256, Tables 13.2 and 13.3): which tokens are ready, and what each kind
of node answers once they are. -/

namespace Sys2Proof.Machine

/-! ### The tokens of a firing -/

/-- Tokens by the ports that hold them. -/
def tokensAt (tok : Nat → Token) (ps : List Nat) : List (Nat × Token) := ps.map fun p => (p, tok p)

theorem tokensAt_cons (tok : Nat → Token) (p : Nat) (r : List Nat) : (p, tok p) :: tokensAt tok r = tokensAt tok (p :: r) := rfl

theorem map_fst_tokensAt (tok : Nat → Token) (ps : List Nat) : (tokensAt tok ps).map (fun x => x.1) = ps := by
  simp [tokensAt, Function.comp_def]

theorem any_poison_tokensAt (tok : Nat → Token) (ps : List Nat) :
    (tokensAt tok ps).any (fun x => x.2.poison) = ps.any fun p => (tok p).poison := by
  simp [tokensAt, Function.comp_def]

/-- Tokens of one tag do not differ in their tags. -/
theorem any_tag_of_same {tok : Nat → Token} {ps : List Nat} {tag : Nat} (h : ∀ p ∈ ps, (tok p).iter % 2 ^ 16 = tag) :
    (tokensAt tok ps).any (fun x => x.2.iter % 2 ^ 16 != tag) = false := by
  simpa [tokensAt] using h

theorem portTok_tokensAt (tok : Nat → Token) (ps : List Nat) (p : Nat) :
    portTok (tokensAt tok ps) p = if p ∈ ps then tok p else ⟨0, 0, false, 0⟩ := by
  unfold portTok tokensAt
  induction ps with
  | nil => rfl
  | cons q r ih =>
    rw [List.map_cons, List.find?_cons]
    by_cases h : q = p
    · simp [h]
    · simp only [beq_eq_false_iff_ne.mpr h, ih, List.mem_cons, Ne.symm h, false_or]

/-- The tokens at the heads of ports are those of the ports, where each has one. -/
theorem heads_of_all {hd : Nat → Option Token} {tok : Nat → Token} {ps : List Nat} (h : ∀ p ∈ ps, hd p = some (tok p)) :
    (ps.map fun p => (hd p).map fun t => (p, t)) = (tokensAt tok ps).map some := by
  rw [tokensAt, List.map_map]
  exact List.map_congr_left fun p hp => by rw [h p hp]; rfl

theorem heads_all_isSome {hd : Nat → Option Token} {ps : List Nat} {p : Nat} (hp : p ∈ ps) (h : hd p = none) :
    (ps.map fun p => (hd p).map fun t => (p, t)).all Option.isSome = false :=
  List.all_eq_false.mpr ⟨none, List.mem_map.mpr ⟨p, hp, by rw [h]; rfl⟩, by simp⟩

/-- The ports of a node that is no MERGE (13 Tables 13.2 and 13.3). -/
def BNode.ports (n : BNode) : List Nat :=
  match n with
  | .plain op _ => nopPorts op false
  | .chain op m => nopPorts op (op == .catom && m.aop.val == 13)

section
variable {b : Block} {now : Nat} {n : BNode} {tok : Nat → Token}

/-- What a node that is no MERGE finds at its ports. -/
theorem Block.ready_eq (hn : n.op ≠ .merge) : b.ready now n =
    let ts := n.ports.map fun p => (b.head now (n.portKey p)).map fun t => (p, t)
    if ts.all Option.isSome then some (ts.filterMap id) else none := by
  have hop : (n.op != .merge) = true := bne_iff_ne.mpr hn
  simp only [Block.ready, hop, Bool.true_or, Bool.and_true]
  cases n with
  | plain op m =>
    cases op
    case merge => exact absurd rfl hn
    all_goals rfl
  | chain op m =>
    cases op
    case merge => exact absurd rfl hn
    all_goals rfl

theorem Block.ready_of_heads (hn : n.op ≠ .merge) (h : ∀ p ∈ n.ports, b.head now (n.portKey p) = some (tok p)) :
    b.ready now n = some (tokensAt tok n.ports) := by
  have hts := heads_of_all (hd := fun p => b.head now (n.portKey p)) h
  rw [Block.ready_eq hn]
  dsimp only
  rw [hts]
  simp

theorem Block.ready_of_missing (hn : n.op ≠ .merge) (h : ∃ p ∈ n.ports, b.head now (n.portKey p) = none) :
    b.ready now n = none := by
  obtain ⟨p, hp, hnone⟩ := h
  have hts := heads_all_isSome (hd := fun p => b.head now (n.portKey p)) hp hnone
  simp only [Block.ready_eq hn, hts, Bool.false_eq_true, if_false]

/-- A MERGE consumes its control and the port that the control names (13 R246). -/
theorem Block.ready_merge {m : Node} (hc : b.head now ((BNode.plain .merge m).portKey 3) = some (tok 3)) {p : Nat}
    (hp : p = if (tok 3).data = 0 then 2 else 1) (hd : b.head now ((BNode.plain .merge m).portKey p) = some (tok p)) :
    b.ready now (.plain .merge m) = some (tokensAt tok [3, p]) := by
  have hts := heads_of_all (hd := fun q => b.head now ((BNode.plain .merge m).portKey q)) (tok := tok) (ps := [3, p])
    (by simp [hc, hd])
  simp only [Block.ready, BNode.op, hc, ← hp, hts]
  simp

end

/-! ### What a firing answers -/

/-- Node `n` is the `i`th of the block of the cluster in focus, which is past its configuration. -/
structure State.Runs (s : State) (b : Block) (n : BNode) (i : Nat) : Prop where
  block : s.me.block = some b
  started : ¬ (b.blocked.isSome = true ∨ s.cyc s.cur < b.cfgEnd)
  place : b.nodes.zipIdx.find? (fun x => x.1 == n) = some (n, i)

/-- A result sets out from node `m` for its consumers, and its flags join STATUS (13 R247, R248). -/
def State.emits (s : State) (c : Block) (m : Node) (ds : List NDest) (at_ : Nat) (v : Word) (iter : Nat) (poison : Bool)
    (f : Flags) : State :=
  (s.updMe (fun d => { d with block := some (c.emit m.y m.x ds at_ v iter poison) })).updMe (fun d => d.unitFlags f)

/-- The operation that a chain node puts into the ordering buffer, its tokens by their ports (13 R258 to R260). -/
def chainOp (op : NOp) (m : ChainNode) (iter : Nat) (tok : Nat → Token) : ChainOp :=
  ⟨m, op, iter, (tok 1).data, (tok 1).poison, (tok 2).data, (tok 3).data, (tok 2).poison || (tok 3).poison⟩

/-- The node forms (13 Table 13.3): nodes whose result their operands alone determine. -/
def NOp.isForm (op : NOp) : Bool :=
  match op with
  | .steer => false
  | .merge => false
  | .const => false
  | .iter => false
  | .cld => false
  | .cst => false
  | .catom => false
  | .tsend => false
  | .trecv => false
  | _ => true

/-- The port of the token that steers a node, if it has one: a marked one raises POISON_USE (13 R248). -/
def NOp.controlPort (op : NOp) : Option Nat :=
  match op with
  | .steer => some 2
  | .merge => some 3
  | .dsel => some 3
  | _ => none

section
variable {s : State} {b : Block} {n : BNode} {i : Nat} (hs : s.Runs b n i) (hn : ∀ m, n ≠ .plain .trecv m)
include hs hn

theorem State.fire_unready (hr : b.ready (s.cyc s.cur) n = none) : s.fire n = s := by
  simp only [State.fire, hs.block, hs.place, hs.started, if_false, hr]

variable {tok : Nat → Token} {p : Nat} {r : List Nat} (hr : b.ready (s.cyc s.cur) n = some ((p, tok p) :: tokensAt tok r))
include hr

theorem State.fire_skewed (h : ∃ q ∈ p :: r, (tok q).iter % 2 ^ 16 ≠ (tok p).iter % 2 ^ 16) :
    s.fire n = s.abortBlock s.cur 0x32 (skewInfo b.chain.toNat n.element n.stage.val) := by
  have hskew : (tokensAt tok (p :: r)).any (fun x => x.2.iter % 2 ^ 16 != (tok p).iter % 2 ^ 16) = true := by
    simpa [tokensAt] using h
  simp only [State.fire, hs.block, hs.place, hs.started, if_false, hr]
  simp only [tokensAt_cons, hskew, if_true]
  cases n <;> rfl

variable (ht : ∀ q ∈ p :: r, (tok q).iter % 2 ^ 16 = (tok p).iter % 2 ^ 16)
include ht

theorem State.fire_chain {op : NOp} {m : ChainNode} (hm : n = .chain op m) (hroom : b.room [m.d0, m.d1] = true) :
    s.fire n = s.updMe (fun c => { c with block := some { (b.take n (p :: r)).count i with
      buf := b.buf ++ [chainOp op m (tok p).iter (portTok (tokensAt tok (p :: r)))] } }) := by
  have hskew := any_tag_of_same ht
  have hbuf : ((b.take n (p :: r)).count i).buf = b.buf := by rw [Block.take_ports]; rfl
  subst hm
  simp only [State.fire, hs.block, hs.place, hs.started, if_false, hr]
  simp only [tokensAt_cons, map_fst_tokensAt, hskew, hroom, hbuf, Bool.false_eq_true, Bool.not_true, if_false]
  rfl

end

/-! ### Plain nodes whose tokens are ready and of one tag -/

section
variable {s : State} {b : Block} {op : NOp} {m : Node} {i : Nat} {tok : Nat → Token} {p : Nat} {r : List Nat}
  (hs : s.Runs b (.plain op m) i)
  (hr : b.ready (s.cyc s.cur) (.plain op m) = some ((p, tok p) :: tokensAt tok r))
  (ht : ∀ q ∈ p :: r, (tok q).iter % 2 ^ 16 = (tok p).iter % 2 ^ 16)
include hs hr ht

/-- A marked control aborts the block (13 R248). -/
theorem State.fire_marked {q : Nat} (hq : op.controlPort = some q) (hp : (portTok (tokensAt tok (p :: r)) q).poison = true) :
    s.fire (.plain op m) = s.abortBlock s.cur 0x26 0 := by
  have hskew := any_tag_of_same ht
  cases op <;> simp only [NOp.controlPort, reduceCtorEq, Option.some.injEq] at hq <;> subst hq
  all_goals
    simp only [State.fire, hs.block, hs.place, hs.started, if_false, hr]
    simp only [tokensAt_cons, hskew, hp, Bool.false_eq_true, if_false, if_true]

theorem State.fire_form (hop : op.isForm = true)
    (hc : op = .dsel → (portTok (tokensAt tok (p :: r)) 3).poison = false) : s.fire (.plain op m) =
    if b.room [m.d0, m.d1] then
      let tok' := portTok (tokensAt tok (p :: r))
      let v := nodeForm op (nodeTy m.t) m.rm m.imm.toInt m.imm.toNat (tok' 1).data (tok' 2).data (tok' 3).data
      s.emits ((b.take (.plain op m) (p :: r)).count i) m [m.d0, m.d1] (s.cyc s.cur + nopLat op m.t) v.1 (tok p).iter
        ((p :: r).any fun q => (tok q).poison) v.2
    else s := by
  have hskew := any_tag_of_same ht
  cases op <;> simp only [NOp.isForm, Bool.false_eq_true] at hop
  all_goals
    simp only [State.fire, hs.block, hs.place, hs.started, if_false, hr]
    simp only [tokensAt_cons, hskew, hc, Bool.false_eq_true, if_false, map_fst_tokensAt, any_poison_tokensAt, BNode.op]
    cases b.room [m.d0, m.d1] <;> rfl

end

/-! ### Nodes of Table 13.2 -/

section
variable {s : State} {b : Block} {m : Node} {i : Nat} {tok : Nat → Token}

/-- STEER's data goes to the consumer that its control names. -/
theorem State.fire_steer (hs : s.Runs b (.plain .steer m) i)
    (hr : b.ready (s.cyc s.cur) (.plain .steer m) = some ((1, tok 1) :: tokensAt tok [2]))
    (ht : ∀ q ∈ [1, 2], (tok q).iter % 2 ^ 16 = (tok 1).iter % 2 ^ 16) (hc : (tok 2).poison = false)
    (hroom : b.room [if (tok 2).data = 0 then m.d1 else m.d0] = true) : s.fire (.plain .steer m) =
      s.emits ((b.take (.plain .steer m) [1, 2]).count i) m [if (tok 2).data = 0 then m.d1 else m.d0] (s.cyc s.cur + 1)
        (tok 1).data (tok 1).iter ([1, 2].any fun q => (tok q).poison) 0 := by
  have hskew := any_tag_of_same ht
  have h1 : portTok (tokensAt tok [1, 2]) 1 = tok 1 := rfl
  have h2 : portTok (tokensAt tok [1, 2]) 2 = tok 2 := rfl
  simp only [State.fire, hs.block, hs.place, hs.started, if_false, hr]
  simp only [tokensAt_cons, hskew, h1, h2, hc, hroom, Bool.false_eq_true, if_false, if_true, map_fst_tokensAt,
    any_poison_tokensAt]
  rfl

/-- MERGE sends on the token of the port that its control names, and leaves the other port. -/
theorem State.fire_merge (hs : s.Runs b (.plain .merge m) i) {p : Nat}
    (hp : p = if (tok 3).data = 0 then 2 else 1)
    (hr : b.ready (s.cyc s.cur) (.plain .merge m) = some ((3, tok 3) :: tokensAt tok [p]))
    (ht : ∀ q ∈ [3, p], (tok q).iter % 2 ^ 16 = (tok 3).iter % 2 ^ 16) (hc : (tok 3).poison = false)
    (hroom : b.room [m.d0, m.d1] = true) : s.fire (.plain .merge m) =
      s.emits ((b.take (.plain .merge m) [3, p]).count i) m [m.d0, m.d1] (s.cyc s.cur + 1) (tok p).data
        (tok 3).iter ([3, p].any fun q => (tok q).poison) 0 := by
  have hskew := any_tag_of_same ht
  have h3 : portTok (tokensAt tok [3, p]) 3 = tok 3 := rfl
  have hdata : (if (tok 3).data = 0 then (portTok (tokensAt tok [3, p]) 2).data else (portTok (tokensAt tok [3, p]) 1).data) =
      (tok p).data := by
    subst hp
    split <;> rfl
  simp only [State.fire, hs.block, hs.place, hs.started, if_false, hr]
  simp only [tokensAt_cons, hskew, h3, hdata, hc, hroom, Bool.false_eq_true, if_false, if_true, map_fst_tokensAt,
    any_poison_tokensAt]
  rfl

section
variable (hs : s.Runs b (.plain .tsend m) i)
  (hr : b.ready (s.cyc s.cur) (.plain .tsend m) = some ((1, tok 1) :: tokensAt tok [])) {j : Nat}
  (hj : s.neighbour s.cur m.imm.toNat = some j)
include hs hr hj

/-- TSEND waits while the queue of its channel is full, and while a span row takes the channel (13 R254, R256). -/
theorem State.fire_tsend_waits (h : 4 ≤ (kget [] (s.cluster j).tch ((m.imm.toNat + 4) % 8)).length ∨
    s.spanTakes j m.imm.toNat = true) : s.fire (.plain .tsend m) = s := by
  have hwait : (s.spanTakes j m.imm.toNat ||
      decide (4 ≤ (kget [] (s.cluster j).tch ((m.imm.toNat + 4) % 8)).length)) = true := by
    simpa [or_comm] using h
  have hskew : (tokensAt tok [1]).any (fun x => x.2.iter % 2 ^ 16 != (tok 1).iter % 2 ^ 16) = false := by simp [tokensAt]
  simp only [State.fire, hs.block, hs.place, hs.started, if_false, hr]
  simp only [tokensAt_cons, hskew, hj, hwait, Bool.false_eq_true, if_false, if_true]

theorem State.fire_tsend (hlen : (kget [] (s.cluster j).tch ((m.imm.toNat + 4) % 8)).length < 4)
    (hspan : s.spanTakes j m.imm.toNat = false) : s.fire (.plain .tsend m) =
      (s.updMe (fun c => { c with block := some ((b.take (.plain .tsend m) [1]).count i) })).sendToken j m.imm.toNat
        ⟨(tok 1).data, (tok 1).iter, (tok 1).poison, s.cyc s.cur + 2⟩ b.chain.toNat := by
  have hgo : (s.spanTakes j m.imm.toNat ||
      decide (4 ≤ (kget [] (s.cluster j).tch ((m.imm.toNat + 4) % 8)).length)) = false := by
    simp [hspan, hlen]
  have hskew : (tokensAt tok [1]).any (fun x => x.2.iter % 2 ^ 16 != (tok 1).iter % 2 ^ 16) = false := by simp [tokensAt]
  have h1 : portTok (tokensAt tok [1]) 1 = tok 1 := rfl
  have hpoison : (tokensAt tok [1]).any (fun x => x.2.poison) = (tok 1).poison := by simp [tokensAt]
  simp only [State.fire, hs.block, hs.place, hs.started, if_false, hr]
  simp only [tokensAt_cons, hskew, hj, hgo, h1, hpoison, Bool.false_eq_true, if_false, map_fst_tokensAt]
  rfl

end

section
variable (hs : s.Runs b (.plain .trecv m) i) {u : Token} {ch : Nat}
  {r : List (Token × Nat)} (hq : kget [] s.me.tch m.imm.toNat = (u, ch) :: r) (hdue : u.due ≤ s.cyc s.cur)
  (hk : kget 0 b.fired i < b.nextK) (hroom : b.room [m.d0, m.d1] = true)
include hs hq hdue hk hroom

/-- A token of another chain number stays in the queue of its channel (13 R255). -/
theorem State.fire_trecv_otherChain (h : ch ≠ b.chain.toNat) : s.fire (.plain .trecv m) =
    s.abortBlock s.cur 0x33 (skewInfo ch (8 * m.y.val + m.x.val) m.stage.val) := by
  rw [State.me] at hq
  simp only [State.fire, hs.block, hs.place, hs.started, State.fireRecv, hq, hdue.not_gt, hk.not_ge, hroom, Bool.not_true,
    Bool.false_eq_true, or_self, if_false, h, ne_eq, not_false_eq_true, if_true]

theorem State.fire_trecv (h : ch = b.chain.toNat) : s.fire (.plain .trecv m) = s.updMe (fun c => { c with
    tch := kset c.tch m.imm.toNat r
    block := some ((b.emit m.y m.x [m.d0, m.d1] (s.cyc s.cur + 1) u.data (kget 0 b.fired i) u.poison).count i) }) := by
  rw [State.me] at hq
  simp only [State.fire, hs.block, hs.place, hs.started, State.fireRecv, hq, hdue.not_gt, hk.not_ge, hroom, Bool.not_true,
    Bool.false_eq_true, or_self, if_false, h, ne_eq, not_true_eq_false]
  rfl

end

end

end Sys2Proof.Machine
end

section
/-! SUPPORT. The statement about the nodes of a running block (13 R246 to R258). -/

namespace Sys2Proof.Machine

theorem nopPorts_of_isForm {op : NOp} (h : op.isForm = true) : ∃ r, nopPorts op false = 1 :: r := by
  cases op <;> simp only [NOp.isForm, Bool.false_eq_true] at h <;> exact ⟨_, rfl⟩

theorem BNode.op_ne_merge_of_isForm {op : NOp} {n : Node} (h : op.isForm = true) : (BNode.plain op n).op ≠ .merge := by
  rintro rfl
  exact Bool.false_ne_true h

theorem BNode.ne_trecv_of_isForm {op : NOp} {n : Node} (h : op.isForm = true) (m : Node) :
    BNode.plain op n ≠ .plain .trecv m := by
  rintro ⟨⟩
  exact Bool.false_ne_true h

theorem data_portTok (tok : Nat → Token) (ps : List Nat) (p : Nat) :
    (portTok (tokensAt tok ps) p).data = if p ∈ ps then (tok p).data else 0 := by
  rw [portTok_tokensAt]
  split <;> rfl

theorem poison_portTok {tok : Nat → Token} {p : Nat} (ps : List Nat) (h : (tok p).poison = false) :
    (portTok (tokensAt tok ps) p).poison = false := by
  rw [portTok_tokensAt]
  split
  · exact h
  · rfl

theorem State.tch_updMe_block (s : State) (b : Block) (j : Nat) :
    ((s.updMe (fun c => { c with block := some b })).cluster j).tch = (s.cluster j).tch := by
  rw [← State.updCluster_focus]
  exact State.field_updCluster Cluster.tch s s.cur j fun _ => rfl

theorem State.tch_sendToken (s : State) (j n : Nat) (t : Token) (chain : Nat) :
    kget [] ((s.sendToken j n t chain).cluster j).tch ((n + 4) % 8) = kget [] (s.cluster j).tch ((n + 4) % 8) ++ [(t, chain)] := by
  rw [State.sendToken, State.cluster_updCluster_self, kget_kset_self]

theorem State.block_me_sendToken (s : State) (j n : Nat) (t : Token) (chain : Nat) :
    (s.sendToken j n t chain).me.block = s.me.block := State.field_updCluster Cluster.block s j s.cur fun _ => rfl

/-- Settles O45: a node's tokens stand at the heads of its ports, so it answers by the case of its kind. -/
theorem nodesFire : Obligations.NodesFire := by
  unfold Obligations.NodesFire
  intro s b n h i tok iter j u ch r now hb hbl hcfg here got tag tags marks fired sent d two chains
  have hforms : ∀ x ∈ two, exec x.1 s = .next (s.fire (.plain x.2.1 n)) ∧ x.2.1.isForm = true ∧
      x.2.2 = nopPorts x.2.1 false := by
    simp only [two, List.forall_mem_cons, List.not_mem_nil, false_implies, implies_true, and_true]
    and_intros <;> rfl
  have hchains : ∀ x ∈ chains, exec x.1 s = .next (s.fire (.chain x.2.1 h)) ∧ x.2.1 ≠ .merge ∧
      x.2.2 = (BNode.chain x.2.1 h).ports ∧ ∃ l, x.2.2 = 1 :: l := by
    simp only [chains, List.forall_mem_cons, List.not_mem_nil, false_implies, implies_true, and_true]
    refine ⟨⟨rfl, nofun, rfl, _, rfl⟩, ⟨rfl, nofun, rfl, _, rfl⟩, rfl, nofun, ?_, ?_⟩
    · simp [BNode.ports, nopPorts]
    · split <;> exact ⟨_, rfl⟩
  have hruns {bn : BNode} (hi : here bn) : s.Runs b bn i := ⟨hb, by simpa [hbl] using hcfg, hi⟩
  have hsame {p : Nat} {ps : List Nat} (h : tags (p :: ps)) :
      (tok p).iter = iter ∧ ∀ q ∈ p :: ps, (tok q).iter % 2 ^ 16 = (tok p).iter % 2 ^ 16 :=
    ⟨h.2 p rfl, fun q hq => (h.1 q hq).trans (h.1 p List.mem_cons_self).symm⟩
  refine ⟨?forms, ?missing, ?dselMarked, ?steer, ?merge, ?chain, ?tsend, ?trecv⟩
  case forms =>
    rintro ⟨ins, op, ps⟩ hx hi hgot a v
    obtain ⟨hexec, hop, hps⟩ := hforms _ hx
    obtain ⟨l, hl⟩ := nopPorts_of_isForm hop
    obtain rfl : ps = 1 :: l := hps.trans hl
    have hr : b.ready now (.plain op n) = some ((1, tok 1) :: tokensAt tok l) := by
      have hready := Block.ready_of_heads (BNode.op_ne_merge_of_isForm hop) (by rw [BNode.ports, hl]; exact hgot)
      rwa [BNode.ports, hl] at hready
    have hfire (ht : tags (1 :: l)) (hc : op = .dsel → (tok 3).poison = false) :=
      State.fire_form (hruns hi) hr (hsame ht).2 hop fun h => poison_portTok _ (hc h)
    refine ⟨fun ht hc hroom => ?_, fun ht hc hroom => ?_, fun hskew => ?_⟩
    · rw [hexec, hfire ht hc, if_pos hroom, (hsame ht).1]
      simp only [data_portTok]
      rfl
    · rw [hexec, hfire ht hc, if_neg (Bool.eq_false_iff.mp hroom)]
    · rw [hexec, State.fire_skewed (hruns hi) (BNode.ne_trecv_of_isForm hop) hr hskew]
      rfl
  case missing =>
    rintro ⟨ins, op, ps⟩ hx hi hmissing
    obtain ⟨hexec, hop, hps⟩ := hforms _ hx
    have hr := Block.ready_of_missing (BNode.op_ne_merge_of_isForm (n := n) hop) (by rw [BNode.ports, ← hps]; exact hmissing)
    rw [hexec, State.fire_unready (hruns hi) (BNode.ne_trecv_of_isForm hop) hr]
  case dselMarked =>
    intro hi hgot ht hc
    have hr : b.ready now (.plain .dsel n) = some (tokensAt tok [1, 2, 3]) := Block.ready_of_heads (by simp [BNode.op]) hgot
    exact congrArg _ (State.fire_marked (hruns hi) hr (hsame ht).2 (q := 3) rfl hc)
  case steer =>
    intro hi hgot ht to1
    have hr : b.ready now (.plain .steer n) = some (tokensAt tok [1, 2]) := Block.ready_of_heads (by simp [BNode.op]) hgot
    have hto : to1 = [if (tok 2).data = 0 then n.d1 else n.d0] := (apply_ite (fun d => [d]) _ _ _).symm
    refine ⟨fun hc => congrArg _ (State.fire_marked (hruns hi) hr (hsame ht).2 (q := 2) rfl hc), fun hc hroom => ?_⟩
    rw [hto] at hroom ⊢
    exact congrArg _ ((State.fire_steer (hruns hi) hr (hsame ht).2 hc hroom).trans (by rw [(hsame ht).1]; rfl))
  case merge =>
    intro hi hhead p hgot ht
    have hr : b.ready now (.plain .merge n) = some (tokensAt tok [3, p]) := Block.ready_merge hhead rfl hgot
    refine ⟨fun hc => congrArg _ (State.fire_marked (hruns hi) hr (hsame ht).2 (q := 3) rfl hc), fun hc hroom => ?_⟩
    exact congrArg _ ((State.fire_merge (hruns hi) rfl hr (hsame ht).2 hc hroom).trans (by rw [(hsame ht).1]; rfl))
  case chain =>
    rintro ⟨ins, op, ps⟩ hx hi hgot ht hroom a
    obtain ⟨hexec, hop, hps, l, rfl⟩ := hchains _ hx
    have hr := Block.ready_of_heads (n := .chain op h) hop (by rw [← hps]; exact hgot)
    rw [← hps] at hr
    rw [hexec, State.fire_chain (hruns hi) nofun hr (hsame ht).2 rfl hroom, (hsame ht).1, funext (portTok_tokensAt tok _)]
    rfl
  case tsend =>
    intro hi hgot hj q
    have hr : b.ready now (.plain .tsend n) = some (tokensAt tok [1]) := Block.ready_of_heads (by simp [BNode.op]) hgot
    refine ⟨fun hwait => congrArg _ (State.fire_tsend_waits (hruns hi) hr hj hwait), fun hlen hspan => ?_⟩
    refine ⟨_, congrArg Host.Outcome.next (State.fire_tsend (hruns hi) hr hj hlen hspan), rfl, ?_, ?_⟩
    · exact (State.tch_sendToken ..).trans (congrArg (kget [] · q ++ _) (State.tch_updMe_block ..))
    · exact (State.block_me_sendToken ..).trans (congrArg Cluster.block (State.me_updMe s _))
  case trecv =>
    intro hi hq hdue hk hroom
    exact ⟨fun h => congrArg _ (State.fire_trecv_otherChain (hruns hi) hq hdue hk hroom h),
      fun h => congrArg _ (State.fire_trecv (hruns hi) hq hdue hk hroom h)⟩

end Sys2Proof.Machine
end

section
/-! SUPPORT. The X commands at issue (14 R270, R273, R274, R279 to R284, R290; 03 R66). -/

namespace Sys2Proof.Machine

/-! ### Earlier accesses to the windows of a command's tiles (14 R280) -/

/-- The tiles that a command names. -/
def MOp.tiles : MOp → List Acc
  | .run t .. => [t]
  | .zero t => [t]
  | .add d t => [d, t]
  | _ => []

theorem MOp.names_iff_mem_tiles (op : MOp) (t : Acc) : op.names t = true ↔ t ∈ op.tiles := by
  cases op <;> simp only [MOp.names, MOp.tiles, Bool.or_eq_true, beq_iff_eq, Bool.false_eq_true, List.mem_cons,
    List.not_mem_nil, or_false, eq_comm (a := t)]

theorem any_filter_names (op : MOp) (p : Acc → Bool) : ((List.finRange 8).filter op.names).any p = op.tiles.any p := by
  rw [Bool.eq_iff_iff, List.any_eq_true, List.any_eq_true]
  simp only [List.mem_filter, List.mem_finRange, true_and, MOp.names_iff_mem_tiles]

theorem State.windowDeps_names (s : State) (op : MOp) :
    s.windowDeps ((List.finRange 8).filter op.names) = s.windowDeps op.tiles := by
  simp only [State.windowDeps, any_filter_names]

/-! ### What joins the queue (14 R279) -/

/-- The command that joins the queue at issue: its word, its signal, and the accesses it follows. -/
def State.issued (s : State) (c : EClause) (op : MOp) : MCmd :=
  ⟨s.nextId, op, c.gsem, c.ginc.toInt, s.curFw, s.windowDeps op.tiles, none, 0, 0, false, s.slotWord⟩

/-- A command joins the queue of an engine whose other state changes by `f`. -/
def Cluster.queued (f : Mx → Mx) (d : MCmd) (m : Cluster) : Cluster := { m with mx := { f m.mx with queue := m.mx.queue ++ [d] } }

/-- The state once a command has been issued. -/
def State.queued (s : State) (c : EClause) (op : MOp) (f : Mx → Mx) : State :=
  { s.updMe (Cluster.queued f (s.issued c op)) with nextId := s.nextId + 1 }

/-- One more span has been issued (14 R291). -/
def Mx.countSpan (x : Mx) : Mx := { x with spans := x.spans + 1 }

theorem State.mxEnqueue_eq (s : State) (c : EClause) (op : MOp) : s.mxEnqueue c op = s.queued c op id := by
  simp only [State.mxEnqueue, State.windowDeps_names]
  rfl

theorem State.mxEnqueue_countSpan (s : State) (c : EClause) (op : MOp) :
    (s.updMe (fun k => { k with mx := k.mx.countSpan })).mxEnqueue c op = s.queued c op Mx.countSpan := by
  rw [State.mxEnqueue_eq, State.queued, State.updMe_updMe]
  rfl

/-! ### What issue leaves unchanged -/

/-- The context in focus, the memory, the messages, the modules and every other cluster are as they were. -/
def State.Quiet (s t : State) : Prop := t.ctx = s.ctx ∧ t.mem = s.mem ∧ t.pmem = s.pmem ∧ t.net = s.net ∧ t.md = s.md ∧
  ∀ j, j ≠ s.cur → t.cluster j = s.cluster j

theorem State.quiet_updMe (s : State) {g : Cluster → Cluster} (h : (g s.me).ctx s.curFw = s.me.ctx s.curFw) :
    s.Quiet (s.updMe g) :=
  ⟨(s.ctx_updMe g).trans h, rfl, rfl, rfl, rfl, fun _ hj => s.cluster_setCluster_of_ne _ hj⟩

theorem State.quiet_queued (s : State) (c : EClause) (op : MOp) (f : Mx → Mx) : s.Quiet (s.queued c op f) :=
  s.quiet_updMe (g := Cluster.queued f (s.issued c op)) rfl

theorem State.me_queued (s : State) (c : EClause) (op : MOp) (f : Mx → Mx) :
    (s.queued c op f).me = s.me.queued f (s.issued c op) := s.me_updMe _

/-- The signal of a clause joins the increments of the next cycle; none of 0 does. -/
def Cluster.signalled (c : EClause) (m : Cluster) : Cluster :=
  { m with semNext := m.semNext ++ (if c.ginc = 0 then [] else [(c.gsem, c.ginc.toInt)]) }

theorem Cluster.signalNext_eq (m : Cluster) (c : EClause) : m.signalNext c.gsem c.ginc.toInt = m.signalled c := by
  have hzero : c.ginc.toInt = 0 ↔ c.ginc = 0 := by
    rw [← BitVec.toInt_inj]
    rfl
  unfold Cluster.signalNext Cluster.signalled
  by_cases h : c.ginc = 0
  · rw [if_pos (hzero.mpr h), if_pos h, List.append_nil]
  · rw [if_neg (mt hzero.mp h), if_neg h]

/-! ### The commands at issue -/

/-- The checks that come before every command of the program alone: the context (14 R270), then the clause (16 R307). -/
def State.programOnly (s : State) (c : EClause) (t : State) : State :=
  if s.curFw then s.illegalOp else if s.clauseBad c then s.illegalField else t

section
variable {s : State} {c : EClause} (t : State)

theorem State.programOnly_firmware (h : s.curFw = true) : s.programOnly c t = s.illegalOp := if_pos h

theorem State.programOnly_badClause (hfw : s.curFw = false) (hc : s.clauseBad c = true) : s.programOnly c t = s.illegalField := by
  rw [State.programOnly, if_neg (Bool.eq_false_iff.mp hfw), if_pos hc]

theorem State.programOnly_passed (hfw : s.curFw = false) (hc : s.clauseBad c = false) : s.programOnly c t = t := by
  rw [State.programOnly, if_neg (Bool.eq_false_iff.mp hfw), if_neg (Bool.eq_false_iff.mp hc)]

end

/-- The format that a field of MCFG names, `f` where it names FMTCFG's (14 R274). -/
def fmtNamed (v f : Nat) : Fin 16 := Fin.ofNat 16 (if v % 16 = 15 then f else v)

section
variable (s : State) (c : EClause) (r : SReg) (km1 nm1 : Fin 32) (nsel : Fin 8) (acc src : Acc) (rows : Fin 512)

theorem exec_mcfg : exec (.mcfg r c) s = .next (s.programOnly c (
    let x := s.ctx.rdS r
    let v := x.val.toNat
    let a := fmtNamed v s.me.fmtcfg.toNat
    let w := fmtNamed (v / 16) (s.me.fmtcfg.toNat / 16)
    if x.poison then s.poisonUse
    else if v < 512 ∧ mxRate a w ≠ none then s.queued c (.cfg a w (v.testBit 8)) id
    else s.raise 0x61 (x.val.setWidth 32))) := by
  have hbad (v : Nat) (q : Option Nat) : (v ≥ 512 ∨ q.isNone = true) ↔ ¬ (v < 512 ∧ q ≠ none) := by
    rw [not_and_or, not_lt, not_not, Option.isNone_iff_eq_none]
  show execMcfg r c s = _
  simp only [execMcfg, hbad, ite_not, State.mxEnqueue_eq, bitAt_toNat, BitVec.ofNat_toNat]
  rfl

theorem exec_mldw : exec (.mldw km1 nm1 c) s = .next (s.programOnly c (s.queued c (.ldw (km1.val + 1) (nm1.val + 1) 0) id)) := by
  rw [← State.mxEnqueue_eq]
  rfl

theorem exec_mldwSp : exec (.mldwSp km1 nm1 nsel c) s = .next (s.programOnly c (s.queued c (.ldw 128 (nm1.val + 1) nsel.val) id)) := by
  rw [← State.mxEnqueue_eq]
  rfl

theorem exec_mzero : exec (.mzero acc c) s = .next (s.programOnly c (s.queued c (.zero acc) id)) := by
  rw [← State.mxEnqueue_eq]
  rfl

theorem exec_madd : exec (.madd acc src c) s = .next (s.programOnly c (s.queued c (.add acc src) id)) := by
  rw [← State.mxEnqueue_eq]
  rfl

theorem exec_mrun : exec (.mrun acc rows c) s = .next (s.programOnly c (
    if s.me.mx.hasLoad then s.queued c (.run acc (rows.val + 1) s.me.padm.toNat false (rows.val + 1) s.me.mx.scale) id
    else s.raise 0x64 0)) := by
  rw [← State.mxEnqueue_eq]
  cases h : s.me.mx.hasLoad <;> simp [exec, execMrun, State.issueRun, State.programOnly, h]

theorem exec_mrunSpan {r0 c0 nr nc : Nat} (h : regionOf s.cur s.me = (r0, c0, nr, nc)) :
    exec (.mrunSpan acc rows c) s = .next (s.programOnly c (
      if s.me.mx.hasLoad then
        if nr ≤ 16 ∧ nc ≤ 24 ∧ rows.val + 1 ≤ 32 * nr then s.queued c
          (.run acc (min 32 (rows.val + 1 - 32 * (rowOf s.cur - r0))) s.me.padm.toNat true (rows.val + 1) s.me.mx.scale) Mx.countSpan
        else s.raise 0x65 (BitVec.ofNat 32 (rows.val + 1))
      else s.raise 0x64 0)) := by
  have hspan : (true && (decide (nr > 16) || decide (nc > 24) || decide (rows.val + 1 > 32 * nr))) = true ↔
      ¬ (nr ≤ 16 ∧ nc ≤ 24 ∧ rows.val + 1 ≤ 32 * nr) := by
    simp only [not_and_or, not_le, Bool.true_and, Bool.or_eq_true, decide_eq_true_eq, or_assoc, gt_iff_lt]
  rw [← State.mxEnqueue_countSpan]
  show execMrunSpan acc rows c s = _
  cases hl : s.me.mx.hasLoad
  · simp only [execMrunSpan, State.issueRun, h, hl]
    rfl
  · simp only [execMrunSpan, State.issueRun, h, hl, hspan, ite_not]
    rfl

/-- The commands that the program alone issues, but MSCL. -/
def programCommands : List Instr :=
  [.mcfg r c, .mldw km1 nm1 c, .mldwSp km1 nm1 nsel c, .mrun acc rows c, .mrunSpan acc rows c, .mzero acc c, .madd acc src c]

theorem exec_programCommands : ∀ i ∈ programCommands c r km1 nm1 nsel acc src rows,
    ∃ t, exec i s = .next (s.programOnly c t) := by
  simp only [programCommands, List.forall_mem_cons]
  exact ⟨⟨_, exec_mcfg s c r⟩, ⟨_, exec_mldw s c km1 nm1⟩, ⟨_, exec_mldwSp s c km1 nm1 nsel⟩, ⟨_, exec_mrun s c acc rows⟩,
    ⟨_, exec_mrunSpan s c acc rows rfl⟩, ⟨_, exec_mzero s c acc⟩, ⟨_, exec_madd s c acc src⟩,
    fun _ h => absurd h List.not_mem_nil⟩

end

theorem exec_mscl_firmware {s : State} (h : s.curFw = true) (r : SReg) (c : EClause) :
    exec (.mscl r c) s = .next s.illegalOp := congrArg _ (if_pos h)

theorem exec_mwait (s : State) (acc : Acc) (c : EClause) : exec (.mwait acc c) s = .next (
    if s.clauseBad c then s.illegalField else if s.me.mx.busy acc then s else s.updMe (Cluster.signalled c)) := by
  show execMwait acc c s = _
  simp only [execMwait, Cluster.signalNext_eq]

theorem exec_engineNop (s : State) (slot : EngSlot) (c : EClause) : exec (.engineNop slot c) s = .next (
    if s.clauseBad c then s.illegalField else s.updMe (Cluster.signalled c)) := by
  show execEngineNop slot c s = _
  simp only [execEngineNop, Cluster.signalNext_eq]

/-! ### Format pairs and tiles to be loaded (14 R284, Table 14.4) -/

theorem mxRate_eq (a w : Fin 16) : mxRate a w =
    (if (a ∈ [7, 10, 14] ∧ w ∈ [7, 10, 14]) ∨ (a = w ∧ a ∈ [1, 2, 13]) then some 1
      else if (a ∈ [3, 4] ∧ w ∈ [3, 4]) ∨ (a = 12 ∧ w = 12) then some 2 else if a = 11 ∧ w = 11 then some 4 else none) := by
  revert a w
  decide

/-- What a command does to whether a tile is loaded or will be. -/
def MCmd.loads (d : MCmd) (b : Bool) : Bool := match d.op with
  | .cfg .. => false
  | .ldw .. => b || !d.bad
  | _ => b

theorem loadsAfter_cons (b : Bool) (d : MCmd) (q : List MCmd) : loadsAfter b (d :: q) = loadsAfter (d.loads b) q := by
  obtain ⟨_, op, _⟩ := d
  cases op <;> rfl

theorem loadsAfter_append (b : Bool) (d : MCmd) (q : List MCmd) : loadsAfter b (q ++ [d]) = d.loads (loadsAfter b q) := by
  induction q generalizing b with
  | nil => exact loadsAfter_cons b d []
  | cons x q ih => rw [List.cons_append, loadsAfter_cons, loadsAfter_cons, ih]

/-! ### The statement -/

/-- Settles O41: each command is its checks, then one command more in the queue or one signal more. -/
theorem matrixCommands : Obligations.MatrixCommands := by
  intro s r km1 nm1 nsel acc src rows slot c a w m x v at_ ta tw quiet tiles behind joins signals R mine
  have hjoins {i : Instr} {op : MOp} {f : Mx → Mx} (h : exec i s = .next (s.queued c op f)) : joins i op f :=
    ⟨_, h, s.quiet_queued c op f, rfl, s.me_queued c op f⟩
  have hsignals {i : Instr} (h : exec i s = .next (s.updMe (Cluster.signalled c))) : signals i :=
    ⟨_, h, s.quiet_updMe rfl, s.me_updMe _⟩
  have hmine : ∀ i ∈ mine, ∃ t, exec i s = .next (s.programOnly c t) := exec_programCommands s c r km1 nm1 nsel acc src rows
  refine ⟨?firmware, ?badClause, ?signal, ?issue, mxRate_eq a w, ?loads⟩
  case firmware =>
    refine fun hfw => ⟨fun i hi => ?_, exec_mscl_firmware hfw r c⟩
    obtain ⟨t, ht⟩ := hmine i hi
    rw [ht, State.programOnly_firmware t hfw]
  case badClause =>
    refine fun hc => ⟨fun hfw i hi => ?_, ?_, ?_⟩
    · obtain ⟨t, ht⟩ := hmine i hi
      rw [ht, State.programOnly_badClause t hfw hc]
    · rw [exec_mwait, if_pos hc]
    · rw [exec_engineNop, if_pos hc]
  case signal =>
    intro hc
    have hc : ¬ s.clauseBad c = true := Bool.eq_false_iff.mp hc
    refine ⟨fun hb => hsignals ?_, fun hb => ?_, hsignals ?_⟩
    · rw [exec_mwait, if_neg hc, if_neg (Bool.eq_false_iff.mp hb)]
    · rw [exec_mwait, if_neg hc, if_pos hb]
    · rw [exec_engineNop, if_neg hc]
  case issue =>
    intro hfw hc
    have hgo (t : State) := State.programOnly_passed t hfw hc
    refine ⟨fun hx => ?_, fun hx => ⟨fun hv => hjoins ?_, fun hv => ?_⟩, hjoins ?_, hjoins ?_, fun hl => ⟨?_, ?_⟩,
      fun hl => ⟨hjoins ?_, fun r0 c0 nr nc hregion => ⟨fun hs => hjoins (f := Mx.countSpan) ?_, fun hs => ?_⟩⟩,
      hjoins ?_, hjoins ?_⟩
    · rw [exec_mcfg, hgo, if_pos hx]
    · rw [exec_mcfg, hgo, if_neg (Bool.eq_false_iff.mp hx)]
      exact congrArg _ (if_pos hv)
    · rw [exec_mcfg, hgo, if_neg (Bool.eq_false_iff.mp hx)]
      exact congrArg _ (if_neg hv)
    · rw [exec_mldw, hgo]
    · rw [exec_mldwSp, hgo]
    · rw [exec_mrun, hgo, if_neg (Bool.eq_false_iff.mp hl)]
    · rw [exec_mrunSpan s c acc rows rfl, hgo, if_neg (Bool.eq_false_iff.mp hl)]
    · rw [exec_mrun, hgo, if_pos hl]
    · rw [exec_mrunSpan s c acc rows hregion, hgo, if_pos hl, if_pos hs]
    · rw [exec_mrunSpan s c acc rows hregion, hgo, if_pos hl, if_neg hs]
    · rw [exec_mzero, hgo]
    · rw [exec_madd, hgo]
  case loads =>
    refine fun z => ⟨fun hz => ?_, fun d => loadsAfter_append z.loaded d z.queue⟩
    rw [Mx.hasLoad, hz, loadsAfter]

end Sys2Proof.Machine
end

section
/-! SUPPORT. The start of a matrix command that reaches beyond its cluster: the rows of a span go on to the east (14 R291). -/

namespace Sys2Proof.Machine

/-- A span of one row, not started, that waits for nothing. -/
def westSpan : MCmd := ⟨0, .run 0 1 0 true 1 (List.replicate 16 0x3F80), 0, 0, false, [], none, 0, 0, false, 0⟩

/-- An activation row or a weight column of 16 integers 1 in the reset formats. -/
def rowOfOnes : List Lane := List.replicate 16 ⟨1, false⟩

/-- Cluster 0 as the west column of a region of one row and two columns: its array holds a column of weights, its span is alone
in the queue, and the span's one row is in FIFO A. -/
def spanWest : State := { State.reset with
  cl := [(0, { Cluster.reset with
    bind := some ⟨0, 0, 0, 1, 2, 0, 0⟩
    mx := { Mx.reset with
      fifoA := rowOfOnes, wvalid := true, k := 16, cols := [rowDecode 7 16 rowOfOnes], loaded := true
      queue := [westSpan], spans := 1 } })] }

/-- The start of the span passes its row on: the engine of cluster 1 has it on its way in, with span count 1, two cycles and one
more for its bytes away. -/
theorem spanWest_forwards : ∃ t, exec (.matrixCmdStart 0) spanWest = .next t ∧ (t.cluster 1).mx.rowsIn = [(3, 1, rowOfOnes)] :=
  ⟨_, rfl, by decide +kernel⟩

/-- Refutes O42: the start of a lone command is said to leave every other cluster as it was, of every command. An MRUN.span in a
column that is not its region's last forwards the row it obtains to its east neighbour (14 R291), whose engine changes. -/
theorem not_matrixEffects : ¬ Obligations.MatrixEffects := by
  intro h
  obtain ⟨-, -, hstart, -⟩ := h spanWest 0 0 0 0 0 0 ⟨false, 0, 0, 0, 0⟩ 0 westSpan []
    (0, ⟨true, false, .resident, true, true, .local, 0, 4096, 0, false, false, 0, 0, none⟩) Mx.reset 0 0 0
  obtain ⟨t, ht, -, hothers, -⟩ := hstart rfl rfl rfl rfl (.inl rfl) rfl rfl
  obtain ⟨u, hu, hrow⟩ := spanWest_forwards
  have htu : u = t := by injection hu.symm.trans ht
  have hreset : spanWest.cluster 1 = Cluster.reset := rfl
  rw [htu, hothers 1 Nat.one_ne_zero, hreset] at hrow
  cases hrow

end Sys2Proof.Machine
end

section
/-! SUPPORT. Taking a fault (24 R383, R384; 03 R75): what the context saves, and that nothing else of the chain changes. -/

namespace Sys2Proof.Machine

/-- A change of the context in focus reaches no other context. -/
theorem State.ctxOf_updCtx_of_ne (s : State) (g : Ctx → Ctx) {k : Nat} {fw : Bool} (h : (k, fw) ≠ (s.cur, s.curFw)) :
    (s.updCtx g).ctxOf k fw = s.ctxOf k fw := by
  rcases eq_or_ne k s.cur with rfl | hk
  · have hfw : fw = !s.curFw := Bool.eq_not_of_ne fun he => h (congrArg _ he)
    rw [hfw]
    exact s.ctxOf_setCtxOf_not s.cur s.curFw _
  · exact s.ctxOf_setCtxOf_of_ne s.curFw fw _ hk

/-- The record of a fault in a slot of the bundle being issued, or in its header. -/
def State.savedRec (s : State) (code : Nat) (info : Word) (sw : BitVec 11) (slot : Nat) (hdr : Bool) (va : Nat) : FaultRec :=
  { s.faultRec code info sw slot va with hdr := hdr }

/-- Settles O30: each of the three is `Ctx.takeFault` on the context in focus with a record of its own. -/
theorem takingAFault : Obligations.TakingAFault := by
  intro s code va info sw taken
  have of_takeFault (slot : Nat) (sw : BitVec 11) (hdr : Bool) (va : Nat) (stop : Bool) :
      taken { s.updCtx (fun c => c.takeFault (s.savedRec code info sw slot hdr va)) with stop := stop } slot sw hdr va := by
    let save (c : Ctx) : Ctx := c.takeFault (s.savedRec code info sw slot hdr va)
    have hctx : ({ s.updCtx save with stop := stop } : State).ctx = save s.ctx := s.ctx_updCtx save
    refine ⟨?_, fun k fw => s.ctxOf_updCtx_of_ne save, rfl, rfl, rfl, rfl, rfl⟩
    rw [hctx]
    exact ⟨rfl, rfl, rfl, rfl, rfl, rfl, rfl, rfl, rfl, rfl, rfl, rfl, rfl, rfl⟩
  exact ⟨⟨of_takeFault s.slot 0 false va true, rfl⟩, ⟨of_takeFault 14 sw false 0 s.stop, rfl⟩, of_takeFault 0 0 true 0 true, rfl⟩

end Sys2Proof.Machine
end

section
/-! SUPPORT. Words of spaces 1 and 2 written from outside a cluster's program (16 R312, R314; 18 R329; 26 R422, R429). -/

namespace Sys2Proof.Machine

/-- The number that the low bytes of a number hold is its remainder. -/
theorem ofBytes_toBytes (n x : Nat) : ofBytes (toBytes n x) = x % 256 ^ n := by
  induction n generalizing x with
  | zero => simp [toBytes, ofBytes, Nat.mod_one]
  | succ n ih =>
    rw [toBytes, ofBytes, ih, BitVec.toNat_ofNat, pow_succ' 256 n, Nat.mod_mul]

/-- The signed reading of the low 16 bits of a word. -/
theorem sext16_toNat (v : Word) : sext 16 v.toNat = (v.setWidth 16).toInt := by
  rw [sext_eq_toInt 16 _ (by decide), BitVec.ofNat_toNat]

/-! ### Semaphore words (16 R312, R314) -/

theorem Cluster.semWordOk_outside (c : Cluster) (n : Fin 256) : c.semWordOk false n = !c.semLocal.getLsbD n.val := rfl

theorem Cluster.signalWord_outside (c : Cluster) (n : Fin 256) (v : Word) : c.signalWord false n v =
    if c.semLocal.getLsbD n.val then { c with sync := c.sync ||| 4 }
    else { c with semIncs := c.semIncs ++ [(n, (v.setWidth 16).toInt)] } := by
  rw [Cluster.signalWord, Cluster.semWordOk_outside, sext16_toNat]
  cases c.semLocal.getLsbD n.val <;> rfl

theorem Cluster.setWord_outside (c : Cluster) (n : Fin 256) (v : Word) : c.setWord false n v =
    if c.semLocal.getLsbD n.val then { c with sync := c.sync ||| 4 }
    else { c with semWords := c.semWords ++ [(n, (v.setWidth 16).toInt)] } := by
  rw [Cluster.setWord, Cluster.semWordOk_outside, sext16_toNat]
  cases c.semLocal.getLsbD n.val <;> rfl

/-- Changes of a cluster that agree on it as it stands give one state. -/
theorem State.updCluster_congr {s : State} {k : Nat} {f g : Cluster → Cluster} (h : f (s.cluster k) = g (s.cluster k)) :
    s.updCluster k f = s.updCluster k g := congrArg (s.setCluster k) h

theorem exec_semSignalWordWrite (s : State) (k : Nat) (n : Fin 256) (v : Word) :
    exec (.semSignalWordWrite k n v) s = .next (s.updCluster k (fun c => c.signalWord false n v)) := rfl

theorem exec_semSetWordWrite (s : State) (k : Nat) (n : Fin 256) (v : Word) :
    exec (.semSetWordWrite k n v) s = .next (s.updCluster k (fun c => c.setWord false n v)) := rfl

/-! ### A register write of the management port (26 R429) -/

/-- Does a write of 8 bytes at an offset touch the tile window? -/
abbrev touchesTiles (off : Nat) : Prop := 0x8000 ≤ off + 7 ∧ off < 0x10000

/-- May management write the control block of cluster `p` (26 R422)? -/
abbrev State.mgmtMay (s : State) (p : Nat) : Prop :=
  (s.module (modOf p)).power = .on ∧ (s.cluster p).acctab.getLsbD 37 = true

section
variable {s : State} {pa : Nat} {x : DWord}

theorem State.tilesBusy_of_outside (h : ¬ touchesTiles (pa % 2 ^ 22)) : s.tilesBusy pa 8 = false := by
  have hout : ∀ a, a = pa ∨ a = pa + 8 - 1 → inTiles a = false := by
    intro a ha
    rw [inTiles, Bool.and_assoc, ← Bool.decide_and, Bool.and_eq_false_iff, decide_eq_false_iff_not]
    exact .inr (by omega)
  rw [State.tilesBusy, State.tileBusy, State.tileBusy, hout _ (.inl rfl), hout _ (.inr rfl)]
  rfl

theorem exec_registerWrite (hs : paSpace pa = 2) : exec (.registerWrite pa x) s =
    .next (if s.tilesBusy pa 8 then s.holdInput (.registerWrite pa x) else s.agentWrite mMgmt pa x) :=
  congrArg _ (if_neg (not_not.mpr hs))

theorem exec_registerWrite_of_outside (hs : paSpace pa = 2) (h : ¬ touchesTiles (pa % 2 ^ 22)) :
    exec (.registerWrite pa x) s = .next (s.agentWrite mMgmt pa x) := by
  rw [exec_registerWrite hs, State.tilesBusy_of_outside h]
  rfl

theorem exec_registerWrite_of_space (hs : paSpace pa ≠ 2) : exec (.registerWrite pa x) s = .next s :=
  congrArg _ (if_pos hs)

theorem exec_registerWrite_of_busy (hs : paSpace pa = 2) (h : s.tilesBusy pa 8 = true) :
    exec (.registerWrite pa x) s = .next (s.holdInput (.registerWrite pa x)) := by
  rw [exec_registerWrite hs, h]
  rfl

/-- A bit of a field is a bit of the number it is taken of. -/
theorem bitAt_fld (x lo : Nat) {n i : Nat} (h : i < n) : bitAt (fld x lo n) i = bitAt x (lo + i) := by
  have hbit : ∀ y j, bitAt y j = y.testBit j := fun y j => by rw [Nat.testBit_eq_decide_div_mod_eq, bitAt, beq_eq_decide]
  rw [hbit, hbit, fld, Nat.testBit_mod_two_pow, decide_eq_true h, Bool.true_and, Nat.testBit_div_two_pow, Nat.add_comm]

/-- Management's writes of a control block outside the queues' registers go by bit 37 of its access table. -/
theorem State.accOk_mgmt (hs : paSpace pa = 2) (hq : queueOf (paCluster pa) (pa % 2 ^ 22) = none) :
    s.accOk mMgmt pa true = (s.cluster (paCluster pa)).acctab.getLsbD 37 := by
  rw [State.accOk, State.accTable, if_neg (by omega), if_pos hs, hq]
  exact (bitAt_fld _ 32 (by decide)).trans (bitAt_toNat _ 37)

theorem State.agentWrite_mgmt (hs : paSpace pa = 2) (hq : queueOf (paCluster pa) (pa % 2 ^ 22) = none) :
    s.agentWrite mMgmt pa x = if s.mgmtMay (paCluster pa) then
      s.performWrite mMgmt false pa ((toBytes 8 x.toNat).map (fun b => (b, false))) else s := by
  rw [State.agentWrite, State.accOk_mgmt hs hq]

theorem queueOf_of_outside {k off : Nat} (h : ¬ (k % 4096 = 0 ∧ 0x5000 ≤ off ∧ off < 0x6000)) : queueOf k off = none := if_neg h

theorem ofBytes_unmarked : ofBytes (((toBytes 8 x.toNat).map (fun b => (b, false))).map (·.1)) = x.toNat := by
  rw [List.map_map]
  show ofBytes ((toBytes 8 x.toNat).map id) = _
  rw [List.map_id, ofBytes_toBytes]
  exact Nat.mod_eq_of_lt x.isLt

/-- 8 bytes at an aligned offset outside the semaphores' words and the tiles are a write to a register. -/
theorem State.performWrite_register (hs : paSpace pa = 2) (hsem : ¬ (0x2000 ≤ pa % 2 ^ 22 ∧ pa % 2 ^ 22 < 0x2800))
    (ht : ¬ touchesTiles (pa % 2 ^ 22)) (m : Nat) :
    s.performWrite m false pa ((toBytes 8 x.toNat).map (fun b => (b, false))) =
      if pa % 8 = 0 then s.ctlWrite (paCluster pa) (pa % 2 ^ 22) m x else s := by
  have h8 : pa % 2 ^ 22 % 8 = pa % 8 := by omega
  rw [State.performWrite, if_neg (by omega), if_neg (by omega), if_pos hs, if_neg hsem, if_neg (by omega), ofBytes_unmarked,
    List.length_map, length_toBytes, h8, BitVec.ofNat_toNat, BitVec.setWidth_eq]
  exact if_congr (and_iff_right rfl) rfl rfl

/-- 8 bytes are no semaphore word. -/
theorem State.performWrite_semaphore (hs : paSpace pa = 2) (hsem : 0x2000 ≤ pa % 2 ^ 22 ∧ pa % 2 ^ 22 < 0x2800) (m : Nat) :
    s.performWrite m false pa ((toBytes 8 x.toNat).map (fun b => (b, false))) =
      s.updCluster (paCluster pa) (fun c => { c with sync := c.sync ||| 8 }) := by
  rw [State.performWrite, if_neg (by omega), if_neg (by omega), if_pos hs, if_pos hsem, List.length_map, length_toBytes,
    if_pos (by decide)]

/-- A write of management to an aligned register outside the queues, the semaphores and the tiles. -/
theorem exec_registerWrite_register (hs : paSpace pa = 2) (ht : ¬ touchesTiles (pa % 2 ^ 22))
    (hq : ¬ (paCluster pa % 4096 = 0 ∧ 0x5000 ≤ pa % 2 ^ 22 ∧ pa % 2 ^ 22 < 0x6000))
    (hsem : ¬ (0x2000 ≤ pa % 2 ^ 22 ∧ pa % 2 ^ 22 < 0x2800)) (h8 : pa % 8 = 0) :
    exec (.registerWrite pa x) s = .next (if s.mgmtMay (paCluster pa) then
      s.ctlWrite (paCluster pa) (pa % 2 ^ 22) mMgmt x else s) := by
  rw [exec_registerWrite_of_outside hs ht, State.agentWrite_mgmt hs (queueOf_of_outside hq),
    State.performWrite_register hs hsem ht, if_pos h8]

/-- A register that takes effect where management may write is the one that `ctlWrite` answers. -/
theorem exec_registerWrite_at {o : Nat} {t : State} (ho : o % 8 = 0 ∧ o < 0x5000 ∧ ¬ (0x2000 ≤ o ∧ o < 0x2800))
    (hw : s.ctlWrite (paCluster pa) o mMgmt x = t) (hs : paSpace pa = 2) (hoff : pa % 2 ^ 22 = o) (hmay : s.mgmtMay (paCluster pa)) :
    exec (.registerWrite pa x) s = .next t := by
  rw [exec_registerWrite_register hs (by omega) (by omega) (by omega) (by omega), if_pos hmay, hoff, hw]

theorem exec_registerWrite_readOnly {o : Nat} (ho : o % 8 = 0 ∧ o < 0x5000 ∧ ¬ (0x2000 ≤ o ∧ o < 0x2800))
    (hw : s.ctlWrite (paCluster pa) o mMgmt x = s) (hs : paSpace pa = 2) (hoff : pa % 2 ^ 22 = o) :
    exec (.registerWrite pa x) s = .next s := by
  rw [exec_registerWrite_register hs (by omega) (by omega) (by omega) (by omega), hoff, hw, ite_self]

/-- Without the table's permission, or without logic supply, nothing is written. -/
theorem exec_registerWrite_refused (ht : ¬ touchesTiles (pa % 2 ^ 22))
    (hq : ¬ (paCluster pa % 4096 = 0 ∧ 0x5000 ≤ pa % 2 ^ 22 ∧ pa % 2 ^ 22 < 0x6000)) (hmay : ¬ s.mgmtMay (paCluster pa)) :
    exec (.registerWrite pa x) s = .next s := by
  by_cases hs : paSpace pa = 2
  · rw [exec_registerWrite_of_outside hs ht, State.agentWrite_mgmt hs (queueOf_of_outside hq), if_neg hmay]
  · exact exec_registerWrite_of_space hs

/-- A write that is not aligned, outside the semaphores and the tiles, is discarded. -/
theorem exec_registerWrite_misaligned (hs : paSpace pa = 2) (h8 : pa % 8 ≠ 0) (ht : ¬ touchesTiles (pa % 2 ^ 22))
    (hsem : ¬ (0x2000 ≤ pa % 2 ^ 22 ∧ pa % 2 ^ 22 < 0x2800)) : exec (.registerWrite pa x) s = .next s := by
  rw [exec_registerWrite_of_outside hs ht, State.agentWrite, State.performWrite_register hs hsem ht, if_neg h8, ite_self]

theorem exec_registerWrite_semaphore (hs : paSpace pa = 2) (hsem : 0x2000 ≤ pa % 2 ^ 22 ∧ pa % 2 ^ 22 < 0x2800)
    (hmay : s.mgmtMay (paCluster pa)) : exec (.registerWrite pa x) s =
      .next (s.updCluster (paCluster pa) (fun c => { c with sync := c.sync ||| 8 })) := by
  rw [exec_registerWrite_of_outside hs (by omega), State.agentWrite_mgmt hs (queueOf_of_outside (by omega)), if_pos hmay,
    State.performWrite_semaphore hs hsem]

theorem exec_registerWrite_busyTile (hs : paSpace pa = 2) (ht : touchesTiles (pa % 2 ^ 22)) (h4 : pa % 4 = 0)
    (hin : pa % 0x1000 ≤ 0xFF8)
    (hb : (s.cluster (paCluster pa)).mx.busy (Fin.ofNat 8 ((pa % 2 ^ 22 - 0x8000) / 0x1000)) = true) :
    exec (.registerWrite pa x) s = .next (s.holdInput (.registerWrite pa x)) := by
  have hoff : 0x8000 ≤ pa % 2 ^ 22 := by omega
  have hbusy : s.tileBusy pa = true := by
    rw [State.tileBusy, hb, inTiles, hs, decide_eq_true hoff, decide_eq_true ht.2]
    rfl
  exact exec_registerWrite_of_busy hs (by rw [State.tilesBusy, hbusy, Bool.true_or])

/-! ### The registers that management writes -/

variable (s) (k : Nat) (x : DWord)

theorem State.ctlWrite_fence : s.ctlWrite k 0x300 mMgmt x = s.updCluster k (fun c => { c with fenced := x.getLsbD 0 }) := by
  rw [← bitAt_toNat]; rfl

theorem State.ctlWrite_syncstat : s.ctlWrite k 0x2800 mMgmt x = s.updCluster k (fun c => { c with sync := x.setWidth 4 }) := by
  rw [← BitVec.ofNat_toNat]; rfl

/-- The bits of the access table that stand for a master. -/
theorem accessMask_bits : ∀ i < 64, (0x0003FFFF0003FFFF : DWord).getLsbD i = (decide (i < 18) || decide (32 ≤ i ∧ i < 50)) := by
  decide

/-- The access table's two fields of 18 bits. -/
theorem ofNat_accessTable (x : DWord) : BitVec.ofNat 64 (fld x.toNat 0 18 + fld x.toNat 32 18 * 2 ^ 32) = x &&& 0x0003FFFF0003FFFF := by
  refine BitVec.eq_of_getLsbD_eq fun i hi => ?_
  have hlow : fld x.toNat 0 18 < 2 ^ 32 := (Nat.mod_lt _ (by decide)).trans (by decide)
  rw [BitVec.getLsbD_ofNat, decide_eq_true hi, Bool.true_and, BitVec.getLsbD_and, accessMask_bits i hi, Nat.add_comm, Nat.mul_comm,
    Nat.testBit_two_pow_mul_add _ hlow, fld, fld, Nat.testBit_mod_two_pow, Nat.testBit_mod_two_pow, Nat.testBit_div_two_pow,
    Nat.testBit_div_two_pow, BitVec.testBit_toNat, BitVec.testBit_toNat]
  split_ifs with h
  · have h' : ¬ (32 ≤ i ∧ i < 50) := fun hh => absurd h (Nat.not_lt.mpr hh.1)
    simp [h', Bool.and_comm]
  · have h18 : ¬ i < 18 := by omega
    have hle : 32 ≤ i := Nat.not_lt.mp h
    have hsub : i - 32 < 18 ↔ i < 50 := by omega
    simp [h18, hle, hsub, Bool.and_comm]

theorem State.ctlWrite_accessTable : s.ctlWrite k 0x800 mMgmt x =
    s.updCluster k (fun c => { c with acctab := x &&& 0x0003FFFF0003FFFF }) := by
  rw [← ofNat_accessTable]; rfl

theorem State.ctlWrite_migrationBudget (h : k % 4096 = 0) : s.ctlWrite k 0x4400 mMgmt x =
    s.updModule (modOf k) (fun d => { d with migbud := (x.setWidth 32).toNat }) := by
  have h1 : k % 1024 ≠ 990 := by omega
  simp [State.ctlWrite, h, h1, fwOrMgmt, fld, isFw]

theorem State.ctlWrite_readOnly {o : Nat} (h : o = 0x400 ∨ o = 0x688 ∨ o = 0x700) : s.ctlWrite k o mMgmt x = s := by
  rcases h with rfl | rfl | rfl <;> simp [State.ctlWrite]

end

/-- Settles O36, word by word. -/
theorem controlWords : Obligations.ControlWords := by
  intro s k n w v x pa c p off on may at_ tile
  refine ⟨fun h => ⟨?_, ?_⟩, fun h => ⟨?_, ?_⟩, ⟨_, rfl, rfl, fun j hj => s.cluster_updCluster_of_ne _ hj, ?_, fun j hj => ?_⟩,
    exec_registerWrite_at (by decide) (s.ctlWrite_fence p x), exec_registerWrite_at (by decide) (s.ctlWrite_syncstat p x),
    exec_registerWrite_at (by decide) (s.ctlWrite_accessTable p x), fun o hlo hhi hs ho => ?_, fun hs hp hoff hmay => ?_,
    fun hs hoff => ?_, exec_registerWrite_refused, exec_registerWrite_busyTile, fun h => ?_⟩
  · rw [exec_semSignalWordWrite]
    exact congrArg _ (State.updCluster_congr ((c.signalWord_outside n v).trans (if_neg (by rw [h]; decide))))
  · rw [exec_semSetWordWrite]
    exact congrArg _ (State.updCluster_congr ((c.setWord_outside n v).trans (if_neg (by rw [h]; decide))))
  · rw [exec_semSignalWordWrite]
    exact congrArg _ (State.updCluster_congr ((c.signalWord_outside n v).trans (if_pos h)))
  · rw [exec_semSetWordWrite]
    exact congrArg _ (State.updCluster_congr ((c.setWord_outside n v).trans (if_pos h)))
  · rw [State.cluster_updCluster_self]
    exact kget_kset_self ..
  · rw [State.cluster_updCluster_self]
    exact kget_kset_of_ne _ _ _ hj
  · exact exec_registerWrite_semaphore hs ⟨hlo.trans_eq ho.symm, ho.trans_lt hhi⟩
  · exact exec_registerWrite_at (by decide) (s.ctlWrite_migrationBudget p x hp) hs hoff hmay
  · exact exec_registerWrite_readOnly (by omega) (s.ctlWrite_readOnly p x hoff) hs rfl
  · by_cases hs : paSpace pa = 2
    · obtain ⟨h8, ht, hsem⟩ := h.resolve_left (not_not.mpr hs)
      exact exec_registerWrite_misaligned hs h8 ht hsem
    · exact exec_registerWrite_of_space hs

end Sys2Proof.Machine
end

section
/-! SUPPORT. Barriers (16 R317 to R321): BARINIT, BARA, BARW and the flip of a region barrier. -/

namespace Sys2Proof.Machine

/-! ### BARINIT (16 R318) -/

section
variable {s : State} {sc : Scope} {n : Fin 16} {count : Fin 256}

theorem exec_barinit_refused (h : count.val = 0 ∨ (sc ≠ .cl ∧ sc ≠ .rg) ∨ s.me.bar[n].rp = true) :
    exec (.barinit sc n count) s = .next (s.barBad n) := congrArg _ (if_pos h)

theorem exec_barinit_accepted (hc : count.val ≠ 0) (hs : sc = .cl ∨ sc = .rg) (hr : s.me.bar[n].rp = false) :
    exec (.barinit sc n count) s = .next (s.push 1 (.barInit n count.val (decide (sc = .rg)))) := by
  have h : ¬ (count.val = 0 ∨ (sc ≠ .cl ∧ sc ≠ .rg) ∨ s.me.bar[n].rp = true) := by
    rintro (h | h | h)
    · exact hc h
    · exact hs.elim h.1 h.2
    · exact absurd (hr.symm.trans h) Bool.false_ne_true
  exact congrArg _ (if_neg h)

end

/-! ### BARA (16 R319) -/

/-- A barrier after one more arrival: the last one completes it. -/
def Barrier.arrived (b : Barrier) : Barrier :=
  if b.arr + 1 = b.count then if b.rg then { b with arr := 0, rp := true } else { b with arr := 0, ph := !b.ph }
  else { b with arr := b.arr + 1 }

/-- A word with one bit written. -/
def withBit (x : BitVec 16) (n : Fin 16) (b : Bool) : BitVec 16 := if b then x ||| 1#16 <<< n.val else x &&& ~~~(1#16 <<< n.val)

theorem getLsbD_one_shiftLeft (n : Fin 16) {i : Nat} (hi : i < 16) : ((1#16) <<< n.val).getLsbD i = decide (i = n.val) := by
  rw [BitVec.getLsbD_shiftLeft, decide_eq_true hi, Bool.true_and, BitVec.getLsbD_one, Bool.eq_iff_iff]
  simp only [Bool.and_eq_true, Bool.not_eq_true', decide_eq_false_iff_not, decide_eq_true_iff]
  omega

theorem getLsbD_withBit (x : BitVec 16) (n : Fin 16) (b : Bool) {i : Nat} (hi : i < 16) :
    (withBit x n b).getLsbD i = if i = n.val then b else x.getLsbD i := by
  cases b
  · rw [withBit, if_neg Bool.false_ne_true, BitVec.getLsbD_and, BitVec.getLsbD_not, getLsbD_one_shiftLeft n hi, decide_eq_true hi]
    by_cases h : i = n.val <;> simp [h]
  · rw [withBit, if_pos rfl, BitVec.getLsbD_or, getLsbD_one_shiftLeft n hi]
    by_cases h : i = n.val <;> simp [h]

/-- The barrier is not the one that BARA names: no count, another scope, or a region barrier in firmware. -/
abbrev State.baraWrong (s : State) (sc : Scope) (n : Fin 16) : Prop :=
  s.me.bar[n].count = 0 ∨ sc ≠ (if s.me.bar[n].rg then Scope.rg else Scope.cl) ∨ (s.curFw = true ∧ sc = .rg)

section
variable {s : State} (d : SReg) {sc : Scope} {n : Fin 16}

theorem exec_bara_wrong (h : s.baraWrong sc n) : exec (.bara d sc n) s = .next (s.barBad n) := congrArg _ (if_pos h)

theorem exec_bara_flipDue (h : ¬ s.baraWrong sc n) (hr : s.me.bar[n].rp = true) : exec (.bara d sc n) s = .next s :=
  congrArg _ ((if_neg h).trans (if_pos hr))

/-- The state after an arrival: the phase seen in flight, the arrival bit noted, the arrival counted. -/
def State.baraArrives (s : State) (d : SReg) (n : Fin 16) : State :=
  ((s.pushS 1 d (if s.me.bar[n].ph then 1 else 0) false).updCtx (fun c => { c with barArr := withBit c.barArr n s.me.bar[n].ph })).updMe
    (fun c => { c with bar := c.bar.set n s.me.bar[n].arrived })

theorem exec_bara_arrives (h : ¬ s.baraWrong sc n) (hr : s.me.bar[n].rp = false) :
    exec (.bara d sc n) s = .next (s.baraArrives d n) :=
  congrArg _ ((if_neg h).trans (if_neg (fun ht => Bool.false_ne_true (hr.symm.trans ht))))

end

theorem State.ctx_pushS (s : State) (lat : Nat) (r : SReg) (v : DWord) (p : Bool) : (s.pushS lat r v p).ctx =
    { s.ctx with pend := s.ctx.pend ++ (if r = 0 then [] else [mkPend lat (.sreg r ⟨v, p⟩)]) } := by
  unfold State.pushS
  split
  · rw [List.append_nil]
  · exact s.ctx_updCtx _

theorem Cluster.ctx_withBar (c : Cluster) (fw : Bool) (b : Vector Barrier 16) : ({ c with bar := b } : Cluster).ctx fw = c.ctx fw := by
  cases fw <;> rfl

theorem State.bar_pushS (s : State) (lat : Nat) (r : SReg) (v : DWord) (p : Bool) : (s.pushS lat r v p).me.bar = s.me.bar := by
  rw [State.me_pushS, Cluster.setCtx_bar]

theorem State.ctx_baraArrives (s : State) (d : SReg) (n : Fin 16) : (s.baraArrives d n).ctx = { s.ctx with
    barArr := withBit s.ctx.barArr n s.me.bar[n].ph
    pend := s.ctx.pend ++ (if d = 0 then [] else [mkPend 1 (.sreg d ⟨if s.me.bar[n].ph then 1 else 0, false⟩)]) } := by
  rw [State.baraArrives, State.ctx_updMe, Cluster.ctx_withBar]
  show (State.updCtx _ _).ctx = _
  rw [State.ctx_updCtx, State.ctx_pushS]

theorem State.bar_baraArrives (s : State) (d : SReg) (n : Fin 16) :
    (s.baraArrives d n).me.bar = s.me.bar.set n s.me.bar[n].arrived := by
  rw [State.baraArrives, State.me_updMe, State.me_updCtx, Cluster.setCtx_bar, State.bar_pushS]

/-! ### BARW and the holds of barriers (16 R320) -/

/-- Order holds only what makes an access. -/
theorem State.orderHold_of_no {i : Instr} (h : accKind i = .no) (s : State) (slot : Nat) : s.orderHold slot i = false := by
  unfold State.orderHold
  simp only [h]

theorem State.tileHold_of_no_address {s : State} {i : Instr} (h : s.ctx.addrs i = []) : s.tileHold i = false := by
  rw [State.tileHold, h]
  rfl

/-- Neither order nor a tile holds an instruction that makes no access and reads no tile. -/
theorem State.not_held_in_place {s : State} {i : Instr} (slot : Nat) (hk : accKind i = .no) (ha : s.ctx.addrs i = [])
    (ht : readsTile i = none) :
    ¬ (s.orderHold slot i = true ∨ s.tileHold i = true ∨ (readsTile i).any (fun t => !(s.windowDeps [t]).isEmpty) = true) := by
  rw [State.orderHold_of_no hk, State.tileHold_of_no_address ha, ht]
  simp

/-- BARW makes no access and names no engine: its barrier alone holds it. -/
theorem instrHold_barw (s : State) (slot : Nat) (n : Fin 16) : s.instrHold slot (.barw n) [] =
    (if s.me.bar[n].ph = s.ctx.barArr.getLsbD n.val then some (.bar slot n.val) else none, []) := by
  have hplace : s.placeHold slot (.barw n) =
      if s.me.bar[n].ph = s.ctx.barArr.getLsbD n.val then some (.bar slot n.val) else none := by
    rw [State.placeHold, if_neg (s.not_held_in_place slot rfl rfl rfl)]
    show (match (if s.me.bar[n].ph = s.ctx.barArr.getLsbD n.val then some (Hold.bar slot n.val) else none) with
      | some h => some h
      | none => none) = _
    split_ifs <;> rfl
  exact congrArg (·, []) hplace

/-! ### The flip of a region barrier (16 R319, R321) -/

/-- A barrier that flips: the phase inverted, the pending completion cleared. -/
def Cluster.flip (n : Fin 16) (c : Cluster) : Cluster :=
  { c with bar := c.bar.set n { c.bar[n] with ph := !c.bar[n].ph, rp := false } }

/-- Has every member of the region sent its local completion? -/
abbrev State.regionComplete (s : State) (k : Nat) (n : Fin 16) : Prop :=
  s.membersOf k ≠ [] ∧ ∀ x ∈ s.membersOf k, (s.cluster x).bar[n].rp = true

section
variable {s : State} {k : Nat} {n : Fin 16}

theorem exec_barrierRegionFlip : exec (.barrierRegionFlip k n) s = .next (
    if s.regionComplete k n then (s.membersOf k).foldl (fun s x => s.updCluster x (Cluster.flip n)) s else s) := by
  refine congrArg _ (if_congr ?_ rfl rfl)
  rw [Bool.and_eq_true, Bool.not_eq_true', List.isEmpty_eq_false_iff, List.all_eq_true]

/-- The flip changes each member once, and nothing but clusters. -/
theorem cluster_flips {ms : List Nat} (hd : ms.Nodup) (x : Nat) : (ms.foldl (fun s x => s.updCluster x (Cluster.flip n)) s).cluster x =
    if x ∈ ms then (s.cluster x).flip n else s.cluster x := by
  split
  · next h =>
    exact cluster_foldl_of_mem (f := fun s x => s.updCluster x (Cluster.flip n)) (R := fun _ c e => e = c.flip n)
      (fun s i j hj => s.cluster_updCluster_of_ne _ hj) (fun s i => s.cluster_updCluster_self i _) hd h s
  · next h =>
    exact cluster_foldl_of_not_mem (f := fun s x => s.updCluster x (Cluster.flip n))
      (fun s i j hj => s.cluster_updCluster_of_ne _ hj) h s

theorem flips_rest (ms : List Nat) : ms.foldl (fun s x => s.updCluster x (Cluster.flip n)) s =
    { s with cl := (ms.foldl (fun s x => s.updCluster x (Cluster.flip n)) s).cl } :=
  foldl_updates_clusters (fun _ _ => rfl) ms s

end

theorem getElem_set_fin_self {α : Type} (v : Vector α 16) (n : Fin 16) (a : α) : (v.set n a)[n] = a := by simp

theorem getElem_set_fin_ne {α : Type} (v : Vector α 16) {m n : Fin 16} (a : α) (h : m ≠ n) : (v.set n a)[m] = v[m] :=
  Vector.getElem_set_ne n.isLt m.isLt fun e => h (Fin.ext e.symm)

/-- Settles O35, instruction by instruction. -/
theorem barriers : Obligations.Barriers := by
  intro s d sc n m count k slot b bad wrong ms all
  refine ⟨exec_barinit_refused, exec_barinit_accepted, fun g => ?_, exec_bara_wrong d, exec_bara_flipDue d, fun hw hr => ?_, rfl,
    fun h => ?_, fun h => ?_, fun h hd => ?_, fun h => ?_⟩
  · rfl
  · refine ⟨_, exec_bara_arrives d hw hr, ?_, fun hm => ?_, fun i hi => ?_, ?_⟩
    · rw [State.bar_baraArrives, getElem_set_fin_self, Barrier.arrived, ite_not]
    · rw [State.bar_baraArrives, getElem_set_fin_ne _ _ hm]
    · rw [State.ctx_baraArrives]
      exact getLsbD_withBit _ n _ hi
    · rw [State.ctx_baraArrives]
      refine ⟨rfl, rfl, rfl, rfl, ?_, ?_⟩ <;> simp [State.baraArrives]
  · rw [instrHold_barw, if_pos h]
  · rw [instrHold_barw, if_neg h]
  · refine ⟨_, exec_barrierRegionFlip.trans (congrArg _ (if_pos h)), ?_, ?_, fun x => ?_⟩
    · rw [flips_rest]
    · rw [flips_rest]
    · rw [cluster_flips hd]
      refine ⟨⟨fun hx => ?_, fun hx => if_neg hx⟩, fun hm => ?_⟩
      · rw [if_pos hx]
        exact getElem_set_fin_self ..
      · split_ifs
        · exact getElem_set_fin_ne _ _ hm
        · rfl
  · exact exec_barrierRegionFlip.trans (congrArg _ (if_neg h))

end Sys2Proof.Machine
end

section
/-! SUPPORT. Semaphores (16 R307 to R316): the count of a cycle, the instructions that change and read it, and what holds a
SEMWAIT. -/

namespace Sys2Proof.Machine

/-! ### The count of a cycle (16 R309) -/

/-- The last value that a list of changes gives semaphore n. -/
def lastOf (n : Fin 256) (l : List (Fin 256 × Int)) : Option Int := ((l.filter (fun y => y.1 = n)).map (·.2)).getLast?

/-- The sum of the increments of semaphore n. -/
def sumOf (n : Fin 256) (l : List (Fin 256 × Int)) : Int := ((l.filter (fun y => y.1 = n)).map (·.2)).sum

/-- The count of semaphore n before the clamp: the last set-word write, else the last SEMSET, else the old count, and the
increments. -/
def Cluster.semSum (c : Cluster) (n : Fin 256) : Int :=
  (lastOf n c.semWords).getD ((lastOf n (c.semSets.map (·.2))).getD c.sem[n]) + sumOf n c.semIncs

theorem lastFor_eq (n : Fin 256) (l : List (Fin 256 × Int)) : lastFor n l = lastOf n l := by
  rw [lastOf, List.getLast?_map, lastFor]
  simp only [beq_eq_decide]

theorem sumFor_eq (n : Fin 256) (l : List (Fin 256 × Int)) : sumFor n l = sumOf n l := by
  rw [sumOf, sumFor]
  simp only [beq_eq_decide]

theorem semAfter_eq (c : Cluster) (n : Fin 256) : semAfter c n = c.semSum n := by
  rw [semAfter, Cluster.semSum, lastFor_eq, lastFor_eq, sumFor_eq]
  cases lastOf n c.semWords <;> cases lastOf n (c.semSets.map (·.2)) <;> rfl

theorem filter_eq_nil_of_unnamed {n : Fin 256} {l : List (Fin 256 × Int)} (h : n ∉ l.map (·.1)) : l.filter (fun y => y.1 = n) = [] := by
  rw [List.filter_eq_nil_iff]
  intro y hy he
  exact h (List.mem_map.mpr ⟨y, hy, of_decide_eq_true he⟩)

/-- A semaphore that no change of the cycle names keeps its count. -/
theorem Cluster.semSum_of_unnamed {c : Cluster} {n : Fin 256} (hw : n ∉ c.semWords.map (·.1)) (hs : n ∉ c.semSets.map (·.2.1))
    (hi : n ∉ c.semIncs.map (·.1)) : c.semSum n = c.sem[n] := by
  have hs' : n ∉ (c.semSets.map (·.2)).map (·.1) := by rwa [List.map_map]
  rw [Cluster.semSum, lastOf, lastOf, sumOf, filter_eq_nil_of_unnamed hw, filter_eq_nil_of_unnamed hs', filter_eq_nil_of_unnamed hi]
  exact add_zero _

/-- Places of a vector written in turn, each with a value of its own. -/
theorem getElem_foldl_set (g : Fin 256 → Int) (l : List (Fin 256)) (v : Vector Int 256) (n : Fin 256) :
    (l.foldl (fun (v : Vector Int 256) (m : Fin 256) => v.set m (g m)) v)[n] = if n ∈ l then g n else v[n] := by
  induction l generalizing v with
  | nil => simp
  | cons m l ih =>
    rw [List.foldl_cons, ih]
    by_cases hm : n = m
    · subst hm; simp
    · have hv : (v.set m (g m))[n] = v[n] := Vector.getElem_set_ne m.isLt n.isLt fun e => hm (Fin.ext e.symm)
      simp only [List.mem_cons, hm, false_or, hv]

theorem Cluster.sem_flushSems (c : Cluster) (n : Fin 256) : c.flushSems.sem[n] = c.semSum n := by
  show (List.foldl _ c.sem _)[n] = _
  rw [getElem_foldl_set, semAfter_eq]
  split
  · rfl
  · next h =>
    simp only [List.mem_append, not_or] at h
    exact (Cluster.semSum_of_unnamed h.1.1 h.1.2 h.2).symm

theorem Cluster.sem_clampSem (c : Cluster) (m n : Fin 256) : (c.clampSem m).sem[n] = if n = m then clampCount c.sem[n] else c.sem[n] := by
  have hset : ∀ x : Int, (c.sem.set m x)[n] = if n = m then x else c.sem[n] := by
    intro x
    by_cases h : n = m
    · subst h; simp
    · rw [if_neg h]
      exact Vector.getElem_set_ne m.isLt n.isLt fun e => h (Fin.ext e.symm)
  by_cases h : n = m
  · subst h
    rw [Cluster.clampSem, clampCount]
    split_ifs with h1 h2
    · rw [hset, if_pos rfl]; omega
    · rw [hset, if_pos rfl]; omega
    · omega
  · rw [Cluster.clampSem, if_neg h]
    split_ifs
    · rw [hset, if_neg h]
    · rw [hset, if_neg h]
    · rfl

theorem clampCount_clampCount (x : Int) : clampCount (clampCount x) = clampCount x := by
  unfold clampCount
  omega

theorem Cluster.sem_foldl_clampSem (l : List (Fin 256)) (c : Cluster) (n : Fin 256) :
    (l.foldl Cluster.clampSem c).sem[n] = if n ∈ l then clampCount c.sem[n] else c.sem[n] := by
  induction l generalizing c with
  | nil => rfl
  | cons m l ih =>
    rw [List.foldl_cons, ih, Cluster.sem_clampSem]
    by_cases hm : n = m
    · simp [hm, clampCount_clampCount]
    · simp [hm]

theorem Cluster.sem_clampSems (c : Cluster) (n : Fin 256) : c.clampSems.sem[n] = clampCount c.sem[n] := by
  rw [Cluster.clampSems]
  split
  · next h =>
    have hn := List.all_eq_true.mp h c.sem[n] (Vector.mem_toList_iff.mpr (Vector.getElem_mem n.isLt))
    simp only [Bool.and_eq_true, decide_eq_true_eq] at hn
    unfold clampCount
    omega
  · rw [Cluster.sem_foldl_clampSem, if_pos (List.mem_finRange n)]

theorem Cluster.semCount_eq (c : Cluster) (n : Fin 256) : c.semCount n = clampCount (c.semSum n) := by
  rw [Cluster.semCount, semAfter_eq]

theorem semWord_clampCount (x : Int) : semWord (clampCount x) = BitVec.ofInt 64 (clampCount x) := by
  have hlo : -32768 ≤ clampCount x := by unfold clampCount; omega
  have hhi : clampCount x ≤ 32767 := by unfold clampCount; omega
  rw [semWord, wrapNat_eq_toNat, sext_eq_toInt 16 _ (by decide), BitVec.ofNat_toNat, BitVec.setWidth_eq, BitVec.toInt_ofInt,
    Int.bmod_eq_of_le (by omega) (by omega)]

/-! ### SEMSIG, SEMSET, SEMRD and SEMWAIT (16 R307, R310, R314) -/

/-- May the context in focus name the semaphore? -/
abbrev State.semNamed (s : State) (n : Fin 256) : Prop := s.curFw = true ∨ n.val < 240

/-- Is the semaphore local-only, so that the firmware context may not change it? -/
abbrev State.semBarred (s : State) (n : Fin 256) : Prop := s.curFw = true ∧ s.me.semLocal.getLsbD n.val = true

theorem State.semNameBad_iff (s : State) (n : Fin 256) : s.semNameBad n = true ↔ ¬ s.semNamed n := by
  rw [State.semNameBad, Bool.and_eq_true, Bool.not_eq_true', decide_eq_true_iff, State.semNamed, not_or, Bool.not_eq_true, Nat.not_lt]

theorem State.semLocalBad_iff (s : State) (n : Fin 256) : s.semLocalBad n = true ↔ s.semBarred n := Bool.and_eq_true_iff

section
variable {s : State} (n : Fin 256)

theorem State.semRefuses_iff : (s.semNameBad n || s.semLocalBad n) = true ↔ ¬ (s.semNamed n ∧ ¬ s.semBarred n) := by
  rw [Bool.or_eq_true, State.semNameBad_iff, State.semLocalBad_iff, not_and_or, not_not]

variable {n}

/-- A change of a semaphore that the context may not make. -/
theorem State.semChange_refused (h : ¬ (s.semNamed n ∧ ¬ s.semBarred n)) (t : State) :
    (if s.semNameBad n || s.semLocalBad n then s.illegalField else t) = s.illegalField := if_pos ((s.semRefuses_iff n).mpr h)

theorem State.semChange_made (hn : s.semNamed n) (hb : ¬ s.semBarred n) (t : State) :
    (if s.semNameBad n || s.semLocalBad n then s.illegalField else t) = t :=
  if_neg fun h => (s.semRefuses_iff n).mp h ⟨hn, hb⟩

/-- An operand's mark is POISON_USE. -/
theorem State.semChange_register (hn : s.semNamed n) (hb : ¬ s.semBarred n) (marked : Bool) (w : Dest) :
    (marked = true → (if s.semNameBad n || s.semLocalBad n then s.illegalField else if marked then s.poisonUse else s.push 1 w) =
      s.poisonUse) ∧
    (¬ marked = true → (if s.semNameBad n || s.semLocalBad n then s.illegalField else if marked then s.poisonUse else s.push 1 w) =
      s.push 1 w) :=
  ⟨fun h => (State.semChange_made hn hb _).trans (if_pos h), fun h => (State.semChange_made hn hb _).trans (if_neg h)⟩

theorem State.semNameBad_eq_false (h : s.semNamed n) : s.semNameBad n = false :=
  Bool.eq_false_iff.mpr fun hb => (s.semNameBad_iff n).mp hb h

theorem exec_semrd_unnamed (d : SReg) (h : ¬ s.semNamed n) : exec (.semrd d n) s = .next s.illegalField :=
  congrArg _ (if_pos ((s.semNameBad_iff n).mpr h))

theorem exec_semrd_named (d : SReg) (h : s.semNamed n) : exec (.semrd d n) s =
    .next (s.pushS 1 d (BitVec.ofInt 64 (clampCount (s.me.semSum n))) false) := by
  rw [← semWord_clampCount, ← Cluster.semCount_eq]
  exact congrArg _ (if_neg (by rw [State.semNameBad_eq_false h]; exact Bool.false_ne_true))

variable (d : SReg) (e : Bool) (thr : Fin 256)

theorem exec_semwait_refused (h : ¬ s.semNamed n ∨ (e = true ∧ s.semBarred n)) : exec (.semwait d e n thr) s = .next s.illegalField := by
  refine congrArg _ (if_pos ?_)
  rw [Bool.or_eq_true, Bool.and_eq_true, State.semNameBad_iff, State.semLocalBad_iff]
  exact h

/-- A SEMWAIT that the context may make answers the count seen, and takes its threshold from it. -/
theorem exec_semwait (hn : s.semNamed n) (hb : ¬ (e = true ∧ s.semBarred n)) : exec (.semwait d e n thr) s = .next (
    if clampCount (s.me.semSum n) < thr.val then s
    else if e then (s.pushS 1 d (BitVec.ofInt 64 (clampCount (s.me.semSum n))) false).updMe
        (fun c => { c with semIncs := c.semIncs ++ [(n, -(thr.val : Int))] })
      else s.pushS 1 d (BitVec.ofInt 64 (clampCount (s.me.semSum n))) false) := by
  have h : ¬ (s.semNameBad n || (e && s.semLocalBad n)) = true := by
    rw [Bool.or_eq_true, Bool.and_eq_true, State.semNameBad_iff, State.semLocalBad_iff]
    exact fun h => h.elim (fun h => h hn) hb
  rw [← semWord_clampCount, ← Cluster.semCount_eq]
  exact congrArg _ (if_neg h)

end

/-! ### What holds a SEMWAIT (16 R310, R314, R315) -/

section
variable {s : State} {n : Fin 256} (slot : Nat) (d : SReg) (e : Bool) (thr : Fin 256)

/-- A SEMWAIT makes no access: the count alone holds it. -/
theorem State.placeHold_semwait : s.placeHold slot (.semwait d e n thr) = none := by
  have hfree := s.not_held_in_place (i := .semwait d e n thr) slot rfl rfl rfl
  unfold State.placeHold
  simp only [hfree, if_false]
  rfl

theorem State.instrHold_semwait_fst : (s.instrHold slot (.semwait d e n thr) []).1 = (s.semHold slot n thr.val e []).1 := by
  have h : s.instrHold slot (.semwait d e n thr) [] = (match s.semHold slot n thr.val e [] with
      | (some h, adj) => (some h, adj)
      | (none, adj) => (s.placeHold slot (.semwait d e n thr), adj)) := rfl
  rw [h, State.placeHold_semwait]
  split <;> simp_all

theorem State.semHold_eq (hn : s.semNamed n) : (s.semHold slot n thr.val e []).1 =
    if (thr.val : Int) ≤ clampCount (s.me.semSum n) then none
    else if s.deadWait n thr.val (clampCount (s.me.semSum n)) then some (.dead slot n.val (clampCount (s.me.semSum n)))
    else if s.curFw = false ∧ s.me.semLocal.getLsbD n.val = true then some (.quiet slot)
    else some (.sem slot n.val (clampCount (s.me.semSum n))) := by
  have hcount : s.me.semCount n - sumFor n [] = clampCount (s.me.semSum n) := by rw [Cluster.semCount_eq]; exact sub_zero _
  rw [State.semHold, hcount, State.semNameBad_eq_false hn]
  simp only [Bool.false_eq_true, if_false, ge_iff_le, Bool.not_eq_true', apply_ite Prod.fst]
  rfl

/-- What holds a SEMWAIT that the context may make. -/
theorem State.instrHold_semwait (hn : s.semNamed n) : (s.instrHold slot (.semwait d e n thr) []).1 =
    if (thr.val : Int) ≤ clampCount (s.me.semSum n) then none
    else if s.deadWait n thr.val (clampCount (s.me.semSum n)) then some (.dead slot n.val (clampCount (s.me.semSum n)))
    else if s.curFw = false ∧ s.me.semLocal.getLsbD n.val = true then some (.quiet slot)
    else some (.sem slot n.val (clampCount (s.me.semSum n))) := by
  rw [State.instrHold_semwait_fst, State.semHold_eq slot e thr hn]

/-- The positive increments of semaphore n that are on their way (16 R314). -/
abbrev State.pendingOf (s : State) (n : Fin 256) : Int := s.me.pendingIncs n + s.pendingStores s.cur n

theorem State.deadWait_iff {thr count : Int} : s.deadWait n thr count = true ↔
    s.curFw = false ∧ s.me.semLocal.getLsbD n.val = true ∧ count + s.pendingOf n < thr := by
  rw [State.deadWait, Bool.and_eq_true, Bool.and_eq_true, Bool.not_eq_true', decide_eq_true_iff, and_assoc, add_assoc]
  rfl

end


/-- INFO of a dead wait: the count, and the semaphore as a wait of kind 1. -/
theorem Hold.info_dead (slot : Nat) (n : Fin 256) (count : Int) :
    (Hold.dead slot n.val count).info = BitVec.ofInt 16 count ++ BitVec.ofNat 16 (0x1000 + n.val) := by
  have hn : (0x1000 + n.val) % 2 ^ 16 = 0x1000 + n.val := Nat.mod_eq_of_lt (by omega)
  have hw := (BitVec.ofInt 16 count).isLt
  refine BitVec.eq_of_toNat_eq ?_
  rw [Hold.info, BitVec.toNat_append, BitVec.toNat_ofNat, BitVec.toNat_ofNat, hn, wrapNat_eq_toNat,
    ← Nat.shiftLeft_add_eq_or_of_lt (by omega), Nat.shiftLeft_eq]
  omega

/-- Settles O34, clause by clause. -/
theorem semaphores : Obligations.Semaphores := by
  intro s a d n thr imm e c slot x named changes last sum count pos landing pending hold order
  have hpending : pending = s.pendingOf n := rfl
  have hcount : count = clampCount (s.me.semSum n) := rfl
  have hsext : ∀ v : DWord, sv16 v = (v.setWidth 16).toInt := fun v => by
    rw [sv16, sext_eq_toInt 16 _ (by decide), BitVec.ofNat_toNat]
  refine ⟨⟨fun h => congrArg _ (State.semChange_refused h _), fun hn hb => ⟨False.elim, fun _ => congrArg _ (State.semChange_made hn hb _)⟩⟩,
    ⟨fun h => congrArg _ (State.semChange_refused h _), fun hn hb => ?_⟩,
    ⟨fun h => congrArg _ (State.semChange_refused h _), fun hn hb => ⟨False.elim, fun _ => congrArg _ (State.semChange_made hn hb _)⟩⟩,
    ⟨fun h => congrArg _ (State.semChange_refused h _), fun hn hb => ?_⟩,
    fun h => ⟨exec_semrd_unnamed d h, exec_semwait_refused d e thr (.inl h)⟩,
    fun hn => ⟨exec_semrd_named d hn, fun h => exec_semwait_refused d e thr (.inr h), fun hb => ⟨fun hlt => ?_, fun hle => ?_⟩⟩,
    fun hn => ⟨fun hle => ?_, fun hlt ho => ?_, fun hlt hp hl => ⟨fun hle => ?_, fun hdead => ?_⟩⟩,
    fun lim => ⟨rfl, rfl⟩, Hold.info_dead slot n count,
    ⟨c.sem_flushSems n, rfl, rfl, rfl, rfl⟩, c.sem_clampSems n⟩
  · rw [← hsext]
    exact (State.semChange_register hn hb _ _).imp (congrArg _ ∘ ·) (congrArg _ ∘ ·)
  · rw [← hsext]
    exact (State.semChange_register hn hb _ _).imp (congrArg _ ∘ ·) (congrArg _ ∘ ·)
  · exact (exec_semwait d e thr hn hb).trans (congrArg _ (if_pos hlt))
  · exact (exec_semwait d e thr hn hb).trans (congrArg _ (if_neg (not_lt.mpr hle)))
  · exact (State.instrHold_semwait slot d e thr hn).trans (if_pos hle)
  all_goals refine (State.instrHold_semwait slot d e thr hn).trans ((if_neg (not_le.mpr hlt)).trans ?_)
  · have hopen : ¬ (s.curFw = false ∧ s.me.semLocal.getLsbD n.val = true) := by
      rintro ⟨hp, hl⟩
      rcases ho with h | h
      · exact Bool.false_ne_true (hp.symm.trans h)
      · exact Bool.false_ne_true (h.symm.trans hl)
    exact (if_neg fun h => hopen ⟨(State.deadWait_iff.mp h).1, (State.deadWait_iff.mp h).2.1⟩).trans (if_neg hopen)
  · exact (if_neg fun h => absurd (State.deadWait_iff.mp h).2.2 (not_lt.mpr hle)).trans (if_pos ⟨hp, hl⟩)
  · exact if_pos (State.deadWait_iff.mpr ⟨hp, hl, hdead⟩)

end Sys2Proof.Machine
end

section
/-! SUPPORT. Custom opcodes (chapter 15; 24 R397; 04 R433): XQRY's word, XLD and XDROP, the plane after an install, XOP, PLREQ, and a
line of code. -/

namespace Sys2Proof.Machine

/-! ### Sets of graph numbers as words -/

/-- The word with the bits of a list of graph numbers set. -/
def nameSet (l : List (Fin 16)) : Nat := l.foldl (fun m n => m ||| 2 ^ n.val) 0

theorem testBit_foldl_names (l : List (Fin 16)) (m i : Nat) :
    (l.foldl (fun m n => m ||| 2 ^ n.val) m).testBit i = (m.testBit i || l.any (fun n => n.val == i)) := by
  induction l generalizing m with
  | nil => simp
  | cons n l ih => simp [ih, Nat.testBit_or, Nat.testBit_two_pow, Bool.or_assoc, beq_eq_decide]

theorem testBit_nameSet (l : List (Fin 16)) (i : Nat) : (nameSet l).testBit i = l.any (fun n => n.val == i) := by
  rw [nameSet, testBit_foldl_names, Nat.zero_testBit, Bool.false_or]

theorem nameSet_lt (l : List (Fin 16)) : nameSet l < 2 ^ 16 := by
  refine Nat.lt_pow_two_of_testBit _ fun i hi => ?_
  rw [testBit_nameSet, List.any_eq_false]
  intro n _ h
  exact absurd (beq_iff_eq.mp h) (n.isLt.trans_le hi).ne

theorem getLsbD_nameSet (l : List (Fin 16)) (i : Fin 16) : (BitVec.ofNat 16 (nameSet l)).getLsbD i.val = l.contains i := by
  rw [BitVec.getLsbD_ofNat, decide_eq_true i.isLt, Bool.true_and, testBit_nameSet, List.contains_eq_any_beq]
  congr 1
  funext n
  rw [Bool.eq_iff_iff, beq_iff_eq, beq_iff_eq, eq_comm, Fin.ext_iff]

/-! ### XQRY (15 R301) -/

theorem xqryWord_eq (pl : List Graph) : xqryWord pl =
    BitVec.ofNat 64 (nameSet (pl.map (·.n)) + pl.length * 2 ^ 16 + (16 - cellsUsed pl) * 2 ^ 20) := by
  rw [xqryWord, nameSet, List.foldl_map]

/-- XQRY's word of a plane within its bounds: the free cells, the number of graphs, and the graphs. -/
theorem xqryWord_fields {pl : List Graph} (hl : pl.length ≤ 4) : (xqryWord pl).toNat / 2 ^ 20 = 16 - cellsUsed pl ∧
    (xqryWord pl).toNat / 2 ^ 16 % 16 = pl.length ∧ ∀ i : Fin 16, (xqryWord pl).getLsbD i.val = pl.any (fun g => g.n == i) := by
  have hn := nameSet_lt (pl.map (·.n))
  have hw : (xqryWord pl).toNat = nameSet (pl.map (·.n)) + pl.length * 2 ^ 16 + (16 - cellsUsed pl) * 2 ^ 20 := by
    rw [xqryWord_eq, BitVec.toNat_ofNat]
    omega
  refine ⟨by omega, by omega, fun i => ?_⟩
  have hlow : (xqryWord pl).toNat % 2 ^ 16 = nameSet (pl.map (·.n)) := by omega
  have hbit : (xqryWord pl).getLsbD i.val = ((xqryWord pl).toNat % 2 ^ 16).testBit i.val := by
    rw [Nat.testBit_mod_two_pow, decide_eq_true i.isLt, Bool.true_and, BitVec.testBit_toNat]
  rw [hbit, hlow, testBit_nameSet, List.any_map]
  congr 1
  funext g
  rw [Function.comp_apply, Bool.eq_iff_iff, beq_iff_eq, beq_iff_eq, Fin.ext_iff]

/-! ### XLD and XDROP (15 R299, R300) -/

/-- The place that a result of register `d` takes among those in flight while its value is owed. -/
def owedTo (d : SReg) : List Pend := if d = 0 then [] else [{ mkPend 0 (.sreg d ⟨0, false⟩) with owed := true }]

theorem Ctx.owe_eq (c : Ctx) (d : SReg) : c.owe d = { c with pend := c.pend ++ owedTo d } := by
  unfold Ctx.owe owedTo
  split
  · rw [List.append_nil]
  · rfl

theorem exec_xld_marked {s : State} (d : SReg) {a : SReg} (h : (s.ctx.rdS a).poison = true) :
    exec (.xld d a) s = .next (s.poisonUse (s.ctx.rdS a).val.toNat) := congrArg _ (if_pos h)

/-- XLD of an unmarked address. -/
theorem exec_xld {s : State} (d : SReg) {a : SReg} (h : (s.ctx.rdS a).poison = false) : exec (.xld d a) s = .next (
    if ((s.ctx.rdS a).val.setWidth 22).toNat % 64 ≠ 0 then s.raise 0x06 (((s.ctx.rdS a).val.setWidth 22).setWidth 32)
    else s.updCtx (fun c => { c with
      pend := c.pend ++ owedTo d
      post := c.post ++ [.xld d ((s.ctx.rdS a).val.setWidth 22).toNat (s.coreOps s.cur) none 0] })) := by
  have haddr : (s.ctx.rdS a).val.toNat % 2 ^ 22 = ((s.ctx.rdS a).val.setWidth 22).toNat := (BitVec.toNat_setWidth ..).symm
  have hinfo : BitVec.ofNat 32 ((s.ctx.rdS a).val.setWidth 22).toNat = ((s.ctx.rdS a).val.setWidth 22).setWidth 32 :=
    BitVec.ofNat_toNat ..
  show execXld d a s = _
  simp only [execXld, h, haddr, hinfo, Ctx.owe_eq, Bool.false_eq_true, if_false]

theorem exec_xdrop (s : State) (d : SReg) (n : Fin 16) : exec (.xdrop d n) s =
    .next (s.updCtx (fun c => { c with pend := c.pend ++ owedTo d, post := c.post ++ [.xdrop d n] })) := by
  show execXdrop d n s = _
  simp only [execXdrop, Ctx.owe_eq]

/-- The first owed result takes its value. -/
theorem payFirst_append {l r : List Pend} {o : Pend} {d : SReg} {w : SVal} (v : SVal) (hl : ∀ p ∈ l, p.owed = false)
    (ho : o.owed = true) (hd : o.dest = .sreg d w) :
    payFirst v (l ++ [o] ++ r) = l ++ [{ o with owed := false, dest := .sreg d v }] ++ r := by
  induction l with
  | nil => simp [payFirst, ho, hd]
  | cons p l ih =>
    rw [List.forall_mem_cons] at hl
    simpa [payFirst, hl.1] using ih hl.2

/-- XDROP's work on a plane that is not lost, once nothing stands before it. -/
theorem State.postStep_xdrop {s : State} {k : Nat} {fw : Bool} {d : SReg} {n : Fin 16} {rest : List Post}
    (hbad : (s.cluster k).planeLost fw = false) (hrest : (s.ctxOf k fw).rest = []) (hpost : (s.ctxOf k fw).post = .xdrop d n :: rest)
    (hbusy : (s.ctxOf k fw).xopBusy = false) : (s.postStep k fw).ctxOf k fw =
      { (s.ctxOf k fw).pay d ⟨if (s.ctxOf k fw).plane.any (fun g => g.n == n) then 1 else 0, false⟩ with
        post := rest, plane := (s.ctxOf k fw).plane.filter (fun g => g.n != n) } := by
  simp only [State.postStep, hpost, hbusy, hrest, hbad, List.isEmpty_nil, Bool.not_true, Bool.or_false, Bool.false_eq_true, if_false,
    State.ctxOf_setCtxOf_self]

/-! ### The plane after an install (15 R294, R299) -/

/-- What evictions leave: room for the graph, graphs of the plane alone, and none of those evicted. -/
theorem evict_spec {keep : List (Fin 16)} {need fuel : Nat} {pl pl' : List Graph} {out out' : List (Fin 16)}
    (h : evict keep need fuel pl out = some (pl', out')) (hout : ∀ f ∈ pl, f.n ∉ out) :
    pl'.length ≤ 3 ∧ cellsUsed pl' + need ≤ 16 ∧ ∀ f ∈ pl', f ∈ pl ∧ f.n ∉ out' := by
  induction fuel generalizing pl out with
  | zero => cases h
  | succ fuel ih =>
    rw [evict] at h
    split at h
    · next hfits =>
      cases h
      exact ⟨hfits.1, hfits.2, fun f hf => ⟨hf, hout f hf⟩⟩
    · split at h
      · next g _ =>
        obtain ⟨h3, h16, hmem⟩ := ih h fun f hf => by
          obtain ⟨hf, hne⟩ := List.mem_filter.mp hf
          rw [List.mem_append, List.mem_singleton, not_or]
          exact ⟨hout f hf, bne_iff_ne.mp hne⟩
        exact ⟨h3, h16, fun f hf => ⟨(List.mem_filter.mp (hmem f hf).1).1, (hmem f hf).2⟩⟩
      · cases h

theorem install_spec {keep : List (Fin 16)} {plane pl : List Graph} {g : Graph} {out : List (Fin 16)} {rep : Bool}
    (h : install keep plane g = some (pl, out, rep)) : pl.getLast? = some g ∧ pl.length ≤ 4 ∧ cellsUsed pl ≤ 16 ∧
      ∀ f ∈ pl, f = g ∨ (f ∈ plane ∧ f.n ∉ out) := by
  rw [install, Option.map_eq_some_iff] at h
  obtain ⟨⟨rest, ev⟩, he, heq⟩ := h
  obtain ⟨h3, h16, hmem⟩ := evict_spec he fun f _ => List.not_mem_nil
  cases heq
  refine ⟨by simp, by simp; omega, ?_, fun f hf => ?_⟩
  · simpa [cellsUsed] using h16
  · rcases List.mem_append.mp hf with hf | hf
    · exact .inr ⟨(List.mem_filter.mp (hmem f hf).1).1, (hmem f hf).2⟩
    · exact .inl (List.mem_singleton.mp hf)

/-! ### XOP (15 R302) -/

/-- Is the plane of the context in focus lost (24 R400)? -/
abbrev State.planeGone (s : State) : Bool := s.me.bad.contains (if s.curFw then 260 else 3)

section
variable {s : State} {va vb vd : VReg} {n : Fin 16} {p : PReg} {g : Graph}

theorem State.usablePlane_find?_none (h : s.planeGone = true ∨ s.ctx.plane.find? (fun g => g.n == n) = none) :
    s.usablePlane.find? (fun g => g.n == n) = none := by
  unfold State.usablePlane
  split
  · rfl
  · next hl => exact h.resolve_left hl

theorem State.usablePlane_of_kept (h : s.planeGone = false) : s.usablePlane = s.ctx.plane :=
  if_neg fun hl => Bool.false_ne_true (h.symm.trans hl)

theorem exec_xop_missing (h : s.planeGone = true ∨ s.ctx.plane.find? (fun g => g.n == n) = none) :
    exec (.xop vd va vb n p) s = .next (s.raise 0x68 (BitVec.ofNat 32 n.val)) := by
  show execXop vd va vb n p s = _
  rw [execXop, State.usablePlane_find?_none h]

/-- The sources of a lane of an XOP. -/
def Ctx.xopSource (c : Ctx) (va vb vd : VReg) (i : Fin 16) (j : Nat) : Lane :=
  if j = 0 then (c.rdV va)[i] else if j = 1 then (c.rdV vb)[i] else (c.rdV vd)[i]

/-- What each lane of an XOP computes; an inactive lane computes nothing. -/
def Ctx.xopLanes (c : Ctx) (g : Graph) (va vb vd : VReg) (m : Pred) : Vector (Lane × Lane × Flags × Bool) 16 :=
  Vector.ofFn (fun i => if m.getLsb i then g.eval (c.xopSource va vb vd i) else (⟨0, false⟩, ⟨0, false⟩, 0, false))

/-- The flags of an XOP's active lanes. -/
def xopFlags (r : Vector (Lane × Lane × Flags × Bool) 16) : Flags := r.toList.foldl (fun f l => f ||| l.2.2.1) 0

/-- The context after an XOP: its graph the most recently used, its results in flight. -/
def Ctx.afterXop (c : Ctx) (g : Graph) (n : Fin 16) (vd : VReg) (m : Pred) (l1 l2 : VVal) (f : Flags) : Ctx := { c with
  plane := c.plane.filter (fun h => h.n != n) ++ [g]
  pend := c.pend ++ [{ mkPend g.latency (.vreg vd m l1) with xop := true }] ++
    (if g.results = 2 then [{ mkPend g.latency (.vreg (grp vd 1) m l2) with xop := true }] else []) ++
    (if f = 0 then [] else [mkPend g.latency (.flags f)]) }

/-- The results of an XOP set out one after the other: of its first register, of its second, its flags. -/
theorem State.push_xop (s : State) (g : Graph) (n : Fin 16) (vd : VReg) (m : Pred) (l1 l2 : VVal) (f : Flags) :
    (let t := s.updCtx (fun c => { c with plane := c.plane.filter (fun h => h.n != n) ++ [g] })
     let t := t.updCtx (fun c => c.push { mkPend g.latency (.vreg vd m l1) with xop := true })
     (if g.results = 2 then t.updCtx (fun c => c.push { mkPend g.latency (.vreg (grp vd 1) m l2) with xop := true }) else t).pushFlags
       g.latency f) = s.updCtx (fun c => c.afterXop g n vd m l1 l2 f) := by
  dsimp only
  unfold Ctx.afterXop State.pushFlags
  split_ifs <;> simp only [State.push, Ctx.push, State.updCtx_updCtx, List.append_nil]

/-- XOP of a resident graph with legal registers, no marked token used as a control in an active lane. -/
theorem exec_xop_resident (hlost : s.planeGone = false) (hg : s.ctx.plane.find? (fun g => g.n == n) = some g)
    (hsrc : ¬ (g.srcs = 1 ∧ vb ≠ 0)) (hres : ¬ (g.results = 2 ∧ vd = 63))
    (hfw : s.fwBad ([vd, va] ++ (if 2 ≤ g.srcs then [vb] else []) ++ (if g.results = 2 then [grp vd 1] else [])) = false)
    (hused : ∀ i : Fin 16, (s.ctx.rdP p).getLsbD i.val = true → (g.eval (s.ctx.xopSource va vb vd i)).2.2.2 = false) :
    exec (.xop vd va vb n p) s = .next (s.updCtx (fun c =>
      let r := s.ctx.xopLanes g va vb vd (s.ctx.rdP p)
      c.afterXop g n vd (s.ctx.rdP p) (Vector.ofFn (fun i => r[i].1)) (Vector.ofFn (fun i => r[i].2.1)) (xopFlags r))) := by
  have hclear : ((s.ctx.xopLanes g va vb vd (s.ctx.rdP p)).toList.any (fun l => l.2.2.2)) = false := by
    rw [List.any_eq_false]
    intro l hl
    obtain ⟨i, hi, rfl⟩ := Vector.mem_iff_getElem.mp (Vector.mem_toList_iff.mp hl)
    rw [Ctx.xopLanes, Vector.getElem_ofFn]
    split
    · next hm => rw [hused ⟨i, hi⟩ hm]; exact Bool.false_ne_true
    · exact Bool.false_ne_true
  have hlegal : ¬ ((g.srcs = 1 ∧ vb ≠ 0) ∨ (g.results = 2 ∧ vd = 63) ∨
      s.fwBad ([vd, va] ++ (if g.srcs ≥ 2 then [vb] else []) ++ (if g.results = 2 then [grp vd 1] else [])) = true) := by
    rintro (h | h | h)
    · exact hsrc h
    · exact hres h
    · exact Bool.false_ne_true (hfw.symm.trans h)
  show execXop vd va vb n p s = _
  rw [execXop, State.usablePlane_of_kept hlost, hg]
  refine congrArg _ ((if_neg hlegal).trans ((if_neg (ne_true_of_eq_false hclear)).trans ?_))
  exact State.push_xop s g n vd (s.ctx.rdP p) _ _ _

end

/-! ### PLREQ (24 R397) -/

section
variable {s : State} {k : Nat}

theorem ctlPa_parts (h : k < 2 ^ 23) (off : Nat) (ho : off < 2 ^ 22) :
    paSpace (ctlPa k off) = 2 ∧ paCluster (ctlPa k off) = k ∧ ctlPa k off % 2 ^ 22 = off := by
  unfold paSpace paCluster memKey ctlPa clusterBase
  omega

/-- May a lockhouse write the control block of the cluster (26 R422)? -/
abbrev State.lockMay (s : State) (k : Nat) : Prop := (s.module (modOf k)).power = .on ∧ (s.cluster k).acctab.getLsbD 41 = true

theorem exec_plreqWrite (h : k < 2 ^ 23) (v : DWord) : exec (.plreqWrite k v) s = .next (
    if s.lockMay k then s.updCluster k (fun c => c.plreq v.toNat) else s) := by
  obtain ⟨hs, hk, hoff⟩ := ctlPa_parts h 0x680 (by decide)
  have hacc : s.accOk mLock (ctlPa k 0x680) true = (s.cluster k).acctab.getLsbD 41 := by
    rw [State.accOk, State.accTable, if_neg (by omega), if_pos hs, hk, hoff, queueOf_of_outside (by omega)]
    exact (bitAt_fld _ 32 (by decide)).trans (bitAt_toNat _ 41)
  have hw : s.performWrite mLock false (ctlPa k 0x680) ((toBytes 8 v.toNat).map (fun b => (b, false))) =
      s.updCluster k (fun c => c.plreq v.toNat) := by
    rw [State.performWrite_register hs (by omega) (by omega), if_pos (by omega), hk, hoff]
    rfl
  have he : exec (.plreqWrite k v) s = execPlreqWrite k v s := rfl
  rw [he, execPlreqWrite, State.agentWrite, hacc, hw, hk]

theorem Cluster.plreq_busy {c : Cluster} (h : c.plBusy = true) (v : Nat) : c.plreq v = c := if_pos h

theorem Cluster.plreq_idle {c : Cluster} (h : c.plBusy = false) (v : DWord) :
    c.plreq v.toNat = { c with plBusy := true, plAddr := (v.extractLsb' 6 16).toNat * 64 } := by
  have haddr : v.toNat % 2 ^ 22 / 64 * 64 = (v.extractLsb' 6 16).toNat * 64 := by
    rw [← ofNat_fld, BitVec.toNat_ofNat, fld]
    omega
  rw [Cluster.plreq, h, haddr]
  rfl

theorem exec_plreqInstallEnd_idle (h : (s.cluster k).plBusy = false ∨ s.coreOps k ≠ []) (res : Nat) :
    exec (.plreqInstallEnd k res) s = .next s := by
  refine congrArg _ (if_pos ?_)
  rcases h with h | h
  · exact .inl (by rw [h]; rfl)
  · exact .inr (by rw [Bool.not_eq_true', List.isEmpty_eq_false_iff]; exact h)

/-- The install that PLREQ began, once the earlier accesses of q0 to q3 have been performed. -/
theorem exec_plreqInstallEnd_due (hb : (s.cluster k).plBusy = true) (hops : s.coreOps k = []) (res : Nat) :
    exec (.plreqInstallEnd k res) s = .next (
      let t := s.updCluster k (fun c => { c with plBusy := false })
      if res = 0 then (t.plInstall k (s.cluster k).plAddr (s.sparedXops k)).1
      else t.updCluster k (fun c => { c with plFail := true, plRepl := false, plEvict := 0 })) := by
  refine congrArg _ (if_neg ?_)
  rw [hb, hops]
  decide

/-- Reading a graph asks the memory alone. -/
theorem State.readGraph_updCluster (f : Cluster → Cluster) (j addr : Nat) :
    (s.updCluster k f).readGraph j addr = s.readGraph j addr := rfl

/-- An install that is refused sets FAIL. -/
theorem State.plInstall_refused {addr : Nat} {keep : List (Fin 16)} (h : s.loadGraph k false addr keep = none) :
    (s.plInstall k addr keep).1 = s.updCluster k (fun c => { c with plFail := true, plRepl := false, plEvict := 0 }) := by
  rw [State.plInstall, h]

/-- An install that succeeds says in PLSTAT what it replaced and evicted. -/
theorem State.plInstall_loads {addr : Nat} {keep out : List (Fin 16)} {rep : Bool} {t : State}
    (h : s.loadGraph k false addr keep = some (t, out, rep)) : (s.plInstall k addr keep).1 =
      t.updCluster k (fun c => { c with plFail := false, plRepl := rep, plEvict := BitVec.ofNat 16 (nameSet out) }) := by
  rw [State.plInstall, h]
  rfl

theorem exec_plreqInstallEnd_fails (hb : (s.cluster k).plBusy = true) (hops : s.coreOps k = []) {res : Nat}
    (h : res ≠ 0 ∨ (s.cluster k).bad.contains 3 = true ∨ s.readGraph k (s.cluster k).plAddr = none) :
    exec (.plreqInstallEnd k res) s = .next (s.updCluster k (fun c =>
      { c with plBusy := false, plFail := true, plRepl := false, plEvict := 0 })) := by
  rw [exec_plreqInstallEnd_due hb hops]
  dsimp only
  split_ifs with hr
  · have hload : (s.updCluster k (fun c => { c with plBusy := false })).loadGraph k false (s.cluster k).plAddr (s.sparedXops k) = none := by
      rw [State.loadGraph, State.readGraph_updCluster, State.cluster_updCluster_self]
      rcases h.resolve_left (not_not.mpr hr) with h | h
      · split
        · rfl
        · exact if_pos h
      · rw [h]
    rw [State.plInstall_refused hload, State.updCluster_updCluster]
  · rw [State.updCluster_updCluster]

/-- The program plane after an install, and what PLSTAT says of it. -/
def Cluster.installed (c : Cluster) (pl : List Graph) (out : List (Fin 16)) (rep : Bool) : Cluster :=
  { c with prog := { c.prog with plane := pl }, plBusy := false, plFail := false, plRepl := rep, plEvict := BitVec.ofNat 16 (nameSet out) }

theorem exec_plreqInstallEnd_installs (hb : (s.cluster k).plBusy = true) (hops : s.coreOps k = [])
    (hbad : (s.cluster k).bad.contains 3 = false) {g : Graph} (hg : s.readGraph k (s.cluster k).plAddr = some g) {pl : List Graph}
    {out : List (Fin 16)} {rep : Bool} (hin : install (s.sparedXops k) (s.cluster k).prog.plane g = some (pl, out, rep)) :
    exec (.plreqInstallEnd k 0) s = .next (s.updCluster k (fun c => c.installed pl out rep)) := by
  have hload : (s.updCluster k (fun c => { c with plBusy := false })).loadGraph k false (s.cluster k).plAddr (s.sparedXops k) =
      some (s.updCluster k (fun c => { c with plBusy := false, prog := { c.prog with plane := pl } }), out, rep) := by
    have hnot : ¬ ({ s.cluster k with plBusy := false } : Cluster).planeLost false = true := ne_true_of_eq_false hbad
    rw [State.loadGraph, State.readGraph_updCluster, hg, State.cluster_updCluster_self]
    dsimp only
    rw [if_neg hnot, State.ctxOf, State.cluster_updCluster_self]
    show Option.map _ (install _ (s.cluster k).prog.plane g) = _
    rw [hin, Option.map_some]
    refine congrArg some (Prod.ext ?_ rfl)
    simp only [State.setCtxOf, State.cluster_updCluster_self]
    exact State.setCluster_setCluster ..
  rw [exec_plreqInstallEnd_due hb hops]
  dsimp only
  rw [if_pos rfl, State.plInstall_loads hload, State.updCluster_updCluster]
  rfl

end

/-! ### A line of code (04 R433) -/

theorem find?_kset_of_ne {α : Type} (m : KMap α) {k j : Nat} (x : α) (h : j ≠ k) :
    (kset m k x).find? (fun y => y.1 == j) = m.find? (fun y => y.1 == j) := by
  induction m with
  | nil => simp [kset, h.symm]
  | cons e r ih =>
    obtain ⟨i, y⟩ := e
    rcases lt_trichotomy k i with h1 | h1 | h1
    · simp [kset, h1, h.symm]
    · subst h1; simp [kset, h.symm]
    · simp [kset, Nat.not_lt.mpr h1.le, h1.ne', List.find?_cons, ih]

/-- The buffer after a line fill. -/
def Cluster.filled (c : Cluster) (s : State) (k line : Nat) : Cluster := { c with
  ibuf := kset c.ibuf (lineIdx (line % 2 ^ 16 * 64)) ⟨lineTag (line % 2 ^ 16 * 64), s.codeWords k (line % 2 ^ 16 * 64) 16⟩
  wanted := c.wanted.filter (fun x => x != line % 2 ^ 16) }

theorem exec_icacheLineFill (s : State) (k line : Nat) :
    exec (.icacheLineFill k line) s = .next (s.updCluster k (fun c => c.filled s k line)) := rfl

theorem Cluster.ibufWord_filled (c : Cluster) (s : State) (k : Nat) {line i : Nat} (hl : line < 2 ^ 16) (hi : i < 16) :
    (c.filled s k line).ibufWord (64 * line + 4 * i) = some (s.codeWord k (64 * line + 4 * i)) := by
  have hline : line % 2 ^ 16 * 64 = 64 * line := by omega
  have hidx : lineIdx (64 * line + 4 * i) = lineIdx (64 * line) := by unfold lineIdx; omega
  have htag : lineTag (64 * line + 4 * i) = lineTag (64 * line) := by unfold lineTag; omega
  have hplace : (64 * line + 4 * i) % 64 / 4 = i := by omega
  rw [Cluster.ibufWord, Cluster.filled, hline, hidx, find?_kset_self, htag, hplace]
  show (if lineTag (64 * line) = lineTag (64 * line) then some (nth (s.codeWords k (64 * line) 16) i _) else none) = _
  rw [if_pos rfl, State.codeWords, nth_tabulate _ _ hi]

theorem Cluster.ibufWord_filled_of_ne (c : Cluster) (s : State) (k : Nat) {line b : Nat}
    (h : lineIdx b ≠ line % 256) : (c.filled s k line).ibufWord b = c.ibufWord b := by
  have hidx : lineIdx (line % 2 ^ 16 * 64) = line % 256 := by unfold lineIdx; omega
  rw [Cluster.ibufWord, Cluster.filled, hidx, find?_kset_of_ne _ _ h]
  rfl

/-- Settles O39, instruction by instruction. -/
theorem customOpcodes : Obligations.CustomOpcodes := by
  intro s d a n vd va vb p g k line res fw v rest keep out pl rep o w c x addr src h lost may owed
  refine ⟨fun hkept => ⟨_, ?_, fun hpl => xqryWord_fields hpl.1⟩, exec_xld_marked d,
    fun hx => ⟨fun ha => (exec_xld d hx).trans (congrArg _ (if_pos ha)), fun ha => (exec_xld d hx).trans (congrArg _ (if_neg (not_not.mpr ha)))⟩,
    exec_xdrop s d n, fun l r hbad hl ho hd hpend hrest hpost hbusy => ?_, install_spec, exec_xop_missing,
    fun hlost hg hsrc hres hfw hused => ?_, fun hk hmay => (exec_plreqWrite hk v).trans (congrArg _ (if_neg hmay)),
    fun hk hmay hb => ⟨_, (exec_plreqWrite hk v).trans (congrArg _ (if_pos hmay)), fun j => ?_⟩,
    fun hk hmay hb => (exec_plreqWrite hk v).trans (congrArg _ ((if_pos hmay).trans (congrArg (s.setCluster k) (Cluster.plreq_idle hb v)))),
    fun hb => exec_plreqInstallEnd_idle hb res,
    fun hb hops => ⟨exec_plreqInstallEnd_fails hb hops, fun hr hbad hg hin => ?_⟩,
    fun hline => ⟨_, exec_icacheLineFill s k line, rfl, ?_, fun i hi => ?_, fun b hb => ?_⟩⟩
  · have hplane : s.usablePlane = s.ctx.plane := State.usablePlane_of_kept hkept
    rw [← hplane]
    rfl
  · dsimp only
    rw [State.postStep_xdrop hbad hrest hpost hbusy, Ctx.pay]
    by_cases hz : d = 0
    · simp only [hz, if_true] at hpend ⊢
      rw [← hpend]
    · simp only [hz, if_false] at hpend ⊢
      rw [hpend, payFirst_append _ hl ho hd]
  · refine ⟨_, _, _, _, exec_xop_resident hlost hg hsrc hres hfw hused, rfl, rfl, State.ctx_updCtx .., fun i hi => ?_⟩
    have hlane : (s.ctx.xopLanes g va vb vd (s.ctx.rdP p))[i] = g.eval (s.ctx.xopSource va vb vd i) := by
      rw [Ctx.xopLanes, Fin.getElem_fin, Vector.getElem_ofFn]
      exact if_pos hi
    rw [Fin.getElem_fin, Fin.getElem_fin, Vector.getElem_ofFn, Vector.getElem_ofFn, hlane]
    exact ⟨rfl, rfl⟩
  · by_cases hj : j = k
    · rw [hj, State.cluster_updCluster_self, Cluster.plreq_busy hb]
    · rw [State.cluster_updCluster_of_ne _ _ hj]
  · subst hr
    refine ⟨_, exec_plreqInstallEnd_installs hb hops hbad hg hin, rfl, ?_⟩
    rw [State.cluster_updCluster_self]
    exact ⟨rfl, rfl, rfl, rfl, getLsbD_nameSet out⟩
  · rw [State.cluster_updCluster_self]
    rfl
  · rw [State.cluster_updCluster_self]
    exact Cluster.ibufWord_filled _ s k hline hi
  · rw [State.cluster_updCluster_self]
    exact Cluster.ibufWord_filled_of_ne _ s k hb

end Sys2Proof.Machine
end

section
/-! SUPPORT. QPOST and SIGADD (22 R367, R379, R380), and what a queue answers a post. -/

namespace Sys2Proof.Machine

/-! ### The checks of one element (09 R183, R184) -/

theorem checkAll_single (t : List Extent) (a : Acc3) (rp : Bool) (n align va : Nat) :
    checkAll t a rp n align [va] = (checkElem t a rp va n align).map (fun f => (f.2, va)) := by
  cases h : checkElem t a rp va n align <;> simp [checkAll, h]

/-- A load that passes its checks, without a residency predicate and not noisy, lies in a resident range of memory. -/
theorem resident_of_checkElem_load {t : List Extent} {va n align i : Nat} {e : Extent}
    (h : checkElem t (.load false) false va n align = none) (hf : findExtent t va n = some (i, e)) :
    (e.kind = .local ∨ e.kind = .remote) ∧ e.res = .resident := by
  unfold checkElem at h
  rw [hf] at h
  dsimp only at h
  split_ifs at h with halign hnone hperm hnoise hres
  have hr : e.res = .resident := by simpa using hres
  have hk : e.kind ≠ .noise := by
    rw [Bool.not_eq_true', Bool.not_eq_false, Bool.or_false, Bool.and_eq_true, bne_iff_ne] at hperm
    exact hperm.2
  refine ⟨?_, hr⟩
  cases h : e.kind <;> simp_all

theorem resident_of_checkAll_load {t : List Extent} {va n align i : Nat} {e : Extent}
    (h : checkAll t (.load false) false n align [va] = none) (hf : findExtent t va n = some (i, e)) :
    (e.kind = .local ∨ e.kind = .remote) ∧ e.res = .resident := by
  rw [checkAll_single, Option.map_eq_none_iff] at h
  exact resident_of_checkElem_load h hf

/-! ### QPOST at issue (22 R379) -/

section
variable {s : State} {a b : SReg} (d : SReg)

/-- The context after a QPOST: the place of its result taken, its post behind the bundle. -/
def Ctx.posts (c : Ctx) (d : SReg) (n : DWord) (rid : Option Nat) (bytes : List (Byte × Bool)) (after : List Dep) (slot : Nat) : Ctx :=
  { c with
    pend := c.pend ++ (if d = 0 then [] else [{ mkPend 0 (.sreg d ⟨0, false⟩) with owed := true }])
    post := c.post ++ [.qpost d n rid bytes after slot] }

theorem Ctx.posts_eq (c : Ctx) (n : DWord) (rid : Option Nat) (bytes : List (Byte × Bool)) (after : List Dep) (slot : Nat) :
    ({ c.owe d with post := c.post ++ [.qpost d n rid bytes after slot] } : Ctx) = c.posts d n rid bytes after slot := by
  unfold Ctx.owe Ctx.posts
  split_ifs
  · rw [List.append_nil]
  · rfl

theorem exec_qpost_markedAddress (h : (s.ctx.rdS a).poison = true) :
    exec (.qpost d a b) s = .next (s.poisonUse (s.ctx.rdS a).val.toNat) := congrArg _ (if_pos h)

theorem exec_qpost_markedQueue (ha : (s.ctx.rdS a).poison = false) (h : (s.ctx.rdS b).poison = true) :
    exec (.qpost d a b) s = .next s.poisonUse := congrArg _ ((if_neg (ne_true_of_eq_false ha)).trans (if_pos h))

theorem exec_sigadd_markedAddress (h : (s.ctx.rdS a).poison = true) :
    exec (.sigadd d a b) s = .next (s.poisonUse (s.ctx.rdS a).val.toNat) := congrArg _ (if_pos h)

theorem exec_sigadd_markedOperand (ha : (s.ctx.rdS a).poison = false) (h : (s.ctx.rdS b).poison = true) :
    exec (.sigadd d a b) s = .next s.poisonUse := congrArg _ ((if_neg (ne_true_of_eq_false ha)).trans (if_pos h))

/-- A denied read records its fault; one that its table permits changes nothing. -/
theorem State.denied_of_found {va n i : Nat} {e : Extent} (hf : findExtent s.me.table va n = some (i, e))
    (hk : e.kind = .local ∨ e.kind = .remote) (hr : e.res = .resident) (hp : paCluster (e.physical s.cur s.me va) = s.cur) :
    s.denied va n = if s.reach (e.physical s.cur s.me va) false then s else s.asyncFault s.cur s.curFw 0x22 (BitVec.ofNat 32 va) va := by
  unfold State.denied
  rw [hf]
  dsimp only
  cases s.reach (e.physical s.cur s.me va) false
  · exact (if_pos ⟨hk, hr, hp, rfl⟩).trans (if_neg Bool.false_ne_true).symm
  · exact (if_neg fun h => Bool.false_ne_true h.2.2.2).trans (if_pos rfl).symm

/-- An asynchronous fault of a context changes no access table. -/
theorem State.reach_asyncFault (code va pa : Nat) (info : Word) (w : Bool) :
    (s.asyncFault s.cur s.curFw code info va).reach pa w = s.reach pa w := by
  have hacc : ∀ k, ((s.asyncFault s.cur s.curFw code info va).cluster k).acctab = (s.cluster k).acctab := fun k => by
    unfold State.asyncFault State.setCtxOf
    by_cases hk : k = s.cur
    · rw [hk, State.cluster_setCluster_self, Cluster.setCtx_acctab]
    · rw [State.cluster_setCluster_of_ne _ _ hk]
  unfold State.reach State.accOk State.accTable
  simp only [hacc]
  rfl

section
variable (ha : (s.ctx.rdS a).poison = false) (hb : (s.ctx.rdS b).poison = false)
include ha hb

theorem exec_qpost_fault {code f : Nat} (h : checkAll s.me.table (.load false) false 64 64 [(s.ctx.rdS a).val.toNat] = some (code, f)) :
    exec (.qpost d a b) s = .next (s.raise code (BitVec.ofNat 32 f) f) := by
  show execQpost d a b s = _
  simp only [execQpost, ha, hb, h, Bool.false_eq_true, if_false]

theorem exec_sigadd_fault {code f : Nat} (h : checkAll s.me.table .atomic false 8 8 [(s.ctx.rdS a).val.toNat] = some (code, f)) :
    exec (.sigadd d a b) s = .next (s.raise code (BitVec.ofNat 32 f) f) := by
  show execSigadd d a b s = _
  simp only [execSigadd, ha, hb, h, Bool.false_eq_true, if_false]

section
variable {i : Nat} {e : Extent} (hck : checkAll s.me.table (.load false) false 64 64 [(s.ctx.rdS a).val.toNat] = none)
  (hf : findExtent s.me.table (s.ctx.rdS a).val.toNat 64 = some (i, e))
include hck hf

/-- A packet elsewhere is read by a message. -/
theorem exec_qpost_far (hp : paCluster (e.physical s.cur s.me (s.ctx.rdS a).val.toNat) ≠ s.cur) : exec (.qpost d a b) s = .next (
    (s.sendSlot 0 (paCluster (e.physical s.cur s.me (s.ctx.rdS a).val.toNat)) (s.ctx.rdS a).val.toNat
      (.read (e.physical s.cur s.me (s.ctx.rdS a).val.toNat) 64)).updCtx
      (fun c => c.posts d (s.ctx.rdS b).val (some s.nextId) [] (s.releaseDeps s.cur .sys) s.slot)) := by
  show execQpost d a b s = _
  simp only [execQpost, ha, hb, hck, hf, hp, Bool.false_eq_true, if_false, Ctx.posts_eq]

/-- A packet of the own cluster is read at once. -/
theorem exec_qpost_near (hp : paCluster (e.physical s.cur s.me (s.ctx.rdS a).val.toNat) = s.cur) : exec (.qpost d a b) s = .next (
    let pa := e.physical s.cur s.me (s.ctx.rdS a).val.toNat
    let t := s.denied (s.ctx.rdS a).val.toNat 64
    t.updCtx (fun c => c.posts d (s.ctx.rdS b).val none (if t.reach pa false then t.performRead pa 64 else marked 64 0 false)
      (s.releaseDeps s.cur .sys) t.slot)) := by
  show execQpost d a b s = _
  simp only [execQpost, ha, hb, hck, hf, hp, Bool.false_eq_true, if_false, if_true, Ctx.posts_eq]

theorem exec_qpost_near_read (hp : paCluster (e.physical s.cur s.me (s.ctx.rdS a).val.toNat) = s.cur)
    (hr : s.reach (e.physical s.cur s.me (s.ctx.rdS a).val.toNat) false = true) : exec (.qpost d a b) s = .next (
    s.updCtx (fun c => c.posts d (s.ctx.rdS b).val none (s.performRead (e.physical s.cur s.me (s.ctx.rdS a).val.toNat) 64)
      (s.releaseDeps s.cur .sys) s.slot)) := by
  obtain ⟨hk, hres⟩ := resident_of_checkAll_load hck hf
  have hden : s.denied (s.ctx.rdS a).val.toNat 64 = s := (State.denied_of_found hf hk hres hp).trans (if_pos hr)
  rw [exec_qpost_near d ha hb hck hf hp, hden]
  dsimp only
  rw [if_pos hr]

theorem exec_qpost_near_denied (hp : paCluster (e.physical s.cur s.me (s.ctx.rdS a).val.toNat) = s.cur)
    (hr : s.reach (e.physical s.cur s.me (s.ctx.rdS a).val.toNat) false = false) : exec (.qpost d a b) s = .next (
    (s.asyncFault s.cur s.curFw 0x22 (BitVec.ofNat 32 (s.ctx.rdS a).val.toNat) (s.ctx.rdS a).val.toNat).updCtx (fun c =>
      c.posts d (s.ctx.rdS b).val none (List.replicate 64 (0, false)) (s.releaseDeps s.cur .sys) s.slot)) := by
  obtain ⟨hk, hres⟩ := resident_of_checkAll_load hck hf
  have hden : s.denied (s.ctx.rdS a).val.toNat 64 = s.asyncFault s.cur s.curFw 0x22 _ _ :=
    (State.denied_of_found hf hk hres hp).trans (if_neg (ne_true_of_eq_false hr))
  have hzero : marked 64 0 false = List.replicate 64 (0, false) := by decide
  rw [exec_qpost_near d ha hb hck hf hp, hden]
  dsimp only
  rw [State.reach_asyncFault, hr, hzero]
  rfl

end

/-! ### SIGADD (22 R380) -/

section
variable {i : Nat} {e : Extent} (hck : checkAll s.me.table .atomic false 8 8 [(s.ctx.rdS a).val.toNat] = none)
  (hf : findExtent s.me.table (s.ctx.rdS a).val.toNat 8 = some (i, e))
include hck hf

/-- A SIGADD whose checks pass. -/
theorem exec_sigadd : exec (.sigadd d a b) s = .next (
    let va := (s.ctx.rdS a).val.toNat
    let pa := e.physical s.cur s.me va
    if paSpace pa ≠ 0 then s.raise 0x22 (BitVec.ofNat 32 va) va
    else if s.poisoned pa 8 then s.raise 0x25 (BitVec.ofNat 32 va) va
    else (s.send (.slot s.curFw 0) s.cur (paCluster pa) va (.sigadd pa (s.ctx.rdS b).val)
      (s.releaseDeps s.cur (if modOf (paCluster pa) = modOf s.cur then .mod else .sys) ++
        (s.streamOrder s.cur 0 (paCluster pa) true).1) (s.streamOrder s.cur 0 (paCluster pa) true).2).updCtx (fun c =>
        c.push (waitPend 5 (.sreg d ⟨0, false⟩) [(s.nextId, 0)] .z32 (some .s64)))) := by
  show execSigadd d a b s = _
  simp only [execSigadd, ha, hb, hck, hf, Bool.false_eq_true, if_false]

end

end

/-- A message that writes nothing when it leaves its stream joins the networks: on its way where all it waits for has come about,
else held. -/
theorem State.send_sigadd (by_ : Issuer) (src dst va pa : Nat) (x : DWord) (cond : List Dep) (after : List Nat) :
    ∃ w : Msg, s.send by_ src dst va (.sigadd pa x) cond after = { s with net := s.net ++ [w], nextId := s.nextId + 1 } ∧
      w.kind = .sigadd pa x ∧ w.by_ = by_ ∧ w.dst = dst ∧ (cond.all (s.met src) = true → w.phase = .out ∧ w.cond = []) ∧
      (cond.all (s.met src) = false → w.phase = .held ∧ w.cond = cond) := by
  have hnote : s.noteMsg src by_ (.sigadd pa x) = s := by cases by_ <;> rfl
  have hmet : (s.unmet src cond).isEmpty = cond.all (s.met src) := by
    rw [State.unmet, Bool.eq_iff_iff, List.isEmpty_iff, List.filter_eq_nil_iff, List.all_eq_true]
    simp only [Bool.not_eq_true', Bool.not_eq_false]
  unfold State.send
  rw [hnote, hmet]
  cases hall : cond.all (s.met src)
  · exact ⟨_, rfl, rfl, rfl, rfl, fun h => absurd h Bool.false_ne_true, fun _ => ⟨rfl, rfl⟩⟩
  · exact ⟨_, rfl, rfl, rfl, rfl, fun _ => ⟨rfl, rfl⟩, fun h => absurd h.symm Bool.false_ne_true⟩

end

/-! ### What a queue answers a post (22 R379) -/

section
variable {s : State} {m : Nat} {n : DWord}

theorem State.qpostRefusal_number (h : 63 < n.toNat) : s.qpostRefusal m n = some (-3) := if_pos h

theorem State.qpostRefusal_closed (hn : n.toNat ≤ 63) (h : (s.queue m n.toNat).en = false ∨ (s.queue m n.toNat).dev = false) :
    s.qpostRefusal m n = some (-2) :=
  (if_neg (Nat.not_lt.mpr hn)).trans (if_pos (h.imp (fun h => by rw [h]; rfl) fun h => by rw [h]; rfl))

/-- An enabled device queue refuses a post only while it is full. -/
theorem State.qpostRefusal_open (hn : n.toNat ≤ 63) (he : (s.queue m n.toNat).en = true) (hd : (s.queue m n.toNat).dev = true) :
    s.qpostRefusal m n = if ((s.queue m n.toNat).write + 2 ^ 32 - (s.queue m n.toNat).read) % 2 ^ 32 = 2 ^ (s.queue m n.toNat).log2n
      then some (-1) else none := by
  refine (if_neg (Nat.not_lt.mpr hn)).trans (if_neg ?_)
  rw [he, hd]
  decide

end

/-- One cycle of a QPOST whose packet is read. -/
theorem State.qpostGo_eq {s : State} {k : Nat} {fw : Bool} {d : SReg} {n : DWord} {bytes : List (Byte × Bool)} {after : List Dep}
    {sl : Nat} {rest : List Post} (h : (s.ctxOf k fw).post = .qpost d n none bytes after sl :: rest) :
    s.qpostGo k fw =
      (let give (u : State) (v : DWord) : State := u.setCtxOf k fw { (u.ctxOf k fw).pay d ⟨v, false⟩ with post := rest }
       match s.qpostRefusal (modOf k) n with
       | some v => give s v
       | none => if s.allMet k after then give (s.qpostWrite (modOf k) n bytes) (BitVec.ofNat 64 (s.queue (modOf k) n.toNat).write)
          else s) := by
  unfold State.qpostGo
  rw [h] <;> rfl

/-- Settles O40, clause by clause. -/
theorem queuePostsAndSignals : Obligations.QueuePostsAndSignals := by
  intro s d a b i e n bytes x y va pa m q owed
  refine ⟨fun h => ⟨exec_qpost_markedAddress d h, exec_sigadd_markedAddress d h⟩,
    fun ha hb => ⟨exec_qpost_markedQueue d ha hb, exec_sigadd_markedOperand d ha hb⟩,
    fun ha hb => ⟨fun code f => exec_qpost_fault d ha hb, fun code f => exec_sigadd_fault d ha hb,
      fun hck hf => ⟨exec_qpost_near_read d ha hb hck hf, exec_qpost_near_denied d ha hb hck hf, exec_qpost_far d ha hb hck hf⟩,
      fun hck hf => ⟨fun hs => ?_, fun hs hp => ?_, fun hs hp => ?_⟩⟩,
    State.qpostRefusal_number, State.qpostRefusal_closed,
    fun hn he hd => ⟨fun hfull => (State.qpostRefusal_open hn he hd).trans (if_pos hfull),
      fun hfree => (State.qpostRefusal_open hn he hd).trans (if_neg hfree)⟩, fun fw after sl rest hpost => ⟨fun v hv => ?_, fun hnew hw => ?_,
      fun hnew hw => ?_⟩⟩
  · exact (exec_sigadd d ha hb hck hf).trans (congrArg _ (if_pos hs))
  · exact (exec_sigadd d ha hb hck hf).trans (congrArg _ ((if_neg (not_not.mpr hs)).trans (if_pos hp)))
  · have hgo := (exec_sigadd d ha hb hck hf).trans (congrArg _ ((if_neg (not_not.mpr hs)).trans (if_neg (ne_true_of_eq_false hp))))
    obtain ⟨w, hsend, hkind, hby, hdst, hout, hheld⟩ := State.send_sigadd (s := s) (.slot s.curFw 0) s.cur (paCluster pa) va pa y.val
      (s.releaseDeps s.cur (if modOf (paCluster pa) = modOf s.cur then .mod else .sys) ++ (s.streamOrder s.cur 0 (paCluster pa) true).1)
      (s.streamOrder s.cur 0 (paCluster pa) true).2
    rw [hsend] at hgo
    exact ⟨_, w, hgo, rfl, hkind, hby, hdst, ⟨hout, hheld⟩, State.ctx_updCtx .., fun _ => rfl, rfl⟩
  · rw [State.qpostGo_eq hpost, hv]
  · have hnone : s.qpostRefusal (modOf s.cur) n = none := hnew
    rw [State.qpostGo_eq hpost, hnone]
    exact if_neg (ne_true_of_eq_false hw)
  · have hnone : s.qpostRefusal (modOf s.cur) n = none := hnew
    rw [State.qpostGo_eq hpost, hnone]
    exact if_pos hw

end Sys2Proof.Machine
end

section
/-! SUPPORT. The E commands at issue (16 R307; 18 R332 to R338): what joins a stream, and SFREE's slot. -/

namespace Sys2Proof.Machine

section
variable (s : State) (q : Fin 16) (c : EClause)

/-- What joins a stream: a command that has not started, with what it read at issue, behind the orders of its context (12 R232,
R235). -/
def State.joined (op : SOp) (dst src : DWord) (len : Nat) (after : List Dep) : SCmd :=
  ⟨s.nextId, op, dst, src, len, c.gsem, c.ginc.toInt, s.curFw, s.engineAfter q.val op ++ after, false, 0, false, [], none, [], [],
    false, s.slotWord⟩

/-- A command joins its stream, with a change of the inbound channels. -/
structure State.Joins (t : State) (d : SCmd) (ich : KMap Ich) : Prop where
  ctx : t.ctx = s.ctx
  mem : t.mem = s.mem
  pmem : t.pmem = s.pmem
  net : t.net = s.net
  md : t.md = s.md
  others : ∀ j, j ≠ s.cur → t.cluster j = s.cluster j
  nextId : t.nextId = s.nextId + 1
  mx : t.me.mx = s.me.mx
  inbound : t.me.ich = ich
  outbound : t.me.och = s.me.och
  last : t.me.stream q.val = s.me.stream q.val ++ [d]
  streams : ∀ p, p ≠ q.val → t.me.stream p = s.me.stream p

theorem Cluster.setStream_append (m : Cluster) (p : Nat) (l : List SCmd) (d : SCmd) :
    m.setStream p (l ++ [d]) = { m with streams := kset m.streams p (l ++ [d]) } := by
  rw [Cluster.setStream, if_neg (by simp)]

/-- The cluster with a command last in its stream and its inbound channels given. -/
def Cluster.joined (m : Cluster) (p : Nat) (d : SCmd) (ich : KMap Ich) : Cluster :=
  { m with ich := ich, streams := kset m.streams p (m.stream p ++ [d]) }

theorem Cluster.ctx_joined (m : Cluster) (p : Nat) (d : SCmd) (ich : KMap Ich) (fw : Bool) : (m.joined p d ich).ctx fw = m.ctx fw := by
  cases fw <;> rfl

/-- The state with a command last in its stream. -/
def State.withJoined (d : SCmd) (ich : KMap Ich) : State := { s.updMe (fun m => m.joined q.val d ich) with nextId := s.nextId + 1 }

theorem State.joins_withJoined (d : SCmd) (ich : KMap Ich) : s.Joins q (s.withJoined q d ich) d ich := by
  have hme : (s.withJoined q d ich).me = s.me.joined q.val d ich :=
    s.me_updMe (fun m => m.joined q.val d ich)
  have hctx : (s.withJoined q d ich).ctx = s.ctx :=
    (s.ctx_updMe (fun m => m.joined q.val d ich)).trans (s.me.ctx_joined q.val d ich s.curFw)
  refine ⟨hctx, rfl, rfl, rfl, rfl, fun j hj => s.cluster_setCluster_of_ne _ hj, rfl, ?_, ?_, ?_, ?_, fun p hp => ?_⟩ <;> rw [hme]
  · rfl
  · rfl
  · rfl
  · exact kget_kset_self ..
  · exact kget_kset_of_ne _ _ _ hp

theorem State.enqueue_eq (op : SOp) (dst src : DWord) (len : Nat) (after : List Dep) :
    s.enqueue q c op dst src len after = s.withJoined q (s.joined q c op dst src len after) s.me.ich := by
  rw [State.enqueue, State.withJoined]
  simp only [Cluster.setStream_append]
  rfl

/-- SFREE takes its slot from the channel before it joins. -/
theorem State.enqueue_updMe_ich (ich : KMap Ich) (op : SOp) (dst src : DWord) (len : Nat) (after : List Dep) :
    (s.updMe (fun m => { m with ich := ich })).enqueue q c op dst src len after =
      s.withJoined q ((s.updMe (fun m => { m with ich := ich })).joined q c op dst src len after) ich := by
  rw [State.enqueue, State.withJoined]
  simp only [Cluster.setStream_append, State.updMe_updMe]
  rfl

/-- What an engine command waits for, by what it accesses: nothing, reads alone, or writes too (12 R232; 18 R338). -/
theorem State.engineAfter_eq (p : Nat) (op : SOp) : s.engineAfter p op =
    (let all (w : Bool) : List Dep := s.scOut ++ s.ctx.fences.flatMap (fun f => f.acc ++ if w then f.writes else []) ++
      (s.me.sbars.filter (fun b => b.mask.getLsbD p)).flatMap (·.deps)
     match op with
      | .close | .free .. | .nop => []
      | .fill _ => all false
      | _ => all true) := by
  cases op <;> rfl

end

/-! ### Copies (18 R334, R335) -/

section
variable {s : State} {d a l : SReg} {q : Fin 16} {c : EClause}

theorem State.copyCmd_badClause (op : SOp) (o : Bool) (h : s.clauseBad c = true) : s.copyCmd op o d a l q c = s.illegalField := if_pos h

theorem State.copyCmd_marked (op : SOp) (o : Bool) (hc : s.clauseBad c = false)
    (h : (s.ctx.rdS d).poison = true ∨ (s.ctx.rdS a).poison = true ∨ (s.ctx.rdS l).poison = true) :
    s.copyCmd op o d a l q c = s.poisonUse := by
  refine (if_neg (ne_true_of_eq_false hc)).trans (if_pos ?_)
  rw [Bool.or_eq_true, Bool.or_eq_true, or_assoc]
  exact h

/-- A copy form of unmarked operands. -/
theorem State.copyCmd_unmarked (op : SOp) (o : Bool) (hc : s.clauseBad c = false) (hd : (s.ctx.rdS d).poison = false)
    (ha : (s.ctx.rdS a).poison = false) (hl : (s.ctx.rdS l).poison = false) : s.copyCmd op o d a l q c =
      (let n := ((s.ctx.rdS l).val.setWidth 32).toNat
       if o = true ∧ 0 < n ∧ (s.ctx.rdS d).val.toNat < (s.ctx.rdS a).val.toNat + n ∧ (s.ctx.rdS a).val.toNat < (s.ctx.rdS d).val.toNat + n then
        s.raise 0x52 ((s.ctx.rdS a).val.setWidth 32) (s.ctx.rdS a).val.toNat
      else s.enqueue q c op (s.ctx.rdS d).val (s.ctx.rdS a).val n []) := by
  have hn : (s.ctx.rdS l).val.toNat % 2 ^ 32 = ((s.ctx.rdS l).val.setWidth 32).toNat := (BitVec.toNat_setWidth ..).symm
  have hi : BitVec.ofNat 32 (s.ctx.rdS a).val.toNat = (s.ctx.rdS a).val.setWidth 32 := BitVec.ofNat_toNat ..
  simp only [State.copyCmd, hc, hd, ha, hl, hn, hi, Bool.or_false, Bool.false_eq_true, if_false, Bool.and_eq_true, decide_eq_true_eq,
    gt_iff_lt, and_assoc]

/-! ### SFILL, SSEND, SFREE, SWAKE, SCLOSE -/

theorem exec_sclose : exec (.sclose q c) s = .next (if s.clauseBad c then s.illegalField else s.enqueue q c .close 0 0 0 []) := rfl

theorem exec_swake : exec (.swake d a q c) s = .next (
    if s.clauseBad c then s.illegalField
    else if (s.ctx.rdS d).poison || (s.ctx.rdS a).poison then s.poisonUse
    else s.enqueue q c .wake (s.ctx.rdS d).val (s.ctx.rdS a).val 8 []) := rfl

theorem exec_sfill (fifo : Bool) : exec (.sfill a l fifo q c) s = .next (s.programOnly c (
    if (s.ctx.rdS a).poison || (s.ctx.rdS l).poison then s.poisonUse
    else s.enqueue q c (.fill fifo) 0 (s.ctx.rdS a).val ((s.ctx.rdS l).val.toNat % 2 ^ 32) [])) := rfl

theorem exec_ssend (ch : Fin 16) : exec (.ssend ch a l q c) s = .next (s.programOnly c (
    let n := (s.ctx.rdS l).val.toNat % 2 ^ 32
    let o := s.me.ochOf ch.val
    if (s.ctx.rdS a).poison || (s.ctx.rdS l).poison then s.poisonUse
    else if !o.v then s.raise 0x50 (BitVec.ofNat 32 ch.val)
    else if (s.ctx.rdS a).val.toNat % 32 ≠ 0 ∨ n % 32 ≠ 0 ∨ n < 32 ∨ n > o.sbytes then
      s.raise 0x52 (BitVec.ofNat 32 (s.ctx.rdS a).val.toNat) (s.ctx.rdS a).val.toNat
    else s.enqueue q c (.send ch) 0 (s.ctx.rdS a).val n [])) := rfl

/-- A channel whose oldest held slot has been handed back. -/
def Ich.handsBack (x : Ich) : Ich := { x with head := (x.head + 1) % x.slots, nheld := x.nheld - 1, tags := x.tags.drop 1 }

/-- The sequence number of the oldest held packet. -/
def Ich.oldest (x : Ich) : Word := match x.tags with
  | t :: _ => t.2.1
  | [] => 0

theorem Ich.oldest_eq (x : Ich) : x.oldest = (x.tags.head?.map (fun t => t.2.1)).getD 0 := by
  unfold Ich.oldest
  cases x.tags <;> rfl

/-- The slot is handed back before the command joins, which looks at nothing that this changes. -/
theorem State.sfree_joins (s : State) (q : Fin 16) (c : EClause) (ch : Nat) (y : Ich) (op : SOp) (src : DWord) (len : Nat)
    (after : List Dep) : (s.updMe (fun k => { k with ich := kset k.ich ch y })).enqueue q c op 0 src len after =
      s.withJoined q (s.joined q c op 0 src len after) (kset s.me.ich ch y) := by
  have hafter : (s.updMe (fun k => { k with ich := kset s.me.ich ch y })).engineAfter q.val op = s.engineAfter q.val op := by
    have hctx : (s.updMe (fun k => { k with ich := kset s.me.ich ch y })).ctx = s.ctx := by
      rw [State.ctx_updMe]
      cases h : s.curFw <;> simp only [State.ctx, State.ctxOf, h] <;> rfl
    rw [State.engineAfter, State.engineAfter, hctx, State.me_updMe]
    rfl
  refine (s.enqueue_updMe_ich q c (kset s.me.ich ch y) op 0 src len after).trans ?_
  rw [State.joined, hafter]
  rfl

theorem exec_sfree (ch : Fin 16) : exec (.sfree ch a q c) s = .next (s.programOnly c (
    let x := s.me.ichOf ch.val
    if (s.ctx.rdS a).poison then s.poisonUse
    else if !x.v then s.raise 0x50 (BitVec.ofNat 32 ch.val)
    else if x.nheld = 0 ∨ (s.ctx.rdS a).val.toNat ≠ x.rbase + x.head * x.sbytes then
      s.raise 0x51 (BitVec.ofNat 32 (s.ctx.rdS a).val.toNat)
    else (s.updMe (fun k => { k with ich := kset k.ich ch.val x.handsBack })).enqueue q c (.free x.oldest x.src) 0 (s.ctx.rdS a).val 0
      (s.slotDeps (x.phys + x.head * x.sbytes) x.sbytes))) := rfl

end

/-! ### The statement -/

section
variable {s : State} {q : Fin 16} {c : EClause}

theorem exec_of_clause {i : Instr} {t : State} (h : exec i s = .next (if s.clauseBad c then s.illegalField else t))
    (hc : s.clauseBad c = false) : exec i s = .next t := h.trans (congrArg _ (if_neg (ne_true_of_eq_false hc)))

theorem exec_of_programOnly {i : Instr} {t : State} (h : exec i s = .next (s.programOnly c t)) (hfw : s.curFw = false)
    (hc : s.clauseBad c = false) : exec i s = .next t := h.trans (congrArg _ (State.programOnly_passed t hfw hc))

section
variable {a l : SReg} (hfw : s.curFw = false) (hc : s.clauseBad c = false) (ha : (s.ctx.rdS a).poison = false)
include hfw hc ha

section
variable (hl : (s.ctx.rdS l).poison = false)
include hl

theorem exec_sfill_unmarked (fifo : Bool) : exec (.sfill a l fifo q c) s =
    .next (s.enqueue q c (.fill fifo) 0 (s.ctx.rdS a).val ((s.ctx.rdS l).val.setWidth 32).toNat []) := by
  rw [exec_of_programOnly (exec_sfill fifo) hfw hc, ha, hl, BitVec.toNat_setWidth]
  rfl

/-- SSEND of unmarked operands: a valid channel and a packet of whole units within its slots. -/
theorem exec_ssend_unmarked (ch : Fin 16) : exec (.ssend ch a l q c) s = .next (
    let n := ((s.ctx.rdS l).val.setWidth 32).toNat
    let o := s.me.ochOf ch.val
    if o.v = false then s.raise 0x50 (BitVec.ofNat 32 ch.val)
    else if (s.ctx.rdS a).val.toNat % 32 = 0 ∧ n % 32 = 0 ∧ 32 ≤ n ∧ n ≤ o.sbytes then
      s.enqueue q c (.send ch) 0 (s.ctx.rdS a).val n []
    else s.raise 0x52 ((s.ctx.rdS a).val.setWidth 32) (s.ctx.rdS a).val.toNat) := by
  have hbad : ∀ y n b : Nat, (y % 32 ≠ 0 ∨ n % 32 ≠ 0 ∨ n < 32 ∨ n > b) ↔ ¬ (y % 32 = 0 ∧ n % 32 = 0 ∧ 32 ≤ n ∧ n ≤ b) := by omega
  rw [exec_of_programOnly (exec_ssend ch) hfw hc, ha, hl, BitVec.toNat_setWidth, ← BitVec.ofNat_toNat]
  simp only [Bool.or_false, Bool.false_eq_true, if_false, Bool.not_eq_true', hbad, ite_not]

end

/-- SFREE of an unmarked address: a valid channel and its oldest held slot. -/
theorem exec_sfree_unmarked (ch : Fin 16) : exec (.sfree ch a q c) s = .next (
    let x := s.me.ichOf ch.val
    if x.v = false then s.raise 0x50 (BitVec.ofNat 32 ch.val)
    else if x.nheld = 0 ∨ (s.ctx.rdS a).val.toNat ≠ x.rbase + x.head * x.sbytes then s.raise 0x51 ((s.ctx.rdS a).val.setWidth 32)
    else s.withJoined q (s.joined q c (.free ((x.tags.head?.map (fun t => t.2.1)).getD 0) x.src) 0 (s.ctx.rdS a).val 0
      (s.slotDeps (x.phys + x.head * x.sbytes) x.sbytes)) (kset s.me.ich ch.val x.handsBack)) := by
  rw [exec_of_programOnly (exec_sfree ch) hfw hc, ha, ← BitVec.ofNat_toNat]
  simp only [Bool.false_eq_true, if_false, Bool.not_eq_true', State.sfree_joins, Ich.oldest_eq]

end

/-- The commands that the program context alone may issue. -/
def programStreams (a l : SReg) (fifo : Bool) (ch q : Fin 16) (c : EClause) : List Instr :=
  [.sfill a l fifo q c, .ssend ch a l q c, .sfree ch a q c]

theorem exec_programStreams (a l : SReg) (fifo : Bool) (ch : Fin 16) : ∀ i ∈ programStreams a l fifo ch q c,
    ∃ t, exec i s = .next (s.programOnly c t) := by
  simp only [programStreams, List.forall_mem_cons, List.not_mem_nil, false_imp_iff, implies_true, and_true]
  exact ⟨⟨_, exec_sfill fifo⟩, ⟨_, exec_ssend ch⟩, ⟨_, exec_sfree ch⟩⟩

/-- The commands that both contexts may issue, a bad clause apart. -/
theorem exec_badClause (d a l : SReg) (hc : s.clauseBad c = true) :
    ∀ i ∈ ([.scopy d a l q c, .spost d a l q c, .sget d a l q c, .swake d a q c, .sclose q c] : List Instr),
      exec i s = .next s.illegalField := by
  simp only [List.forall_mem_cons, List.not_mem_nil, false_imp_iff, implies_true, and_true]
  exact ⟨congrArg _ (State.copyCmd_badClause _ _ hc), congrArg _ (State.copyCmd_badClause _ _ hc),
    congrArg _ (State.copyCmd_badClause _ _ hc), congrArg _ (if_pos hc), congrArg _ (if_pos hc)⟩

end

/-- Settles O43, command by command. -/
theorem streamCommands : Obligations.StreamCommands := by
  intro s d a l fifo ch q c m x y z n lost o h all held joins
  have hheld : ∀ op : SOp, op ≠ .nop → s.engineAfter q.val op = held op := fun op hop => by
    rw [State.engineAfter_eq]
    cases op with
    | nop => exact absurd rfl hop
    | _ => rfl
  have joins_with {i : Instr} {op : SOp} {dst src : DWord} {len : Nat} {after : List Dep} {ich : KMap Ich} (hop : op ≠ .nop)
      (hu : exec i s = .next (s.withJoined q (s.joined q c op dst src len after) ich)) : joins i op dst src len after ich := by
    rw [State.joined, hheld op hop] at hu
    have hj := s.joins_withJoined q ⟨s.nextId, op, dst, src, len, c.gsem, c.ginc.toInt, s.curFw, held op ++ after, false, 0, false,
      [], none, [], [], false, s.slotWord⟩ ich
    exact ⟨_, hu, hj.ctx, hj.mem, hj.pmem, hj.net, hj.md, hj.others, hj.nextId, hj.mx, hj.inbound, hj.outbound, hj.last, hj.streams⟩
  have joins_of {i : Instr} {op : SOp} {dst src : DWord} {len : Nat} {after : List Dep} (hop : op ≠ .nop)
      (hu : exec i s = .next (s.enqueue q c op dst src len after)) : joins i op dst src len after m.ich :=
    joins_with hop (hu.trans (congrArg _ (s.enqueue_eq q c op dst src len after)))
  have hunmarked : ∀ {u v : SVal}, u.poison = false → v.poison = false → ¬ (u.poison || v.poison) = true := fun hu hv => by
    rw [hu, hv]; exact Bool.false_ne_true
  refine ⟨fun hfw i hi => ?_, exec_badClause d a l, fun hc hfw i hi => ?_, fun hc => ⟨?_, fun hp => ?_, fun hx hy => ?_,
    fun hx hy hz => ⟨?_, ?_, fun ho => ?_, fun ho => ?_⟩, fun hfw => ⟨fun hy hz => ⟨?_, fun hv => ?_, fun hv => ⟨fun hs => ?_, fun hs => ?_⟩⟩,
      fun hy => ⟨fun hv => ?_, fun hv => ⟨fun hs => ?_, fun hs => ?_⟩⟩⟩⟩⟩
  · obtain ⟨t, ht⟩ := exec_programStreams (s := s) a l fifo ch i hi
    exact ht.trans (congrArg _ (State.programOnly_firmware t hfw))
  · obtain ⟨t, ht⟩ := exec_programStreams (s := s) a l fifo ch i hi
    exact ht.trans (congrArg _ (State.programOnly_badClause t hfw hc))
  · exact joins_of (by decide) (exec_of_clause exec_sclose hc)
  · simp only [List.forall_mem_cons, List.not_mem_nil, false_imp_iff, implies_true, and_true]
    exact ⟨congrArg _ (State.copyCmd_marked _ _ hc hp), congrArg _ (State.copyCmd_marked _ _ hc hp),
      congrArg _ (State.copyCmd_marked _ _ hc hp)⟩
  · exact joins_of (by decide) ((exec_of_clause exec_swake hc).trans (congrArg _ (if_neg (hunmarked hx hy))))
  · exact joins_of (by decide) (congrArg _ ((State.copyCmd_unmarked .post false hc hx hy hz).trans (if_neg fun h => Bool.false_ne_true h.1)))
  · exact joins_of (by decide) (congrArg _ ((State.copyCmd_unmarked .get false hc hx hy hz).trans (if_neg fun h => Bool.false_ne_true h.1)))
  · exact congrArg _ ((State.copyCmd_unmarked .copy true hc hx hy hz).trans (if_pos ⟨rfl, ho⟩))
  · exact joins_of (by decide) (congrArg _ ((State.copyCmd_unmarked .copy true hc hx hy hz).trans (if_neg fun h => ho h.2)))
  · exact joins_of (by simp) (exec_sfill_unmarked hfw hc hy hz fifo)
  · exact (exec_ssend_unmarked hfw hc hy hz ch).trans (congrArg _ (if_pos hv))
  · exact joins_of (by simp) ((exec_ssend_unmarked hfw hc hy hz ch).trans (congrArg _ ((if_neg (ne_false_of_eq_true hv)).trans (if_pos hs))))
  · exact (exec_ssend_unmarked hfw hc hy hz ch).trans (congrArg _ ((if_neg (ne_false_of_eq_true hv)).trans (if_neg hs)))
  · exact (exec_sfree_unmarked hfw hc hy ch).trans (congrArg _ (if_pos hv))
  · exact (exec_sfree_unmarked hfw hc hy ch).trans (congrArg _ ((if_neg (ne_false_of_eq_true hv)).trans (if_pos hs)))
  · exact joins_with (by simp) ((exec_sfree_unmarked hfw hc hy ch).trans (congrArg _ ((if_neg (ne_false_of_eq_true hv)).trans
      (if_neg fun hb => hb.elim hs.1 fun hne => hne hs.2))))

end Sys2Proof.Machine
end

section
/-! SUPPORT. The start of a copy that is noted as faulted (18 R333, R334): it moves nothing. -/

namespace Sys2Proof.Machine

/-- The one LOCAL entry of the table: 64 bytes from virtual address 0 on. -/
def copyEntry : Nat × Extent := (0, ⟨true, false, .resident, true, true, .local, 0, 64, 0, false, false, 0, 0, none⟩)

/-- A copy of the byte at 1 to 0 that has its fault noted already, though it has neither started nor ended. -/
def faultedCopy : SCmd := ⟨0, .copy, 0, 1, 1, 0, 0, false, [], false, 0, false, [], none, [], [], true, 0⟩

/-- The faulted copy at the head of stream 0 of cluster 0. -/
def faultedStream : State := { State.reset with
  cl := [(0, { Cluster.reset with
    phases := [⟨0, [copyEntry.2], false, 0, none, none, [], [], [], 0⟩]
    streams := [(0, [faultedCopy])] })] }

/-- Its start leaves it neither moved on nor ended. -/
theorem faultedStream_keeps : ∃ t, exec (.streamCmdStart 0 0) faultedStream = .next t ∧
    ((t.cluster 0).stream 0).find? (fun x => x.id == 0) = some { faultedCopy with started := true } :=
  ⟨_, rfl, by decide +kernel⟩

/-- Refutes O44: its copy clause has no hypothesis that the command has met no fault. A copy that is noted as faulted and not as
ended starts, and its unit delivers no byte (18 R334), where the statement has it done and ended. -/
theorem not_streamProgress : ¬ Obligations.StreamProgress := by
  intro h
  obtain ⟨-, hstart, -⟩ := h faultedStream 0 0 0 faultedCopy [] copyEntry copyEntry
  obtain ⟨t, ht, hcopy, -⟩ := hstart rfl (by decide +kernel) rfl rfl rfl rfl rfl rfl (by decide)
  obtain ⟨-, -, hdone⟩ := hcopy rfl (by decide +kernel) (by decide) (by decide +kernel) (by decide +kernel) (by decide +kernel)
    (by decide +kernel) (by decide +kernel) (by decide +kernel) (by decide +kernel) rfl rfl (by decide +kernel) (by decide +kernel)
    (by decide +kernel) (by decide +kernel) (by decide +kernel) (by decide +kernel)
  obtain ⟨u, hu, hkept⟩ := faultedStream_keeps
  have htu : u = t := by injection hu.symm.trans ht
  have hsame := (htu ▸ hkept).symm.trans hdone
  exact absurd hsame (by decide)

end Sys2Proof.Machine
end

section
/-! SUPPORT. WAITARR (18 R329, R330, R340): its source in the rotation, what its claim takes and answers, its release; and the
waits that outlast WAITLIM (16 R315, R316; 13 R257). -/

namespace Sys2Proof.Machine

/-! ### The rotation after LAST -/

theorem bitAt_eq_testBit (x i : Nat) : bitAt x i = x.testBit i := by
  rw [bitAt, Nat.testBit_eq_decide_div_mod_eq]
  exact beq_eq_decide ..

/-- The claimed source is the ready one that the rotation after LAST comes to first. -/
theorem Cluster.pickSource_eq_some (c : Cluster) (m j : Nat) (hl : c.last < 32) : c.pickSource m = some j ↔
    j < 32 ∧ c.sourceReady m j = true ∧
      ∀ i < 32, (i + 31 - c.last) % 32 < (j + 31 - c.last) % 32 → c.sourceReady m i = false := by
  have hplace : ∀ i < 32, (c.last + 1 + (i + 31 - c.last) % 32) % 32 = i := fun i hi => by omega
  have hback : ∀ n < 32, ((c.last + 1 + n) % 32 + 31 - c.last) % 32 = n := fun n hn => by omega
  rw [Cluster.pickSource, tabulate, List.find?_map, Option.map_eq_some_iff]
  simp only [List.find?_range_eq_some, List.mem_range, Function.comp_apply, Bool.not_eq_true']
  constructor
  · rintro ⟨n, ⟨hready, hn, hfirst⟩, rfl⟩
    refine ⟨Nat.mod_lt _ (by decide), hready, fun i hi hlt => ?_⟩
    rw [hback n hn] at hlt
    exact hplace i hi ▸ hfirst _ hlt
  · rintro ⟨hj, hready, hfirst⟩
    refine ⟨(j + 31 - c.last) % 32, ⟨(hplace j hj).symm ▸ hready, Nat.mod_lt _ (by decide), fun n hn => ?_⟩, hplace j hj⟩
    have hn32 : n < 32 := hn.trans (Nat.mod_lt _ (by decide))
    exact hfirst _ (Nat.mod_lt _ (by decide)) ((hback n hn32).symm ▸ hn)

/-! ### What a claim takes -/

section
variable (c : Cluster) (fw : Bool) (x : Ctx) (j : Nat)

/-- The contexts of the cluster play no part in a claim. -/
theorem Cluster.claim_setCtx : (c.setCtx fw x).claim j = ((c.claim j).1.setCtx fw x, (c.claim j).2) := by
  by_cases hj : j < 16
  all_goals
    unfold Cluster.claim
    cases fw <;> simp only [hj, if_true, if_false] <;> rfl

theorem Cluster.last_claim : ((c.claim j).1.setCtx fw x).last = j := by
  unfold Cluster.claim
  cases fw <;> split <;> rfl

variable {j}

theorem Cluster.inbound_claim (hj : j < 16) : kget Ich.reset ((c.claim j).1.setCtx fw x).ich j =
    { kget Ich.reset c.ich j with narr := (kget Ich.reset c.ich j).narr - 1, nheld := (kget Ich.reset c.ich j).nheld + 1 } := by
  unfold Cluster.claim
  cases fw <;> exact (congrArg (fun y : Cluster × _ => kget Ich.reset y.1.ich j) (if_pos hj)).trans (kget_kset_self ..)

theorem Cluster.wake_claim (hj : 16 ≤ j) : kget ⟨0, false, 0⟩ ((c.claim j).1.setCtx fw x).wake (j - 16) =
    { kget ⟨0, false, 0⟩ c.wake (j - 16) with pending := false, count := 0 } := by
  unfold Cluster.claim
  cases fw <;>
    exact (congrArg (fun y : Cluster × _ => kget ⟨0, false, 0⟩ y.1.wake (j - 16)) (if_neg (Nat.not_lt.mpr hj))).trans
      (kget_kset_self ..)


end

section
variable (c : Cluster) (j : Nat)

/-- The packet that stands first among those not held. -/
def Cluster.firstArrived : Nat × Word × Bool := (kget Ich.reset c.ich j).tags.getD (kget Ich.reset c.ich j).nheld (0, 0, false)

/-- The results of a claim (18 Table 18.1). -/
def Cluster.claimLow : DWord :=
  if j < 16 then BitVec.ofNat 64 ((c.firstArrived j).2.1.toNat * 2 ^ 32 + (c.firstArrived j).1 * 2 ^ 16 + j)
  else BitVec.ofNat 64 ((kget ⟨0, false, 0⟩ c.wake (j - 16)).count * 2 ^ 8 + j)

def Cluster.claimHigh : DWord :=
  if j < 16 then
    let u := kget Ich.reset c.ich j
    BitVec.ofNat 64 (u.rbase + (u.head + u.nheld) % u.slots * u.sbytes)
  else (kget ⟨0, false, 0⟩ c.wake (j - 16)).val

theorem Cluster.claim_results : (c.claim j).2 =
    (c.claimLow j, c.claimHigh j, if j < 16 ∧ (c.firstArrived j).2.2 = true then some (c.firstArrived j).2.1 else none) := by
  by_cases hj : j < 16
  · simp only [Cluster.claim, Cluster.claimLow, Cluster.claimHigh, hj, if_true, true_and]
    rfl
  · simp only [Cluster.claim, Cluster.claimLow, Cluster.claimHigh, hj, false_and, if_false]

end

/-- The results of a claim in the registers, at once. -/
def Ctx.takes (x : Ctx) (d : SReg) (lo hi : DWord) : Ctx := (x.wrS d ⟨lo, false⟩).wrS (Fin.ofNat 32 (d.val + 1)) ⟨hi, false⟩

/-- The results of a claim in flight. -/
def Ctx.awaits (x : Ctx) (d : SReg) (lo hi : DWord) : Ctx :=
  { x with pend := x.pend ++ (if d = 0 then [] else [mkPend 1 (.sreg d ⟨lo, false⟩)]) ++
      (if (Fin.ofNat 32 (d.val + 1) : SReg) = 0 then [] else [mkPend 1 (.sreg (Fin.ofNat 32 (d.val + 1)) ⟨hi, false⟩)]) }

/-- The packet that source `j` gives bears the poison flag. -/
def Cluster.claimPoisoned (c : Cluster) (j : Nat) : Prop := j < 16 ∧ (c.firstArrived j).2.2 = true

/-- `t` is `s` after a claim of source `j` that leaves the context in focus at `x`, but for POISON_RECV, raised once all is done. -/
structure State.Claims (s : State) (j : Nat) (x : Ctx) (t : State) : Prop where
  mem : t.mem = s.mem
  cur : t.cur = s.cur
  me : t.me = (s.me.claim j).1.setCtx s.curFw t.ctx
  clean : ¬ s.me.claimPoisoned j → t.ctx = x
  poisoned : s.me.claimPoisoned j → ∃ f : FaultRec, t.ctx = x.takeFault f ∧ f.code = 0x53 ∧ f.info = (s.me.firstArrived j).2.1 ∧ f.slot = 14

/-- POISON_RECV leaves the registers, what is in flight, and that the bundle has committed. -/
theorem State.Claims.kept {s t : State} {j : Nat} {x : Ctx} (h : s.Claims j x t) :
    t.ctx.s = x.s ∧ t.ctx.pend = x.pend ∧ (x.entry = 14 → t.ctx.entry = 14) := by
  by_cases hp : s.me.claimPoisoned j
  · obtain ⟨f, hf, -, -, hslot⟩ := h.poisoned hp
    rw [hf]
    exact ⟨rfl, rfl, fun _ => congrArg BitVec.toNat hslot⟩
  · rw [h.clean hp]
    exact ⟨rfl, rfl, id⟩

theorem State.Claims.rdS {s t : State} {j : Nat} {x : Ctx} (h : s.Claims j x t) (r : SReg) : t.ctx.rdS r = x.rdS r := by
  rw [Ctx.rdS, Ctx.rdS, h.kept.1]

theorem Cluster.ctx_claim (c : Cluster) (j : Nat) (fw : Bool) : (c.claim j).1.ctx fw = c.ctx fw := by
  unfold Cluster.claim
  cases fw <;> split <;> rfl

/-- What comes after the claim's results: POISON_RECV where the packet bears the flag. -/
theorem State.claims_of (s u : State) {j : Nat} {x : Ctx} (hmem : u.mem = s.mem) (hcur : u.cur = s.cur)
    (hme : u.me = (s.me.claim j).1.setCtx s.curFw u.ctx) (hx : u.ctx = x) (hfw : u.curFw = s.curFw) :
    s.Claims j x (match (s.me.claim j).2.2.2 with
      | some q => u.raiseAfter 0x53 q 0
      | none => u) := by
  rw [Cluster.claim_results]
  by_cases hp : j < 16 ∧ (s.me.firstArrived j).2.2 = true
  · simp only [if_pos hp]
    refine ⟨hmem, hcur, ?_, fun h => absurd hp h, fun _ => ⟨u.faultRec 0x53 _ 0 14 0, ?_, rfl, rfl, rfl⟩⟩
    · rw [State.raiseAfter, State.me_updCtx, State.ctx_updCtx, hme, hfw, Cluster.setCtx_setCtx]
    · rw [State.raiseAfter, State.ctx_updCtx, hx]
  · simp only [if_neg hp]
    exact ⟨hmem, hcur, hme, fun _ => hx, fun h => absurd h hp⟩

theorem State.mem_pushS (s : State) (n : Nat) (r : SReg) (v : DWord) (p : Bool) : (s.pushS n r v p).mem = s.mem := by
  unfold State.pushS
  split <;> rfl

theorem State.cur_pushS (s : State) (n : Nat) (r : SReg) (v : DWord) (p : Bool) : (s.pushS n r v p).cur = s.cur := by
  unfold State.pushS
  split <;> rfl

theorem State.curFw_pushS (s : State) (n : Nat) (r : SReg) (v : DWord) (p : Bool) : (s.pushS n r v p).curFw = s.curFw := by
  unfold State.pushS
  split <;> rfl

theorem State.claims_flight (s : State) (d : SReg) (j : Nat) :
    s.Claims j (s.ctx.awaits d (s.me.claimLow j) (s.me.claimHigh j)) (s.claimFor d j false) := by
  refine s.claims_of (((s.updMe (fun _ => (s.me.claim j).1)).pushS 1 d (s.me.claim j).2.1 false).pushS 1 (Fin.ofNat 32 (d.val + 1))
    (s.me.claim j).2.2.1 false) ?_ ?_ ?_ ?_ ?_
  · rw [State.mem_pushS, State.mem_pushS]; rfl
  · rw [State.cur_pushS, State.cur_pushS]; rfl
  · rw [State.me_pushS, State.curFw_pushS, State.me_pushS, State.me_updMe, Cluster.setCtx_setCtx]; rfl
  · rw [State.ctx_pushS, State.ctx_pushS, State.ctx_updMe, Cluster.ctx_claim, Cluster.claim_results]; rfl
  · rw [State.curFw_pushS, State.curFw_pushS]; rfl

theorem State.claims_atOnce (s : State) (d : SReg) (j : Nat) :
    s.Claims j (s.ctx.takes d (s.me.claimLow j) (s.me.claimHigh j)) (s.claimFor d j true) := by
  refine s.claims_of ((s.updMe (fun _ => (s.me.claim j).1)).updCtx (fun c => c.takes d (s.me.claim j).2.1 (s.me.claim j).2.2.1))
    rfl rfl ?_ ?_ rfl
  · rw [State.me_updCtx, State.ctx_updCtx, State.me_updMe]; rfl
  · rw [State.ctx_updCtx, State.ctx_updMe, Cluster.ctx_claim, Cluster.claim_results]; rfl

/-! ### The release of a parked WAITARR -/

/-- The context at which a release leaves off: running, its bundle closed. -/
def Ctx.released (x : Ctx) : Ctx := ({ x with park := .run } : Ctx).closeAt 0

theorem Ctx.released_kept (x : Ctx) : x.released.entry = 14 ∧ x.released.park = .run ∧ x.released.s = x.s := by
  cases ht : x.target with
  | some =>
    simp only [Ctx.released, Ctx.closeAt, ht, and_self]
  | none =>
    simp only [Ctx.released, Ctx.closeAt, ht]
    split <;> exact ⟨rfl, rfl, rfl⟩

theorem Ctx.takes_kept (x : Ctx) (d : SReg) (lo hi : DWord) :
    (x.takes d lo hi).entry = x.entry ∧ (x.takes d lo hi).park = x.park := by
  rw [Ctx.takes, Ctx.wrS_eq, Ctx.wrS_eq x]
  exact ⟨rfl, rfl⟩

theorem Ctx.rdS_takes (x : Ctx) (d : SReg) (lo hi : DWord) (r : SReg) : (x.takes d lo hi).rdS r =
    if Fin.ofNat 32 (d.val + 1) = r ∧ r ≠ 0 then ⟨hi, false⟩ else if d = r ∧ r ≠ 0 then ⟨lo, false⟩ else x.rdS r := by
  rw [Ctx.takes, Ctx.rdS_wrS, Ctx.rdS_wrS]

/-- WAITARR in focus in the program context of cluster `k`, its bundle closed. -/
def State.releasing (s : State) (k : Nat) : State :=
  ({ s with cur := k, curFw := false, slot := 13 } : State).updCtx Ctx.released

theorem State.ctx_releasing (s : State) (k : Nat) : (s.releasing k).ctx = (s.cluster k).prog.released := State.ctx_updCtx ..

theorem State.me_releasing (s : State) (k : Nat) :
    (s.releasing k).me = (s.cluster k).setCtx false (s.cluster k).prog.released := State.me_updCtx ..

/-- What a release leaves: the claim in the cluster, its results in the registers, the bundle committed. -/
theorem State.claims_release (s : State) (d : SReg) (k j : Nat) :
    let t := (s.releasing k).claimFor d j true
    let x := (s.cluster k).prog.released.takes d ((s.cluster k).claimLow j) ((s.cluster k).claimHigh j)
    t.mem = s.mem ∧ t.cluster k = ((s.cluster k).claim j).1.setCtx false (t.cluster k).prog ∧
      (t.cluster k).prog.entry = 14 ∧ (∀ r, (t.cluster k).prog.rdS r = x.rdS r) ∧
      (¬ (s.cluster k).claimPoisoned j → (t.cluster k).prog.park = .run) ∧
      ((s.cluster k).claimPoisoned j → (t.cluster k).prog.park = .trapped) := by
  intro t x
  have hc : (s.releasing k).Claims j x t := by
    have h := (s.releasing k).claims_atOnce d j
    rwa [State.ctx_releasing, State.me_releasing] at h
  have hentry : x.entry = 14 ∧ x.park = .run := by
    have h := (s.cluster k).prog.released_kept
    exact (Ctx.takes_kept ..).imp (·.trans h.1) (·.trans h.2.1)
  have hk : t.cluster k = ((s.cluster k).claim j).1.setCtx false t.ctx := by
    have h := hc.me
    rw [State.me_releasing, Cluster.claim_setCtx] at h
    exact ((congrArg t.cluster hc.cur.symm).trans h).trans (Cluster.setCtx_setCtx ..)
  have hprog : (t.cluster k).prog = t.ctx := by rw [hk]; rfl
  rw [hprog]
  refine ⟨hc.mem, hk, hc.kept.2.2 hentry.1, hc.rdS, fun hp => ?_, fun hp => ?_⟩
  · have hclean := hc.clean
    rw [State.me_releasing] at hclean
    rw [hclean hp, hentry.2]
  · have hpoisoned := hc.poisoned
    rw [State.me_releasing] at hpoisoned
    obtain ⟨f, hf, -⟩ := hpoisoned hp
    rw [hf]
    rfl

section
variable {s : State} {k m t0 j : Nat} {d : SReg} (hp : (s.cluster k).prog.park = .waitarr d m (some t0))
include hp

theorem exec_waitarrRelease_waits (h : t0 < 3 ∨ (s.cluster k).prog.pend ≠ [] ∨ s.stopping k = true ∨ (s.cluster k).pickSource m = none) :
    exec (.waitarrRelease k) s = .next { s with cur := k, curFw := false, slot := 13 } := by
  have hpark : ({ s with cur := k, curFw := false, slot := 13 } : State).ctx.park = .waitarr d m (some t0) := hp
  show execWaitarrRelease k s = _
  simp only [execWaitarrRelease, hpark]
  split_ifs with hw
  · rfl
  · have hpick : ({ s with cur := k, curFw := false, slot := 13 } : State).me.pickSource m = none := by
      refine ((h.resolve_left fun h => hw (.inl h)).resolve_left fun h => hw (.inr (.inl (by rw [Bool.not_eq_true', List.isEmpty_eq_false_iff]; exact h)))).resolve_left fun h => hw (.inr (.inr h))
    rw [hpick]

theorem exec_waitarrRelease_claims (ht : 3 ≤ t0) (hq : (s.cluster k).prog.pend = []) (hs : s.stopping k = false)
    (hj : (s.cluster k).pickSource m = some j) :
    exec (.waitarrRelease k) s = .next ((s.releasing k).claimFor d j true) := by
  have hpark : ({ s with cur := k, curFw := false, slot := 13 } : State).ctx.park = .waitarr d m (some t0) := hp
  have hgo : ¬ (t0 < 3 ∨ (!({ s with cur := k, curFw := false, slot := 13 } : State).ctx.pend.isEmpty) = true ∨
      ({ s with cur := k, curFw := false, slot := 13 } : State).stopping k = true) := by
    rintro (h | h | h)
    · exact absurd ht (Nat.not_le.mpr h)
    · exact absurd (hq ▸ h) (by decide)
    · exact absurd (hs.symm.trans h) (by decide)
  have hpick : ({ s with cur := k, curFw := false, slot := 13 } : State).me.pickSource m = some j := hj
  show execWaitarrRelease k s = _
  simp only [execWaitarrRelease, hpark, hpick, if_neg hgo]
  rfl

end

/-! ### Waits that outlast WAITLIM -/

theorem Hold.timed_iff (h : Hold) : h.timed = true ↔
    ∃ (n i : Nat) (v : Int), h = .sem n i v ∨ h = .bar n i ∨ h = .tile n i ∨ h = .ack n := by
  cases h <;> simp [Hold.timed]

theorem State.blockLate_iff (s : State) (k : Nat) : s.blockLate k = true ↔
    ∃ b, (s.cluster k).block = some b ∧ (s.cluster k).waitlim.toNat < b.stuck ∧ b.recvWait (s.cluster k).tch = true := by
  unfold State.blockLate
  cases (s.cluster k).block <;> simp

theorem Ctx.outlasted_iff (x : Ctx) (lim : Nat) (h : Hold) : x.outlasted lim h = true ↔
    (∃ (n i : Nat) (v : Int), h = .sem n i v ∨ h = .bar n i ∨ h = .tile n i ∨ h = .ack n) ∧
      ∃ y ∈ x.strokes, lim < y.2 ∧ (y.1 = h.slot ∨ ((10 ≤ y.1 ∧ y.1 ≤ 12) ∧ 10 ≤ h.slot ∧ h.slot ≤ 12)) := by
  rw [← Hold.timed_iff]
  simp [Ctx.outlasted]

section
variable {s : State} (hb : s.blockLate s.cur = false)

theorem exec_waitTimeout_block {k : Nat} {b : Block} (hb : s.blockLate k = true) (hk : (s.cluster k).block = some b) :
    exec (.waitTimeout k) s = .next (s.abortBlock k 0x41 (BitVec.ofNat 32 (b.chain.toNat * 2 ^ 24))) := by
  refine congrArg _ ((if_pos hb).trans ?_)
  rw [State.blockTimeout, hk]

include hb

theorem exec_waitTimeout_none (hn : (s.holdsNow s.cur s.curFw).find? (s.ctx.outlasted s.me.waitlim.toNat) = none) :
    exec (.waitTimeout s.cur) s = .next s := by
  refine congrArg _ ((if_neg (Bool.eq_false_iff.mp hb)).trans ((if_pos rfl).trans ?_))
  beta_reduce
  have hn : (s.holdsNow s.cur s.curFw).find? ((s.ctxOf s.cur s.curFw).outlasted (s.cluster s.cur).waitlim.toNat) = none := hn
  rw [hn]

theorem exec_waitTimeout_wait {h : Hold} (hf : (s.holdsNow s.cur s.curFw).find? (s.ctx.outlasted s.me.waitlim.toNat) = some h) :
    exec (.waitTimeout s.cur) s = .next (({ s with slot := h.slot } : State).raise 0x41 h.info) := by
  refine congrArg _ ((if_neg (Bool.eq_false_iff.mp hb)).trans ((if_pos rfl).trans ?_))
  beta_reduce
  have hf : (s.holdsNow s.cur s.curFw).find? ((s.ctxOf s.cur s.curFw).outlasted (s.cluster s.cur).waitlim.toNat) = some h := hf
  rw [hf]
  rfl

end

/-! ### WAITARR at issue -/

section
variable {s : State} {d a : SReg}

theorem exec_waitarr_firmware (h : s.curFw = true) : exec (.waitarr d a) s = .next s.illegalOp := congrArg _ (if_pos h)

theorem exec_waitarr_register (hfw : s.curFw = false) (hd : d.val = 0 ∨ d.val = 31) :
    exec (.waitarr d a) s = .next s.illegalField :=
  congrArg _ ((if_neg (Bool.eq_false_iff.mp hfw)).trans (if_pos hd))

variable (hfw : s.curFw = false) (hd : ¬ (d.val = 0 ∨ d.val = 31))
include hfw hd

theorem exec_waitarr_marked (hx : (s.ctx.rdS a).poison = true) : exec (.waitarr d a) s = .next s.poisonUse :=
  congrArg _ ((if_neg (Bool.eq_false_iff.mp hfw)).trans ((if_neg hd).trans (if_pos hx)))

variable (hx : (s.ctx.rdS a).poison = false)
include hx

theorem exec_waitarr_empty (hm : ((s.ctx.rdS a).val.setWidth 32).toNat = 0) : exec (.waitarr d a) s = .next (s.raise 0x54 0) := by
  rw [BitVec.toNat_setWidth] at hm
  exact congrArg _ ((if_neg (Bool.eq_false_iff.mp hfw)).trans ((if_neg hd).trans ((if_neg (Bool.eq_false_iff.mp hx)).trans (if_pos hm))))

variable (hm : ((s.ctx.rdS a).val.setWidth 32).toNat ≠ 0)
include hm

theorem exec_waitarr_mask : exec (.waitarr d a) s = .next (
    match (List.range 16).find? (fun i => ((s.ctx.rdS a).val.setWidth 32).toNat.testBit i && !(s.me.ichOf i).v) with
    | some i => s.raise 0x50 (BitVec.ofNat 32 i)
    | none => match s.me.pickSource ((s.ctx.rdS a).val.setWidth 32).toNat with
      | some j => s.claimFor d j false
      | none => s.updCtx (fun c => { c with park := .waitarr d ((s.ctx.rdS a).val.setWidth 32).toNat none, entry := 13 })) := by
  simp only [← bitAt_eq_testBit]
  rw [BitVec.toNat_setWidth] at hm ⊢
  exact congrArg _ ((if_neg (Bool.eq_false_iff.mp hfw)).trans ((if_neg hd).trans ((if_neg (Bool.eq_false_iff.mp hx)).trans (if_neg hm))))

theorem exec_waitarr_unbound {i : Nat} (hi : i < 16) (hbit : ((s.ctx.rdS a).val.setWidth 32).toNat.testBit i = true)
    (hv : (s.me.ichOf i).v = false)
    (hfirst : ∀ l < i, ((s.ctx.rdS a).val.setWidth 32).toNat.testBit l = true → (s.me.ichOf l).v = true) :
    exec (.waitarr d a) s = .next (s.raise 0x50 (BitVec.ofNat 32 i)) := by
  have hfind : (List.range 16).find? (fun i => ((s.ctx.rdS a).val.setWidth 32).toNat.testBit i && !(s.me.ichOf i).v) = some i := by
    rw [List.find?_range_eq_some]
    refine ⟨by rw [hbit, hv]; rfl, List.mem_range.mpr hi, fun l hl => ?_⟩
    rw [Bool.not_eq_true', Bool.and_eq_false_imp, ← Bool.not_eq_true', Bool.not_not]
    exact hfirst l hl
  rw [exec_waitarr_mask hfw hd hx hm, hfind]

theorem exec_waitarr_valid (hv : ∀ i < 16, ((s.ctx.rdS a).val.setWidth 32).toNat.testBit i = true → (s.me.ichOf i).v = true) :
    exec (.waitarr d a) s = .next (match s.me.pickSource ((s.ctx.rdS a).val.setWidth 32).toNat with
      | some j => s.claimFor d j false
      | none => s.updCtx (fun c => { c with park := .waitarr d ((s.ctx.rdS a).val.setWidth 32).toNat none, entry := 13 })) := by
  have hfind : (List.range 16).find? (fun i => ((s.ctx.rdS a).val.setWidth 32).toNat.testBit i && !(s.me.ichOf i).v) = none := by
    rw [List.find?_eq_none]
    intro i hi
    rw [Bool.not_eq_true, Bool.and_eq_false_imp, ← Bool.not_eq_true', Bool.not_not]
    exact hv i (List.mem_range.mp hi)
  rw [exec_waitarr_mask hfw hd hx hm, hfind]

end

/-! ### The statement -/

/-- Settles O47: WAITARR by its checks, the claim once for both its forms, and the first wait that has outlasted WAITLIM. -/
theorem waitsAndTimeouts : Obligations.WaitsAndTimeouts := by
  intro s d a k j m t0 h l r b x mask c d1 ich valid u tag w lo hi claimed
  have hclaimed (v : Cluster) (fw : Bool) (y : Ctx) : claimed v ((v.claim j).1.setCtx fw y) :=
    ⟨v.last_claim fw y j, v.inbound_claim fw y, v.wake_claim fw y⟩
  refine ⟨exec_waitarr_firmware, fun hfw hd => exec_waitarr_register hfw hd, fun hfw h0 h31 hx => ?marked, fun hfw h0 h31 hx => ?issue,
    c.pickSource_eq_some m j, fun hp => ⟨fun hwait => ?held, fun ht hq hs hj => ?released⟩, fun hk => ?timeout⟩
  case marked => exact exec_waitarr_marked hfw (not_or.mpr ⟨h0, h31⟩) hx
  case issue =>
    have hd : ¬ (d.val = 0 ∨ d.val = 31) := not_or.mpr ⟨h0, h31⟩
    refine ⟨exec_waitarr_empty hfw hd hx, fun hm => ?_, fun hm hv => ⟨fun hj => ?_, fun hj => ?_⟩⟩
    · by_cases hv : valid
      · exact .inr hv
      · have hex : ∃ i, i < 16 ∧ mask.testBit i = true ∧ (ich i).v = false := by
          simpa [valid] using hv
        obtain ⟨hi, hbit, hbad⟩ := Nat.find_spec hex
        have hfirst : ∀ l < Nat.find hex, mask.testBit l = true → (ich l).v = true := fun l hl hb => by
          by_contra hn
          exact Nat.find_min hex hl ⟨hl.trans hi, hb, Bool.eq_false_iff.mpr hn⟩
        exact .inl ⟨_, hi, hbit, hbad, hfirst, exec_waitarr_unbound hfw hd hx hm hi hbit hbad hfirst⟩
    · rw [exec_waitarr_valid hfw hd hx hm hv, hj]
    · have hc := s.claims_flight d j
      obtain ⟨hregs, hpend, -⟩ := hc.kept
      refine ⟨s.claimFor d j false, ?_, hc.mem, hc.me ▸ hclaimed c _ _, hregs, hpend, fun hp => ?_, fun hp => ?_⟩
      · rw [exec_waitarr_valid hfw hd hx hm hv, hj]
      · obtain ⟨f, hf, hcode, hinfo, hslot⟩ := hc.poisoned hp
        rw [hf]
        exact ⟨rfl, congrArg (BitVec.ofNat 7) hcode, hinfo, hslot⟩
      · rw [hc.clean fun hq => hp.elim (Nat.not_le.mpr hq.1) (ne_false_of_eq_true hq.2)]
        rfl
  case held => exact ⟨_, exec_waitarrRelease_waits hp hwait, rfl, fun _ => rfl⟩
  case released =>
    obtain ⟨hmem, hkeeps, hentry, hregs, hclean, hpoisoned⟩ := s.claims_release d k j
    refine ⟨_, exec_waitarrRelease_claims hp ht hq hs hj, hmem, hkeeps ▸ hclaimed (s.cluster k) _ _, hentry, fun hd hd1 => ?_,
      fun hd1 => ?_, fun r hr hr1 => ?_, hpoisoned, fun hc => hclean fun hq => hc.elim (Nat.not_le.mpr hq.1) (ne_false_of_eq_true hq.2)⟩
    · rw [hregs, Ctx.rdS_takes, if_neg fun h => hd1 h.1, if_pos ⟨rfl, hd⟩]
      rfl
    · rw [hregs, Ctx.rdS_takes, if_pos ⟨rfl, hd1⟩]
      rfl
    · rw [hregs, Ctx.rdS_takes, if_neg fun h => hr1 h.1.symm, if_neg fun h => hr h.1.symm, Ctx.rdS, Ctx.rdS,
        ((s.cluster k).prog.released_kept).2.2]
  case timeout =>
    subst hk
    refine ⟨fun hb hs => exec_waitTimeout_block ((s.blockLate_iff _).mpr hs) hb, fun hs hh hl hlate => ?_, fun hs hh => ?_⟩
    · have hb : s.blockLate s.cur = false := Bool.eq_false_iff.mpr (mt (s.blockLate_iff _).mp hs)
      refine exec_waitTimeout_wait hb ?_
      rw [hh, List.find?_append, List.find?_eq_none.mpr fun y hy => mt (Ctx.outlasted_iff _ _ y).mp (hl y hy), Option.none_or,
        List.find?_cons_of_pos ((Ctx.outlasted_iff _ _ h).mpr hlate)]
    · have hb : s.blockLate s.cur = false := Bool.eq_false_iff.mpr (mt (s.blockLate_iff _).mp hs)
      exact exec_waitTimeout_none hb (List.find?_eq_none.mpr fun y hy => mt (Ctx.outlasted_iff _ _ y).mp (hh y hy))

end Sys2Proof.Machine
end

section
/-! SUPPORT. The queue processor fetches a packet whose index a packet of the window has already (22 R365, R368). -/

namespace Sys2Proof.Machine

/-- A pending packet with index 1, due for an examination. -/
def duePacket : Pkt := ⟨1, [], .pending, true⟩

/-- Queue 0 of module 0, enabled: a ring of one slot at address 0, READ 0, WRITE 2, and one packet in the window, whose index is
that of the next. The slot holds a barrier packet that waits for the word at 0x40, and that word is 1. -/
def twiceIndexed : State := { State.reset with
  mem := [(0, 2), (24, 0x40), (0x40, 1)]
  md := [(0, { Module.reset with queues := [(0, { Queue.reset with en := true, write := 2, window := [duePacket] })] })] }

/-- The fetch leaves the packet that stood in the window due. -/
theorem twiceIndexed_due : ∃ t, exec (.queueFetch 0 0) twiceIndexed = .next t ∧ duePacket ∈ (t.queue 0 0).window :=
  ⟨_, rfl, by decide +kernel⟩

/-- Refutes O52: no hypothesis has the indices of the window differ from that of the packet fetched. Where one is the same, the
statement says of it too that it is due for no examination, but a fetch examines the new packet alone. -/
theorem not_queues : ¬ Obligations.Queues := by
  intro h
  obtain ⟨-, -, -, -, -, hfetch, -⟩ := h twiceIndexed 0 0 0 0 duePacket
  obtain ⟨t, ht, hexamined⟩ := hfetch (by decide +kernel) (by decide +kernel)
  obtain ⟨-, -, hwaits, -⟩ := hexamined
  obtain ⟨-, hnot⟩ := hwaits (by decide +kernel) (by decide +kernel) (by decide +kernel)
  obtain ⟨u, hu, hdue⟩ := twiceIndexed_due
  have htu : u = t := by injection hu.symm.trans ht
  exact absurd (hnot duePacket (htu ▸ hdue) rfl) (by decide)

end Sys2Proof.Machine
end

section
/-! SUPPORT. The lockhouse's rules of the state (24 R384 to R401): the black box, a context's token, the words of a token. -/

namespace Sys2Proof.Machine

/-! ### What the lockhouse's operations leave -/

/-- What a context keeps at its replacement stands for every context. -/
theorem State.field_setCtxOf {α : Type} (π : Ctx → α) (s : State) {k : Nat} {fw : Bool} {x : Ctx} (h : π x = π (s.ctxOf k fw))
    (j : Nat) (z : Bool) : π ((s.setCtxOf k fw x).ctxOf j z) = π (s.ctxOf j z) := by
  rcases eq_or_ne j k with rfl | hj
  · rcases Bool.eq_or_eq_not z fw with rfl | rfl
    · rw [State.ctxOf_setCtxOf_self, h]
    · rw [State.ctxOf_setCtxOf_not]
  · rw [State.ctxOf_setCtxOf_of_ne _ _ _ _ hj]

theorem State.field_updCtx {α : Type} (π : Ctx → α) (s : State) {g : Ctx → Ctx} (h : ∀ c, π (g c) = π c) (j : Nat) (z : Bool) :
    π ((s.updCtx g).ctxOf j z) = π (s.ctxOf j z) := s.field_setCtxOf π (h _) j z

theorem State.field_setTok {α : Type} (π : Ctx → α) (h : ∀ c q, π { c with fault := q } = π c) (s : State) (k : Nat) (fw : Bool)
    (t : TokState) (j : Nat) (z : Bool) : π ((s.setTok k fw t).ctxOf j z) = π (s.ctxOf j z) := s.field_setCtxOf π (h _ _) j z

theorem State.ctxOf_setTok_self (s : State) (k : Nat) (fw : Bool) (t : TokState) : (s.setTok k fw t).ctxOf k fw =
    { s.ctxOf k fw with fault := (s.ctxOf k fw).fault.map (fun f => (f.1, t)) } := s.ctxOf_setCtxOf_self ..

/-- What a change of a die keeps stands for every die. -/
theorem State.field_updDie {α : Type} (π : Die → α) (s : State) {g : Nat} {h : Die → Die} (hh : ∀ d, π (h d) = π d) (j : Nat) :
    π ((s.updDie g h).dieAt j) = π (s.dieAt j) := by
  rcases eq_or_ne j g with rfl | hj
  · rw [State.dieAt_updDie_self, hh]
  · rw [State.dieAt_updDie_of_ne _ _ hj]

/-- An entry of the black box leaves what is not the ring's own. -/
theorem State.field_blackbox {α : Type} (π : Die → α)
    (hh : ∀ d bb h t o c r, π { d with bb := bb, bbHead := h, bbTail := t, bbOvf := o, bbCount := c, bbRun := r } = π d)
    (s : State) (g ev src : Nat) (w2 w3 : DWord) (j : Nat) : π ((s.blackbox g ev src w2 w3).dieAt j) = π (s.dieAt j) :=
  s.field_updDie π (fun d => hh d ..) j

/-! ### The words of a token (24 Table 24.2) -/

/-- The four words of the token of fault `f` of context `fw` of cluster `k`. -/
def tokenWords (k : Nat) (fw : Bool) (f : FaultRec) (tag : Nat) (i : Fin 4) : DWord :=
  [tokenWord0 k fw f tag, tokenWord1 f, tokenWord2 f, tokenWord3 f][i]

theorem ofBool_lt (b : Bool) : ofBool b < 2 := by
  cases b <;> decide

theorem decide_ofBool (b : Bool) : decide (ofBool b = 1) = b := by
  cases b <;> rfl

/-- The fields of word 0. -/
theorem tokenWord0_fields (k : Nat) (fw : Bool) (f : FaultRec) (tag : Nat) (hcode : f.code < 2 ^ 7) :
    let w := tokenWord0 k fw f tag
    w.toNat / 2 ^ 48 = tag % 2 ^ 16 ∧ w.toNat % 2 ^ 24 = f.code ∧ w.toNat / 2 ^ 32 % 2 ^ 12 = k % 4096 ∧
      w.getLsbD 31 = fw ∧ w.getLsbD 30 = f.ovf ∧ w.getLsbD 29 = f.async ∧ w.getLsbD 28 = f.hdr ∧ w.extractLsb' 24 4 = f.slot := by
  intro w
  have hfw := ofBool_lt fw
  have hovf := ofBool_lt f.ovf
  have hasync := ofBool_lt f.async
  have hhdr := ofBool_lt f.hdr
  have hslot := f.slot.isLt
  have hw : w.toNat = tag % 2 ^ 16 * 2 ^ 48 + k % 4096 * 2 ^ 32 + ofBool fw * 2 ^ 31 + ofBool f.ovf * 2 ^ 30 +
      ofBool f.async * 2 ^ 29 + ofBool f.hdr * 2 ^ 28 + f.slot.toNat * 2 ^ 24 + f.code := by
    show (tokenWord0 k fw f tag).toNat = _
    rw [tokenWord0, BitVec.toNat_ofNat]
    exact Nat.mod_eq_of_lt (by omega)
  have hbit {i : Nat} {b : Bool} (h : w.toNat / 2 ^ i % 2 = ofBool b) : w.getLsbD i = b := by
    rw [BitVec.getLsbD, Nat.testBit_eq_decide_div_mod_eq, h, decide_ofBool]
  refine ⟨by omega, by omega, by omega, hbit (by omega), hbit (by omega), hbit (by omega), hbit (by omega), BitVec.eq_of_toNat_eq ?_⟩
  rw [BitVec.extractLsb'_toNat, Nat.shiftRight_eq_div_pow]
  omega

theorem tokenWord1_toNat (f : FaultRec) : (tokenWord1 f).toNat = f.info.toNat * 2 ^ 32 + f.pc.toNat := by
  have hinfo := f.info.isLt
  have hpc := f.pc.isLt
  rw [tokenWord1, BitVec.toNat_ofNat]
  exact Nat.mod_eq_of_lt (by omega)

theorem tokenWord2_toNat (f : FaultRec) : (tokenWord2 f).toNat = f.va % 2 ^ 48 := by
  rw [tokenWord2, BitVec.toNat_ofNat]
  omega

theorem tokenWord3_toNat (f : FaultRec) : (tokenWord3 f).toNat = f.stroke % 2 ^ 52 := by
  rw [tokenWord3, BitVec.toNat_ofNat]
  omega

/-! ### FTRECV takes the oldest token (24 R391) -/

/-- The words of a token in flight to s[d] to s[d + 3]. -/
def wordsInFlight (d : SReg) (lat : Nat) (w : Fin 4 → DWord) : List Pend :=
  (List.finRange 4).map (fun i => mkPend lat (.sreg (Fin.ofNat 32 (d.val + i.val)) ⟨w i, false⟩))

/-- The context in focus gains results in flight. -/
def State.gains (s : State) (l : List Pend) : State := s.updCtx (fun c => { c with pend := c.pend ++ l })

theorem State.pushS_eq_gains (s : State) (lat : Nat) {r : SReg} (h : r ≠ 0) (v : DWord) :
    s.pushS lat r v false = s.gains [mkPend lat (.sreg r ⟨v, false⟩)] := if_neg h

theorem State.gains_gains (s : State) (l m : List Pend) : (s.gains l).gains m = s.gains (l ++ m) := by
  rw [State.gains, State.gains, State.updCtx_updCtx]
  exact congrArg s.updCtx (funext fun c => congrArg (fun p => { c with pend := p }) (List.append_assoc ..))

theorem State.fault_gains (s : State) (l : List Pend) (j : Nat) (z : Bool) : ((s.gains l).ctxOf j z).fault = (s.ctxOf j z).fault :=
  s.field_updCtx (g := fun c => { c with pend := c.pend ++ l }) Ctx.fault (fun _ => rfl) j z

section
variable {d : SReg} (hd : 1 ≤ d.val ∧ d.val ≤ 28)
include hd

theorem register_after_ne_zero {i : Nat} (hi : i < 4) : (Fin.ofNat 32 (d.val + i) : SReg) ≠ 0 := by
  intro h
  have hv : (d.val + i) % 32 = 0 := congrArg Fin.val h
  omega

theorem State.takeToken_live {s : State} {tag j : Nat} {fw : Bool} {r : List (Nat × Nat × Bool)} {f : FaultRec} {st : TokState}
    (lat : Nat) (hq : (s.dieAt (dieKey s.cur)).towq = (tag, j, fw) :: r) (hg : s.ghost (dieKey s.cur) tag = none)
    (hf : (s.ctxOf j fw).fault = some (f, st)) : s.takeToken d lat =
      ((s.updDie (dieKey s.cur) (fun x => { x with towq := r })).setTok j fw (.claimed tag s.cur)).gains
        (wordsInFlight d lat (tokenWords j fw f tag)) := by
  have hg : (s.updDie (dieKey s.cur) (fun x => { x with towq := r })).ghost (dieKey s.cur) tag = none := by
    rwa [State.ghost, State.dieAt_updDie_self]
  have hf : ((s.updDie (dieKey s.cur) (fun x => { x with towq := r })).ctxOf j fw).fault = some (f, st) := hf
  unfold State.takeToken
  simp only [hq, hg, hf]
  rw [State.pushS_eq_gains _ _ (register_after_ne_zero hd (by decide)), State.pushS_eq_gains _ _ (register_after_ne_zero hd (by decide)),
    State.pushS_eq_gains _ _ (register_after_ne_zero hd (by decide)), State.pushS_eq_gains _ _ (register_after_ne_zero hd (by decide)),
    State.gains_gains, State.gains_gains, State.gains_gains]
  rfl

theorem State.takeToken_ghost {s : State} {tag j : Nat} {fw : Bool} {r : List (Nat × Nat × Bool)} {f : FaultRec}
    (lat : Nat) (hq : (s.dieAt (dieKey s.cur)).towq = (tag, j, fw) :: r) (hg : s.ghost (dieKey s.cur) tag = some (j, fw, f, some tag)) :
    s.takeToken d lat =
      ((s.updDie (dieKey s.cur) (fun x => { x with towq := r })).updDie (dieKey s.cur)
        (fun x => { x with ghosts := x.ghosts.erase (j, fw, f, some tag) })).gains (wordsInFlight d lat (tokenWords j fw f tag)) := by
  have hg : (s.updDie (dieKey s.cur) (fun x => { x with towq := r })).ghost (dieKey s.cur) tag = some (j, fw, f, some tag) := by
    rwa [State.ghost, State.dieAt_updDie_self]
  unfold State.takeToken
  simp only [hq, hg]
  rw [State.pushS_eq_gains _ _ (register_after_ne_zero hd (by decide)), State.pushS_eq_gains _ _ (register_after_ne_zero hd (by decide)),
    State.pushS_eq_gains _ _ (register_after_ne_zero hd (by decide)), State.pushS_eq_gains _ _ (register_after_ne_zero hd (by decide)),
    State.gains_gains, State.gains_gains, State.gains_gains]
  rfl


/-- The oldest token is taken, claimed where its fault stands, and its words are in flight; nothing else of the context changes. -/
theorem State.takeToken_spec {s : State} {tag j : Nat} {fw : Bool} {r : List (Nat × Nat × Bool)} {f : FaultRec} {st : TokState}
    (lat : Nat) (hq : (s.dieAt (dieKey s.cur)).towq = (tag, j, fw) :: r)
    (hh : (s.ghost (dieKey s.cur) tag = none ∧ (s.ctxOf j fw).fault = some (f, st)) ∨
      s.ghost (dieKey s.cur) tag = some (j, fw, f, some tag)) :
    let t := s.takeToken d lat
    t.mem = s.mem ∧ (t.dieAt (dieKey s.cur)).towq = r ∧
      (s.ghost (dieKey s.cur) tag = none → (t.ctxOf j fw).fault = some (f, .claimed tag s.cur)) ∧
      (t.cur = s.cur ∧ t.curFw = s.curFw) ∧ t.ctx.pend = s.ctx.pend ++ wordsInFlight d lat (tokenWords j fw f tag) ∧
      t.ctx.park = s.ctx.park ∧ t.ctx.entry = s.ctx.entry := by
  intro t
  rcases hh with ⟨hg, hf⟩ | hg
  · let u := (s.updDie (dieKey s.cur) (fun x => { x with towq := r })).setTok j fw (.claimed tag s.cur)
    have ht : t = u.gains (wordsInFlight d lat (tokenWords j fw f tag)) := State.takeToken_live hd lat hq hg hf
    have hctx : t.ctx = { u.ctx with pend := u.ctx.pend ++ wordsInFlight d lat (tokenWords j fw f tag) } := by
      rw [ht]
      exact u.ctx_updCtx _
    have hpend : u.ctx.pend = s.ctx.pend := State.field_setTok Ctx.pend (fun _ _ => rfl) ..
    refine ⟨by rw [ht]; rfl, ?_, fun _ => ?_, by rw [ht]; exact ⟨rfl, rfl⟩, ?_, ?_, ?_⟩
    · rw [ht]
      exact congrArg Die.towq (s.dieAt_updDie_self (dieKey s.cur) (fun x => { x with towq := r }))
    · rw [ht]
      refine (u.fault_gains _ j fw).trans ?_
      exact (State.ctxOf_setTok_self ..).symm ▸ congrArg (Option.map _) hf
    · rw [hctx, hpend]
    · rw [hctx]
      exact State.field_setTok Ctx.park (fun _ _ => rfl) ..
    · rw [hctx]
      exact State.field_setTok Ctx.entry (fun _ _ => rfl) ..
  · have ht := State.takeToken_ghost hd lat hq hg
    let u := (s.updDie (dieKey s.cur) (fun x => { x with towq := r })).updDie (dieKey s.cur)
      (fun x => { x with ghosts := x.ghosts.erase (j, fw, f, some tag) })
    have hctx : t.ctx = { s.ctx with pend := s.ctx.pend ++ wordsInFlight d lat (tokenWords j fw f tag) } := by
      show (s.takeToken d lat).ctx = _
      rw [ht]
      exact u.ctx_updCtx _
    refine ⟨by show (s.takeToken d lat).mem = _; rw [ht]; rfl, ?_, fun h => absurd (h.symm.trans hg) (by simp), ?_, ?_, ?_, ?_⟩
    · show ((s.takeToken d lat).dieAt _).towq = r
      rw [ht]
      have hdie : u.dieAt (dieKey s.cur) = _ := State.dieAt_updDie_self ..
      refine (congrArg Die.towq hdie).trans ?_
      rw [State.dieAt_updDie_self]
    · show (s.takeToken d lat).cur = _ ∧ (s.takeToken d lat).curFw = _
      rw [ht]
      exact ⟨rfl, rfl⟩
    all_goals rw [hctx]

end

/-! ### A token enters the queue (24 R388, R389) -/

section
variable {s : State} {k : Nat} {fw : Bool} {f : FaultRec}

theorem State.enqueueGhost_of_none
    (h : (s.dieAt (dieKey k)).ghosts.find? (fun x => x.1 == k && x.2.1 == fw && x.2.2.2.isNone) = none) : s.enqueueGhost k fw = s := by
  unfold State.enqueueGhost
  simp only [h]

/-- No travelling token of an answered fault, so none enters. -/
theorem State.enqueueGhost_of_tagged (h : (s.dieAt (dieKey k)).ghosts.all (fun x => x.2.2.2.isSome) = true) : s.enqueueGhost k fw = s := by
  refine State.enqueueGhost_of_none (List.find?_eq_none.mpr fun x hx => ?_)
  have hx := List.all_eq_true.mp h x hx
  simp [Option.isSome_iff_ne_none.mp hx]

theorem State.enqueueToken_of_none (h : (s.ctxOf k fw).fault = none) : s.enqueueToken k fw = s := by
  unfold State.enqueueToken
  rw [h]

variable (hf : (s.ctxOf k fw).fault = some (f, .travelling))
include hf

theorem State.enqueueToken_lockhouse (h : fw = true ∧ isLockhouse k = true) : s.enqueueToken k fw = s.lockhouseFault k f := by
  unfold State.enqueueToken
  simp only [hf, if_pos h]

variable (h : ¬ (fw = true ∧ isLockhouse k = true))
include h

theorem State.enqueueToken_waits (hm : s.mayEnter k fw = false) : s.enqueueToken k fw = s := by
  unfold State.enqueueToken
  simp only [hf, if_neg h, hm, Bool.not_false, if_true]

theorem State.enqueueToken_enters (hm : s.mayEnter k fw = true) : s.enqueueToken k fw =
    (let n := (s.dieAt (dieKey k)).nextTag
     ((s.setTok k fw (.queued n)).updDie (dieKey k) (fun d => { d with
        towq := d.towq ++ [(n, k, fw)], nextTag := (n + 1) % 2 ^ 16, tokAt := (s.now, tokPlace k fw) })).blackbox (dieKey k) 0x01 k
      (tokenWord0 k fw f n) (tokenWord1 f)) := by
  unfold State.enqueueToken
  simp only [hf, if_neg h, hm, Bool.not_true, Bool.false_eq_true, if_false]

/-- What a token's entry changes: the standing of its fault, and the queue of the die. -/
theorem State.entered (hm : s.mayEnter k fw = true) :
    let t := s.enqueueToken k fw
    let n := (s.dieAt (dieKey k)).nextTag
    t.mem = s.mem ∧ t.ctxOf k fw = { s.ctxOf k fw with fault := some (f, .queued n) } ∧ t.ctxOf k (!fw) = s.ctxOf k (!fw) ∧
      (t.dieAt (dieKey k)).towq = (s.dieAt (dieKey k)).towq ++ [(n, k, fw)] ∧ (t.dieAt (dieKey k)).nextTag = (n + 1) % 2 ^ 16 ∧
      (t.dieAt (dieKey k)).tokAt = (s.now, tokPlace k fw) ∧ (t.dieAt (dieKey k)).ghosts = (s.dieAt (dieKey k)).ghosts := by
  intro t n
  have ht : t = _ := State.enqueueToken_enters hf h hm
  rw [ht]
  refine ⟨rfl, ?_, s.ctxOf_setCtxOf_not .., ?_, ?_, ?_, ?_⟩
  · refine (s.ctxOf_setTok_self k fw (.queued n)).trans ?_
    rw [hf]
    rfl
  · rw [State.field_blackbox Die.towq fun _ _ _ _ _ _ _ => rfl, State.dieAt_updDie_self]
    rfl
  · rw [State.field_blackbox Die.nextTag fun _ _ _ _ _ _ _ => rfl, State.dieAt_updDie_self]
  · rw [State.field_blackbox Die.tokAt fun _ _ _ _ _ _ _ => rfl, State.dieAt_updDie_self]
  · rw [State.field_blackbox Die.ghosts fun _ _ _ _ _ _ _ => rfl, State.dieAt_updDie_self]
    rfl

end

/-- No travelling token of the other context's answered faults. -/
theorem State.enqueueGhost_of_others {s : State} {k : Nat} {fw : Bool}
    (h : (s.dieAt (dieKey k)).ghosts.all (fun x => x.1 != k || x.2.1 == fw) = true) : s.enqueueGhost k (!fw) = s := by
  refine State.enqueueGhost_of_none (List.find?_eq_none.mpr fun x hx => ?_)
  have hx := List.all_eq_true.mp h x hx
  rw [Bool.or_eq_true, bne_iff_ne, beq_iff_eq] at hx
  rcases hx with hx | hx
  · simp [hx]
  · cases fw <;> simp [hx]

theorem State.mayEnter_iff (s : State) (k : Nat) (fw : Bool) : s.mayEnter k fw = true ↔ (s.dieAt (dieKey k)).towq.length < 64 ∧
    ¬ ((s.dieAt (dieKey k)).tokAt.1 = s.now ∧ 2 * k + (if fw then 1 else 0) < (s.dieAt (dieKey k)).tokAt.2) := by
  simp only [State.mayEnter, Bool.and_eq_true, decide_eq_true_eq, Bool.not_eq_true', ← Bool.not_eq_true, beq_iff_eq]
  rfl

/-- A travelling token of an answered fault enters. -/
theorem State.enqueueGhost_enters {s : State} {k : Nat} {fw : Bool} {f : FaultRec}
    (h : (s.dieAt (dieKey k)).ghosts.find? (fun x => x.1 == k && x.2.1 == fw && x.2.2.2.isNone) = some (k, fw, f, none))
    (hm : s.mayEnter k fw = true) : s.enqueueGhost k fw =
    (let n := (s.dieAt (dieKey k)).nextTag
     (s.updDie (dieKey k) (fun d => { d with
        ghosts := d.ghosts.erase (k, fw, f, none) ++ [(k, fw, f, some n)]
        towq := d.towq ++ [(n, k, fw)], nextTag := (n + 1) % 2 ^ 16, tokAt := (s.now, tokPlace k fw) })).blackbox (dieKey k) 0x01 k
      (tokenWord0 k fw f n) (tokenWord1 f)) := by
  unfold State.enqueueGhost
  simp only [h, hm, Bool.not_true, Bool.false_eq_true, if_false]

/-- A step of each context, where the one's leaves the other nothing to do. -/
theorem both_of_one (F : State → Bool → State) (s : State) (fw : Bool) (hbefore : F s (!fw) = s)
    (hafter : F (F s fw) (!fw) = F s fw) : [false, true].foldl F s = F s fw := by
  cases fw with
  | false => exact hafter
  | true => exact congrArg (F · true) hbefore

theorem State.mem_setToks (l : List (Nat × Nat × Bool)) (s : State) (t : Nat × Nat × Bool → TokState) :
    (l.foldl (fun s x => s.setTok x.2.1 x.2.2 (t x)) s).mem = s.mem := by
  induction l generalizing s with
  | nil => rfl
  | cons x l ih => exact ih _

/-- A lockhouse context that faults halts, its fault over. -/
theorem State.lockhouseFault_halts (s : State) (k : Nat) (f : FaultRec) :
    (s.lockhouseFault k f).mem = s.mem ∧ ((s.lockhouseFault k f).ctxOf k true).park = .halted ∧
      ((s.lockhouseFault k f).ctxOf k true).fault = none := by
  refine ⟨State.mem_setToks _ _ _, ?_, ?_⟩
  · exact congrArg Ctx.park (State.ctxOf_setCtxOf_self ..)
  · exact congrArg Ctx.fault (State.ctxOf_setCtxOf_self ..)

/-! ### Re-entry and pending faults (24 R384, R393) -/

theorem Ctx.takePending_cons {c : Ctx} {f : FaultRec} {r : List FaultRec} (h : c.faultQ = f :: r) (st : Nat) : c.takePending st =
    ({ c with faultQ := r } : Ctx).takeFault { f with slot := BitVec.ofNat 4 c.entry, pc := c.pc, stroke := st } := by
  unfold Ctx.takePending
  simp only [h]

section
variable {s : State} {k : Nat} {fw : Bool}

theorem State.reenter_of_none (h : (s.ctxOf k fw).fault = none) : s.reenter k fw = s := by
  unfold State.reenter
  simp only [h]

variable {f : FaultRec} (hf : (s.ctxOf k fw).fault = some (f, .answered))
include hf

theorem State.reenter_waits (hp : (s.ctxOf k fw).pend ≠ []) : s.reenter k fw = s := by
  unfold State.reenter
  simp only [hf, Bool.not_eq_true', List.isEmpty_eq_false_iff.mpr hp, if_true]

theorem State.reenter_resumes (hp : (s.ctxOf k fw).pend = []) (hq : (s.ctxOf k fw).faultQ = [])
    (hl : (s.cluster k).lost fw = none) : s.reenter k fw = s.setCtxOf k fw { s.ctxOf k fw with
      fault := none, park := .run, given := [], pend := (s.ctxOf k fw).given.map (mkPend 5) } := by
  have hpush : ∀ (l : List Dest) (c : Ctx), l.foldl (fun (c : Ctx) d => c.push (mkPend 5 d)) c =
      { c with pend := c.pend ++ l.map (mkPend 5) } := by
    intro l
    induction l with
    | nil => exact fun c => congrArg (fun p => { c with pend := p }) (List.append_nil _).symm
    | cons d l ih =>
      intro c
      rw [List.foldl_cons, ih, List.map_cons]
      exact congrArg (fun p => { c with pend := p }) (List.append_assoc ..)
  unfold State.reenter
  simp only [hf, hp, hq, hl, hpush, List.isEmpty_nil, Bool.not_true, Bool.false_eq_true, if_false, List.nil_append]

theorem State.reenter_faults {x : FaultRec} {l : List FaultRec} (hp : (s.ctxOf k fw).pend = [])
    (hq : (s.ctxOf k fw).faultQ = x :: l) : s.reenter k fw =
      s.setCtxOf k fw (({ s.ctxOf k fw with fault := none, park := .run, faultQ := l } : Ctx).takeFault
        { x with slot := BitVec.ofNat 4 (s.ctxOf k fw).entry, pc := (s.ctxOf k fw).pc, stroke := s.strokeOf (modOf k) }) := by
  unfold State.reenter
  simp only [hf, hp, hq, List.isEmpty_nil, Bool.not_true, Bool.false_eq_true, if_false]
  rfl

end

theorem State.asyncTake_of_not_due {s : State} {k : Nat} {fw : Bool} (h : s.asyncDue k fw = false) : s.asyncTake k fw = s :=
  if_neg (Bool.eq_false_iff.mp h)

theorem State.asyncDue_of_nil {s : State} {k : Nat} {fw : Bool} (h : (s.ctxOf k fw).faultQ = []) : s.asyncDue k fw = false := by
  simp [State.asyncDue, h]

/-! ### FTRECV and its release -/

/-- The lockhouse's instructions are firmware's. -/
theorem exec_lockhouse_program {s : State} (d a b : SReg) (h : s.curFw = false) :
    ∀ i ∈ ([.ftrecv d, .repair a b, .ctxsave a, .ctxload a] : List Instr), exec i s = .next (s.raise 0x04 s.word) := by
  have hfw : (!s.curFw) = true := by rw [h]; rfl
  have honly : s.lockhouseOnly = some (s.raise 0x04 s.word) := if_pos hfw
  have harea : s.swapArea a = .inl (s.raise 0x04 s.word) := if_pos hfw
  simp only [List.forall_mem_cons, List.not_mem_nil, false_imp_iff, implies_true, and_true, exec]
  refine ⟨?_, ?_, ?_, ?_⟩
  · simp only [execFtrecv, honly]
  · simp only [execRepair, honly]
  · simp only [execCtxsave, harea]
  · simp only [execCtxload, harea]

theorem exec_lockhouse_elsewhere {s : State} (d a b : SReg) (h : s.curFw = true) (hl : isLockhouse s.cur = false) :
    ∀ i ∈ ([.ftrecv d, .repair a b] : List Instr), exec i s = .next s.illegalOp := by
  have honly : s.lockhouseOnly = some s.illegalOp := by
    simp [State.lockhouseOnly, h, hl]
  simp only [List.forall_mem_cons, List.not_mem_nil, false_imp_iff, implies_true, and_true, exec]
  refine ⟨?_, ?_⟩
  · simp only [execFtrecv, honly]
  · simp only [execRepair, honly]

/-- FTRECV in a lockhouse: a register that has no three after it, an empty queue, the oldest token. -/
theorem exec_ftrecv {s : State} (d : SReg) (h : s.curFw = true) (hl : isLockhouse s.cur = true) : exec (.ftrecv d) s = .next (
    if d.val = 0 ∨ 28 < d.val then s.illegalField
    else if (s.dieAt (dieKey s.cur)).towq = [] then s.updCtx (fun c => { c with park := .ftrecv d none, entry := 13 })
    else s.takeToken d 1) := by
  have honly : s.lockhouseOnly = none := by
    simp [State.lockhouseOnly, h, hl]
  show execFtrecv d s = _
  simp only [execFtrecv, honly, List.isEmpty_iff, gt_iff_lt]

/-- The firmware context of cluster `k` in focus, released at a bundle that it closes. -/
def State.ftrecvReleasing (s : State) (k : Nat) : State :=
  ({ s with cur := k, curFw := true, slot := 13 } : State).updCtx (fun c => ({ c with park := .run } : Ctx).closeAt 0)

theorem exec_ftrecvRelease_waits {s : State} {k : Nat}
    (h : (lockhousesOf (dieKey k)).find? s.waitsToken ≠ some k ∨ (s.dieAt (dieKey k)).towq = [] ∨ (s.ctxOf k true).pend ≠ []) :
    exec (.ftrecvRelease k) s = .next s := by
  refine congrArg _ (if_pos ?_)
  rwa [List.isEmpty_iff, Bool.not_eq_true', List.isEmpty_eq_false_iff]

theorem exec_ftrecvRelease_takes {s : State} {k : Nat} {d : SReg} {since : Option Nat}
    (hfirst : (lockhousesOf (dieKey k)).find? s.waitsToken = some k) (hpark : (s.ctxOf k true).park = .ftrecv d since)
    (hpend : (s.ctxOf k true).pend = []) (hq : (s.dieAt (dieKey k)).towq ≠ []) :
    exec (.ftrecvRelease k) s = .next ((s.ftrecvReleasing k).takeToken d 0) := by
  refine congrArg _ ((if_neg ?_).trans ?_)
  · rw [List.isEmpty_iff, Bool.not_eq_true', List.isEmpty_eq_false_iff]
    rintro (h | h | h)
    · exact h hfirst
    · exact hq h
    · exact h hpend
  · rw [hpark]
    rfl

/-- What the closing of a released context keeps. -/
theorem Ctx.closeAt_released (c : Ctx) : (({ c with park := .run } : Ctx).closeAt 0).pend = (c.closeAt 0).pend ∧
    (({ c with park := .run } : Ctx).closeAt 0).park = .run ∧ (({ c with park := .run } : Ctx).closeAt 0).entry = 14 ∧
    (({ c with park := .run } : Ctx).closeAt 0).fault = c.fault := by
  cases ht : c.target with
  | some => simp only [Ctx.closeAt, ht, and_self]
  | none =>
    simp only [Ctx.closeAt, ht]
    cases (loopEnd c.seqPc c.loops).2.2 <;> simp [Ctx.push]

/-! ### The statement -/

/-- Settles O48, clause by clause. -/
theorem faultTokens : Obligations.FaultTokens := by
  intro s d a b k j tag fw f st r since q g c words heads
  have hwords {t : State} {lat : Nat} {old p : List Pend} (hcode : f.code < 2 ^ 7) (hmem : t.mem = s.mem)
      (hp : p = old ++ wordsInFlight d lat (tokenWords j fw f tag)) : words t lat old p := by
    obtain ⟨h1, h2, h3, h4, h5, h6, h7, h8⟩ := tokenWord0_fields j fw f tag hcode
    exact ⟨tokenWords j fw f tag, hp, hmem, h1, h2, h3, h4, h5, h6, h7, h8, tokenWord1_toNat f, tokenWord2_toNat f, tokenWord3_toNat f⟩
  refine ⟨fun i hi h => exec_lockhouse_program d a b h i hi, fun i hi h hl => exec_lockhouse_elsewhere d a b h hl i hi,
    fun h hl => ⟨fun hd => ?_, fun hd => ⟨fun hq => ?_, fun hh => ?_⟩⟩, exec_ftrecvRelease_waits, fun hfirst hpark hd hpend hh => ?release,
    fun hg hf ho hl => ?enters, fun hg hall hft hff hm => ?ghost, fun hg hf ho hl => ?lockhouse, fun hf ho => ?reentry,
    fun hp hfw => ?none, fun hdue hq ho => ?async, fun hp hfw => ?notDue⟩
  · rw [exec_ftrecv d h hl, if_pos hd]
  · rw [exec_ftrecv d h hl, if_neg (by omega), if_pos hq]
  · obtain ⟨hq, hcode, hstands⟩ := hh
    obtain ⟨hmem, htowq, hclaimed, -, hpend, -⟩ := State.takeToken_spec hd 1 hq hstands
    refine ⟨_, ?_, htowq, hclaimed, hwords hcode hmem hpend⟩
    rw [exec_ftrecv d h hl, if_neg (by omega), if_neg (by rw [hq]; exact List.cons_ne_nil _ _)]
  case release =>
    obtain ⟨hq, hcode, hstands⟩ := hh
    let u := s.ftrecvReleasing k
    have hu : u.ctx = ({ s.ctxOf k true with park := .run } : Ctx).closeAt 0 := State.ctx_updCtx ..
    obtain ⟨hclose, hrun, hentry, hfault⟩ := (s.ctxOf k true).closeAt_released
    have hkeeps : (u.ctxOf j fw).fault = (s.ctxOf j fw).fault := State.field_setCtxOf Ctx.fault _ hfault j fw
    obtain ⟨hmem, htowq, -, ⟨hcur, hcurFw⟩, hgains, hpark', hentry'⟩ := State.takeToken_spec (s := u) hd 0 hq
      (hstands.imp_left fun h => ⟨h.1, hkeeps.trans h.2⟩)
    have hctx : (u.takeToken d 0).ctxOf k true = (u.takeToken d 0).ctx := by
      rw [State.ctx, hcur, hcurFw]
      rfl
    refine ⟨_, exec_ftrecvRelease_takes hfirst hpark hpend (by rw [hq]; exact List.cons_ne_nil _ _), htowq, ?_, ?_, hwords hcode hmem ?_⟩
    · exact (congrArg Ctx.park hctx).trans (hpark'.trans (hu ▸ hrun))
    · exact (congrArg Ctx.entry hctx).trans (hentry'.trans (hu ▸ hentry))
    · rw [hctx]
      refine hgains.trans ?_
      rw [hu, hclose]
  case enters =>
    have hno (z : Bool) : s.enqueueGhost k z = s := State.enqueueGhost_of_tagged hg
    have hbefore : (s.enqueueGhost k (!fw)).enqueueToken k (!fw) = s := by rw [hno, State.enqueueToken_of_none ho]
    refine ⟨fun hlate => ?_, fun hroom hlate => ?_⟩
    · have hm : s.mayEnter k fw = false := Bool.eq_false_iff.mpr fun h =>
        hlate.elim (Nat.not_le.mpr ((s.mayEnter_iff k fw).mp h).1) ((s.mayEnter_iff k fw).mp h).2
      have hone : (s.enqueueGhost k fw).enqueueToken k fw = s := by rw [hno, State.enqueueToken_waits hf hl hm]
      refine congrArg _ ((both_of_one (fun s fw => (s.enqueueGhost k fw).enqueueToken k fw) s fw hbefore ?_).trans hone)
      rw [hone, hbefore]
    · have hm : s.mayEnter k fw = true := (s.mayEnter_iff k fw).mpr ⟨hroom, hlate⟩
      obtain ⟨hmem, hctx, hother, htowq, htag, hat, hghosts⟩ := State.entered hf hl hm
      refine ⟨s.enqueueToken k fw, congrArg _ ((both_of_one (fun s fw => (s.enqueueGhost k fw).enqueueToken k fw) s fw hbefore ?_).trans ?_),
        hmem, hctx, htowq, htag, hat⟩
      · rw [hno, State.enqueueGhost_of_tagged (hghosts ▸ hg), State.enqueueToken_of_none (hother ▸ ho)]
      · rw [hno]
  case ghost =>
    have hfault : ∀ z, (s.ctxOf k z).fault = none := fun z => by cases z <;> assumption
    have hone (u : State) (hu : u.ctxOf k (!fw) = s.ctxOf k (!fw))
        (hall : (u.dieAt (dieKey k)).ghosts.all (fun x => x.1 != k || x.2.1 == fw) = true) :
        (u.enqueueGhost k (!fw)).enqueueToken k (!fw) = u := by
      rw [State.enqueueGhost_of_others hall, State.enqueueToken_of_none (hu ▸ hfault _)]
    have hent := State.enqueueGhost_enters hg hm
    have hctxs : ∀ j z, (s.enqueueGhost k fw).ctxOf j z = s.ctxOf j z := fun j z => by rw [hent]; rfl
    have hthen : (s.enqueueGhost k fw).enqueueToken k fw = s.enqueueGhost k fw := State.enqueueToken_of_none ((hctxs k fw).symm ▸ hfault fw)
    refine ⟨s.enqueueGhost k fw, congrArg _ ((both_of_one (fun s fw => (s.enqueueGhost k fw).enqueueToken k fw) s fw (hone s rfl hall)
      ?_).trans hthen), by rw [hent]; rfl, hctxs, ?_⟩
    · rw [hthen]
      refine hone _ (hctxs k _) ?_
      rw [hent, State.field_blackbox Die.ghosts fun _ _ _ _ _ _ _ => rfl, State.dieAt_updDie_self, List.all_append, Bool.and_eq_true]
      refine ⟨List.all_eq_true.mpr fun x hx => List.all_eq_true.mp hall x (List.mem_of_mem_erase hx), ?_⟩
      simp
    · rw [hent, State.field_blackbox Die.towq fun _ _ _ _ _ _ _ => rfl, State.dieAt_updDie_self]
  case lockhouse =>
    have hno (u : State) (z : Bool) (hu : (u.dieAt (dieKey k)).ghosts = (s.dieAt (dieKey k)).ghosts) : u.enqueueGhost k z = u :=
      State.enqueueGhost_of_tagged (hu ▸ hg)
    obtain ⟨hmem, hpark, hfault⟩ := s.lockhouseFault_halts k f
    refine ⟨s.lockhouseFault k f, ?_, hmem, hpark, hfault⟩
    show Host.Outcome.next (((((s.enqueueGhost k false).enqueueToken k false)).enqueueGhost k true).enqueueToken k true) = _
    rw [hno s false rfl, State.enqueueToken_of_none ho, hno s true rfl, State.enqueueToken_lockhouse hf ⟨rfl, hl⟩]
  case reentry =>
    have hother : s.reenter k (!fw) = s := State.reenter_of_none ho
    have hgo {t : State} (ht : s.reenter k fw = t) (hkeeps : t.ctxOf k (!fw) = s.ctxOf k (!fw)) :
        exec (.contextReentry k) s = .next t := by
      refine congrArg _ ((both_of_one (fun s fw => s.reenter k fw) s fw hother ?_).trans ht)
      rw [ht, State.reenter_of_none (hkeeps ▸ ho)]
    refine ⟨fun hp => hgo (State.reenter_waits hf hp) rfl, fun hp hq hl => hgo (State.reenter_resumes hf hp hq hl) (s.ctxOf_setCtxOf_not ..),
      fun x l hp hq => ⟨_, hgo (State.reenter_faults hf hp hq) (s.ctxOf_setCtxOf_not ..), rfl, ?_⟩⟩
    rw [State.ctxOf_setCtxOf_self]
    exact ⟨rfl, rfl, rfl, rfl, hp⟩
  case none =>
    show Host.Outcome.next _ = _
    rw [State.reenter_of_none hp, State.reenter_of_none hfw]
  case async =>
    have htake : s.asyncTake k fw = s.setCtxOf k fw (c.takePending (s.strokeOf (modOf k))) := if_pos hdue
    have hkeeps : (s.asyncTake k fw).ctxOf k (!fw) = s.ctxOf k (!fw) := by rw [htake, State.ctxOf_setCtxOf_not]
    refine ⟨s.asyncTake k fw, congrArg _ (both_of_one (fun s fw => s.asyncTake k fw) s fw
      (State.asyncTake_of_not_due (State.asyncDue_of_nil ho)) (State.asyncTake_of_not_due (State.asyncDue_of_nil (hkeeps ▸ ho)))), ?_⟩
    rw [htake, State.ctxOf_setCtxOf_self, Ctx.takePending_cons hq]
    exact ⟨rfl, rfl, rfl, rfl, rfl, rfl, rfl, rfl⟩
  case notDue =>
    show Host.Outcome.next _ = _
    rw [State.asyncTake_of_not_due hp, State.asyncTake_of_not_due hfw]

end Sys2Proof.Machine
end

section
/-! SUPPORT. REPAIR by its kinds (24 R392 to R395), what answers a queued token without one (24 R389, R435; 15 R304), and soft
errors (24 R398, R400; 09 R199). -/

namespace Sys2Proof.Machine

/-! ### What an abort leaves (24 R394) -/

/-- From `s` to `t` the faults of other contexts than those of cluster `k` may have come to count as answered: the memory, the
contexts of cluster `k` and the queues of tokens stand, and no token is lost. -/
structure State.Spares (s t : State) (k : Nat) : Prop where
  mem : t.mem = s.mem
  ctx : ∀ z, t.ctxOf k z = s.ctxOf k z
  towq : ∀ g, (t.dieAt g).towq = (s.dieAt g).towq
  ghosts : ∀ g, ∀ x ∈ (s.dieAt g).ghosts, x ∈ (t.dieAt g).ghosts

theorem State.Spares.trans {s t u : State} {k : Nat} (h : s.Spares t k) (h' : t.Spares u k) : s.Spares u k :=
  ⟨h'.mem.trans h.mem, fun z => (h'.ctx z).trans (h.ctx z), fun g => (h'.towq g).trans (h.towq g),
    fun g x hx => h'.ghosts g x (h.ghosts g x hx)⟩

theorem State.spares_failCox (s : State) (j code k : Nat) : s.Spares (s.failCox j code) k := by
  unfold State.failCox
  cases (s.cluster j).bind with
  | none => exact ⟨rfl, fun _ => rfl, fun _ => rfl, fun _ _ hx => hx⟩
  | some b =>
    have hkeeps {α : Type} (π : Die → α) (h : ∀ d m, π { d with coxes := m } = π d) (g : Nat) : π ((s.updDie (dieKey j) (fun d =>
        match d.coxes.find? (fun x => x.1 == b.cox) with
        | some (_, c) => if c.fail.isSome then d else { d with coxes := kset d.coxes b.cox { c with fail := some code } }
        | none => d)).dieAt g) = π (s.dieAt g) := by
      refine s.field_updDie π (fun d => ?_) g
      split
      · split
        · rfl
        · exact h _ _
      · rfl
    exact ⟨rfl, fun _ => rfl, hkeeps Die.towq fun _ _ => rfl, fun g x hx => (hkeeps Die.ghosts (fun _ _ => rfl) g).symm ▸ hx⟩

/-- A token joins those of the faults that count as answered. -/
theorem State.spares_ghost (s : State) (g k : Nat) (x : Nat × Bool × FaultRec × Option Nat) :
    s.Spares (s.updDie g (fun d => { d with ghosts := d.ghosts ++ [x] })) k := by
  refine ⟨rfl, fun _ => rfl, s.field_updDie Die.towq fun _ => rfl, fun j y hy => ?_⟩
  rcases eq_or_ne j g with rfl | hj
  · rw [State.dieAt_updDie_self]
    exact List.mem_append_left _ hy
  · rwa [State.dieAt_updDie_of_ne _ _ hj]

theorem State.spares_setCtxOf (s : State) {j k : Nat} (h : k ≠ j) (fw : Bool) (x : Ctx) : s.Spares (s.setCtxOf j fw x) k :=
  ⟨rfl, fun _ => s.ctxOf_setCtxOf_of_ne _ _ _ h, fun _ => rfl, fun _ _ hy => hy⟩

theorem State.spares_toGhost (s : State) {j k : Nat} (h : k ≠ j) (fw : Bool) : s.Spares (s.toGhost j fw) k := by
  unfold State.toGhost
  cases (s.ctxOf j fw).fault with
  | none => exact ⟨rfl, fun _ => rfl, fun _ => rfl, fun _ _ hx => hx⟩
  | some x =>
    obtain ⟨f, t⟩ := x
    have hset := s.spares_setCtxOf h fw { s.ctxOf j fw with fault := none }
    cases t with
    | travelling =>
      dsimp only
      split
      · exact hset
      · exact hset.trans (State.spares_ghost ..)
    | queued tag => exact hset.trans (State.spares_ghost ..)
    | _ => exact hset

theorem State.spares_toGhosts (l : List Nat) {k : Nat} (h : k ∉ l) (s : State) :
    s.Spares (l.foldl (fun t j => t.toGhost j false) s) k := by
  induction l generalizing s with
  | nil => exact ⟨rfl, fun _ => rfl, fun _ => rfl, fun _ _ hx => hx⟩
  | cons j l ih =>
    exact (s.spares_toGhost (List.ne_of_not_mem_cons h) false).trans (ih (List.not_mem_of_not_mem_cons h) _)

/-- A context after an abort: its faults are over, it stops with its phase, and firmware halts. -/
def Ctx.aborted (x : Ctx) (fw : Bool) : Ctx :=
  { x with fault := none, given := [], faultQ := [], park := if fw then .halted else .phase .abort }

theorem State.spares_abortCtx (s : State) (k : Nat) (fw : Bool) (code : Nat) :
    (s.setCtxOf k fw ((s.ctxOf k fw).aborted fw)).Spares (s.abortCtx k fw code) k := by
  cases fw with
  | true => exact ⟨rfl, fun _ => rfl, fun _ => rfl, fun _ _ hx => hx⟩
  | false =>
    refine (State.spares_failCox _ k code k).trans (State.spares_toGhosts _ ?_ _)
    rw [List.mem_filter]
    exact fun h => bne_iff_ne.mp h.2 rfl

theorem State.ctxOf_abortCtx (s : State) (k : Nat) (fw : Bool) (code : Nat) :
    (s.abortCtx k fw code).ctxOf k fw = (s.ctxOf k fw).aborted fw := by
  rw [(s.spares_abortCtx k fw code).ctx, State.ctxOf_setCtxOf_self]

/-! ### A repair reaches its fault (24 R392) -/

theorem State.applyRepair_unnamed {s : State} {g : Nat} {w : DWord} (h : s.named g w = none) (v : SVal) :
    s.applyRepair g w v = s.blackbox g 0x06 (fld w.toNat 32 10) w 0 := by
  unfold State.applyRepair
  simp only [h]

theorem State.applyRepair_named {s u : State} {g k : Nat} {fw : Bool} {f : FaultRec} {w : DWord} {v : SVal}
    (h : s.named g w = some (k, fw, f)) (hu : s.applyKind (fld w.toNat 8 3) k fw f v = some u) : s.applyRepair g w v =
      (u.updDie g (fun d => { d with towq := d.towq.filter (fun x => x.1 != fld w.toNat 48 16) })).blackbox g 0x02 k w v.val := by
  unfold State.applyRepair
  simp only [h, hu]

/-- The token of a repaired fault has left the queue. -/
theorem State.towq_applyRepair {s u : State} {g k : Nat} {fw : Bool} {f : FaultRec} {w : DWord} {v : SVal}
    (h : s.named g w = some (k, fw, f)) (hu : s.applyKind (fld w.toNat 8 3) k fw f v = some u) :
    ∀ z ∈ ((s.applyRepair g w v).dieAt g).towq, z.1 ≠ fld w.toNat 48 16 := by
  intro z hz
  rw [State.applyRepair_named h hu, State.field_blackbox Die.towq fun _ _ _ _ _ _ _ => rfl, State.dieAt_updDie_self] at hz
  exact bne_iff_ne.mp (List.mem_filter.mp hz).2

section
variable {s : State} {k : Nat} {fw : Bool} {f : FaultRec} {st : TokState} (hf : (s.ctxOf k fw).fault = some (f, st))
include hf

/-- An answered context stands at slot `entry`, with its fault, and without its stamp. -/
theorem State.ctxOf_setAnswered (entry : Nat) : (s.setAnswered k fw entry []).ctxOf k fw =
    { s.ctxOf k fw with fault := some (f, .answered), entry := entry, unstamped := true } := by
  refine (State.ctxOf_setCtxOf_self ..).trans ?_
  rw [State.ctxOf_setTok_self, hf, List.append_nil]
  rfl

end

/-- Context `fw` of cluster `k`, with fault `f`, has its answer and re-enters at slot `entry`. -/
def State.Answered (s t : State) (k : Nat) (fw : Bool) (f : FaultRec) (entry : Nat) : Prop := t.mem = s.mem ∧
  t.ctxOf k fw = { s.ctxOf k fw with fault := some (f, .answered), entry := entry, unstamped := true }

/-- Context `fw` of cluster `k` is aborted, its registers as they were. -/
def State.Aborted (s t : State) (k : Nat) (fw : Bool) : Prop := t.mem = s.mem ∧ (t.ctxOf k fw).fault = none ∧
  (t.ctxOf k fw).faultQ = [] ∧ (t.ctxOf k fw).s = (s.ctxOf k fw).s ∧ (t.ctxOf k fw).park = (if fw then .halted else .phase .abort)

theorem State.aborted_of {s t : State} {k : Nat} {fw : Bool} (hmem : t.mem = s.mem) (h : t.ctxOf k fw = (s.ctxOf k fw).aborted fw) :
    s.Aborted t k fw := by
  rw [State.Aborted, h]
  exact ⟨hmem, rfl, rfl, rfl, rfl⟩

theorem State.mem_abortCtx (s : State) (k : Nat) (fw : Bool) (code : Nat) : (s.abortCtx k fw code).mem = s.mem :=
  (s.spares_abortCtx k fw code).mem

theorem State.cluster_setCtxOf_self (s : State) (k : Nat) (fw : Bool) (x : Ctx) :
    (s.setCtxOf k fw x).cluster k = (s.cluster k).setCtx fw x := s.cluster_setCluster_self ..

theorem State.plFail_setCtxOf (s : State) (k : Nat) (fw : Bool) (x : Ctx) :
    ((s.setCtxOf k fw x).cluster k).plFail = (s.cluster k).plFail := by
  rw [State.cluster_setCtxOf_self]
  cases fw <;> rfl

theorem State.plFail_setAnswered (s : State) (k : Nat) (fw : Bool) (entry : Nat) (vals : List Dest) :
    ((s.setAnswered k fw entry vals).cluster k).plFail = (s.cluster k).plFail :=
  State.plFail_setCtxOf ..

/-- Fences raised on clusters leave the memory and every context, and stand on each of them. -/
theorem State.fenced_foldl (l : List Nat) (s : State) :
    let t := l.foldl (fun s j => s.updCluster j (fun c => { c with fenced := true })) s
    t.mem = s.mem ∧ (∀ k z, t.ctxOf k z = s.ctxOf k z) ∧ ∀ j, (j ∈ l ∨ (s.cluster j).fenced = true) → (t.cluster j).fenced = true := by
  induction l generalizing s with
  | nil => exact ⟨rfl, fun _ _ => rfl, fun j h => h.resolve_left List.not_mem_nil⟩
  | cons i l ih =>
    obtain ⟨hmem, hctx, hfenced⟩ := ih (s.updCluster i (fun c => { c with fenced := true }))
    refine ⟨hmem, fun k z => (hctx k z).trans (State.field_updCluster (fun c => c.ctx z) s i k fun c => by cases z <;> rfl), fun j h => ?_⟩
    refine hfenced j ?_
    rcases eq_or_ne j i with rfl | hj
    · exact .inr (congrArg Cluster.fenced (s.cluster_updCluster_self ..))
    · rw [State.cluster_updCluster_of_ne _ _ hj]
      exact h.imp_left fun h => (List.mem_cons.mp h).resolve_left hj

section
variable {s : State} {g k : Nat} {fw : Bool} {f : FaultRec} {st : TokState} {w : DWord} (v : SVal)
  (hn : s.named g w = some (k, fw, f))
include hn

/-- What a repair leaves is what its kind leaves, but for the queue and the black box. -/
theorem State.applyRepair_kind {u : State} (hu : s.applyKind (fld w.toNat 8 3) k fw f v = some u) :
    (s.applyRepair g w v).mem = u.mem ∧ (∀ j z, (s.applyRepair g w v).ctxOf j z = u.ctxOf j z) ∧
      (∀ j, (s.applyRepair g w v).cluster j = u.cluster j) := by
  rw [State.applyRepair_named hn hu]
  exact ⟨rfl, fun _ _ => rfl, fun _ => rfl⟩

theorem State.applyRepair_aborts {code : Nat} (hu : s.applyKind (fld w.toNat 8 3) k fw f v = some (s.abortCtx k fw code)) :
    s.Aborted (s.applyRepair g w v) k fw := by
  obtain ⟨hmem, hctx, -⟩ := State.applyRepair_kind v hn hu
  exact State.aborted_of (hmem.trans (s.mem_abortCtx ..)) ((hctx k fw).trans (s.ctxOf_abortCtx ..))

theorem State.applyRepair_fences (hkind : fld w.toNat 8 3 = 5) : s.Aborted (s.applyRepair g w v) k fw ∧
    (fw = false → ∀ j ∈ s.launchMembers k, ((s.applyRepair g w v).cluster j).fenced = true) := by
  have hu : s.applyKind (fld w.toNat 8 3) k fw f v = some ((if fw then [] else s.launchMembers k).foldl
      (fun s j => s.updCluster j (fun c => { c with fenced := true })) (s.abortCtx k fw (abortCode v.val))) := by
    rw [hkind]
    rfl
  obtain ⟨hmem, hctx, hcl⟩ := State.applyRepair_kind v hn hu
  obtain ⟨hmem', hctx', hfenced⟩ := State.fenced_foldl (if fw then [] else s.launchMembers k) (s.abortCtx k fw (abortCode v.val))
  refine ⟨State.aborted_of (hmem.trans (hmem'.trans (s.mem_abortCtx ..))) ((hctx k fw).trans ((hctx' k fw).trans (s.ctxOf_abortCtx ..))),
    fun hfw j hj => ?_⟩
  rw [hcl]
  exact hfenced j (.inl (hfw ▸ hj))

variable (hf : (s.ctxOf k fw).fault = some (f, st))
include hf

theorem State.applyRepair_answers {entry : Nat} (hu : s.applyKind (fld w.toNat 8 3) k fw f v = some (s.setAnswered k fw entry [])) :
    s.Answered (s.applyRepair g w v) k fw f entry := by
  obtain ⟨hmem, hctx, -⟩ := State.applyRepair_kind v hn hu
  exact ⟨hmem, (hctx k fw).trans (State.ctxOf_setAnswered hf entry)⟩

/-- RELOAD answers as RETRY does, once lines have left the instruction buffer. -/
theorem State.applyRepair_reloads (hkind : fld w.toNat 8 3 = 3) :
    s.Answered (s.applyRepair g w v) k fw f (s.ctxOf k fw).entry := by
  let r := s.updCluster k (fun c => { c with ibuf := c.ibuf.filter (fun l => decide (l.2.tag * 2 ^ 14 + l.1 * 64 < f.pc.toNat / 64 * 64)) })
  have hr : r.ctxOf k fw = s.ctxOf k fw := State.field_updCluster (fun c => c.ctx fw) s k k fun c => by cases fw <;> rfl
  have hu : s.applyKind (fld w.toNat 8 3) k fw f v = some (r.setAnswered k fw (s.ctxOf k fw).entry []) := by
    rw [hkind]
    rfl
  obtain ⟨hmem, hctx, -⟩ := State.applyRepair_kind v hn hu
  refine ⟨hmem, (hctx k fw).trans ?_⟩
  rw [State.ctxOf_setAnswered (hr.symm ▸ hf), hr]

omit hf in
/-- RELOAD leaves PLSTAT. -/
theorem State.plFail_applyRepair (hkind : fld w.toNat 8 3 = 3) :
    ((s.applyRepair g w v).cluster k).plFail = (s.cluster k).plFail := by
  let r := s.updCluster k (fun c => { c with ibuf := c.ibuf.filter (fun l => decide (l.2.tag * 2 ^ 14 + l.1 * 64 < f.pc.toNat / 64 * 64)) })
  have hu : s.applyKind (fld w.toNat 8 3) k fw f v = some (r.setAnswered k fw (s.ctxOf k fw).entry []) := by
    rw [hkind]
    rfl
  obtain ⟨-, -, hcl⟩ := State.applyRepair_kind v hn hu
  have hr : (r.cluster k).plFail = _ := congrArg Cluster.plFail (s.cluster_updCluster_self ..)
  rw [hcl, State.plFail_setAnswered, hr]

end

/-! ### The repairs of Table 24.4 that answer or abort -/

section
variable {s : State} {g k : Nat} {fw : Bool} {f : FaultRec} {st : TokState} {w : DWord} (v : SVal)
  (hn : s.named g w = some (k, fw, f))
include hn

theorem State.applyRepair_retry (hf : (s.ctxOf k fw).fault = some (f, st)) (hkind : fld w.toNat 8 3 = 0 ∨ fld w.toNat 8 3 = 3) :
    s.Answered (s.applyRepair g w v) k fw f (s.ctxOf k fw).entry := by
  rcases hkind with hkind | hkind
  · refine State.applyRepair_answers v hn hf ?_
    rw [hkind]
    rfl
  · exact State.applyRepair_reloads v hn hf hkind

theorem State.applyRepair_skip (hf : (s.ctxOf k fw).fault = some (f, st)) (hkind : fld w.toNat 8 3 = 1) (hhdr : f.hdr = false) :
    s.Answered (s.applyRepair g w v) k fw f
      (if f.async then (s.ctxOf k fw).entry else s.afterSlot k f.pc.toNat f.slot.toNat) := by
  refine State.applyRepair_answers v hn hf ?_
  rw [hkind]
  refine (if_neg (ne_true_of_eq_false hhdr)).trans ?_
  split <;> rfl

theorem State.applyRepair_abort (hkind : fld w.toNat 8 3 = 4 ∨ (fld w.toNat 8 3 = 1 ∧ f.hdr = true)) :
    s.Aborted (s.applyRepair g w v) k fw := by
  rcases hkind with hkind | ⟨hkind, hhdr⟩
  · refine State.applyRepair_aborts (code := abortCode v.val) v hn ?_
    rw [hkind]
    rfl
  · refine State.applyRepair_aborts (code := 10) v hn ?_
    rw [hkind]
    exact if_pos hhdr

end

/-- A repair of any kind but RESUME_VALUE is applied. -/
theorem State.applyKind_some (s : State) {kind : Nat} (k : Nat) (fw : Bool) (f : FaultRec) (v : SVal) (hkind : kind ≠ 2) :
    ∃ u, s.applyKind kind k fw f v = some u := by
  unfold State.applyKind
  split
  · exact ⟨_, rfl⟩
  · split_ifs <;> exact ⟨_, rfl⟩
  · exact absurd rfl hkind
  · exact ⟨_, rfl⟩
  · exact ⟨_, rfl⟩
  · exact ⟨_, rfl⟩

/-! ### The repair word of a queued token -/

theorem fld_or (x y lo n : Nat) : fld (x ||| y) lo n = fld x lo n ||| fld y lo n := by
  rw [fld, fld, fld, ← Nat.shiftRight_eq_div_pow, ← Nat.shiftRight_eq_div_pow, ← Nat.shiftRight_eq_div_pow,
    Nat.shiftRight_or_distrib, Nat.or_mod_two_pow]

theorem toNat_extractLsb'_eq_fld (w : DWord) (lo n : Nat) : (w.extractLsb' lo n).toNat = fld w.toNat lo n := by
  rw [BitVec.extractLsb'_toNat, Nat.shiftRight_eq_div_pow, fld]

/-- The repair word that answers a token by `kind` (24 Tables 24.2, 24.4). -/
def answerWord (k : Nat) (fw : Bool) (f : FaultRec) (tag kind : Nat) : DWord :=
  tokenWord0 k fw f tag ||| BitVec.ofNat 64 (kind * 2 ^ 8)

/-- The fields of a token that its repair word repeats, and its kind. -/
theorem answerWord_fields (k : Nat) (fw : Bool) {f : FaultRec} {tag kind : Nat} (hcode : f.code < 2 ^ 7) (hkind : kind < 8) :
    let w := (answerWord k fw f tag kind).toNat
    fld w 32 10 = k % 1024 ∧ fld w 42 2 = k / 1024 % 4 ∧ bitAt w 31 = fw ∧ fld w 48 16 = tag % 2 ^ 16 ∧ fld w 8 3 = kind := by
  obtain ⟨htag, hlow, hcluster, hfw, -⟩ := tokenWord0_fields k fw f tag hcode
  intro w
  have hw : w = (tokenWord0 k fw f tag).toNat ||| kind * 2 ^ 8 := by
    show (answerWord k fw f tag kind).toNat = _
    rw [answerWord, BitVec.toNat_or, BitVec.toNat_ofNat, Nat.mod_eq_of_lt (a := kind * 2 ^ 8) (by omega)]
  have hclear {lo n : Nat} (h : fld (kind * 2 ^ 8) lo n = 0) : fld w lo n = fld (tokenWord0 k fw f tag).toNat lo n := by
    rw [hw, fld_or, h, Nat.or_zero]
  refine ⟨?_, ?_, ?_, ?_, ?_⟩
  · rw [hclear (by simp only [fld]; omega), fld]
    omega
  · rw [hclear (by simp only [fld]; omega), fld]
    omega
  · have hbit : fld w 31 1 = fld (tokenWord0 k fw f tag).toNat 31 1 := hclear (by simp only [fld]; omega)
    rw [← bitAt_toNat, bitAt] at hfw
    rw [bitAt, ← hfw]
    exact congrArg (· == 1) hbit
  · rw [hclear (by simp only [fld]; omega), fld]
    omega
  · have hzero : fld (tokenWord0 k fw f tag).toNat 8 3 = 0 := by
      simp only [fld]
      omega
    have hself : fld (kind * 2 ^ 8) 8 3 = kind := by
      simp only [fld]
      omega
    rw [hw, fld_or, hzero, hself, Nat.zero_or]

theorem State.named_of {s : State} {g k : Nat} {fw : Bool} {w : DWord} {f : FaultRec} {st : TokState}
    (hk : 1024 * g + fld w.toNat 32 10 = k) (hfw : bitAt w.toNat 31 = fw) (hf : (s.ctxOf k fw).fault = some (f, st))
    (hdie : fld w.toNat 42 2 = g % 4) (htag : tokTag st = some (fld w.toNat 48 16)) : s.named g w = some (k, fw, f) := by
  subst hk hfw
  unfold State.named
  simp only [hf]
  exact if_pos ⟨hdie, htag⟩

/-- The repair word of a queued token names its fault. -/
theorem State.named_answerWord {s : State} {k : Nat} {fw : Bool} {f : FaultRec} {tag kind : Nat}
    (hf : (s.ctxOf k fw).fault = some (f, .queued tag)) (htag : tag < 2 ^ 16) (hcode : f.code < 2 ^ 7) (hkind : kind < 8) :
    s.named (dieKey k) (answerWord k fw f tag kind) = some (k, fw, f) := by
  obtain ⟨hrow, hdie, hfw, htagged, -⟩ := answerWord_fields k fw (tag := tag) hcode hkind
  refine State.named_of ?_ hfw hf hdie ?_
  · rw [hrow]
    exact Nat.div_add_mod k 1024
  · rw [htagged, Nat.mod_eq_of_lt htag]
    rfl

/-! ### What answers a queued token without a REPAIR (24 R389, R435; 15 R304) -/

section
variable {s : State} {g tag k : Nat} {fw : Bool} {f : FaultRec}

theorem exec_lhTimeout_untagged (h : s.taggedOn g tag = none) : exec (.lhTimeout g tag) s = .next s := by
  show execLhTimeout g tag s = _
  simp only [execLhTimeout, h]

theorem exec_lockhouseLoader_untagged (h : s.taggedOn g tag = none) (hg : s.ghost g tag = none) :
    exec (.lockhouseLoader g tag) s = .next s := by
  show execLockhouseLoader g tag s = _
  simp only [execLockhouseLoader, h, hg]

theorem exec_lockhousePolicy_untagged (h : s.taggedOn g tag = none) (hg : s.ghost g tag = none) :
    exec (.lockhousePolicy g tag) s = .next s := by
  show execLockhousePolicy g tag s = _
  simp only [execLockhousePolicy, h, hg]

theorem exec_lockhousePolicy_ghost {x : Nat × Bool × FaultRec × Option Nat} (h : s.ghost g tag = some x) :
    exec (.lockhousePolicy g tag) s =
      .next (if forLoader x.2.1 x.2.2.1 then s else s.answerGhost g tag x (s.policy g x.2.2.1.code)) := by
  show execLockhousePolicy g tag s = _
  simp only [execLockhousePolicy, h]

variable (ht : s.taggedOn g tag = some (k, fw, f, .queued tag))
include ht

theorem exec_lhTimeout_tagged : exec (.lhTimeout g tag) s = .next (s.lhExpire k fw) := by
  show execLhTimeout g tag s = _
  simp only [execLhTimeout, ht]

variable (hg : s.ghost g tag = none)
include hg

theorem exec_lockhouseLoader_tagged : exec (.lockhouseLoader g tag) s = .next (
    if forLoader fw f = false ∨ s.coreOps k ≠ [] then s
    else
      let r := s.loaderGo k (Fin.ofNat 16 f.info.toNat)
      r.1.answerQueued g tag k fw f (if r.2 then 3 else 4) (if r.2 then 0 else 9)) := by
  show execLockhouseLoader g tag s = _
  simp only [execLockhouseLoader, ht, hg, Bool.not_eq_true', List.isEmpty_eq_false_iff]

theorem exec_lockhousePolicy_tagged : exec (.lockhousePolicy g tag) s = .next (
    if forLoader fw f then s
    else s.answerQueued g tag k fw f (s.policy g f.code) (if s.policy g f.code ≥ 4 then 10 else 0)) := by
  show execLockhousePolicy g tag s = _
  simp only [execLockhousePolicy, ht, hg]

end

theorem forLoader_iff (fw : Bool) (f : FaultRec) : forLoader fw f = true ↔ fw = false ∧ f.code = 0x68 := by
  simp [forLoader]

section
variable {s : State} {k tag : Nat} {fw : Bool} {f : FaultRec} (hf : (s.ctxOf k fw).fault = some (f, .queued tag))
include hf

/-- A fault that is younger than 256 strokes stands. -/
theorem State.lhExpire_waits (h : (s.ctxOf k fw).faultAge < 256) : s.lhExpire k fw = s := by
  unfold State.lhExpire
  simp only [hf, Bool.false_or, decide_eq_true h, if_true]

theorem State.lhExpire_due (h : 256 ≤ (s.ctxOf k fw).faultAge) : s.lhExpire k fw =
    ((s.toGhost k fw).abortCtx k fw 10).blackbox (dieKey k) 0x09 k (tokenWord0 k fw f tag) 0 := by
  unfold State.lhExpire
  simp only [hf, Bool.false_or, decide_eq_false (Nat.not_lt.mpr h), Bool.false_eq_true, if_false]
  rfl

theorem State.toGhost_queued : s.toGhost k fw = (s.setCtxOf k fw { s.ctxOf k fw with fault := none }).updDie (dieKey k)
    (fun d => { d with ghosts := d.ghosts ++ [(k, fw, f, some tag)] }) := by
  unfold State.toGhost
  simp only [hf]

/-- A fault that is due is aborted, and its token, in the queue, joins those of answered faults. -/
theorem State.lhExpire_spec (h : 256 ≤ (s.ctxOf k fw).faultAge) : s.Aborted (s.lhExpire k fw) k fw ∧
    ((s.lhExpire k fw).dieAt (dieKey k)).towq = (s.dieAt (dieKey k)).towq ∧
      (k, fw, f, some tag) ∈ ((s.lhExpire k fw).dieAt (dieKey k)).ghosts := by
  have hghost := State.toGhost_queued hf
  have hspares := (s.toGhost k fw).spares_abortCtx k fw 10
  have hctx : (s.toGhost k fw).ctxOf k fw = { s.ctxOf k fw with fault := none } := by
    rw [hghost]
    exact s.ctxOf_setCtxOf_self ..
  rw [State.lhExpire_due hf h]
  refine ⟨State.aborted_of ?_ ?_, ?_, ?_⟩
  · refine hspares.mem.trans ?_
    rw [hghost]
    rfl
  · refine ((s.toGhost k fw).ctxOf_abortCtx k fw 10).trans ?_
    rw [hctx]
    rfl
  · rw [State.field_blackbox Die.towq fun _ _ _ _ _ _ _ => rfl]
    refine (hspares.towq _).trans ?_
    rw [hghost]
    exact (State.spares_ghost _ _ k _).towq _
  · rw [State.field_blackbox Die.ghosts fun _ _ _ _ _ _ _ => rfl]
    refine hspares.ghosts _ _ ?_
    show (k, fw, f, some tag) ∈ ((s.toGhost k fw).dieAt (dieKey k)).ghosts
    rw [hghost, State.dieAt_updDie_self]
    exact List.mem_append_right _ (List.mem_singleton_self _)

variable (htag : tag < 2 ^ 16) (hcode : f.code < 2 ^ 7)
include htag hcode

/-- The answer ABORT_PHASE to a queued token. -/
theorem State.answerQueued_abort (v : DWord) : s.Aborted (s.answerQueued (dieKey k) tag k fw f 4 v) k fw := by
  have hkind := (answerWord_fields k fw (tag := tag) hcode (by decide : 4 < 8)).2.2.2.2
  exact State.applyRepair_abort _ (State.named_answerWord hf htag hcode (by decide)) (.inl hkind)

theorem State.plFail_answerQueued (v : DWord) :
    ((s.answerQueued (dieKey k) tag k fw f 3 v).cluster k).plFail = (s.cluster k).plFail := by
  have hkind := (answerWord_fields k fw (tag := tag) hcode (by decide : 3 < 8)).2.2.2.2
  exact State.plFail_applyRepair _ (State.named_answerWord hf htag hcode (by decide)) hkind

/-- The answer RETRY or RELOAD to a queued token. -/
theorem State.answerQueued_retry {kind : Nat} (hk : kind = 0 ∨ kind = 3) (v : DWord) :
    s.Answered (s.answerQueued (dieKey k) tag k fw f kind v) k fw f (s.ctxOf k fw).entry := by
  have hlt : kind < 8 := by omega
  have hkind := (answerWord_fields k fw (tag := tag) hcode hlt).2.2.2.2
  exact State.applyRepair_retry _ (State.named_answerWord hf htag hcode hlt) hf (hk.imp hkind.trans hkind.trans)

end

/-! ### The shipped loader (15 R304) -/

/-- PLSTAT after an install that succeeds. -/
def Cluster.saysLoaded (out : List (Fin 16)) (rep : Bool) (c : Cluster) : Cluster :=
  { c with plFail := false, plRepl := rep, plEvict := BitVec.ofNat 16 (out.foldl (fun m n => m ||| 2 ^ n.val) 0) }

section
variable {s : State} {k : Nat} {n : Fin 16}

theorem State.loaderGo_unnamed (h : (s.cluster k).cotAddr n = none) : s.loaderGo k n = (s, false) := by
  unfold State.loaderGo
  simp only [h]

theorem State.loaderGo_loads {addr : Nat} {u : State} {out : List (Fin 16)} {rep : Bool} (h : (s.cluster k).cotAddr n = some addr)
    (hplane : ∀ x ∈ (s.ctxOf k false).plane, x.n ≠ n)
    (hl : s.loadGraph k false addr ((s.sparedXops k).filter (fun m => m != n)) = some (u, out, rep)) :
    s.loaderGo k n = (u.updCluster k (Cluster.saysLoaded out rep), true) := by
  have hany : (s.ctxOf k false).plane.any (fun x => x.n == n) = false := by
    rw [List.any_eq_false]
    exact fun x hx => by simpa using hplane x hx
  unfold State.loaderGo
  simp only [h, hany, Bool.false_eq_true, if_false, State.plInstall, hl]
  rfl

end

/-- Loading a graph changes the plane alone. -/
theorem State.loadGraph_some {s u : State} {k addr : Nat} {keep out : List (Fin 16)} {rep : Bool}
    (h : s.loadGraph k false addr keep = some (u, out, rep)) :
    u = s.setCtxOf k false { s.ctxOf k false with plane := (u.ctxOf k false).plane } := by
  unfold State.loadGraph at h
  split at h
  · exact absurd h (by simp)
  · split_ifs at h
    obtain ⟨r, -, hr⟩ := Option.map_eq_some_iff.mp h
    have hu : u = s.setCtxOf k false { s.ctxOf k false with plane := r.1 } := by
      injection hr with hr
      exact hr.symm
    rw [hu, State.ctxOf_setCtxOf_self]

/-! ### Soft errors (24 R398, R400; 09 R199) -/

theorem execStateErrDetect_none {s : State} {k : Nat} {fw : Bool} {info : Word} (h : info.toNat < 1 ∨ 6 < info.toNat) :
    exec (.stateErrDetect k fw info) s = .next s := congrArg _ (if_pos h)

/-- The context whose structure `info` is. -/
theorem ownerFw_eq (info : Word) (fw : Bool) : ownerFw info.toNat fw = (decide (info = 4) || (decide (info = 6) && fw)) := by
  have h4 : info.toNat = 4 ↔ info = 4 := ⟨fun h => BitVec.eq_of_toNat_eq h, fun h => h ▸ rfl⟩
  have h6 : info.toNat = 6 ↔ info = 6 := ⟨fun h => BitVec.eq_of_toNat_eq h, fun h => h ▸ rfl⟩
  simp only [ownerFw, h4, h6]
  by_cases h : info = 4 <;> by_cases h' : info = 6 <;> simp [h, h']

/-- Structure `n` of context `o` of cluster `k` is lost; loop state that is lost holds no loop. -/
def State.loseStructure (s : State) (k n : Nat) (o : Bool) : State :=
  let u := s.updCluster k (fun c => { c with bad := c.bad ++ [n + (if o then 256 else 0)] })
  if n = 6 then u.setCtxOf k o { u.ctxOf k o with loops := [] } else u

theorem State.loseStructure_spec (s : State) (k n : Nat) (o : Bool) :
    (s.loseStructure k n o).mem = s.mem ∧ (s.loseStructure k n o).md = s.md ∧ (s.loseStructure k n o).now = s.now ∧
      ((s.loseStructure k n o).cluster k).bad = (s.cluster k).bad ++ [n + (if o then 256 else 0)] ∧
      (s.loseStructure k n o).ctxOf k o = { s.ctxOf k o with loops := if n = 6 then [] else (s.ctxOf k o).loops } := by
  let u := s.updCluster k (fun c => { c with bad := c.bad ++ [n + (if o then 256 else 0)] })
  have hctx : u.ctxOf k o = s.ctxOf k o := State.field_updCluster (fun c => c.ctx o) s k k fun c => by cases o <;> rfl
  have hbad : (u.cluster k).bad = (s.cluster k).bad ++ [n + (if o then 256 else 0)] := congrArg Cluster.bad (s.cluster_updCluster_self ..)
  by_cases h : n = 6
  · have hu : s.loseStructure k n o = u.setCtxOf k o { u.ctxOf k o with loops := [] } := if_pos h
    rw [hu, State.cluster_setCtxOf_self, Cluster.setCtx_bad, State.ctxOf_setCtxOf_self, hctx, if_pos h]
    exact ⟨rfl, rfl, rfl, hbad, rfl⟩
  · have hu : s.loseStructure k n o = u := if_neg h
    rw [hu, hctx, if_neg h]
    exact ⟨rfl, rfl, rfl, hbad, rfl⟩

/-- A lost structure is noted, and STATE_ERR of its context recorded. -/
theorem exec_stateErrDetect {s : State} {k : Nat} {fw : Bool} {info : Word} (h : 1 ≤ info.toNat ∧ info.toNat ≤ 6) :
    let o := ownerFw info.toNat fw
    ∃ t, exec (.stateErrDetect k fw info) s = .next t ∧ t.mem = s.mem ∧
      (t.cluster k).bad = (s.cluster k).bad ++ [info.toNat + (if o then 256 else 0)] ∧
      t.ctxOf k o = ({ s.ctxOf k o with loops := if info.toNat = 6 then [] else (s.ctxOf k o).loops } : Ctx).recordFault
        ⟨0x73, info, 0, 0, true, false, (s.ctxOf k o).pc, 0, s.strokeOf (modOf k), false⟩ := by
  intro o
  obtain ⟨hmem, hmd, hnow, hbad, hctx⟩ := s.loseStructure_spec k info.toNat o
  have hstroke : (s.loseStructure k info.toNat o).strokeOf (modOf k) = s.strokeOf (modOf k) := by
    rw [State.strokeOf, State.strokeOf, State.gtsOf, State.gtsOf, State.module, State.module, hmd, hnow]
  refine ⟨(s.loseStructure k info.toNat o).asyncFault k o 0x73 info, congrArg _ (if_neg (by omega)), hmem, ?_, ?_⟩
  · rw [State.asyncFault, State.cluster_setCtxOf_self, Cluster.setCtx_bad, hbad]
  · rw [State.asyncFault, State.ctxOf_setCtxOf_self, hctx, hstroke]

/-- The engine with the mark of an accumulator element set. -/
def Mx.markElem (x : Mx) (a : Acc) (row col : Nat) : Mx :=
  { x with tiles := kset x.tiles (tkey a row col) ⟨(x.elem a row col).val, true⟩ }

theorem Mx.elem_markElem (x : Mx) (a : Acc) (row col : Nat) : (x.markElem a row col).elem a row col = ⟨(x.elem a row col).val, true⟩ :=
  kget_kset_self ..

section
variable (s : State) (k : Nat) (fw : Bool)

theorem exec_registerSoftError_scalar (r : SReg) (el : Nat) : exec (.registerSoftError k fw r.val el) s =
    .next ((s.setCtxOf k fw ((s.ctxOf k fw).wrS r ⟨((s.ctxOf k fw).rdS r).val, true⟩)).blackbox (dieKey k) 0x05 k 0 0) := by
  have hr : (Fin.ofNat 32 r.val : SReg) = r := Fin.ext (Nat.mod_eq_of_lt r.isLt)
  refine congrArg _ ((if_neg (by omega)).trans ((if_neg (by omega)).trans ?_))
  dsimp only
  rw [if_pos r.isLt, hr]

theorem exec_registerSoftError_vector (v : VReg) (lane : Fin 16) : exec (.registerSoftError k fw (32 + v.val) lane.val) s =
    .next ((s.setCtxOf k fw ((s.ctxOf k fw).wrV v (1 <<< lane.val) (((s.ctxOf k fw).rdV v).map (fun l => ⟨l.val, true⟩)))).blackbox
      (dieKey k) 0x05 k 0 0) := by
  have hr : (Fin.ofNat 64 (32 + v.val - 32) : VReg) = v := Fin.ext (by simp)
  have hlane : lane.val % 16 = lane.val := Nat.mod_eq_of_lt lane.isLt
  refine congrArg _ ((if_neg (by omega)).trans ((if_neg (by omega)).trans ?_))
  dsimp only
  rw [if_neg (by omega), if_pos (by omega), hr, hlane]

theorem exec_registerSoftError_element (a : Acc) (row col : Fin 32) :
    exec (.registerSoftError k fw (96 + a.val) (32 * row.val + col.val)) s = 
      .next ((s.updCluster k (fun x => { x with mx := x.mx.markElem a row.val col.val })).blackbox (dieKey k) 0x05 k 0 0) := by
  have ha := a.isLt
  have hkey : 1024 * ((96 + a.val - 96) % 8) + (32 * row.val + col.val) % 1024 = tkey a row.val col.val := by
    unfold tkey
    omega
  refine congrArg _ ((if_neg (by omega)).trans ((if_neg (by omega)).trans ?_))
  dsimp only
  rw [if_neg (by omega), if_neg (by omega), hkey]
  rfl

end

/-- A lane's mark in a vector register. -/
theorem Ctx.rdV_markLane (x : Ctx) (r : VReg) (lane l : Fin 16) :
    ((x.wrV r (1 <<< lane.val) ((x.rdV r).map (fun l => ⟨l.val, true⟩))).rdV r)[l] =
      ⟨(x.rdV r)[l].val, (x.rdV r)[l].poison || decide (l = lane)⟩ := by
  have hbit : (1 <<< lane.val : Pred).getLsb l = true ↔ l = lane := by
    revert lane l
    decide
  rw [Ctx.rdV_wrV]
  by_cases h : l = lane
  · rw [if_pos ⟨rfl, hbit.mpr h⟩, decide_eq_true h, Bool.or_true]
    simp
  · rw [if_neg fun hm => h (hbit.mp hm.2), decide_eq_false h, Bool.or_false]

/-- A count of 16 bits at bit `b` of a word goes up by one, and stops at 0xFFFF. -/
def countUp (x : DWord) (b : Nat) : DWord := if fld x.toNat b 16 = 0xFFFF then x else x + BitVec.ofNat 64 (2 ^ b)

theorem toNat_countUp (x : DWord) {b : Nat} (hb : b = 32 ∨ b = 48) :
    (x.toNat / 2 ^ b % 2 ^ 16 = 0xFFFF ∧ (countUp x b).toNat = x.toNat) ∨
      (x.toNat / 2 ^ b % 2 ^ 16 ≠ 0xFFFF ∧ (countUp x b).toNat = x.toNat + 2 ^ b) := by
  have hx := x.isLt
  by_cases h : x.toNat / 2 ^ b % 2 ^ 16 = 0xFFFF
  · exact .inl ⟨h, congrArg BitVec.toNat (if_pos h)⟩
  · refine .inr ⟨h, (congrArg BitVec.toNat (if_neg h)).trans ?_⟩
    rw [BitVec.toNat_add, BitVec.toNat_ofNat]
    rcases hb with rfl | rfl <;> omega

theorem countUp_ce (x : DWord) : ((countUp x 48).extractLsb' 48 16).toNat = min 0xFFFF ((x.extractLsb' 48 16).toNat + 1) ∧
    ((countUp x 48).extractLsb' 32 16).toNat = min 0xFFFF ((x.extractLsb' 32 16).toNat + 0) ∧
    (countUp x 48).extractLsb' 0 32 = x.extractLsb' 0 32 := by
  have hx := x.isLt
  simp only [toNat_extractLsb'_eq_fld, ← BitVec.toNat_inj, fld, pow_zero, Nat.div_one]
  rcases toNat_countUp x (b := 48) (.inr rfl) with ⟨h, hc⟩ | ⟨h, hc⟩ <;> rw [hc] <;> refine ⟨?_, ?_, ?_⟩ <;> omega

theorem countUp_ue (x : DWord) : ((countUp x 32).extractLsb' 48 16).toNat = min 0xFFFF ((x.extractLsb' 48 16).toNat + 0) ∧
    ((countUp x 32).extractLsb' 32 16).toNat = min 0xFFFF ((x.extractLsb' 32 16).toNat + 1) ∧
    (countUp x 32).extractLsb' 0 32 = x.extractLsb' 0 32 := by
  have hx := x.isLt
  simp only [toNat_extractLsb'_eq_fld, ← BitVec.toNat_inj, fld, pow_zero, Nat.div_one]
  rcases toNat_countUp x (b := 32) (.inl rfl) with ⟨h, hc⟩ | ⟨h, hc⟩ <;> rw [hc] <;> refine ⟨?_, ?_, ?_⟩ <;> omega

section
variable {s : State} {k : Nat} {word : Fin (2 ^ 19)} (lost : Bool)

theorem State.wordError_marked (h : k * 2 ^ 19 + word.val ∈ s.pmem) : s.wordError k word.val lost = s := by
  refine if_pos ?_
  rw [Nat.mod_eq_of_lt word.isLt]
  exact List.contains_iff_mem.mpr h

/-- An error of a word that is not marked counts in SESTAT, and marks the word where it is lost. -/
theorem State.wordError_counts (h : k * 2 ^ 19 + word.val ∉ s.pmem) :
    let t := s.wordError k word.val lost
    let n := word.val / 2 ^ 14
    t.mem = s.mem ∧ (∀ fw, t.ctxOf k fw = s.ctxOf k fw) ∧
      (∀ z, z ∈ t.pmem ↔ z ∈ s.pmem ∨ (lost = true ∧ z = k * 2 ^ 19 + word.val)) ∧
      kget 0 (t.cluster k).sestat n = countUp (kget 0 (s.cluster k).sestat n) (if lost then 32 else 48) := by
  intro t n
  have hword : word.val % 2 ^ 19 = word.val := Nat.mod_eq_of_lt word.isLt
  have hfree : ¬ s.pmem.contains (k * 2 ^ 19 + word.val) = true := fun hc => h (List.contains_iff_mem.mp hc)
  let new := countUp (kget 0 (s.cluster k).sestat n) (if lost then 32 else 48)
  let u := s.updCluster k (fun c => { c with sestat := kset c.sestat n new })
  have hctx : ∀ fw, u.ctxOf k fw = s.ctxOf k fw := fun fw => State.field_updCluster (fun c => c.ctx fw) s k k fun c => by cases fw <;> rfl
  have hstat : kget 0 (u.cluster k).sestat n = new := by
    rw [State.cluster_updCluster_self, kget_kset_self]
  have ht : t = if lost then ({ u with pmem := setIns u.pmem (k * 2 ^ 19 + word.val) } : State).blackbox (dieKey k) 0x05 k
      (BitVec.ofNat 64 (8 * (k * 2 ^ 19 + word.val))) new else u := by
    show s.wordError k word.val lost = _
    unfold State.wordError
    rw [hword]
    exact if_neg hfree
  cases lost with
  | false =>
    rw [ht, if_neg Bool.false_ne_true]
    exact ⟨rfl, hctx, fun z => by simp [u, State.updCluster, State.setCluster], hstat⟩
  | true =>
    rw [ht, if_pos rfl]
    refine ⟨rfl, hctx, fun z => ?_, hstat⟩
    show z ∈ setIns s.pmem _ ↔ _
    rw [mem_setIns]
    simp [or_comm]

end

/-! ### REPAIR at issue -/

section
variable {s : State} (a b : SReg) (hfw : s.curFw = true) (hl : isLockhouse s.cur = true)
include hfw hl

/-- REPAIR of lockhouse firmware: its operands' marks, the reserved bits of its word, what it waits for. -/
theorem exec_repair : exec (.repair a b) s = .next (
    let x := s.ctx.rdS a
    let y := s.ctx.rdS b
    if x.poison = true ∨ (y.poison = true ∧ (x.val.extractLsb' 8 3).toNat ≠ 2) then s.poisonUse
    else if ¬ (x.val.extractLsb' 44 4 = 0 ∧ x.val.extractLsb' 11 13 = 0 ∧ x.val.getLsbD 7 = false ∧ (x.val.extractLsb' 8 3).toNat < 6) then
      s.illegalField
    else if s.repairDeps s.cur = [] then s.applyRepair (dieKey s.cur) x.val y
    else s.updCtx (fun c => { c with post := c.post ++ [.repair x.val y (s.repairDeps s.cur) s.slot] })) := by
  have honly : s.lockhouseOnly = none := by
    simp [State.lockhouseOnly, hfw, hl]
  have hlegal (v : DWord) : (fld v.toNat 44 4 ≠ 0 ∨ fld v.toNat 11 13 ≠ 0 ∨ bitAt v.toNat 7 = true ∨ fld v.toNat 8 3 ≥ 6) ↔
      ¬ (v.extractLsb' 44 4 = 0 ∧ v.extractLsb' 11 13 = 0 ∧ v.getLsbD 7 = false ∧ (v.extractLsb' 8 3).toNat < 6) := by
    rw [bitAt_toNat, ← toNat_extractLsb'_eq_fld, ← toNat_extractLsb'_eq_fld, ← toNat_extractLsb'_eq_fld, not_and_or, not_and_or, not_and_or,
      Bool.not_eq_false, not_lt, ← BitVec.toNat_inj, ← BitVec.toNat_inj]
    rfl
  show execRepair a b s = _
  simp only [execRepair, honly, hlegal, List.isEmpty_iff]
  simp only [toNat_extractLsb'_eq_fld]

end

/-! ### The statement -/

/-- Settles O49, clause by clause. -/
theorem repairs : Obligations.Repairs := by
  intro s a b w v g k tag fw f st n addr el u out rep info r vr lane acc row col word reg x y kind legal c t answered aborted here
  have hkind : kind w = fld w.toNat 8 3 := toNat_extractLsb'_eq_fld w 8 3
  have hunmarked (hx : x.poison = false) (hy : y.poison = false ∨ kind x.val = 2) :
      ¬ (x.poison = true ∨ (y.poison = true ∧ (x.val.extractLsb' 8 3).toNat ≠ 2)) :=
    fun h => h.elim (ne_true_of_eq_false hx) fun h => hy.elim (ne_true_of_eq_false · h.1) h.2
  refine ⟨fun hfw hl => ⟨fun hp => ?_, fun hx hy => ⟨fun hbad => ?_, fun hok => ⟨fun hids => ?_, fun hids => ?_⟩⟩⟩, fun hn => ?unnamed,
    fun hn hf => ?named, fun hhere => ?tagged, fun hnone => ?untagged, fun hg hfw hcode => ?loaders, fun hg hother => ?ghost,
    execStateErrDetect_none, fun hinfo => ?stateErr, fun hr => ?scalar, ?vector, ?element, fun hreg => ?word⟩
  · rw [exec_repair a b hfw hl]
    exact congrArg _ (if_pos hp)
  · rw [exec_repair a b hfw hl]
    refine congrArg _ ((if_neg ?_).trans (if_pos hbad))
    exact hunmarked hx hy
  · rw [exec_repair a b hfw hl]
    exact congrArg _ ((if_neg (hunmarked hx hy)).trans ((if_neg (not_not.mpr hok)).trans (if_pos hids)))
  · rw [exec_repair a b hfw hl]
    exact congrArg _ ((if_neg (hunmarked hx hy)).trans ((if_neg (not_not.mpr hok)).trans (if_neg hids)))
  case unnamed =>
    have ht : t = s.blackbox g 0x06 (fld w.toNat 32 10) w 0 := State.applyRepair_unnamed hn v
    rw [ht]
    exact ⟨rfl, fun _ _ => rfl⟩
  case named =>
    refine ⟨fun hk => State.applyRepair_retry v hn hf (hkind ▸ hk), fun hk hhdr => State.applyRepair_skip v hn hf (hkind ▸ hk) hhdr,
      fun hk => State.applyRepair_abort v hn (hkind ▸ hk), fun hk => State.applyRepair_fences v hn (hkind ▸ hk), fun hk => ?_⟩
    obtain ⟨u, hu⟩ := s.applyKind_some k fw f v (hkind ▸ hk)
    rw [toNat_extractLsb'_eq_fld]
    exact State.towq_applyRepair hn hu
  case tagged =>
    obtain ⟨htagged, htag, hf, hdie, hcode⟩ := hhere
    subst hdie
    have hserved (h68 : f.code = 0x68) (hprog : fw = false) (hops : s.coreOps k = []) : ¬ (forLoader fw f = false ∨ s.coreOps k ≠ []) :=
      fun h => h.elim (ne_false_of_eq_true ((forLoader_iff fw f).mpr ⟨hprog, h68⟩)) fun h => h hops
    have hpolicy (h : f.code ≠ 0x68 ∨ fw = true) : ¬ forLoader fw f = true := fun hl =>
      h.elim (fun h => h ((forLoader_iff fw f).mp hl).2) (ne_true_of_eq_false ((forLoader_iff fw f).mp hl).1)
    refine ⟨fun hage => ?_, fun hage => ⟨_, exec_lhTimeout_tagged htagged, State.lhExpire_spec hf hage⟩, fun hwait hg => ?_,
      fun h68 hprog hg hops => ⟨fun hno => ?_, fun haddr hplane hload => ?_⟩, fun hother hg => ⟨fun hpol => ?_, fun hpol => ?_⟩⟩
    · rw [exec_lhTimeout_tagged htagged, State.lhExpire_waits hf hage]
    · rw [exec_lockhouseLoader_tagged htagged hg]
      refine congrArg _ (if_pos ?_)
      rw [← Bool.not_eq_true, forLoader_iff, not_and_or, Bool.not_eq_false]
      exact or_assoc.mpr hwait
    · refine ⟨_, ?_, State.answerQueued_abort hf htag hcode 9⟩
      rw [exec_lockhouseLoader_tagged htagged hg, if_neg (hserved h68 hprog hops), State.loaderGo_unnamed hno]
      simp only [Bool.false_eq_true, if_false]
    · subst hprog
      let p := u.updCluster k (Cluster.saysLoaded out rep)
      have hu := State.loadGraph_some hload
      have hctx : p.ctxOf k false = { c with plane := (u.ctxOf k false).plane } := by
        refine (State.field_updCluster (f := Cluster.saysLoaded out rep) (fun c => c.ctx false) u k k fun _ => rfl).trans ?_
        conv_lhs => rw [hu]
        exact s.ctxOf_setCtxOf_self ..
      have hpf : (p.ctxOf k false).fault = some (f, .queued tag) := by rw [hctx]; exact hf
      obtain ⟨hmem, hanswer⟩ := State.answerQueued_retry hpf htag hcode (.inr rfl) 0
      refine ⟨p.answerQueued (dieKey k) tag k false f 3 0, ?_, hmem.trans ?_, ?_, ?_, ?_⟩
      · rw [exec_lockhouseLoader_tagged htagged hg, if_neg (hserved h68 rfl hops), State.loaderGo_loads haddr hplane hload]
        simp only [if_true]
        rfl
      · show u.mem = s.mem
        rw [hu]
        rfl
      · rw [hanswer, hctx]
      · rw [hanswer]
      · rw [State.plFail_answerQueued hpf htag hcode]
        exact congrArg Cluster.plFail (u.cluster_updCluster_self k (Cluster.saysLoaded out rep))
    · refine ⟨_, ?_, State.answerQueued_abort hf htag hcode 10⟩
      rw [exec_lockhousePolicy_tagged htagged hg, if_neg (hpolicy hother), hpol, if_pos (le_refl 4)]
    · refine ⟨_, ?_, State.answerQueued_retry hf htag hcode (.inl rfl) 0⟩
      rw [exec_lockhousePolicy_tagged htagged hg, if_neg (hpolicy hother), hpol, if_neg (by decide)]
  case untagged =>
    exact ⟨exec_lhTimeout_untagged hnone, fun hg => ⟨exec_lockhouseLoader_untagged hnone hg, exec_lockhousePolicy_untagged hnone hg⟩⟩
  case loaders =>
    rw [exec_lockhousePolicy_ghost hg]
    exact congrArg _ (if_pos ((forLoader_iff fw f).mpr ⟨hfw, hcode⟩))
  case ghost =>
    refine ⟨s.answerGhost g tag (k, fw, f, some tag) (s.policy g f.code), ?_, rfl, fun _ _ => rfl, ?_⟩
    · rw [exec_lockhousePolicy_ghost hg]
      exact congrArg _ (if_neg fun h => hother ((forLoader_iff fw f).mp h))
    · rw [State.answerGhost, State.field_blackbox Die.towq fun _ _ _ _ _ _ _ => rfl, State.dieAt_updDie_self]
  case stateErr =>
    have h6 : info.toNat = 6 ↔ info = 6 := ⟨fun h => BitVec.eq_of_toNat_eq h, fun h => h ▸ rfl⟩
    have h := exec_stateErrDetect (s := s) (k := k) (fw := fw) hinfo
    simpa only [ownerFw_eq, h6] using h
  case scalar =>
    exact ⟨_, exec_registerSoftError_scalar s k fw r el, rfl, s.ctxOf_setCtxOf_self ..⟩
  case vector =>
    refine ⟨_, exec_registerSoftError_vector s k fw vr lane, rfl,
      (congrArg Ctx.s (s.ctxOf_setCtxOf_self ..)).trans rfl, fun l => ?_⟩
    refine (congrArg (fun x : Ctx => (x.rdV vr)[l]) (s.ctxOf_setCtxOf_self ..)).trans ?_
    exact Ctx.rdV_markLane ..
  case element =>
    refine ⟨_, exec_registerSoftError_element s k fw acc row col, rfl, ?_⟩
    have hcl : ((s.updCluster k (fun x => { x with mx := x.mx.markElem acc row.val col.val })).cluster k).mx =
        (s.cluster k).mx.markElem acc row.val col.val := congrArg Cluster.mx (s.cluster_updCluster_self ..)
    exact (congrArg (Mx.elem · acc row.val col.val) hcl).trans (Mx.elem_markElem ..)
  case word =>
    have hexec : exec (.registerSoftError k fw reg word.val) s = .next (s.wordError k word.val (decide (reg = 105))) := by
      rcases hreg with rfl | rfl <;> rfl
    refine ⟨fun hmarked => ?_, fun hfree => ?_⟩
    · rw [hexec, State.wordError_marked _ hmarked]
    · obtain ⟨hmem, hctx, hpmem, hstat⟩ := State.wordError_counts (decide (reg = 105)) hfree
      refine ⟨_, hexec, hmem, hctx fw, hpmem, ?_⟩
      dsimp only
      rw [hstat]
      rcases hreg with rfl | rfl
      · exact countUp_ce _
      · exact countUp_ue _

end Sys2Proof.Machine
end

section
/-! SUPPORT. Host ports, HSEM, management, attestation, boot, joining, reset and supplies (chapter 26; 09 R182; 19 R353; 24 R401). -/

namespace Sys2Proof.Machine

/-! ### Reset and supplies (09 R182; 24 R401) -/

theorem memGet_filter (p : Nat → Bool) (m : List Host.Cell) (a : Nat) :
    memGet (m.filter (fun x => p x.1)) a = if p a then memGet m a else memDefault := by
  induction m with
  | nil => exact (ite_self _).symm
  | cons x r ih =>
    rw [List.filter_cons, apply_ite (memGet · a), memGet, memGet, ih]
    by_cases hx : x.1 = a
    · subst hx
      cases p x.1 <;> simp
    · simp only [hx, if_false, ite_self]

theorem kget_filter {α : Type} (d : α) (p : Nat → Bool) (m : KMap α) (k : Nat) :
    kget d (m.filter (fun x => p x.1)) k = if p k then kget d m k else d := by
  induction m with
  | nil => exact (ite_self _).symm
  | cons x r ih =>
    rw [List.filter_cons, apply_ite (kget d · k), kget, kget, ih]
    by_cases hx : x.1 = k
    · subst hx
      cases p x.1 <;> simp
    · simp only [hx, if_false, ite_self]

/-- Entries changed where their key satisfies `p`, by a change that the default bears. -/
theorem kget_map_entries {α : Type} (d : α) (p : Nat → Prop) [DecidablePred p] (f : α → α) (hd : f d = d) (m : KMap α) (k : Nat) :
    kget d (m.map (fun x => if p x.1 then (x.1, f x.2) else x)) k = if p k then f (kget d m k) else kget d m k := by
  induction m with
  | nil => exact (ite_self d).symm.trans (if_congr Iff.rfl hd.symm rfl)
  | cons x r ih =>
    by_cases hx : x.1 = k
    · subst hx
      by_cases hp : p x.1 <;> simp only [List.map_cons, hp, if_true, if_false, kget]
    · by_cases hp : p x.1 <;> simp only [List.map_cons, hp, if_true, if_false, kget, hx, ih]

/-- A die after module reset: the black box keeps its contents. -/
def Die.resetKept (d : Die) : Die :=
  { Die.reset with bb := d.bb, bbHead := d.bbHead, bbTail := d.bbTail, bbOvf := d.bbOvf, bbCount := d.bbCount }

section
variable (s : State) (m : Nat) (q : Power)

theorem State.byteAt_resetModule (a : Nat) : (s.resetModule m q).byteAt a = if a / 2 ^ 34 = m then 0 else s.byteAt a := by
  have hm : modOf (a / 2 ^ 22) = a / 2 ^ 34 := Nat.div_div_eq_div_mul a (2 ^ 22) 4096
  refine (memGet_filter (fun a => modOf (a / 2 ^ 22) != m) s.mem a).trans ?_
  rw [hm]
  by_cases h : a / 2 ^ 34 = m
  · rw [if_pos h, if_neg (by rw [h, bne_self_eq_false]; decide)]
    rfl
  · rw [if_neg h, if_pos (bne_iff_ne.mpr h)]
    rfl

theorem State.mem_pmem_resetModule (a : Nat) : a ∈ (s.resetModule m q).pmem ↔ a ∈ s.pmem ∧ a / 2 ^ 31 ≠ m := by
  have hm : modOf (8 * a / 2 ^ 22) = a / 2 ^ 31 := by
    rw [modOf, Nat.div_div_eq_div_mul]
    exact Nat.mul_div_mul_left a (2 ^ 31) (by decide : 0 < 8)
  refine List.mem_filter.trans ?_
  rw [bne_iff_ne, hm]

theorem State.module_resetModule : (s.resetModule m q).module m =
    { Module.reset with record := (s.module m).record, counter := (s.module m).counter, power := q } := kget_kset_self ..

theorem State.cluster_resetModule (k : Nat) :
    (s.resetModule m q).cluster k = if modOf k = m then Cluster.reset else s.cluster k := by
  refine (kget_filter Cluster.reset (fun k => modOf k != m) s.cl k).trans ?_
  by_cases h : modOf k = m
  · rw [if_pos h, if_neg (by rw [h, bne_self_eq_false]; decide)]
  · rw [if_neg h, if_pos (bne_iff_ne.mpr h)]
    rfl

theorem State.dieAt_resetModule {g : Nat} (h : g / 4 = m) : (s.resetModule m q).dieAt g = (s.dieAt g).resetKept :=
  (kget_map_entries Die.reset (fun g => g / 4 = m) Die.resetKept rfl s.die g).trans (if_pos h)

/-- Without the SRAM supply the rings are lost too. -/
theorem State.dieAt_withoutDies (t : State) {g : Nat} (h : g / 4 = m) :
    ({ t with die := t.die.filter (fun x => x.1 / 4 != m) } : State).dieAt g = Die.reset :=
  (kget_filter Die.reset (fun g => g / 4 != m) t.die g).trans (if_neg (by rw [h, bne_self_eq_false]; decide))

end

/-! ### Attestation (26 R428) -/

theorem exec_attestationRequest {s : State} {m : Nat} (nonce : Nat) (h : (s.module m).power = .on) :
    exec (.attestationRequest m nonce) s = .next (
      if (s.module m).counter ≥ 2 ^ 20 - 1 then { s with outputs := s.outputs ++ [.exhausted m] }
      else s.updModule m (fun d => { d with counter := d.counter + 1, attest := d.attest ++ [(d.counter + 1, nonce % 2 ^ 256)] })) :=
  congrArg _ (if_neg (not_not.mpr h))

/-- The signature of a report of module `m` over its fields, under leaf `i`. -/
def Module.signature (d : Module) (m i nonce : Nat) : List Byte :=
  Config.sign d.record.seed i (toBytes 32 nonce ++ shake256 d.image ++ shake256 (d.record.body ++ d.record.sig) ++ toBytes 8 m ++
    toBytes 8 d.gts ++ toBytes 8 d.active)

/-- The oldest request is answered. -/
theorem State.attestSign_cons {s : State} {m n nonce : Nat} {r : List (Nat × Nat)} (h : (s.module m).attest = (n, nonce) :: r) :
    s.attestSign m = { s.updModule m (fun d => { d with attest := r }) with
      outputs := s.outputs ++ [.report nonce (shake256 (s.module m).image) (shake256 ((s.module m).record.body ++ (s.module m).record.sig))
        m (s.module m).gts (s.module m).active n ((s.module m).signature m n nonce)] } := by
  unfold State.attestSign
  simp only [h]
  rfl

/-! ### The count of a host port (19 R353; 26 R417, R418) -/

theorem barFits_iff (bar2 : Bool) (off n max : Nat) : barFits ⟨bar2, off⟩ n max = true ↔
    1 ≤ n ∧ n ≤ max ∧ off + n ≤ (if bar2 then 2 ^ 35 else 2 ^ 34) ∧ off % 4096 + n ≤ 4096 := by
  simp only [barFits, Bool.and_eq_true, decide_eq_true_eq, and_assoc]
  rfl

section
variable {s : State} {m port pa n : Nat} {i : Instr} {f : State → State}

theorem State.hostDo_unserved (h : ¬ (port < 2 ∧ (s.module m).power = .on)) : s.hostDo m port pa n i f = s :=
  if_pos ((not_and_or.mp h).imp Nat.not_lt.mp id)

theorem State.hostDo_held (h : port < 2 ∧ (s.module m).power = .on) (hh : s.hostHeld m port = true ∨ s.tilesBusy pa n = true) :
    s.hostDo m port pa n i f = s.holdInput i :=
  (if_neg (not_or.mpr ⟨Nat.not_le.mpr h.1, not_not.mpr h.2⟩)).trans (if_pos hh)

theorem State.hostDo_counted (h : port < 2 ∧ (s.module m).power = .on)
    (hh : ¬ (s.hostHeld m port = true ∨ s.tilesBusy pa n = true)) : s.hostDo m port pa n i f = f (s.hostCount m port) :=
  (if_neg (not_or.mpr ⟨Nat.not_le.mpr h.1, not_not.mpr h.2⟩)).trans (if_neg hh)

theorem State.module_hostCount : (s.hostCount m port).module m = if port = 0 then
    { s.module m with hpUsedA := (s.module m).hpUsedA + 1 } else { s.module m with hpUsedB := (s.module m).hpUsedB + 1 } :=
  State.module_updModule_self ..

/-- What a count leaves of a module is what no port's count stands for. -/
theorem State.field_hostCount {α : Type} (g : Module → α)
    (hg : ∀ d x y, g { d with hpUsedA := x } = g d ∧ g { d with hpUsedB := y } = g d) (j : Nat) :
    g ((s.hostCount m port).module j) = g (s.module j) := by
  by_cases hj : j = m
  · subst hj
    rw [State.module_hostCount, apply_ite g]
    split
    · exact (hg _ _ 0).1
    · exact (hg _ 0 _).2
  · exact congrArg g (State.module_updModule_of_ne s _ hj)

theorem State.accOk_hostCount (a pa : Nat) (w : Bool) : (s.hostCount m port).accOk a pa w = s.accOk a pa w := by
  have hq : ∀ j, ((s.hostCount m port).module j).qacc = (s.module j).qacc :=
    State.field_hostCount Module.qacc (fun _ _ _ => ⟨rfl, rfl⟩)
  rw [State.accOk, State.accOk, State.accTable, State.accTable, hq]
  rfl

theorem State.strokeOf_hostCount (j : Nat) : (s.hostCount m port).strokeOf j = s.strokeOf j :=
  congrArg (· / 4096) (State.field_hostCount Module.gts (fun _ _ _ => ⟨rfl, rfl⟩) j)

end

/-! ### A host's accesses (26 R417, R418) -/

theorem mem_foldl_setIns (ws l : List Nat) (x : Nat) : x ∈ ws.foldl setIns l ↔ x ∈ ws ∨ x ∈ l := by
  induction ws generalizing l with
  | nil => exact (or_iff_right List.not_mem_nil).symm
  | cons w ws ih => rw [List.foldl_cons, ih, mem_setIns, List.mem_cons, or_left_comm, or_assoc]

/-- The words that `n` bytes from address `a` lie in. -/
def wordSpan (a n : Nat) : List Nat := (List.range ((a + n - 1) / 8 - a / 8 + 1)).map (fun i => a / 8 + i)

theorem mem_wordSpan {a n w : Nat} (hn : 1 ≤ n) : w ∈ wordSpan a n ↔ a / 8 ≤ w ∧ w ≤ (a + n - 1) / 8 := by
  rw [wordSpan, List.mem_map]
  constructor
  · rintro ⟨i, hi, rfl⟩
    have := List.mem_range.mp hi
    omega
  · rintro ⟨h1, h2⟩
    exact ⟨w - a / 8, List.mem_range.mpr (by omega), by omega⟩

section
variable {data : List Byte} (s : State) (pa : Nat) (hn : 1 ≤ data.length)
include hn

/-- Marked bytes mark every word they touch. -/
theorem State.pmem_writeMarked_marked (w : Nat) : w ∈ (s.writeMarked pa (data.map (fun b => (b, true)))).pmem ↔
    w ∈ s.pmem ∨ (memKey pa / 8 ≤ w ∧ w ≤ (memKey pa + data.length - 1) / 8) := by
  have hany : ∀ w ∈ wordSpan (memKey pa) data.length,
      (((data.map (fun b => (b, true))).drop (8 * w - memKey pa)).take (8 - (memKey pa - 8 * w))).any (fun b => b.2) = true := by
    intro w hw
    obtain ⟨h1, h2⟩ := (mem_wordSpan hn).mp hw
    rw [← List.map_drop, ← List.map_take, List.any_map]
    refine List.any_eq_true.mpr ?_
    have hpos : 0 < ((data.drop (8 * w - memKey pa)).take (8 - (memKey pa - 8 * w))).length := by
      rw [List.length_take, List.length_drop]
      omega
    exact ⟨_, List.getElem_mem hpos, rfl⟩
  have hmarked := List.filter_eq_self.mpr hany
  show w ∈ List.foldl setIns _ (List.filter _ _) ↔ _
  rw [List.length_map, mem_foldl_setIns, ← wordSpan, hmarked, mem_wordSpan hn, or_comm, List.mem_filter]
  have hwhole : (wordSpan (memKey pa) data.length).filter (fun w => !(wordSpan (memKey pa) data.length).contains w &&
      decide (memKey pa ≤ 8 * w) && decide (8 * w + 8 ≤ memKey pa + data.length)) = [] := by
    refine List.filter_eq_nil_iff.mpr fun w hw => ?_
    rw [List.contains_iff_mem.mpr hw]
    exact Bool.false_ne_true
  rw [hwhole]
  exact or_congr_left (and_iff_left rfl)

/-- Unmarked bytes clear the marks of the words they cover whole. -/
theorem State.pmem_writeMarked_unmarked (w : Nat) : w ∈ (s.writeMarked pa (data.map (fun b => (b, false)))).pmem ↔
    w ∈ s.pmem ∧ ¬ (memKey pa ≤ 8 * w ∧ 8 * w + 8 ≤ memKey pa + data.length) := by
  have hmarked : (wordSpan (memKey pa) data.length).filter (fun w =>
      (((data.map (fun b => (b, false))).drop (8 * w - memKey pa)).take (8 - (memKey pa - 8 * w))).any (fun b => b.2)) = [] := by
    refine List.filter_eq_nil_iff.mpr fun w _ => ?_
    rw [← List.map_drop, ← List.map_take, List.any_map, List.any_eq_true]
    rintro ⟨_, _, h⟩
    exact absurd h Bool.false_ne_true
  show w ∈ List.foldl setIns _ (List.filter _ _) ↔ _
  rw [List.length_map, mem_foldl_setIns, ← wordSpan, hmarked, or_iff_right List.not_mem_nil, List.mem_filter,
    Bool.not_eq_true', ← Bool.not_eq_true, List.contains_iff_mem, List.mem_filter, mem_wordSpan hn]
  refine and_congr_right fun _ => not_congr ?_
  simp only [List.contains_nil, Bool.not_false, Bool.true_and, Bool.and_eq_true, decide_eq_true_eq]
  omega

end

section
variable {s : State} {m port off n : Nat} {bar2 ep : Bool} {data : List Byte}

theorem exec_hostWrite_unfit (h : barFits ⟨bar2, off⟩ data.length 512 ≠ true) :
    exec (.hostWrite m port ⟨bar2, off⟩ ep data) s = .next s :=
  congrArg _ (if_pos (by rw [Bool.eq_false_of_not_eq_true h]; rfl))

theorem exec_hostWrite_fit (h : barFits ⟨bar2, off⟩ data.length 512 = true) : exec (.hostWrite m port ⟨bar2, off⟩ ep data) s =
    .next (s.hostDo m port (barPa m ⟨bar2, off⟩) data.length (.hostWrite m port ⟨bar2, off⟩ ep data)
      (fun s => s.hostPut port (barPa m ⟨bar2, off⟩) (data.map (fun b => (b, ep))))) :=
  congrArg _ (if_neg (by rw [h]; decide))

theorem exec_hostRead_unfit (h : barFits ⟨bar2, off⟩ n 4096 ≠ true) : exec (.hostRead m port ⟨bar2, off⟩ n) s = .next s :=
  congrArg _ (if_pos (by rw [Bool.eq_false_of_not_eq_true h]; rfl))

theorem exec_hostRead_fit (h : barFits ⟨bar2, off⟩ n 4096 = true) : exec (.hostRead m port ⟨bar2, off⟩ n) s =
    .next (s.hostDo m port (barPa m ⟨bar2, off⟩) n (.hostRead m port ⟨bar2, off⟩ n) (fun s => { s with outputs := s.outputs ++
      [if s.accOk port (barPa m ⟨bar2, off⟩) false then .hostData m port ((s.performRead (barPa m ⟨bar2, off⟩) n).map (·.1))
        ((s.performRead (barPa m ⟨bar2, off⟩) n).any (·.2)) else .hostUnsupported m port] })) :=
  congrArg _ (if_neg (by rw [h]; decide))

/-- An address of BAR0 is one of the module's scratchpads. -/
theorem barPa_bar0 (hm : m < 2048) (hoff : off < 2 ^ 34) : barPa m ⟨false, off⟩ = m * 2 ^ 34 + off ∧
    paSpace (barPa m ⟨false, off⟩) = 0 ∧ memKey (barPa m ⟨false, off⟩) = barPa m ⟨false, off⟩ := by
  have h : barPa m ⟨false, off⟩ = m * 2 ^ 34 + off := by
    show 0 + m * 2 ^ 34 + off % 2 ^ 34 = _
    rw [Nat.zero_add, Nat.mod_eq_of_lt hoff]
  rw [h, paSpace, memKey]
  exact ⟨rfl, by omega, by omega⟩

/-- The bytes of BAR0 that a host reads. -/
theorem State.performRead_scratchpad {pa : Nat} (h : paSpace pa = 0) (hk : ∀ i < n, memKey (pa + i) = pa + i) :
    (s.performRead pa n).map (·.1) = (List.range n).map (fun i => s.byteAt (pa + i)) ∧
    (s.performRead pa n).any (·.2) = s.poisoned pa n := by
  have hr : s.performRead pa n = s.readMarked pa n := if_pos h
  refine ⟨?_, congrArg (List.any · (·.2)) hr⟩
  rw [hr, State.readMarked, tabulate, List.map_map]
  exact List.map_congr_left fun i hi => congrArg (memGet s.mem) (hk i (List.mem_range.mp hi))

end

/-! ### HSEM (26 R419, R420) -/

section
variable {s : State} {m owner : Nat}

theorem hsemPa_parts (hm : m < 2048) : paSpace (ctlPa (4096 * m) 0x4908) = 2 ∧ paCluster (ctlPa (4096 * m) 0x4908) = 4096 * m ∧
    ctlPa (4096 * m) 0x4908 % 2 ^ 22 = 0x4908 ∧ ctlPa (4096 * m) 0x4908 = 2 * 2 ^ 45 + m * 2 ^ 34 + 0x4908 := by
  simp only [ctlPa, clusterBase, paSpace, paCluster, memKey]
  omega

theorem State.hsemWrite_nobody {i : Instr} {v : Nat} (h : ¬ (owner = 1 ∨ owner = 2)) : s.hsemWrite m owner i v = s := if_neg h

theorem State.hsemWrite_host {i : Instr} {v : Nat} (h : owner = 1 ∨ owner = 2) : s.hsemWrite m owner i v =
    s.hostDo m (owner - 1) (ctlPa (4096 * m) 0x4908) 8 i
      (fun s => s.hostPut (owner - 1) (ctlPa (4096 * m) 0x4908) (marked 8 v false)) := if_pos h

theorem State.ctlWrite_hscmd (a : Nat) (x : DWord) : s.ctlWrite (4096 * m) 0x4908 a x = s.hscmd m a x.toNat := by
  have h1 : 4096 * m % 1024 ≠ 990 := by omega
  have h2 : 4096 * m % 4096 = 0 := by omega
  have h3 : modOf (4096 * m) = m := Nat.mul_div_cancel_left m (by decide)
  simp [State.ctlWrite, h1, h2, h3]

/-- A host's write of HSCMD, where its table permits it. -/
theorem State.hostPut_hscmd {v : Nat} (hm : m < 2048) (hv : v < 2 ^ 64) (a : Nat) :
    s.hostPut a (ctlPa (4096 * m) 0x4908) (marked 8 v false) =
      if s.accOk a (2 * 2 ^ 45 + m * 2 ^ 34 + 0x4908) true then s.hscmd m a v else s := by
  obtain ⟨hs, hk, ho, hpa⟩ := hsemPa_parts hm
  have hx : v = (BitVec.ofNat 64 v).toNat := (Nat.mod_eq_of_lt hv).symm
  have hwrite : s.performWrite a false (ctlPa (4096 * m) 0x4908) (marked 8 v false) = s.hscmd m a v := by
    rw [marked]
    conv_lhs => rw [hx]
    rw [State.performWrite_register hs (by omega) (by omega), if_pos (by omega), hk, ho, State.ctlWrite_hscmd, ← hx]
  rw [State.hostPut, hwrite, ← hpa]

theorem hostId_pred (h : owner = 1 ∨ owner = 2) : isHost (owner - 1) = true ∧ hostId (owner - 1) = owner := by
  rcases h with rfl | rfl <;> decide

/-- Can a host take HSEM (26 R420)? -/
abbrev State.hsemFree (s : State) (m owner : Nat) : Prop :=
  (s.module m).held = false ∨ (s.module m).owner = owner ∨ (BitVec.ofNat 32 (s.strokeOf m) - (s.module m).lease).msb = false

theorem State.leaseLapsed_iff : s.leaseLapsed m = true ↔ (BitVec.ofNat 32 (s.strokeOf m) - (s.module m).lease).msb = false := by
  have hl := (s.module m).lease.isLt
  rw [State.leaseLapsed, decide_eq_true_eq, BitVec.msb_eq_false_iff_two_mul_lt, BitVec.toNat_sub, BitVec.toNat_ofNat]
  omega

theorem State.hscmd_take {len : Nat} (h : owner = 1 ∨ owner = 2) (hlen : len < 2 ^ 62) :
    s.hscmd m (owner - 1) (2 ^ 62 + len % 2 ^ 62) = if (1 ≤ len ∧ len < 2 ^ 24) ∧ s.hsemFree m owner then
      s.updModule m (fun d => { d with held := true, owner := owner, lease := BitVec.ofNat 32 (s.strokeOf m + len) }) else s := by
  obtain ⟨hhost, hid⟩ := hostId_pred h
  have hfree : (!(s.module m).held || s.leaseLapsed m || (s.module m).owner == owner) = true ↔ s.hsemFree m owner := by
    rw [Bool.or_eq_true, Bool.or_eq_true, State.leaseLapsed_iff, beq_iff_eq, Bool.not_eq_true', or_assoc, or_comm (b := _ = owner)]
  rw [State.hscmd, hhost, hid]
  by_cases h24 : len < 2 ^ 24
  · have hrest : ¬ ((!true) = true ∨ fld (2 ^ 62 + len % 2 ^ 62) 24 38 ≠ 0) := by
      rw [fld]
      rintro (h | h)
      · exact absurd h (by decide)
      · omega
    have hop : fld (2 ^ 62 + len % 2 ^ 62) 62 2 = 1 := by rw [fld]; omega
    have hval : fld (2 ^ 62 + len % 2 ^ 62) 0 24 = len := by rw [fld]; omega
    rw [if_neg hrest, if_pos hop, hval, State.hsemTake]
    by_cases h1 : 1 ≤ len
    · rw [if_neg (by omega)]
      exact if_congr (hfree.trans (and_iff_right ⟨h1, h24⟩).symm) rfl rfl
    · rw [if_pos (by omega), if_neg (fun h => h1 h.1.1)]
  · have hrest : fld (2 ^ 62 + len % 2 ^ 62) 24 38 ≠ 0 := by rw [fld]; omega
    rw [if_pos (.inr hrest), if_neg (fun h => h24 h.1.2)]

theorem State.hscmd_release (h : owner = 1 ∨ owner = 2) : s.hscmd m (owner - 1) (2 ^ 63) =
    if (s.module m).held = true ∧ (s.module m).owner = owner then s.updModule m (fun d => { d with held := false }) else s := by
  obtain ⟨hhost, hid⟩ := hostId_pred h
  rw [State.hscmd, hhost, hid, if_neg (by decide), if_neg (by decide), if_pos (by decide), State.hsemRelease]
  exact if_congr (by rw [Bool.and_eq_true, beq_iff_eq]) rfl rfl

theorem State.tilesBusy_hscmd (hm : m < 2048) : s.tilesBusy (ctlPa (4096 * m) 0x4908) 8 = false := by
  obtain ⟨_, _, ho, _⟩ := hsemPa_parts hm
  exact State.tilesBusy_of_outside (by omega)

end

section
variable {s : State} {m owner v : Nat} {i : Instr} {e : Module → Module} {does : Prop} [Decidable does]

/-- A write of HSCMD by a host: lost without logic supply, held over the budget, else counted once and, where permitted, done. -/
theorem exec_hscmd (hi : exec i s = .next (s.hsemWrite m owner i v)) (hh : owner = 1 ∨ owner = 2) (hm : m < 2048) (hv : v < 2 ^ 64)
    (hcmd : (s.hostCount m (owner - 1)).hscmd m (owner - 1) v =
      if does then (s.hostCount m (owner - 1)).updModule m e else s.hostCount m (owner - 1)) :
    ((s.module m).power ≠ .on → exec i s = .next s) ∧
    ((s.module m).power = .on → s.hostHeld m (owner - 1) = true → exec i s = .next (s.holdInput i)) ∧
    ((s.module m).power = .on → s.hostHeld m (owner - 1) = false → ∃ t, exec i s = .next t ∧
      (t.mem = s.mem ∧ t.pmem = s.pmem ∧ t.cl = s.cl ∧ t.die = s.die) ∧
      (s.accOk (owner - 1) (2 * 2 ^ 45 + m * 2 ^ 34 + 0x4908) true = true → does →
        t.module m = e ((s.hostCount m (owner - 1)).module m)) ∧
      (¬ (s.accOk (owner - 1) (2 * 2 ^ 45 + m * 2 ^ 34 + 0x4908) true = true ∧ does) →
        t.module m = (s.hostCount m (owner - 1)).module m)) := by
  have hport : owner - 1 < 2 := by omega
  rw [hi, State.hsemWrite_host hh]
  refine ⟨fun hp => ?_, fun hp hheld => ?_, fun hp hheld => ?_⟩
  · rw [State.hostDo_unserved (fun h => hp h.2)]
  · rw [State.hostDo_held ⟨hport, hp⟩ (.inl hheld)]
  · have hno : ¬ (s.hostHeld m (owner - 1) = true ∨ s.tilesBusy (ctlPa (4096 * m) 0x4908) 8 = true) := by
      rw [hheld, State.tilesBusy_hscmd hm]
      decide
    rw [State.hostDo_counted ⟨hport, hp⟩ hno, State.hostPut_hscmd hm hv, State.accOk_hostCount, hcmd]
    by_cases ha : s.accOk (owner - 1) (2 * 2 ^ 45 + m * 2 ^ 34 + 0x4908) true = true
    · rw [if_pos ha]
      by_cases hd : does
      · rw [if_pos hd]
        exact ⟨_, rfl, ⟨rfl, rfl, rfl, rfl⟩, fun _ _ => State.module_updModule_self .., fun h => absurd ⟨ha, hd⟩ h⟩
      · rw [if_neg hd]
        exact ⟨_, rfl, ⟨rfl, rfl, rfl, rfl⟩, fun _ h => absurd h hd, fun _ => rfl⟩
    · rw [if_neg ha]
      exact ⟨_, rfl, ⟨rfl, rfl, rfl, rfl⟩, fun h _ => absurd h ha, fun _ => rfl⟩

end

/-- A count leaves what a take of HSEM looks at. -/
theorem State.hsemFree_hostCount (s : State) (m port owner : Nat) : (s.hostCount m port).hsemFree m owner ↔ s.hsemFree m owner := by
  rw [State.hsemFree, State.hsemFree, State.strokeOf_hostCount, State.field_hostCount Module.held (fun _ _ _ => ⟨rfl, rfl⟩),
    State.field_hostCount Module.owner (fun _ _ _ => ⟨rfl, rfl⟩), State.field_hostCount Module.lease (fun _ _ _ => ⟨rfl, rfl⟩)]

section
variable (s : State) (m : Nat) {owner : Nat} (h : owner = 1 ∨ owner = 2)
include h

theorem State.hscmd_take_hostCount {len : Nat} (hlen : len < 2 ^ 62) :
    (s.hostCount m (owner - 1)).hscmd m (owner - 1) (2 ^ 62 + len % 2 ^ 62) =
      if (1 ≤ len ∧ len < 2 ^ 24) ∧ s.hsemFree m owner then (s.hostCount m (owner - 1)).updModule m (fun d =>
        { d with held := true, owner := owner, lease := BitVec.ofNat 32 (s.strokeOf m + len) }) else s.hostCount m (owner - 1) := by
  have hfree : (1 ≤ len ∧ len < 2 ^ 24) ∧ (s.hostCount m (owner - 1)).hsemFree m owner ↔
      (1 ≤ len ∧ len < 2 ^ 24) ∧ s.hsemFree m owner := and_congr_right fun _ => s.hsemFree_hostCount m (owner - 1) owner
  exact (State.hscmd_take h hlen).trans (if_congr hfree (congrArg (fun n => (s.hostCount m (owner - 1)).updModule m (fun d =>
    { d with held := true, owner := owner, lease := BitVec.ofNat 32 (n + len) })) (State.strokeOf_hostCount m)) rfl)

theorem State.hscmd_release_hostCount : (s.hostCount m (owner - 1)).hscmd m (owner - 1) (2 ^ 63) =
    if (s.module m).held = true ∧ (s.module m).owner = owner then
      (s.hostCount m (owner - 1)).updModule m (fun d => { d with held := false }) else s.hostCount m (owner - 1) := by
  rw [State.hscmd_release h, State.field_hostCount Module.held (fun _ _ _ => ⟨rfl, rfl⟩),
    State.field_hostCount Module.owner (fun _ _ _ => ⟨rfl, rfl⟩)]

end

/-! ### Management (26 R429) -/

theorem ofBytes_byte (l : List Byte) (i : Nat) : ofBytes l / 256 ^ i % 256 = (l.getD i 0).toNat := by
  induction l generalizing i with
  | nil => rw [ofBytes, Nat.zero_div]; rfl
  | cons b r ih =>
    have hb := b.isLt
    cases i with
    | zero => rw [ofBytes, pow_zero, List.getD_cons_zero]; omega
    | succ i =>
      rw [ofBytes, pow_succ', ← Nat.div_div_eq_div_mul, List.getD_cons_succ, ← ih]
      congr 2
      omega

theorem extractLsb'_ofBytes {l : List Byte} {i : Nat} (hi : i < 8) :
    (BitVec.ofNat 64 (ofBytes l)).extractLsb' (8 * i) 8 = l.getD i 0 := by
  refine BitVec.eq_of_toNat_eq ?_
  have hpow : 2 ^ 64 = 256 ^ i * 256 * 256 ^ (7 - i) := by
    rw [Nat.mul_assoc, ← pow_succ', ← pow_add, show i + (7 - i + 1) = 8 by omega]
    rfl
  rw [BitVec.extractLsb'_toNat, BitVec.toNat_ofNat, Nat.shiftRight_eq_div_pow, pow_mul, show 2 ^ 8 = 256 from rfl, hpow, Nat.mul_assoc,
    Nat.mod_mul_right_div_self, Nat.mod_mod_of_dvd _ (Nat.dvd_mul_right ..), ofBytes_byte]

section
variable {s : State} {k off : Nat} {v : DWord} {wr : Bool}

theorem exec_mgmt_unserved (h : (s.module (modOf k)).power ≠ .on) : exec (.mgmtSpace2Access k off wr v) s = .next s :=
  congrArg _ (if_pos h)

theorem exec_mgmt_held (h : (s.module (modOf k)).power = .on) (hb : s.tilesBusy (ctlPa k off) 8 = true) :
    exec (.mgmtSpace2Access k off wr v) s = .next (s.holdInput (.mgmtSpace2Access k off wr v)) :=
  congrArg _ ((if_neg (not_not.mpr h)).trans (if_pos hb))

theorem exec_mgmt_denied (h : (s.module (modOf k)).power = .on) (hb : s.tilesBusy (ctlPa k off) 8 = false)
    (ha : s.accOk 2 (ctlPa k off) wr = false) :
    exec (.mgmtSpace2Access k off wr v) s = .next { s with outputs := s.outputs ++ [.mgmtDiscarded] } :=
  congrArg _ ((if_neg (not_not.mpr h)).trans ((if_neg (ne_true_of_eq_false hb)).trans (if_pos (by rw [mMgmt, ha]; rfl))))

theorem exec_mgmt_write (h : (s.module (modOf k)).power = .on) (hb : s.tilesBusy (ctlPa k off) 8 = false)
    (ha : s.accOk 2 (ctlPa k off) true = true) : exec (.mgmtSpace2Access k off true v) s =
      .next (s.performWrite mMgmt false (ctlPa k off) (marked 8 v.toNat false)) :=
  congrArg _ ((if_neg (not_not.mpr h)).trans ((if_neg (ne_true_of_eq_false hb)).trans
    ((if_neg (by rw [mMgmt, ha]; decide)).trans (if_pos rfl))))

theorem exec_mgmt_read (h : (s.module (modOf k)).power = .on) (hb : s.tilesBusy (ctlPa k off) 8 = false)
    (ha : s.accOk 2 (ctlPa k off) false = true) : exec (.mgmtSpace2Access k off false v) s = .next { s with outputs := s.outputs ++
      [.mgmtData (BitVec.ofNat 64 (ofBytes ((s.performRead (ctlPa k off) 8).map (·.1))))] } :=
  congrArg _ ((if_neg (not_not.mpr h)).trans ((if_neg (ne_true_of_eq_false hb)).trans
    ((if_neg (by rw [mMgmt, ha]; decide)).trans (if_neg Bool.false_ne_true))))

theorem mgmtPa_parts (hk : k < 2 ^ 23) (ho : off < 2 ^ 22) : ctlPa k off = 2 * 2 ^ 45 + clusterBase k + off ∧
    paSpace (ctlPa k off) = 2 ∧ paCluster (ctlPa k off) = k ∧ ctlPa k off % 2 ^ 22 = off := by
  simp only [ctlPa, clusterBase, paSpace, paCluster, memKey]
  omega

theorem State.mgmtData_bytes (hk : k < 2 ^ 23) (ho : off < 2 ^ 22) {i : Nat} (hi : i < 8) :
    (BitVec.ofNat 64 (ofBytes ((s.performRead (ctlPa k off) 8).map (·.1)))).extractLsb' (8 * i) 8 =
      BitVec.ofNat 8 (s.ctlByte k (off + i)) := by
  obtain ⟨_, hs, hc, hoff⟩ := mgmtPa_parts hk ho
  have hread : s.performRead (ctlPa k off) 8 =
      tabulate 8 (fun i => (BitVec.ofNat 8 (s.ctlByte k (off + i)), s.ctlPoison k (off + i))) := by
    rw [State.performRead, if_neg (by omega), if_neg (by omega), if_pos hs, hc, hoff]
  rw [extractLsb'_ofBytes hi, hread, tabulate, List.map_map]
  exact nth_tabulate (fun j => BitVec.ofNat 8 (s.ctlByte k (off + j))) 0 hi

/-- Management's write of 8 bytes, permitted: to a semaphore's word it is of a bad width, and off alignment it is lost. -/
theorem State.mgmtWrite_semaphore (hk : k < 2 ^ 23) (ho : off < 2 ^ 22) (h : 0x2000 ≤ off ∧ off < 0x2800) :
    s.performWrite mMgmt false (ctlPa k off) (marked 8 v.toNat false) = s.updCluster k (fun c => { c with sync := c.sync ||| 8 }) := by
  obtain ⟨_, hs, hc, hoff⟩ := mgmtPa_parts hk ho
  rw [marked, State.performWrite_semaphore hs (by omega), hc]

theorem State.mgmtWrite_unaligned (hk : k < 2 ^ 23) (ho : off < 2 ^ 22) (h : ¬ (0x2000 ≤ off ∧ off < 0x2800))
    (ht : ¬ (0x8000 ≤ off ∧ off < 0x10000)) (h8 : off % 8 ≠ 0) :
    s.performWrite mMgmt false (ctlPa k off) (marked 8 v.toNat false) = s := by
  obtain ⟨_, hs, _, hoff⟩ := mgmtPa_parts hk ho
  rw [State.performWrite, if_neg (by omega), if_neg (by omega), if_pos hs, if_neg (by omega), if_neg (by omega),
    if_neg (fun h => h8 (hoff ▸ h.2))]

theorem State.mgmtWrite_accessTable (hk : k < 2 ^ 23) :
    s.performWrite mMgmt false (ctlPa k 0x800) (marked 8 v.toNat false) =
      s.updCluster k (fun c => { c with acctab := v &&& 0x0003FFFF0003FFFF }) := by
  obtain ⟨_, hs, hc, hoff⟩ := mgmtPa_parts (off := 0x800) hk (by decide)
  rw [marked, State.performWrite_register hs (by omega) (by omega), if_pos (by omega), hc, hoff, State.ctlWrite_accessTable]

end

/-! ### What exchanges over the links leave (19 R342, R355) -/

/-- Two states that differ in the links of their modules at most, as far as boot and joining look. -/
def State.ExceptLinks (s t : State) : Prop := (t.mem = s.mem ∧ t.pmem = s.pmem ∧ t.cl = s.cl ∧ t.die = s.die) ∧
  ∀ j, { t.module j with links := [] } = { s.module j with links := [] }

theorem State.ExceptLinks.refl (s : State) : s.ExceptLinks s := ⟨⟨rfl, rfl, rfl, rfl⟩, fun _ => rfl⟩

theorem State.ExceptLinks.trans {s t u : State} (h : s.ExceptLinks t) (g : t.ExceptLinks u) : s.ExceptLinks u := by
  obtain ⟨⟨h1, h2, h3, h4⟩, h5⟩ := h
  obtain ⟨⟨g1, g2, g3, g4⟩, g5⟩ := g
  exact ⟨⟨g1.trans h1, g2.trans h2, g3.trans h3, g4.trans h4⟩, fun j => (g5 j).trans (h5 j)⟩

theorem State.exceptLinks_foldl {α : Type} {f : State → α → State} (hf : ∀ (s : State) x, s.ExceptLinks (f s x)) (l : List α) (s : State) :
    s.ExceptLinks (l.foldl f s) := by
  induction l generalizing s with
  | nil => exact .refl s
  | cons x l ih => exact (hf s x).trans (ih _)

theorem State.exceptLinks_updLink (s : State) (m l : Nat) (f : Link → Link) : s.ExceptLinks (s.updLink m l f) := by
  refine ⟨⟨rfl, rfl, rfl, rfl⟩, fun j => ?_⟩
  by_cases hj : j = m
  · subst hj
    rw [State.updLink, State.module_updModule_self]
  · rw [State.updLink, State.module_updModule_of_ne _ _ hj]

theorem State.exceptLinks_exchange (s : State) (m l : Nat) : s.ExceptLinks (s.exchange m l) := by
  rw [State.exchange]
  split
  · exact .refl s
  · split
    · exact s.exceptLinks_updLink ..
    · exact .refl s

theorem State.exceptLinks_exchangeAll (s : State) (m : Nat) : s.ExceptLinks (s.exchangeAll m) := by
  rw [State.exchangeAll]
  exact State.exceptLinks_foldl (fun s (w : Nat × Nat) => s.exceptLinks_exchange (w.1 / 96) (w.1 % 96)) _ s

theorem State.exceptLinks_learnHops (s : State) (m : Nat) : s.ExceptLinks (s.learnHops m) := by
  rw [State.learnHops]
  refine State.exceptLinks_foldl (fun u k => ?_) _ s
  split
  · exact u.exceptLinks_updLink ..
  · exact .refl u

/-- A field of the modules that is not the links agrees. -/
theorem State.ExceptLinks.field {α : Type} {s t : State} (h : s.ExceptLinks t) (g : Module → α) (hg : ∀ d, g { d with links := [] } = g d)
    (j : Nat) : g (t.module j) = g (s.module j) :=
  (hg _).symm.trans ((congrArg g (h.2 j)).trans (hg _))

/-! ### Boot of a module alone (26 R425, R426) -/

section
variable {s : State} {m : Nat}

theorem State.explore_alone (h : s.neighbours m = []) (n : Nat) : s.explore m n = [(m, 0)] := by
  induction n with
  | zero => rfl
  | succ n ih =>
    have hround : ∀ last, (∀ x ∈ last, x = (m, 0)) → s.exploreRound [(m, 0)] last (n + 1) = [] := by
      intro last hl
      rw [State.exploreRound]
      induction last with
      | nil => rfl
      | cons x r ihr =>
        rw [List.foldl_cons, hl x List.mem_cons_self, h]
        exact ihr fun y hy => hl y (List.mem_cons_of_mem _ hy)
    rw [State.explore, ih, hround _ fun x hx => List.mem_singleton.mp (List.mem_of_mem_filter hx)]
    rfl

theorem renum_alone (m : Nat) : renum [m] m = 0 := by
  simp [renum]

/-- Boot of module `m` alone has ended at number 0 with the result `r`. -/
def State.BootEnded (s : State) (m : Nat) (t : State) (r : Nat) : Prop :=
  (t.module 0).bootBusy = false ∧ (t.module 0).bootResult = r ∧ (t.module 0).failmod = 0 ∧ (t.module 0).nmod = 1 ∧
    (m = 0 → t.mem = s.mem ∧ t.pmem = s.pmem ∧ t.cl = s.cl ∧ t.die = s.die)

theorem State.bootEnded_bootOver (s : State) (m r : Nat) : s.BootEnded m (s.bootOver [m] r 0) r := by
  have hm : (s.bootOver [m] r 0).module 0 = { (s.renumber (renum [m]) ([m] == List.range 1)).module 0 with
    bootBusy := false, bootResult := r, failmod := 0, nmod := 1 } := State.module_updModule_self ..
  refine ⟨?_, ?_, ?_, ?_, fun h => ?_⟩
  iterate 4 rw [hm]
  subst h
  exact ⟨rfl, rfl, rfl, rfl⟩

/-- A module alone installs the image. -/
theorem State.install_alone (s : State) (img : List Byte) (a : Nat) : (s.updModule 0 (fun e => { e with
    routes := s.routeTable [0] 0, rootHops := 0, image := img, active := a, nmod := 1, root := true, bcast := true })).ExceptLinks
      (s.install img a [(m, 0)]) := by
  have hi : s.install img a [(m, 0)] = (((s.updModule 0 (fun e => { e with
      routes := s.routeTable [0] 0, rootHops := 0, image := img, active := a, nmod := 1, root := true })).updModule 0
        (fun d => { d with bcast := true })).exchangeAll 0).learnHops 0 := by
    simp only [State.install, List.map_cons, List.map_nil, renum_alone, List.foldl_cons, List.foldl_nil]
    rfl
  rw [hi]
  refine .trans ?_ ((State.exceptLinks_exchangeAll _ 0).trans (State.exceptLinks_learnHops _ 0))
  refine ⟨⟨rfl, rfl, rfl, rfl⟩, fun j => ?_⟩
  by_cases hj : j = 0
  · subst hj
    simp only [State.module_updModule_self]
  · simp only [State.module_updModule_of_ne _ _ hj]

end

section
variable {s : State} {m : Nat}

theorem exec_boot_idle (h : (s.module m).bootBusy = false) : exec (.boot m) s = .next s :=
  congrArg _ (if_pos (by rw [h]; rfl))

theorem exec_bootAckTimeout_early (h : (s.module m).bootBusy = false ∨ s.strokeOf m < (s.module m).bootSince + 4096) :
    exec (.bootAckTimeout m) s = .next s :=
  congrArg _ (if_pos (h.imp_left fun h => by rw [h]; rfl))

section
variable (hb : (s.module m).bootBusy = true)
include hb

/-- An image fails its checks at the module that boots alone. -/
theorem exec_boot_badImage (h : ¬ ((s.module m).record.verifies (s.imageBytes (s.module m).bootaddr) = true ∧
      (s.module m).bootlen = (s.imageBytes (s.module m).bootaddr).length)) :
    ∃ t, exec (.boot m) s = .next t ∧ s.BootEnded m t 2 := by
  refine ⟨s.bootOver [m] 2 0, congrArg _ ((if_neg (by rw [hb]; decide)).trans (if_pos ?_)), s.bootEnded_bootOver m 2⟩
  refine (not_and_or.mp h).imp_left fun h => ?_
  rw [Bool.eq_false_of_not_eq_true h]
  rfl

variable (hn : s.neighbours m = [])
include hn

theorem exec_bootAckTimeout_alone (h : (s.module m).bootSince + 4096 ≤ s.strokeOf m) :
    ∃ t, exec (.bootAckTimeout m) s = .next t ∧ s.BootEnded m t 5 := by
  have hno : ¬ ((!(s.module m).bootBusy) = true ∨ s.strokeOf m < (s.module m).bootSince + 4096) := by
    rw [hb]
    rintro (h | h)
    · exact absurd h (by decide)
    · omega
  have hfirst : (([m].findIdx? (fun x => (s.module x).power != .on)).getD 0) = 0 := by
    rw [List.findIdx?_cons]
    split <;> rfl
  refine ⟨s.bootOver [m] 5 0, congrArg _ ((if_neg hno).trans ?_), s.bootEnded_bootOver m 5⟩
  rw [State.explore_alone hn]
  exact congrArg (s.bootOver [m] 5) hfirst

/-- An image passes: the flood is over with the module itself. -/
theorem exec_boot_goodImage (h : (s.module m).record.verifies (s.imageBytes (s.module m).bootaddr) = true ∧
      (s.module m).bootlen = (s.imageBytes (s.module m).bootaddr).length) :
    exec (.boot m) s = .next (if (s.module m).power ≠ .on then s else (s.bootOver [m] 1 0).install (s.imageBytes (s.module m).bootaddr)
      (ofBytes (((s.imageBytes (s.module m).bootaddr).drop 16).take 2)) [(m, 0)]) := by
  obtain ⟨hv, hl⟩ := h
  have href : s.refusal (s.imageBytes (s.module m).bootaddr) 1 m = none := by
    rw [State.refusal, hv, State.tooFar, State.explore_alone hn]
    split <;> rfl
  have hany : ([m].any (fun x => (s.module x).power != .on) || s.floodHeld [(m, 0)]) = true ↔ (s.module m).power ≠ .on := by
    rw [show s.floodHeld [(m, 0)] = false from rfl, Bool.or_false, List.any_cons, List.any_nil, Bool.or_false, bne_iff_ne]
  refine congrArg _ ((if_neg (by rw [hb]; decide)).trans ((if_neg ?_).trans ?_))
  · rw [hv]
    rintro (h | h)
    · exact absurd h (by decide)
    · exact h hl
  · have hsome : ([m].zipIdx.findSome? (fun x => (s.refusal (s.imageBytes (s.module m).bootaddr) 1 x.1).map (fun r => (r, x.2)))) =
        none := by
      rw [List.zipIdx_cons, List.findSome?_cons, href]
      rfl
    rw [State.explore_alone hn]
    refine (if_neg (Nat.lt_irrefl 2048)).trans ((if_neg (by decide : ¬ 1 > 2048)).trans ?_)
    simp only [List.map_cons, List.map_nil, List.length_cons, List.length_nil, Nat.zero_add, hsome]
    exact if_congr hany rfl rfl

theorem exec_boot_unpowered (h : (s.module m).record.verifies (s.imageBytes (s.module m).bootaddr) = true ∧
      (s.module m).bootlen = (s.imageBytes (s.module m).bootaddr).length) (hp : (s.module m).power ≠ .on) :
    exec (.boot m) s = .next s := by
  rw [exec_boot_goodImage hb hn h, if_pos hp]

theorem exec_boot_installs (h : (s.module m).record.verifies (s.imageBytes (s.module m).bootaddr) = true ∧
      (s.module m).bootlen = (s.imageBytes (s.module m).bootaddr).length) (hp : (s.module m).power = .on) :
    ∃ t, exec (.boot m) s = .next t ∧ s.BootEnded m t 1 ∧ (t.module 0).root = true ∧
      (t.module 0).image = s.imageBytes (s.module m).bootaddr ∧
      (t.module 0).active = ofBytes (((s.imageBytes (s.module m).bootaddr).drop 16).take 2) ∧ (t.module 0).rootHops = 0 := by
  obtain ⟨hbusy, hres, hfail, _, hsame⟩ := s.bootEnded_bootOver m 1
  have hlinks := (s.bootOver [m] 1 0).install_alone (m := m) (s.imageBytes (s.module m).bootaddr)
    (ofBytes (((s.imageBytes (s.module m).bootaddr).drop 16).take 2))
  refine ⟨_, (exec_boot_goodImage hb hn h).trans (congrArg _ (if_neg (not_not.mpr hp))), ⟨?_, ?_, ?_, ?_, fun h0 => ?_⟩, ?_, ?_, ?_, ?_⟩
  · rw [hlinks.field Module.bootBusy (fun _ => rfl), State.module_updModule_self, hbusy]
  · rw [hlinks.field Module.bootResult (fun _ => rfl), State.module_updModule_self, hres]
  · rw [hlinks.field Module.failmod (fun _ => rfl), State.module_updModule_self, hfail]
  · rw [hlinks.field Module.nmod (fun _ => rfl), State.module_updModule_self]
  · obtain ⟨h1, h2, h3, h4⟩ := hsame h0
    obtain ⟨g1, g2, g3, g4⟩ := hlinks.1
    exact ⟨g1.trans h1, g2.trans h2, g3.trans h3, g4.trans h4⟩
  · rw [hlinks.field Module.root (fun _ => rfl), State.module_updModule_self]
  · rw [hlinks.field Module.image (fun _ => rfl), State.module_updModule_self]
  · rw [hlinks.field Module.active (fun _ => rfl), State.module_updModule_self]
  · rw [hlinks.field Module.rootHops (fun _ => rfl), State.module_updModule_self]

end

end

/-! ### A module joins (26 R426) -/

/-- A module with neighbours is listed. -/
theorem State.mem_md_of_neighbours {s : State} {m : Nat} (h : s.neighbours m ≠ []) : m ∈ s.md.map (·.1) := by
  by_contra hm
  have hget : ∀ (md : KMap Module) d, m ∉ md.map (·.1) → kget d md m = d := by
    intro md d hmd
    induction md with
    | nil => rfl
    | cons x r ih =>
      obtain ⟨h1, h2⟩ := not_or.mp (mt List.mem_cons.mpr hmd)
      exact (if_neg (Ne.symm h1)).trans (ih h2)
  have hmod : s.module m = { Module.reset with gts := s.now, cycles := s.now } := hget _ _ hm
  refine h ?_
  rw [State.neighbours, hmod]
  rfl

/-- Changes of listed modules that all leave one value of NMOD leave it at each. -/
theorem State.nmod_foldl_updModule {n : Nat} (f : Nat → Module → Module) (hf : ∀ x d, (f x d).nmod = n) (l : List Nat) (s : State)
    (k : Nat) (h : k ∈ l ∨ (s.module k).nmod = n) : ((l.foldl (fun u x => u.updModule x (f x)) s).module k).nmod = n := by
  induction l generalizing s with
  | nil => exact h.resolve_left List.not_mem_nil
  | cons x l ih =>
    refine ih _ ?_
    by_cases hx : k = x
    · subst hx
      exact .inr (by rw [State.module_updModule_self, hf])
    · rw [State.module_updModule_of_ne _ _ hx]
      exact h.imp_left fun h => (List.mem_cons.mp h).resolve_left hx

theorem State.mem_foldl_updModule (f : Nat → Module → Module) (l : List Nat) (s : State) :
    (l.foldl (fun u x => u.updModule x (f x)) s).mem = s.mem := by
  induction l generalizing s with
  | nil => rfl
  | cons x l ih => exact ih _

section
variable {s : State} {m l p root : Nat} {rd : Module}

theorem exec_moduleJoin_idle (h : (s.neighbours m).find? (fun x => s.booted x.2) = none ∨ s.booted m = true ∨
    (s.module m).power ≠ .on) : exec (.moduleJoin m) s = .next s := by
  show Host.Outcome.next _ = _
  congr 1
  split
  · next hf _ => exact if_pos (h.resolve_left (by rw [hf]; exact Option.some_ne_none _) |>.imp_right .inl)
  · rfl

/-- May module `m` join the modules that boot has numbered? -/
abbrev State.joins (s : State) (m : Nat) (rd : Module) : Prop :=
  rd.nmod < 2048 ∧ (s.module m).record.verifies rd.image = true ∧ ∀ x ∈ s.md, ∀ y ∈ s.md, (s.booted x.1 = true ∨ x.1 = m) →
    (s.booted y.1 = true ∨ y.1 = m) → s.hopsFrom x.1 y.1 ≠ none

/-- The modules that a join numbers, with the new one. -/
def State.numberedBy (s : State) (m : Nat) : List Nat := (s.md.map (·.1)).filter (fun x => s.booted x || x == m)

/-- The numbers of a join: module `m` takes `n`, and a module that had it makes room. -/
def joinNumber (m n x : Nat) : Nat := if x = m then n else if x = n then m else x

/-- A module that a join numbers, as one of the modules `all`, `n` of which there were. -/
def Module.joinedTo (t : State) (all : List Nat) (root n x : Nat) (d : Module) : Module :=
  { d with routes := t.routeTable all x, rootHops := (t.hopsFrom root x).getD 0, nmod := n + 1 }

theorem State.refusesJoin_iff : (rd.nmod ≥ 2048 ∨ (!(s.module m).record.verifies rd.image) = true ∨
    (s.numberedBy m).any (fun x => (s.numberedBy m).any (fun y => (s.hopsFrom x y).isNone)) = true) ↔ ¬ s.joins m rd := by
  have hany : (s.numberedBy m).any (fun x => (s.numberedBy m).any (fun y => (s.hopsFrom x y).isNone)) = true ↔
      ¬ ∀ x ∈ s.md, ∀ y ∈ s.md, (s.booted x.1 = true ∨ x.1 = m) → (s.booted y.1 = true ∨ y.1 = m) → s.hopsFrom x.1 y.1 ≠ none := by
    simp only [State.numberedBy, List.any_eq_true, List.mem_filter, List.mem_map, Bool.or_eq_true, beq_iff_eq, Option.isNone_iff_eq_none,
      not_forall, not_not]
    constructor
    · rintro ⟨_, ⟨⟨x, hx, rfl⟩, hxm⟩, _, ⟨⟨y, hy, rfl⟩, hym⟩, h⟩
      exact ⟨x, hx, y, hy, hxm, hym, h⟩
    · rintro ⟨x, hx, y, hy, hxm, hym, h⟩
      exact ⟨_, ⟨⟨x, hx, rfl⟩, hxm⟩, _, ⟨⟨y, hy, rfl⟩, hym⟩, h⟩
  rw [hany, not_and_or, not_and_or, Nat.not_lt, Bool.not_eq_true', Bool.not_eq_true]

variable (hl : (s.neighbours m).find? (fun x => s.booted x.2) = some (l, p)) (hr : s.md.find? (fun x => x.2.root) = some (root, rd))
include hl hr

theorem exec_moduleJoin_busy (h : rd.bootBusy = true) : exec (.moduleJoin m) s = .next s := by
  show Host.Outcome.next _ = _
  simp only [hl, hr]
  exact congrArg _ (if_pos (.inr (.inr h)))

variable (hb : s.booted m = false) (hp : (s.module m).power = .on) (hrd : rd.bootBusy = false)
include hb hp hrd

theorem exec_moduleJoin_refused (h : ¬ s.joins m rd) : exec (.moduleJoin m) s =
    .next (s.refuseJoin m l p (((s.partner m l).map (fun x => x % 96)).getD 0)) := by
  show Host.Outcome.next _ = _
  simp only [hl, hr]
  exact congrArg _ ((if_neg (by simp [hb, hp, hrd])).trans (if_pos (State.refusesJoin_iff.mpr h)))

theorem exec_moduleJoin_joins (h : s.joins m rd) : ∃ t, exec (.moduleJoin m) s = .next t ∧ (rd.nmod = m → t.mem = s.mem) ∧
    (t.module rd.nmod).image = rd.image ∧ (t.module rd.nmod).active = rd.active ∧ (t.module rd.nmod).nmod = rd.nmod + 1 := by
  have hmem : m ∈ s.numberedBy m := by
    refine List.mem_filter.mpr ⟨State.mem_md_of_neighbours fun hn => ?_, by rw [beq_self_eq_true, Bool.or_true]⟩
    rw [hn] at hl
    exact absurd hl.symm (Option.some_ne_none _)
  have hall : rd.nmod ∈ (s.numberedBy m).map (joinNumber m rd.nmod) := List.mem_map.mpr ⟨m, hmem, if_pos rfl⟩
  let t := s.renumber (joinNumber m rd.nmod) (m == rd.nmod)
  let numbered := Module.joinedTo t ((s.numberedBy m).map (joinNumber m rd.nmod)) root rd.nmod
  let t1 := ((s.numberedBy m).map (joinNumber m rd.nmod)).foldl (fun u x => u.updModule x (numbered x)) t
  have hlinks : (t1.updModule rd.nmod (fun d => { d with image := rd.image, active := rd.active })).ExceptLinks _ :=
    (State.exceptLinks_exchangeAll _ rd.nmod).trans (State.exceptLinks_learnHops _ rd.nmod)
  refine ⟨_, ?_, fun hm => hlinks.1.1.trans ?_, ?_, ?_, ?_⟩
  · show Host.Outcome.next _ = _
    simp only [hl, hr]
    exact congrArg _ ((if_neg (by simp [hb, hp, hrd])).trans (if_neg (mt State.refusesJoin_iff.mp (not_not.mpr h))))
  · have ht : t = s := by
      show s.renumber (joinNumber m rd.nmod) (m == rd.nmod) = s
      rw [hm, beq_self_eq_true]
      rfl
    exact (State.mem_foldl_updModule numbered _ t).trans (congrArg State.mem ht)
  · rw [hlinks.field Module.image (fun _ => rfl), State.module_updModule_self]
  · rw [hlinks.field Module.active (fun _ => rfl), State.module_updModule_self]
  · rw [hlinks.field Module.nmod (fun _ => rfl), State.module_updModule_self]
    exact State.nmod_foldl_updModule numbered (fun _ _ => rfl) _ t _ (.inl hall)

end

/-! ### The statement -/

section
variable {s : State} {m port off n : Nat} {bar2 ep : Bool} {data : List Byte}

/-- A host's write that is served. -/
theorem exec_hostWrite_served (hon : port < 2 ∧ (s.module m).power = .on) (hfit : barFits ⟨bar2, off⟩ data.length 512 = true)
    (hh : ¬ (s.hostHeld m port = true ∨ s.tilesBusy (barPa m ⟨bar2, off⟩) data.length = true)) :
    exec (.hostWrite m port ⟨bar2, off⟩ ep data) s = .next (if s.accOk port (barPa m ⟨bar2, off⟩) true then
      (s.hostCount m port).performWrite port false (barPa m ⟨bar2, off⟩) (data.map (fun b => (b, ep))) else s.hostCount m port) := by
  rw [exec_hostWrite_fit hfit, State.hostDo_counted hon hh, State.hostPut, State.accOk_hostCount]

/-- What a host's write of BAR0 does to the scratchpads. -/
theorem State.hostWrite_bar0 (port : Nat) (hk : s.kept = true) (hm : m < 2048) (hn : 1 ≤ data.length) (hoff : off + data.length ≤ 2 ^ 34) :
    let pa := barPa m ⟨false, off⟩
    let t := (s.hostCount m port).performWrite port false pa (data.map (fun b => (b, ep)))
    (t.module m = (s.hostCount m port).module m ∧ t.cl = s.cl) ∧
      (∀ i < data.length, t.byteAt (pa + i) = data.getD i 0) ∧ (∀ a, a < pa ∨ pa + data.length ≤ a → t.byteAt a = s.byteAt a) ∧
      ∀ w, (ep = true → (w ∈ t.pmem ↔ w ∈ s.pmem ∨ (pa / 8 ≤ w ∧ w ≤ (pa + data.length - 1) / 8))) ∧
        (ep = false → (w ∈ t.pmem ↔ w ∈ s.pmem ∧ ¬ (pa ≤ 8 * w ∧ 8 * w + 8 ≤ pa + data.length))) := by
  intro pa t
  obtain ⟨_, hs, hkey⟩ := barPa_bar0 (m := m) (off := off) hm (by omega)
  have hlen : (data.map (fun b => (b, ep))).length = data.length := List.length_map ..
  have ht : t = (s.hostCount m port).writeMarked pa (data.map (fun b => (b, ep))) := if_pos hs
  have hkept : (s.hostCount m port).kept = true := hk
  rw [ht]
  refine ⟨⟨rfl, rfl⟩, fun i hi => ?_, fun a ha => ?_, fun w => ⟨?_, ?_⟩⟩
  · have hb := State.byteAt_writeMarked_inside _ pa i (data.map (fun b => (b, ep))) hkept (hlen.symm ▸ hi)
    rw [hkey] at hb
    rw [hb, List.getElem_map, List.getD_eq_getElem _ _ hi]
  · exact State.byteAt_writeMarked_outside _ pa a _ hkept (by rw [hkey, hlen]; exact ha)
  · rintro rfl
    have := (s.hostCount m port).pmem_writeMarked_marked pa hn w
    rwa [hkey] at this
  · rintro rfl
    have := (s.hostCount m port).pmem_writeMarked_unmarked pa hn w
    rwa [hkey] at this

/-- A host's read that is served. -/
theorem exec_hostRead_served (hon : port < 2 ∧ (s.module m).power = .on) (hfit : barFits ⟨bar2, off⟩ n 4096 = true)
    (hh : ¬ (s.hostHeld m port = true ∨ s.tilesBusy (barPa m ⟨bar2, off⟩) n = true)) :
    exec (.hostRead m port ⟨bar2, off⟩ n) s = .next { s.hostCount m port with outputs := s.outputs ++
      [if s.accOk port (barPa m ⟨bar2, off⟩) false then .hostData m port
        (((s.hostCount m port).performRead (barPa m ⟨bar2, off⟩) n).map (·.1))
        (((s.hostCount m port).performRead (barPa m ⟨bar2, off⟩) n).any (·.2)) else .hostUnsupported m port] } := by
  rw [exec_hostRead_fit hfit, State.hostDo_counted hon hh, State.accOk_hostCount]
  rfl

end

section
variable {s : State} {k off : Nat} (v : DWord) (hp : (s.module (modOf k)).power = .on) (ho : off < 2 ^ 22) (hk : k < 2 ^ 23)
  (hb : s.tilesBusy (ctlPa k off) 8 = false)
include hp ho hk hb

/-- Management's read of space 2 that is not held. -/
theorem exec_mgmt_reads : ∃ t, exec (.mgmtSpace2Access k off false v) s = .next t ∧
    (t.mem = s.mem ∧ t.pmem = s.pmem ∧ t.cl = s.cl ∧ t.die = s.die) ∧
    (s.accOk 2 (ctlPa k off) false = false → t.outputs = s.outputs ++ [.mgmtDiscarded]) ∧
    (s.accOk 2 (ctlPa k off) false = true → ∃ x : DWord, t.outputs = s.outputs ++ [.mgmtData x] ∧
      ∀ i < 8, x.extractLsb' (8 * i) 8 = BitVec.ofNat 8 (s.ctlByte k (off + i))) := by
  cases ha : s.accOk 2 (ctlPa k off) false with
  | false => exact ⟨_, exec_mgmt_denied hp hb ha, ⟨rfl, rfl, rfl, rfl⟩, fun _ => rfl, fun h => absurd h Bool.false_ne_true⟩
  | true => exact ⟨_, exec_mgmt_read hp hb ha, ⟨rfl, rfl, rfl, rfl⟩, fun h => absurd h.symm Bool.false_ne_true,
      fun _ => ⟨_, rfl, fun i hi => State.mgmtData_bytes hk ho hi⟩⟩

/-- Management's write of space 2 that is not held. -/
theorem exec_mgmt_writes : ∃ u, exec (.mgmtSpace2Access k off true v) s = .next u ∧
    (s.accOk 2 (ctlPa k off) true = false → (u.mem = s.mem ∧ u.pmem = s.pmem ∧ u.cl = s.cl ∧ u.die = s.die) ∧
      u.outputs = s.outputs ++ [.mgmtDiscarded]) ∧
    (s.accOk 2 (ctlPa k off) true = true → 0x2000 ≤ off → off < 0x2800 →
      u = s.updCluster k (fun c => { c with sync := c.sync ||| 8 })) ∧
    (s.accOk 2 (ctlPa k off) true = true → ¬ (0x2000 ≤ off ∧ off < 0x2800) → ¬ (0x8000 ≤ off ∧ off < 0x10000) → off % 8 ≠ 0 → u = s) ∧
    (s.accOk 2 (ctlPa k off) true = true → off = 0x800 →
      u = s.updCluster k (fun c => { c with acctab := v &&& 0x0003FFFF0003FFFF })) := by
  cases ha : s.accOk 2 (ctlPa k off) true with
  | false =>
    exact ⟨_, exec_mgmt_denied hp hb ha, fun _ => ⟨⟨rfl, rfl, rfl, rfl⟩, rfl⟩, fun h => absurd h Bool.false_ne_true,
      fun h => absurd h Bool.false_ne_true, fun h => absurd h Bool.false_ne_true⟩
  | true =>
    refine ⟨_, exec_mgmt_write hp hb ha, fun h => absurd h.symm Bool.false_ne_true,
      fun _ hlo hhi => State.mgmtWrite_semaphore hk ho ⟨hlo, hhi⟩, fun _ => State.mgmtWrite_unaligned hk ho, fun _ h => ?_⟩
    subst h
    exact State.mgmtWrite_accessTable hk

end

/-- Settles O55: each request from outside answers by one of its cases, and reset and the supplies leave what they leave. -/
theorem portsBootAndSupplies : Obligations.PortsBootAndSupplies := by
  intro s m owner len port size k off n msg nonce l p root bar2 ep data v rd r d host good free pa fits on held back charge shown same hs
    hsem at2 e img passes ended joins blank box
  have hfit : ∀ n max, fits n max ↔ barFits ⟨bar2, off⟩ n max = true := fun n max => (barFits_iff bar2 off n max).symm
  have hcharge : ∀ port, (s.hostCount m port).module m = charge port := fun port => State.module_hostCount
  have hcmd : ∀ (i : Instr) (v : Nat) (e : Module → Module) (does : Prop) [Decidable does],
      exec i s = .next (s.hsemWrite m owner i v) → host → m < 2048 → v < 2 ^ 64 →
      (s.hostCount m (owner - 1)).hscmd m (owner - 1) v =
        (if does then (s.hostCount m (owner - 1)).updModule m e else s.hostCount m (owner - 1)) → hsem i e does := by
    intro i v e does _ hi hh hm hv hc
    have h := exec_hscmd hi hh hm hv hc
    rw [hcharge] at h
    exact h
  refine ⟨?nobody, ?semaphore, ?unfitWrite, ?unfitRead, ?heldWrite, ?heldRead, ?write, ?read, ?mgmtOff, ?mgmtHeld, ?mgmt, ?portOff,
    ?port, ?attestOff, ?attest, ?sign, ?bootIdle, ?bootEarly, ?boot, ?joinIdle, ?join, ?resetOff, ?returnOn, ?reset⟩
  case nobody =>
    intro hh
    exact ⟨congrArg _ (State.hsemWrite_nobody hh), congrArg _ (State.hsemWrite_nobody hh)⟩
  case semaphore =>
    intro hh hm hlen
    exact ⟨hcmd (.hsemTake m owner len) (2 ^ 62 + len % 2 ^ 62)
        (fun d => { d with held := true, owner := owner, lease := BitVec.ofNat 32 (s.strokeOf m + len) }) (good ∧ free) rfl hh hm
        (by omega) (s.hscmd_take_hostCount m hh hlen),
      hcmd (.hsemRelease m owner) (2 ^ 63) (fun d => { d with held := false }) (d.held = true ∧ d.owner = owner) rfl hh hm (by decide)
        (s.hscmd_release_hostCount m hh)⟩
  case unfitWrite =>
    intro h
    by_cases hf : barFits ⟨bar2, off⟩ data.length 512 = true
    · rw [exec_hostWrite_fit hf, State.hostDo_unserved fun ho => h ⟨ho, (hfit ..).mpr hf⟩]
    · exact exec_hostWrite_unfit hf
  case unfitRead =>
    intro h
    by_cases hf : barFits ⟨bar2, off⟩ size 4096 = true
    · rw [exec_hostRead_fit hf, State.hostDo_unserved fun ho => h ⟨ho, (hfit ..).mpr hf⟩]
    · exact exec_hostRead_unfit hf
  case heldWrite =>
    intro ho hf hh
    exact (exec_hostWrite_fit ((hfit ..).mp hf)).trans (congrArg _ (State.hostDo_held ho hh))
  case heldRead =>
    intro ho hf hh
    exact (exec_hostRead_fit ((hfit ..).mp hf)).trans (congrArg _ (State.hostDo_held ho hh))
  case write =>
    intro ho hf hh hm
    refine ⟨_, exec_hostWrite_served ho ((hfit ..).mp hf) hh, fun ha => ?_, fun ha hb => if_pos ha, fun hk ha hb => ?_⟩
    · have ha' : s.accOk port (barPa m ⟨bar2, off⟩) true = false := ha
      rw [ha', if_neg Bool.false_ne_true]
      exact ⟨hcharge port, rfl, rfl, rfl, rfl⟩
    · subst hb
      have ha' : s.accOk port (barPa m ⟨false, off⟩) true = true := ha
      obtain ⟨⟨hmod, hcl⟩, hmem⟩ := s.hostWrite_bar0 (ep := ep) port hk hm hf.1 hf.2.2.1
      rw [if_pos ha']
      exact ⟨hmod.trans (hcharge port), hcl, hmem⟩
  case read =>
    intro ho hf hh hm
    refine ⟨_, exec_hostRead_served ho ((hfit ..).mp hf) hh, hcharge port, ⟨rfl, rfl, rfl, rfl⟩, fun ha => ?_, fun ha hb => ?_,
      fun ha hb => ?_⟩
    · exact congrArg (s.outputs ++ [·]) (if_neg (ne_true_of_eq_false ha))
    · subst hb
      have hsize : 1 ≤ size := hf.1
      have hend : off + size ≤ 2 ^ 34 := hf.2.2.1
      obtain ⟨hpa, hs0, _⟩ := barPa_bar0 (m := m) (off := off) hm (by omega)
      obtain ⟨hdata, hpoison⟩ := (s.hostCount m port).performRead_scratchpad hs0 (n := size) fun i hi => by
        rw [memKey]
        omega
      refine congrArg (s.outputs ++ [·]) ((if_pos ha).trans ?_)
      rw [hdata, hpoison]
      rfl
    · exact congrArg (s.outputs ++ [·]) (if_pos ha)
  case mgmtOff => exact fun hp b => exec_mgmt_unserved hp
  case mgmtHeld =>
    intro hp ho hk hb b
    exact exec_mgmt_held hp ((mgmtPa_parts hk ho).1 ▸ hb)
  case mgmt =>
    intro hp ho hk hb
    have hat : ctlPa k off = at2 := (mgmtPa_parts hk ho).1
    have hb' : s.tilesBusy (ctlPa k off) 8 = false := hat ▸ hb
    obtain ⟨t, hread, hsame, hdenied, hdata⟩ := exec_mgmt_reads v hp ho hk hb'
    obtain ⟨u, hwrite, hlost, hword, hskew, htable⟩ := exec_mgmt_writes v hp ho hk hb'
    rw [hat] at hdenied hdata hlost hword hskew htable
    exact ⟨t, u, hread, hwrite, hsame, hdenied, hlost, hdata, hword, hskew, htable⟩
  case portOff => exact fun hp => ⟨congrArg _ (if_pos hp), congrArg _ (if_pos hp)⟩
  case port =>
    intro hp
    exact ⟨{ s with outputs := s.outputs ++ [.blackBox e.1 e.2.1 e.2.2.1 e.2.2.2] },
      { s with outputs := s.outputs ++ [.mctp m (Config.mctpReply m msg)] }, congrArg _ (if_neg hp), ⟨rfl, rfl, rfl, rfl⟩, rfl,
      congrArg _ (if_neg hp), ⟨rfl, rfl, rfl, rfl⟩, rfl⟩
  case attestOff => exact fun hp => congrArg _ (if_pos hp)
  case attest =>
    intro hp
    refine ⟨_, exec_attestationRequest nonce hp, ?_⟩
    by_cases hc : d.counter ≥ 2 ^ 20 - 1
    · rw [if_pos hc]
      exact ⟨⟨rfl, rfl, rfl, rfl⟩, fun _ => ⟨rfl, rfl⟩, fun h => absurd hc (Nat.not_le.mpr h)⟩
    · rw [if_neg hc]
      exact ⟨⟨rfl, rfl, rfl, rfl⟩, fun h => absurd h hc, fun _ => ⟨rfl, State.module_updModule_self ..⟩⟩
  case sign =>
    intro ha
    rw [State.attestSign_cons ha]
    exact ⟨_, State.module_updModule_self s m (fun d => { d with attest := r }), ⟨rfl, rfl, rfl, rfl⟩, rfl⟩
  case bootIdle => exact fun h => ⟨exec_boot_idle h, exec_bootAckTimeout_early (.inl h)⟩
  case bootEarly => exact fun h => exec_bootAckTimeout_early (.inr h)
  case boot =>
    intro hb hn
    exact ⟨exec_boot_badImage hb, exec_boot_unpowered hb hn, exec_boot_installs hb hn, exec_bootAckTimeout_alone hb hn⟩
  case joinIdle => exact exec_moduleJoin_idle
  case join =>
    intro hl hr hb hp
    refine ⟨exec_moduleJoin_busy hl hr, fun hrd hj => ⟨_, exec_moduleJoin_refused hl hr hb hp hrd hj, fun q hq => ?_⟩,
      exec_moduleJoin_joins hl hr hb hp⟩
    rw [hq]
    rfl
  case resetOff => exact fun hp => ⟨congrArg _ (if_neg hp), congrArg _ (if_neg hp)⟩
  case returnOn => exact fun hp => congrArg _ (if_pos hp)
  case reset =>
    intro _
    have hblank : ∀ q, blank (s.resetModule m q) q := fun q => ⟨s.byteAt_resetModule m q, s.mem_pmem_resetModule m q,
      s.module_resetModule m q, fun h => (s.cluster_resetModule m q k).trans (if_pos h),
      fun h => (s.cluster_resetModule m q k).trans (if_neg h)⟩
    have hbox : ∀ q, box (s.resetModule m q) := fun q g hg => s.dieAt_resetModule m q hg
    exact ⟨fun hp => ⟨s.resetModule m .on, s.resetModule m .logicLost, congrArg _ (if_pos hp), hblank .on, hbox .on,
        congrArg _ (if_pos hp), hblank .logicLost, hbox .logicLost⟩,
      fun hp => ⟨s.resetModule m .on, congrArg _ (if_neg hp), hblank .on, hbox .on⟩,
      ⟨_, rfl, hblank .off, fun g hg => State.dieAt_withoutDies m (s.resetModule m .off) hg⟩⟩

end Sys2Proof.Machine
end

section
/-! SUPPORT. Contexts saved and loaded, launches pre-empted and bound again (25 R403 to R408). -/

namespace Sys2Proof.Machine

/-! ### CTXSAVE and CTXLOAD (25 R406, R407) -/

section
variable {s : State} {a : SReg} (hfw : s.curFw = true)
include hfw

theorem State.swapArea_marked (hp : (s.ctx.rdS a).poison = true) :
    s.swapArea a = .inl (s.poisonUse (s.ctx.rdS a).val.toNat) :=
  (if_neg (by rw [hfw]; decide)).trans (if_pos hp)

variable (hp : (s.ctx.rdS a).poison = false)
include hp

theorem State.swapArea_unmarked : s.swapArea a =
    if (s.ctx.rdS a).val.toNat ≥ 2 ^ 45 ∨ modOf (paCluster (s.ctx.rdS a).val.toNat) ≠ modOf s.cur then
      .inl (s.raise 0x21 (BitVec.ofNat 32 (s.ctx.rdS a).val.toNat) ((s.ctx.rdS a).val.toNat % 2 ^ 48))
    else if (s.ctx.rdS a).val.toNat % 65536 ≠ 0 then .inl (s.raise 0x20 (BitVec.ofNat 32 (s.ctx.rdS a).val.toNat) (s.ctx.rdS a).val.toNat)
    else .inr (s.ctx.rdS a).val.toNat :=
  (if_neg (by rw [hfw]; decide)).trans (if_neg (ne_true_of_eq_false hp))

theorem State.swapArea_outside (h : 2 ^ 45 ≤ (s.ctx.rdS a).val.toNat ∨ (s.ctx.rdS a).val.toNat / 2 ^ 34 ≠ s.cur / 4096) :
    s.swapArea a = .inl (s.raise 0x21 ((s.ctx.rdS a).val.setWidth 32) ((s.ctx.rdS a).val.toNat % 2 ^ 48)) := by
  rw [State.swapArea_unmarked hfw hp, if_pos, BitVec.ofNat_toNat]
  rw [modOf, modOf, paCluster, memKey]
  omega

variable (h45 : (s.ctx.rdS a).val.toNat < 2 ^ 45) (hmod : (s.ctx.rdS a).val.toNat / 2 ^ 34 = s.cur / 4096)
include h45 hmod

theorem State.swapArea_inside : s.swapArea a = if (s.ctx.rdS a).val.toNat % 65536 ≠ 0 then
    .inl (s.raise 0x20 ((s.ctx.rdS a).val.setWidth 32) (s.ctx.rdS a).val.toNat) else .inr (s.ctx.rdS a).val.toNat := by
  rw [State.swapArea_unmarked hfw hp, if_neg, BitVec.ofNat_toNat]
  rw [modOf, modOf, paCluster, memKey]
  omega

end

section
variable {s t : State} {a : SReg} {v : Nat}

theorem exec_ctxsave_faults (h : s.swapArea a = .inl t) : exec (.ctxsave a) s = .next t := by
  show execCtxsave a s = _
  simp only [execCtxsave, h]

theorem exec_ctxload_faults (h : s.swapArea a = .inl t) : exec (.ctxload a) s = .next t := by
  show execCtxload a s = _
  simp only [execCtxload, h]

theorem exec_swap_faults (h : s.swapArea a = .inl t) : ∀ i ∈ ([.ctxsave a, .ctxload a] : List Instr), exec i s = .next t := by
  intro i hi
  rcases List.mem_pair.mp hi with rfl | rfl
  · exact exec_ctxsave_faults h
  · exact exec_ctxload_faults h

theorem exec_ctxsave_area (h : s.swapArea a = .inr v) : exec (.ctxsave a) s = .next (if s.me.bind.isNone then s.illegalField
    else s.updCtx (fun c => { c with swap := some ⟨v, true, s.slot, none⟩ })) := by
  show execCtxsave a s = _
  simp only [execCtxsave, h]

theorem exec_ctxload_area (h : s.swapArea a = .inr v) : exec (.ctxload a) s = .next (
    if s.areaLayout v ≠ (s.module (modOf s.cur)).active ∨ s.areaLength v ≠ 65536 then s.raise 0x02 (BitVec.ofNat 32 (s.areaLayout v))
    else if !s.rebound s.cur v then s.illegalField
    else s.updCtx (fun c => { c with swap := some ⟨v, false, s.slot, none⟩ })) := by
  show execCtxload a s = _
  simp only [execCtxload, h]

theorem State.areaLayout_eq (s : State) (v : Nat) : s.areaLayout v = ((s.readWord v).setWidth 16).toNat := by
  rw [State.areaLayout, fld, BitVec.toNat_setWidth, pow_zero, Nat.div_one]

theorem State.areaLength_eq (s : State) (v : Nat) : s.areaLength v = ((s.readWord v).extractLsb' 32 32).toNat := by
  rw [State.areaLength, fld, BitVec.extractLsb'_toNat, Nat.shiftRight_eq_div_pow]

end

/-! ### What an abort of packets leaves (22 R370, R371) -/

/-- Two states that differ in memory, marks and modules at most. -/
def State.ExceptPackets (s t : State) : Prop := t = { s with mem := t.mem, pmem := t.pmem, md := t.md }

theorem State.ExceptPackets.trans {s t u : State} (h : s.ExceptPackets t) (g : t.ExceptPackets u) : s.ExceptPackets u := by
  rw [State.ExceptPackets] at *
  rw [g, h]

theorem State.exceptPackets_updQueue (s : State) (m n : Nat) (f : Queue → Queue) : s.ExceptPackets (s.updQueue m n f) := rfl
theorem State.exceptPackets_notify (s : State) (m pa : Nat) : s.ExceptPackets (s.notify m pa) := rfl
theorem State.exceptPackets_writeMarked (s : State) (pa : Nat) (bs : List (Byte × Bool)) : s.ExceptPackets (s.writeMarked pa bs) := rfl

theorem State.exceptPackets_abortOne (s : State) (m n : Nat) (p : Pkt) (code : Nat) : s.ExceptPackets (s.abortOne m n p code) := by
  have hdone : ∀ u : State, u.ExceptPackets (if p.w 2 ≠ 0 ∧ inModule m (p.w 2) 8 then
      (u.writeMarked (p.w 2) (marked 8 (2 ^ 64 - 1) false)).notify m (p.w 2) else u) := by
    intro u
    split
    · exact (State.exceptPackets_writeMarked ..).trans (State.exceptPackets_notify ..)
    · rfl
  exact State.ExceptPackets.trans (State.exceptPackets_updQueue ..) (hdone _)

theorem State.exceptPackets_foldl {f : State → Nat → State} (hf : ∀ (u : State) i, u.ExceptPackets (f u i)) (l : List Nat) (s : State) :
    s.ExceptPackets (l.foldl f s) := by
  induction l generalizing s with
  | nil => rfl
  | cons i l ih => exact (hf s i).trans (ih _)

theorem State.exceptPackets_abortPkt (s : State) (m n : Nat) (p : Pkt) (code : Nat) : s.ExceptPackets (s.abortPkt m n p code) := by
  refine State.ExceptPackets.trans (s.exceptPackets_abortOne m n p code) ?_
  unfold State.abortPkt
  dsimp only
  split
  · exact State.exceptPackets_updQueue ..
  · exact (State.exceptPackets_foldl (fun u i => (State.exceptPackets_updQueue ..).trans (State.exceptPackets_abortOne ..)) _ _).trans
      (State.exceptPackets_updQueue ..)

/-! ### PREEMPT begins to stop launches (25 R403, R404) -/

/-- May the launch of a running cox give way to launch `n`? -/
abbrev State.GivesWay (s : State) (n : Launch) (z : Cox) : Prop := z.mode = .run ∧
  (z.launch.pclass = 2 ∨ (z.launch.pclass = 1 ∧ z.launch.prio < n.prio)) ∧ z.fail = none ∧ z.phase < 8 ∧
    ∀ k ∈ z.members, (s.cluster k).det = false ∧ (s.cluster k).prog.fault = none ∧ (s.cluster k).fw.fault = none ∧
      kget 0 (s.cluster k).savearea z.launch.q ≠ 0 ∧ ∀ q ∈ s.saves, q.1 ≠ kget 0 (s.cluster k).savearea z.launch.q

theorem State.mayPreempt_iff (s : State) (n : Launch) (z : Cox) : (z.mode == .run && s.mayPreempt z n) = true ↔ s.GivesWay n z := by
  simp only [State.mayPreempt, Cluster.areaFor, Bool.and_eq_true, Bool.or_eq_true, beq_iff_eq, decide_eq_true_eq,
    List.all_eq_true, Option.isNone_iff_eq_none, Bool.not_eq_true', bne_iff_ne, and_assoc, gt_iff_lt]

/-- The coxes whose regions a launch overlaps. -/
def Die.lapping (d : Die) (n : Launch) : List (Nat × Cox) := d.coxes.filter (fun y => overlaps y.2.launch n)

/-- The shipped firmware of a member executes its CTXSAVE (25 R404). -/
def Cluster.beginSave (q : Nat) (c : Cluster) : Cluster :=
  if c.fw.park = .halted then { c with fw := { c.fw with swap := some ⟨c.areaFor q, true, 13, none⟩ } } else c

/-- A cox begins to stop its members. -/
def State.beginStop (g : Nat) (s : State) (y : Nat × Cox) : State :=
  y.2.members.foldl (fun s k => s.updCluster k (Cluster.beginSave y.2.launch.q)) (s.setCox g y.1 { y.2 with mode := .saving [] })

theorem Cluster.beginSave_twice (q : Nat) (c : Cluster) : Cluster.beginSave q (Cluster.beginSave q c) = Cluster.beginSave q c := by
  unfold Cluster.beginSave
  by_cases h : c.fw.park = .halted
  · simp only [h, if_true]
    rfl
  · simp only [h, if_false]

theorem Cluster.prog_beginSave (q : Nat) (c : Cluster) : (c.beginSave q).prog = c.prog := by
  unfold Cluster.beginSave
  split <;> rfl

theorem Cluster.swap_beginSave (q : Nat) (c : Cluster) : (c.beginSave q).fw.swap =
    if c.fw.park = .halted then some ⟨kget 0 c.savearea q, true, 13, none⟩ else c.fw.swap := by
  unfold Cluster.beginSave
  split <;> rfl

section
variable (g : Nat) (s : State)

/-- What the stopping of one cox leaves of the rest of the state. -/
theorem State.beginStop_eq (y : Nat × Cox) :
    s.beginStop g y = { s.setCox g y.1 { y.2 with mode := .saving [] } with cl := (s.beginStop g y).cl } :=
  foldl_updates_clusters (fun _ _ => rfl) _ _

theorem State.dieAt_beginStop (y : Nat × Cox) (j : Nat) :
    (s.beginStop g y).dieAt j = (s.setCox g y.1 { y.2 with mode := .saving [] }).dieAt j :=
  (congrArg (State.dieAt · j) (s.beginStop_eq g y) :)

theorem State.cluster_beginStop (y : Nat × Cox) (k : Nat) : (s.beginStop g y).cluster k =
    if k ∈ y.2.members then (s.cluster k).beginSave y.2.launch.q else s.cluster k :=
  cluster_foldl_updCluster (Cluster.beginSave_twice _) _ _ k

theorem State.kept_beginStops (l : List (Nat × Cox)) :
    (l.foldl (State.beginStop g) s).mem = s.mem ∧ (l.foldl (State.beginStop g) s).pmem = s.pmem := by
  induction l generalizing s with
  | nil => exact ⟨rfl, rfl⟩
  | cons y l ih =>
    obtain ⟨h1, h2⟩ := ih (s.beginStop g y)
    exact ⟨h1.trans (congrArg State.mem (s.beginStop_eq g y) :), h2.trans (congrArg State.pmem (s.beginStop_eq g y) :)⟩

theorem State.find?_beginStops_of_not_mem {cox : Nat} (l : List (Nat × Cox)) (h : cox ∉ l.map (·.1)) :
    ((l.foldl (State.beginStop g) s).dieAt g).coxes.find? (fun z => z.1 == cox) = (s.dieAt g).coxes.find? (fun z => z.1 == cox) := by
  induction l generalizing s with
  | nil => rfl
  | cons y l ih =>
    obtain ⟨hy, hl⟩ := not_or.mp (mt List.mem_cons.mpr h)
    rw [List.foldl_cons, ih _ hl, State.dieAt_beginStop, State.setCox, State.dieAt_updDie_self]
    exact find?_kset_of_ne _ _ hy

/-- Each cox that stops is saving. -/
theorem State.find?_beginStops {cox : Nat} {x : Cox} (l : List (Nat × Cox)) (hd : (l.map (·.1)).Nodup) (h : (cox, x) ∈ l) :
    ((l.foldl (State.beginStop g) s).dieAt g).coxes.find? (fun z => z.1 == cox) = some (cox, { x with mode := .saving [] }) := by
  induction l generalizing s with
  | nil => exact absurd h List.not_mem_nil
  | cons y l ih =>
    obtain ⟨hy, hl⟩ := List.nodup_cons.mp hd
    rcases List.mem_cons.mp h with rfl | h
    · rw [List.foldl_cons, State.find?_beginStops_of_not_mem _ _ _ hy, State.dieAt_beginStop]
      exact State.find?_setCox ..
    · exact ih _ hl h

theorem State.cluster_beginStops_of_not_mem {k : Nat} (l : List (Nat × Cox)) (h : ∀ y ∈ l, k ∉ y.2.members) :
    (l.foldl (State.beginStop g) s).cluster k = s.cluster k := by
  induction l generalizing s with
  | nil => rfl
  | cons y l ih =>
    obtain ⟨hy, hl⟩ := List.forall_mem_cons.mp h
    rw [List.foldl_cons, ih _ hl, State.cluster_beginStop, if_neg hy]

/-- A member of one of the coxes alone begins to save for that one. -/
theorem State.cluster_beginStops {cox k : Nat} {x : Cox} (l : List (Nat × Cox)) (hd : (l.map (·.1)).Nodup) (h : (cox, x) ∈ l)
    (hk : k ∈ x.members) (hone : ∀ y ∈ l, k ∈ y.2.members → y.1 = cox) :
    (l.foldl (State.beginStop g) s).cluster k = (s.cluster k).beginSave x.launch.q := by
  induction l generalizing s with
  | nil => exact absurd h List.not_mem_nil
  | cons y l ih =>
    obtain ⟨hy, hl⟩ := List.nodup_cons.mp hd
    obtain ⟨hony, honl⟩ := List.forall_mem_cons.mp hone
    rcases List.mem_cons.mp h with rfl | h
    · have hrest : ∀ z ∈ l, k ∉ z.2.members := fun z hz hkz => hy (List.mem_map.mpr ⟨z, hz, honl z hz hkz⟩)
      rw [List.foldl_cons, State.cluster_beginStops_of_not_mem _ _ _ hrest, State.cluster_beginStop, if_pos hk]
    · have hno : k ∉ y.2.members := fun hky => hy (List.mem_map.mpr ⟨(cox, x), h, (hony hky).symm⟩)
      rw [List.foldl_cons, ih _ hl h honl, State.cluster_beginStop, if_neg hno]

end

section
variable {s : State} {g cox : Nat} {x : Cox} {n : Launch}

theorem exec_preempt_none (h : (s.dieAt g).coxes.find? (fun z => z.1 == cox) = none) : exec (.preempt g cox) s = .next s := by
  show execPreempt g cox s = _
  simp only [execPreempt, h]

variable (h : (s.dieAt g).coxes.find? (fun z => z.1 == cox) = some (cox, x))
include h

theorem exec_preempt_loading {l : List Nat} (hm : x.mode = .loading l) : exec (.preempt g cox) s = .next s := by
  show execPreempt g cox s = _
  simp only [execPreempt, h, hm]

/-- What PREEMPT leaves of the launches that give way. -/
theorem State.preempt_stops (hlap : overlaps x.launch n = true) (hd : ((s.dieAt g).coxes.map (·.1)).Nodup) (k : Nat) :
    let t := ((s.dieAt g).lapping n).foldl (State.beginStop g) s
    (t.mem = s.mem ∧ t.pmem = s.pmem) ∧ (t.dieAt g).coxes.find? (fun z => z.1 == cox) = some (cox, { x with mode := .saving [] }) ∧
      (k ∈ x.members → (∀ z ∈ (s.dieAt g).coxes, k ∈ z.2.members → z.1 = cox) → (t.cluster k).prog = (s.cluster k).prog ∧
        (t.cluster k).fw.swap = if (s.cluster k).fw.park = .halted then some ⟨kget 0 (s.cluster k).savearea x.launch.q, true, 13, none⟩
          else (s.cluster k).fw.swap) := by
  intro t
  have hmem : (cox, x) ∈ (s.dieAt g).lapping n := List.mem_filter.mpr ⟨List.mem_of_find?_eq_some h, hlap⟩
  have hnd : (((s.dieAt g).lapping n).map (·.1)).Nodup := hd.sublist (List.filter_sublist.map _)
  refine ⟨s.kept_beginStops g _, s.find?_beginStops g _ hnd hmem, fun hk hone => ?_⟩
  have hc : t.cluster k = (s.cluster k).beginSave x.launch.q :=
    s.cluster_beginStops g _ hnd hmem hk fun y hy => hone y (List.mem_of_mem_filter hy)
  rw [hc, Cluster.prog_beginSave, Cluster.swap_beginSave]
  exact ⟨rfl, rfl⟩

variable (hm : x.mode = .run)
include hm

theorem exec_preempt_unselected (hs : (s.dieAt g).sel = none) : exec (.preempt g cox) s = .next s := by
  show execPreempt g cox s = _
  simp only [execPreempt, h, hm, hs]

variable (hs : (s.dieAt g).sel = some n)
include hs

theorem exec_preempt_run : exec (.preempt g cox) s = .next (
    if n.tr.isSome && !(s.module (g / 4)).fwBusy && overlaps x.launch n && ((s.dieAt g).lapping n).all (fun y => y.2.mode == .run && s.mayPreempt y.2 n)
    then ((s.dieAt g).lapping n).foldl (State.beginStop g) s else s) := by
  show execPreempt g cox s = _
  simp only [execPreempt, h, hm, hs]
  rfl

theorem exec_preempt_refused (hno : ∃ z ∈ (s.dieAt g).coxes, overlaps z.2.launch n = true ∧ ¬ s.GivesWay n z.2) :
    exec (.preempt g cox) s = .next s := by
  obtain ⟨z, hz, hlap, hgive⟩ := hno
  have hall : ((s.dieAt g).lapping n).all (fun y => y.2.mode == .run && s.mayPreempt y.2 n) = false := by
    refine Bool.eq_false_of_not_eq_true fun hall => hgive ((s.mayPreempt_iff n z.2).mp ?_)
    exact List.all_eq_true.mp hall z (List.mem_filter.mpr ⟨hz, hlap⟩)
  rw [exec_preempt_run h hm hs, hall, Bool.and_false, if_neg Bool.false_ne_true]

theorem exec_preempt_stops (htr : n.tr.isSome = true) (hb : (s.module (g / 4)).fwBusy = false) (hlap : overlaps x.launch n = true)
    (hgive : ∀ z ∈ (s.dieAt g).coxes, overlaps z.2.launch n = true → s.GivesWay n z.2) :
    exec (.preempt g cox) s = .next (((s.dieAt g).lapping n).foldl (State.beginStop g) s) := by
  have hall : ((s.dieAt g).lapping n).all (fun y => y.2.mode == .run && s.mayPreempt y.2 n) = true := by
    refine List.all_eq_true.mpr fun z hz => (s.mayPreempt_iff n z.2).mpr ?_
    obtain ⟨hz, hlap⟩ := List.mem_filter.mp hz
    exact hgive z hz hlap
  rw [exec_preempt_run h hm hs, hall, htr, hb, hlap]
  rfl

end

/-! ### A launch that has been saved is unbound (25 R404) -/

theorem filter_nonempty_streams (l : KMap (List SCmd)) (p : SCmd → Bool) :
    (((l.map (fun q => (q.1, q.2.filter p))).filter (fun q => !q.2.isEmpty)).map (fun q => (q.1, q.2.filter p))).filter
      (fun q => !q.2.isEmpty) = (l.map (fun q => (q.1, q.2.filter p))).filter (fun q => !q.2.isEmpty) := by
  have hid : ∀ x ∈ (l.map (fun q => (q.1, q.2.filter p))).filter (fun q => !q.2.isEmpty), (x.1, x.2.filter p) = id x := by
    intro x hx
    obtain ⟨y, _, rfl⟩ := List.mem_map.mp (List.mem_of_mem_filter hx)
    rw [List.filter_filter, id]
    simp only [Bool.and_self]
  rw [List.map_congr_left hid, List.map_id, List.filter_filter]
  simp only [Bool.and_self]

theorem Cluster.unbind_twice (c : Cluster) : c.unbind.unbind = c.unbind := by
  unfold Cluster.unbind
  rw [filter_nonempty_streams, List.filter_filter]
  simp only [Bool.and_self]

/-- The launch of a cox as it waits to be bound again. -/
def State.savedLaunch (s : State) (x : Cox) : Launch :=
  { x.launch with
    saved := some ⟨x.members, x.phase, x.members.map (fun k => (k, (s.cluster k).padm, (s.cluster k).phbase))⟩, tr := none }

/-- The launch of a saved cox is ready again. -/
def State.unbindLaunch (s : State) (g cox : Nat) (x : Cox) : State :=
  ((x.members.foldl (fun s k => s.updCluster k Cluster.unbind) s).updDie g (fun d => { d with coxes := kdel d.coxes cox })).updModule
    (g / 4) (fun d => { d with ready := d.ready ++ [s.savedLaunch x] })

section
variable (s : State) (g cox : Nat) (x : Cox)

theorem State.unbindLaunch_spec : let t := s.unbindLaunch g cox x
    (t.mem = s.mem ∧ t.pmem = s.pmem) ∧ (t.dieAt g).coxes.find? (fun z => z.1 == cox) = none ∧
      (∀ k ∈ x.members, t.cluster k = (s.cluster k).unbind) ∧
      (t.module (g / 4)).ready = (s.module (g / 4)).ready ++ [s.savedLaunch x] := by
  intro t
  have hfold := foldl_updates_clusters (f := fun s k => s.updCluster k Cluster.unbind) (fun _ _ => rfl) x.members s
  refine ⟨⟨(congrArg State.mem hfold :), (congrArg State.pmem hfold :)⟩, ?_, fun k hk => ?_, ?_⟩
  · have h := State.dieAt_updDie_self (x.members.foldl (fun s k => s.updCluster k Cluster.unbind) s) g
      (fun d => { d with coxes := kdel d.coxes cox })
    exact (congrArg (fun d : Die => d.coxes.find? (fun y => y.1 == cox)) h).trans (find?_kdel_self ..)
  · have h := cluster_foldl_updCluster Cluster.unbind_twice x.members s k
    rw [if_pos hk] at h
    exact h
  · have hm : (x.members.foldl (fun s k => s.updCluster k Cluster.unbind) s).module (g / 4) = s.module (g / 4) :=
      (congrArg (State.module · (g / 4)) hfold :)
    exact (congrArg Module.ready (State.module_updModule_self ..)).trans
      (congrArg (fun d : Module => d.ready ++ [s.savedLaunch x]) hm)

/-- A launch that was aborted ends: its cox is free, its members halted. -/
theorem State.endLaunch_aborted {code : Nat} (hf : x.fail = some code) :
    ((s.endLaunch g cox x).dieAt g).coxes.find? (fun z => z.1 == cox) = none ∧
      ∀ k ∈ x.members, (s.endLaunch g cox x).cluster k = (s.cluster k).unbound := by
  have hend : ∃ u : State, (s.reclaimed g cox x).ExceptPackets u ∧ ∃ w2 w3, s.endLaunch g cox x = u.blackbox g 0x03 (32 * x.launch.row0 +
      x.launch.col0) w2 w3 := by
    refine ⟨if x.launch.moved then s.reclaimed g cox x else (s.reclaimed g cox x).abortPkt (g / 4) x.launch.q
      ((s.reclaimed g cox x).launchPkt (g / 4) x.launch) code, ?_, ?_⟩
    · split
      · rfl
      · exact State.exceptPackets_abortPkt ..
    · unfold State.endLaunch
      rw [hf]
      exact ⟨_, _, rfl⟩
  obtain ⟨u, hu, w2, w3, h⟩ := hend
  have hdie : u.dieAt g = (s.reclaimed g cox x).dieAt g := (congrArg (State.dieAt · g) hu :)
  refine ⟨?_, fun k hk => ?_⟩
  · rw [h, State.field_blackbox Die.coxes fun _ _ _ _ _ _ _ => rfl, hdie]
    have hself := State.dieAt_updDie_self (x.members.foldl (fun s k => s.updCluster k Cluster.unbound) s) g
      (fun d => { d with coxes := kdel d.coxes cox })
    exact (congrArg (fun d : Die => d.coxes.find? (fun y => y.1 == cox)) hself).trans (find?_kdel_self ..)
  · have hcl : u.cluster k = (s.reclaimed g cox x).cluster k := (congrArg (State.cluster · k) hu :)
    rw [h]
    exact hcl.trans (s.cluster_reclaimed g cox x hk)

end

section
variable {s : State} {g cox : Nat} {x : Cox} {ms : List Nat} (h : (s.dieAt g).coxes.find? (fun z => z.1 == cox) = some (cox, x))
include h

section
variable (hm : x.mode = .saving ms)
include hm

theorem exec_preempt_saving : exec (.preempt g cox) s = .next (
    if !x.members.all ms.contains then s
    else if x.fail.isSome then { s.endLaunch g cox x with
      saves := s.saves.filter (fun y => !(x.members.map (fun k => (s.cluster k).areaFor x.launch.q)).contains y.1) }
    else s.unbindLaunch g cox x) := by
  show execPreempt g cox s = _
  simp only [execPreempt, h, hm]
  rfl

theorem exec_preempt_unsaved (hno : ∃ k ∈ x.members, k ∉ ms) : exec (.preempt g cox) s = .next s := by
  obtain ⟨k, hk, hkms⟩ := hno
  have hall : x.members.all ms.contains = false := List.all_eq_false.mpr ⟨k, hk, by rwa [List.contains_iff_mem]⟩
  rw [exec_preempt_saving h hm, hall]
  rfl

/-- All members are saved: the launch is ready again, or over. -/
theorem exec_preempt_saved (k : Nat) (hall : ∀ k ∈ x.members, k ∈ ms) : ∃ t, exec (.preempt g cox) s = .next t ∧
    (x.fail = none → t.mem = s.mem ∧ t.pmem = s.pmem) ∧ (t.dieAt g).coxes.find? (fun z => z.1 == cox) = none ∧
    (k ∈ x.members → (t.cluster k).bind = none ∧ (t.cluster k).block = none ∧
      (t.cluster k).prog = { (s.cluster k).prog with park := .halted }) ∧
    (x.fail = none → (t.module (g / 4)).ready = (s.module (g / 4)).ready ++ [s.savedLaunch x]) ∧
    (x.fail ≠ none → k ∈ x.members → ∀ z ∈ t.saves, z.1 ≠ kget 0 (s.cluster k).savearea x.launch.q) := by
  have hcont : x.members.all ms.contains = true := List.all_eq_true.mpr fun k hk => List.contains_iff_mem.mpr (hall k hk)
  rw [exec_preempt_saving h hm, hcont]
  cases hf : x.fail with
  | none =>
    obtain ⟨hkept, hfind, hcl, hready⟩ := s.unbindLaunch_spec g cox x
    refine ⟨s.unbindLaunch g cox x, rfl, fun _ => hkept, hfind, fun hk => ?_, fun _ => hready, fun hf => absurd rfl hf⟩
    rw [hcl k hk]
    exact ⟨rfl, rfl, rfl⟩
  | some code =>
    obtain ⟨hfind, hcl⟩ := s.endLaunch_aborted g cox x hf
    refine ⟨{ s.endLaunch g cox x with
      saves := s.saves.filter (fun y => !(x.members.map (fun k => (s.cluster k).areaFor x.launch.q)).contains y.1) }, rfl,
      fun hf => absurd hf (Option.some_ne_none _), hfind, fun hk => ?_, fun hf => absurd hf (Option.some_ne_none _), fun _ hk z hz heq => ?_⟩
    · have hc : _ = _ := hcl k hk
      exact ⟨congrArg Cluster.bind hc, congrArg Cluster.block hc, congrArg Cluster.prog hc⟩
    · have hno := (List.mem_filter.mp hz).2
      rw [Bool.not_eq_true', ← Bool.not_eq_true, List.contains_iff_mem] at hno
      exact hno (List.mem_map.mpr ⟨k, hk, heq.symm⟩)

end

section
variable (hm : x.mode = .loading ms)
include hm

theorem exec_preemptRebind_loading : exec (.preemptRebind g cox) s = .next (
    if x.members.all ms.contains then s.setCox g cox { x with mode := .run } else s) := by
  show execPreemptRebind g cox s = _
  simp only [execPreemptRebind, h, hm]
  rfl

theorem exec_preemptRebind_unloaded (hno : ∃ k ∈ x.members, k ∉ ms) : exec (.preemptRebind g cox) s = .next s := by
  obtain ⟨k, hk, hkms⟩ := hno
  have hall : x.members.all ms.contains = false := List.all_eq_false.mpr ⟨k, hk, by rwa [List.contains_iff_mem]⟩
  rw [exec_preemptRebind_loading h hm, hall, if_neg Bool.false_ne_true]

theorem exec_preemptRebind_loaded (hall : ∀ k ∈ x.members, k ∈ ms) :
    exec (.preemptRebind g cox) s = .next (s.setCox g cox { x with mode := .run }) := by
  have hcont : x.members.all ms.contains = true := List.all_eq_true.mpr fun k hk => List.contains_iff_mem.mpr (hall k hk)
  rw [exec_preemptRebind_loading h hm, hcont, if_pos rfl]

end

end

/-! ### PREEMPT_REBIND of a saved launch (25 R405) -/

section
variable {s : State} {g i : Nat} {l : Launch} {sv : Saved} (h : (s.dieAt g).coxes.find? (fun z => z.1 == i) = none)
include h

theorem exec_preemptRebind_nothing (hs : (s.dieAt g).sel = none ∨ ((s.dieAt g).sel = some l ∧ l.saved = none)) :
    exec (.preemptRebind g i) s = .next s := by
  show execPreemptRebind g i s = _
  rcases hs with hs | ⟨hs, hl⟩
  · simp only [execPreemptRebind, h, hs]
  · simp only [execPreemptRebind, h, hs, hl]

variable (hs : (s.dieAt g).sel = some l) (hl : l.saved = some sv)
include hs hl

theorem exec_preemptRebind_fenced (hf : ∃ k ∈ sv.members, (s.cluster k).fenced = true) :
    exec (.preemptRebind g i) s = .next (s.failSel g l 0x06) := by
  have hany : sv.members.any (fun k => (s.cluster k).fenced) = true := List.any_eq_true.mpr hf
  show execPreemptRebind g i s = _
  simp only [execPreemptRebind, h, hs, hl, hany, if_true]

end

/-- Clusters changed each in its own way, some perhaps twice, by changes that a second time change nothing. -/
theorem cluster_foldl_updEach {f : Nat → Cluster → Cluster} (hf : ∀ k c, f k (f k c) = f k c) (ms : List Nat) (s : State) (k : Nat) :
    (ms.foldl (fun s k => s.updCluster k (f k)) s).cluster k = if k ∈ ms then f k (s.cluster k) else s.cluster k := by
  induction ms generalizing s with
  | nil => rfl
  | cons i ms ih =>
    rw [List.foldl_cons, ih]
    by_cases h : k = i
    · subst h
      rw [State.cluster_updCluster_self, hf, ite_self, if_pos List.mem_cons_self]
    · rw [State.cluster_updCluster_of_ne s _ h]
      exact if_congr (List.mem_cons.trans (or_iff_right h)).symm rfl rfl

section
variable (s : State) (cox : Nat) (l : Launch) (d : Desc) (sv : Saved) (pos : List (Nat × List Nat))

/-- What a member is bound to again. -/
def rebindMember (k : Nat) (c : Cluster) : Cluster :=
  c.rebindTo ⟨cox, l.row0, l.col0, l.rows, l.cols, l.index k, l.key⟩ d sv l.q k (((pos.find? (fun x => x.1 == k)).map (·.2)).getD [])

theorem rebindMember_twice (k : Nat) (c : Cluster) :
    rebindMember cox l d sv pos k (rebindMember cox l d sv pos k c) = rebindMember cox l d sv pos k c := by
  unfold rebindMember Cluster.rebindTo
  by_cases h : c.fw.park = .halted
  · simp only [h, if_true]
    rfl
  · simp only [h, if_false]

/-- The members of a saved launch bound again. -/
def State.boundAgain : State := sv.members.foldl (fun s k => s.updCluster k (rebindMember cox l d sv pos k)) s

/-- The same, and the senders to them linked. -/
def State.rebindMembers : State := sv.members.foldl State.linkAgain (s.boundAgain cox l d sv pos)

theorem State.onlyOch_linkAgain (s : State) (k : Nat) : s.onlyOch (s.linkAgain k) := by
  unfold State.linkAgain
  refine State.onlyOch_foldl (fun t x => ?_) _ _
  dsimp only
  split
  · exact t.onlyOch_refl
  · exact t.onlyOch_linkOch _ _

/-- Changes of clusters alone, one after the other. -/
theorem clusters_alone_trans {s t u : State} (h : t = { s with cl := t.cl }) (h' : u = { t with cl := u.cl }) :
    u = { s with cl := u.cl } := h'.trans (by rw [h])

theorem State.rebindMembers_frame : s.rebindMembers cox l d sv pos = { s with cl := (s.rebindMembers cox l d sv pos).cl } :=
  clusters_alone_trans (foldl_updates_clusters (f := fun s k => s.updCluster k (rebindMember cox l d sv pos k)) (fun _ _ => rfl) _ s)
    (State.onlyOch_foldl State.onlyOch_linkAgain sv.members (s.boundAgain cox l d sv pos)).1

theorem State.cluster_rebindMembers {k : Nat} (hk : k ∈ sv.members) : ∃ o, (s.rebindMembers cox l d sv pos).cluster k =
    { rebindMember cox l d sv pos k (s.cluster k) with och := o } := by
  have hbound : (s.boundAgain cox l d sv pos).cluster k = rebindMember cox l d sv pos k (s.cluster k) :=
    (cluster_foldl_updEach (rebindMember_twice cox l d sv pos) sv.members s k).trans (if_pos hk)
  have h := (State.onlyOch_foldl State.onlyOch_linkAgain sv.members (s.boundAgain cox l d sv pos)).2 k
  rw [hbound] at h
  exact ⟨_, h⟩

end

section
variable {s : State} {g i cox : Nat} {l : Launch} {sv : Saved} {d : Desc} {pos : List (Nat × List Nat)}
  (h : (s.dieAt g).coxes.find? (fun z => z.1 == i) = none) (hs : (s.dieAt g).sel = some l) (hl : l.saved = some sv) (ht : l.tr = some d)
  (hc : (s.dieAt g).freeCox = some cox) (hb : (s.module (g / 4)).fwBusy = false)
  (hm : ∀ k ∈ sv.members, (s.cluster k).bind = none ∧ (s.cluster k).fenced = false)
  (hw : wheelAllot d.scpos (s.wheelUsed (g / 4)) sv.members = some pos)
include h hs hl ht hc hb hm hw

theorem exec_preemptRebind_eq : exec (.preemptRebind g i) s = .next ((s.rebindMembers cox l d sv pos).updDie g (fun x =>
    { x with sel := none, coxes := kset x.coxes cox ⟨l, sv.phase, sv.members, none, none, .loading []⟩ })) := by
  have hfenced : sv.members.any (fun k => (s.cluster k).fenced) = false :=
    List.any_eq_false.mpr fun k hk => ne_true_of_eq_false (hm k hk).2
  have hfree : s.membersFree sv.members = true :=
    List.all_eq_true.mpr fun k hk => Option.isNone_iff_eq_none.mpr (hm k hk).1
  show execPreemptRebind g i s = _
  simp only [execPreemptRebind, h, hs, hl, ht, hc, hb, hw, hfenced, hfree, Bool.false_eq_true, if_false, Bool.not_true, or_self]
  rfl

/-- A saved launch is bound again. -/
theorem exec_preemptRebind_binds (k : Nat) : ∃ t, exec (.preemptRebind g i) s = .next t ∧ (t.mem = s.mem ∧ t.pmem = s.pmem) ∧
    (t.dieAt g).sel = none ∧ (t.dieAt g).coxes.find? (fun z => z.1 == cox) = some (cox, ⟨l, sv.phase, sv.members, none, none, .loading []⟩) ∧
    (k ∈ sv.members → (t.cluster k).bind = some ⟨cox, l.row0, l.col0, l.rows, l.cols, l.index k, l.key⟩ ∧ (t.cluster k).phases = d.phases ∧
      (t.cluster k).phase = sv.phase ∧ (t.cluster k).launch = l.q ∧ (t.cluster k).prog = (s.cluster k).prog ∧ (t.cluster k).ibuf = [] ∧
      (t.cluster k).ich = (s.cluster k).ich ∧
      (∀ z, sv.keep.find? (fun e => e.1 == k) = some (k, z) → (t.cluster k).padm = z.1 ∧ (t.cluster k).phbase = z.2) ∧
      (t.cluster k).fw.swap = if (s.cluster k).fw.park = .halted then some ⟨kget 0 (s.cluster k).savearea l.q, false, 13, none⟩
        else (s.cluster k).fw.swap) := by
  have hframe := s.rebindMembers_frame cox l d sv pos
  refine ⟨_, exec_preemptRebind_eq h hs hl ht hc hb hm hw, ⟨(congrArg State.mem hframe :), (congrArg State.pmem hframe :)⟩, ?_, ?_,
    fun hk => ?_⟩
  · rw [State.dieAt_updDie_self]
  · rw [State.dieAt_updDie_self]
    exact find?_kset_self ..
  · obtain ⟨o, ho⟩ := s.cluster_rebindMembers cox l d sv pos hk
    rw [State.cluster_updDie, ho]
    refine ⟨rfl, rfl, rfl, rfl, rfl, rfl, rfl, fun z hz => ?_, ?_⟩
    · have hx : ((sv.keep.find? (fun x => x.1 == k)).map (·.2)).getD (0, 0) = z := by rw [hz]; rfl
      exact ⟨congrArg Prod.fst hx, congrArg Prod.snd hx⟩
    · exact apply_ite Ctx.swap _ _ _

end

end Sys2Proof.Machine
end

section
/-! SUPPORT. Checkpoints (25 R409, R412, R413). -/

namespace Sys2Proof.Machine

/-! ### Writes within a range of the scratchpads -/

/-- From `s` to `t` no byte changes outside the addresses `lo` to `hi`, nor anything but memory, marks and records of areas. -/
def State.WritesIn (lo hi : Nat) (s t : State) : Prop := t = { s with mem := t.mem, pmem := t.pmem, saves := t.saves } ∧
  (s.kept = true → t.kept = true ∧ ∀ a, a < lo ∨ hi ≤ a → t.byteAt a = s.byteAt a)

section
variable {lo hi : Nat} {s t u : State}

theorem State.WritesIn.refl (lo hi : Nat) (s : State) : s.WritesIn lo hi s := ⟨rfl, fun h => ⟨h, fun _ _ => rfl⟩⟩

theorem State.WritesIn.trans (h : State.WritesIn lo hi s t) (h' : State.WritesIn lo hi t u) : State.WritesIn lo hi s u := by
  obtain ⟨hst, hbytes⟩ := h
  obtain ⟨htu, hbytes'⟩ := h'
  refine ⟨htu.trans (by rw [hst]), fun hk => ?_⟩
  obtain ⟨ht, hsame⟩ := hbytes hk
  obtain ⟨hu, hsame'⟩ := hbytes' ht
  exact ⟨hu, fun a ha => (hsame' a ha).trans (hsame a ha)⟩

theorem State.WritesIn.mono {lo' hi' : Nat} (h : State.WritesIn lo hi s t) (hlo : lo' ≤ lo) (hhi : hi ≤ hi') : State.WritesIn lo' hi' s t :=
  ⟨h.1, fun hk => ⟨(h.2 hk).1, fun a ha => (h.2 hk).2 a (by omega)⟩⟩

theorem State.writesIn_foldl {α : Type} {f : State → α → State} {l : List α} (hf : ∀ a ∈ l, ∀ s, State.WritesIn lo hi s (f s a)) (s : State) :
    State.WritesIn lo hi s (l.foldl f s) := by
  induction l generalizing s with
  | nil => exact .refl ..
  | cons a l ih =>
    obtain ⟨ha, hl⟩ := List.forall_mem_cons.mp hf
    exact (ha s).trans (ih hl _)

theorem State.writesIn_writeMarked (s : State) {pa : Nat} {bs : List (Byte × Bool)} (hlo : lo ≤ memKey pa) (hhi : memKey pa + bs.length ≤ hi) :
    State.WritesIn lo hi s (s.writeMarked pa bs) :=
  ⟨rfl, fun hk => ⟨s.kept_writeMarked pa bs hk, fun a ha => s.byteAt_writeMarked_outside pa a bs hk (by omega)⟩⟩

theorem State.WritesIn.readBytes (h : State.WritesIn lo hi s t) (hk : s.kept = true) {pa n : Nat}
    (hout : ∀ i < n, memKey (pa + i) < lo ∨ hi ≤ memKey (pa + i)) : t.readBytes pa n = s.readBytes pa n :=
  List.map_congr_left fun i hi => (h.2 hk).2 _ (hout i (List.mem_range.mp hi))

end

theorem State.readBytes_congr {s t : State} (h : t.mem = s.mem) (pa n : Nat) : s.readBytes pa n = t.readBytes pa n := by
  rw [State.readBytes, State.readBytes, h]

/-! ### The segments of a save area lie in it (25 R409) -/

/-- Segments that lie within an area. -/
def Segs.Fit (l : Segs) : Prop := ∀ x ∈ l, x.1 + x.2.length ≤ 65536

theorem Segs.fit_nil : Segs.Fit [] := fun _ h => absurd h List.not_mem_nil

theorem Segs.fit_cons {x : Nat × List (Byte × Bool)} {l : Segs} (h : x.1 + x.2.length ≤ 65536) (hl : Segs.Fit l) : Segs.Fit (x :: l) :=
  List.forall_mem_cons.mpr ⟨h, hl⟩

theorem Segs.fit_append {l r : Segs} (hl : l.Fit) (hr : r.Fit) : Segs.Fit (l ++ r) := List.forall_mem_append.mpr ⟨hl, hr⟩

theorem Segs.fit_map {α : Type} {f : α → Nat × List (Byte × Bool)} {l : List α} (h : ∀ a ∈ l, (f a).1 + (f a).2.length ≤ 65536) :
    Segs.Fit (l.map f) := List.forall_mem_map.mpr h

theorem Segs.fit_flatMap {α : Type} {f : α → Segs} {l : List α} (h : ∀ a ∈ l, (f a).Fit) : Segs.Fit (l.flatMap f) := by
  intro x hx
  obtain ⟨a, ha, hxa⟩ := List.mem_flatMap.mp hx
  exact h a ha x hxa

theorem length_marked (n v : Nat) (p : Bool) : (marked n v p).length = n := (List.length_map ..).trans (length_toBytes n v)

theorem length_markBytes (l : List Bool) : (markBytes l).length = (l.length + 7) / 8 := (List.length_map ..).trans List.length_range

theorem Segs.fit_seg8 {off : Nat} (v : Nat) (h : off ≤ 65528) : (seg8 off v).1 + (seg8 off v).2.length ≤ 65536 := by
  rw [seg8, length_marked]
  omega

theorem Segs.fit_loopSegs (c : Ctx) (i : Fin 3) : (loopSegs c i).Fit := by
  have hi := i.isLt
  unfold loopSegs
  dsimp only
  split
  · exact fit_cons (fit_seg8 _ (by omega)) (fit_cons (fit_seg8 _ (by omega)) (fit_cons (fit_seg8 _ (by omega))
      (fit_cons (fit_seg8 _ (by omega)) fit_nil)))
  · exact fit_cons (fit_seg8 _ (by omega)) fit_nil

theorem Segs.fit_scmdSegs (x : Mx) {q n : Nat} (c : SCmd) (hq : q < 16) (hn : n < 4) : (scmdSegs x q n c).Fit :=
  fit_cons (fit_seg8 _ (by omega)) (fit_cons (fit_seg8 _ (by omega)) (fit_cons (fit_seg8 _ (by omega)) (fit_cons (fit_seg8 _ (by omega)) fit_nil)))

theorem Segs.fit_mcmdSegs {n : Nat} (m : MCmd) (hn : n < 8) : (mcmdSegs n m).Fit :=
  fit_cons (fit_seg8 _ (by omega)) (fit_cons (fit_seg8 _ (by omega)) (fit_cons (fit_seg8 _ (by omega)) fit_nil))

/-- The numbers that bound what an area holds of a cluster's engines (25 Table 25.2). -/
structure Cluster.AreaBounds (c : Cluster) : Prop where
  fifoA : c.mx.fifoA.length ≤ 4096
  fifoB : c.mx.fifoB.length ≤ 4096
  cols : c.mx.cols.length ≤ 32
  scale : c.mx.scale.length ≤ 16
  tiles : ∀ z ∈ c.mx.tiles, z.1 < 8192
  streams : ∀ z ∈ c.streams, z.1 < 16

theorem length_flatMap_toBytes (l : List Nat) : (l.flatMap (toBytes 2)).length = 2 * l.length := by
  induction l with
  | nil => rfl
  | cons x l ih => rw [List.flatMap_cons, List.length_append, length_toBytes, ih, List.length_cons]; omega

theorem Segs.fit_mxSegs {c : Cluster} (h : c.AreaBounds) : (mxSegs c.mx).Fit := by
  obtain ⟨hA, hB, hcols, hscale, htiles, _⟩ := h
  refine fit_append (fit_append ?_ (fit_map fun z hz => ?_)) (fit_map fun z hz => ?_)
  · refine fit_cons (fit_seg8 _ (by decide)) (fit_cons ?_ (fit_cons ?_ (fit_cons ?_ (fit_cons ?_ (fit_cons ?_ (fit_cons ?_
      (fit_cons ?_ (fit_cons (fit_seg8 _ (by decide)) fit_nil))))))))
    all_goals simp only [List.length_map, length_markBytes, length_flatMap_toBytes, List.length_take]
    all_goals omega
  · have := htiles z hz
    rw [length_marked]
    omega
  · have := htiles z (List.mem_of_mem_filter hz)
    rw [length_marked]
    omega

theorem Segs.fit_blockSegs (b : Option Block) : Segs.Fit (match b with
    | some b => [seg8 0x248 b.addr, seg8 0x250 b.chain.toNat, seg8 0x258 b.nextK, seg8 0x260 b.trips, seg8 0x268 b.ell,
        seg8 0x270 (match b.link with
          | some l => 2 ^ 63 + l
          | none => 0)]
    | none => []) := by
  cases b with
  | none => exact fit_nil
  | some b =>
    exact fit_cons (fit_seg8 _ (by decide)) (fit_cons (fit_seg8 _ (by decide)) (fit_cons (fit_seg8 _ (by decide))
      (fit_cons (fit_seg8 _ (by decide)) (fit_cons (fit_seg8 _ (by decide)) (fit_cons (fit_seg8 _ (by decide)) fit_nil)))))

theorem mem_zipIdx_lt {α : Type} {l : List α} {x : α × Nat} (h : x ∈ l.zipIdx) : x.2 < l.length := by
  have := List.snd_lt_of_mem_zipIdx h
  omega

theorem State.fit_areaSegs {s : State} {k : Nat} (h : (s.cluster k).AreaBounds) : (s.areaSegs k).Fit := by
  have hq := h.streams
  unfold State.areaSegs
  dsimp only
  refine Segs.fit_append (Segs.fit_append (Segs.fit_append (Segs.fit_append (Segs.fit_append (Segs.fit_append (Segs.fit_append
    (Segs.fit_append (Segs.fit_append (Segs.fit_append (Segs.fit_append (Segs.fit_append (Segs.fit_append (Segs.fit_append
    ?head ?scalars) ?predicates) ?loops) ?csrs) ?places) ?block) ?sems) ?locals) ?bars) ?vectors) ?marks) ?streams) ?queue)
    (Segs.fit_mxSegs h)
  case head => exact Segs.fit_cons (Segs.fit_seg8 _ (by decide)) (Segs.fit_cons (Segs.fit_seg8 _ (by decide))
      (Segs.fit_cons (Segs.fit_seg8 _ (by decide)) Segs.fit_nil))
  case scalars =>
    refine Segs.fit_map fun r _ => ?_
    rw [length_marked]
    omega
  case predicates =>
    refine Segs.fit_map fun r _ => ?_
    rw [length_marked]
    omega
  case loops => exact Segs.fit_flatMap fun i _ => Segs.fit_loopSegs _ i
  case csrs =>
    refine Segs.fit_map fun x hx => Segs.fit_seg8 _ ?_
    have hlt : x.2 < 10 := mem_zipIdx_lt hx
    omega
  case places => exact Segs.fit_cons (Segs.fit_seg8 _ (by decide)) (Segs.fit_cons (Segs.fit_seg8 _ (by decide))
      (Segs.fit_cons (Segs.fit_seg8 _ (by decide)) Segs.fit_nil))
  case block => exact Segs.fit_blockSegs _
  case sems =>
    refine Segs.fit_map fun n hn => ?_
    have hlt := List.mem_range.mp hn
    rw [length_marked]
    omega
  case locals =>
    refine Segs.fit_cons ?_ Segs.fit_nil
    rw [length_marked]
    exact (by decide : 0x460 + 30 ≤ 65536)
  case bars => exact Segs.fit_map fun n _ => Segs.fit_seg8 _ (by omega)
  case vectors =>
    refine Segs.fit_flatMap fun r _ => Segs.fit_map fun i _ => ?_
    rw [length_marked]
    omega
  case marks =>
    refine Segs.fit_cons ?_ (Segs.fit_cons ?_ Segs.fit_nil)
    · rw [length_markBytes, List.length_map, List.length_finRange]
      exact (by decide : 0x2000 + (32 + 7) / 8 ≤ 65536)
    · have hlen : ((List.finRange 64).flatMap (fun r => ((s.cluster k).prog.rdV r).toList.map (·.poison))).length = 1024 := by
        simp [List.length_flatMap]
      rw [length_markBytes, hlen]
      exact (by decide : 0x2008 + (1024 + 7) / 8 ≤ 65536)
  case streams =>
    refine Segs.fit_flatMap fun q hqs => Segs.fit_flatMap fun x hx => Segs.fit_scmdSegs _ _ (hq q hqs) ?_
    exact (mem_zipIdx_lt hx).trans_le (List.length_take_le ..)
  case queue =>
    refine Segs.fit_flatMap fun x hx => Segs.fit_mcmdSegs _ ?_
    exact (mem_zipIdx_lt hx).trans_le (List.length_take_le ..)

/-! ### An area and the ranges behind it are written (25 R409, R412) -/

section
variable {s : State} {k addr : Nat}

theorem length_tabulate {α : Type} (n : Nat) (f : Nat → α) : (tabulate n f).length = n := (List.length_map ..).trans List.length_range

/-- Records of areas are no bytes. -/
theorem State.WritesIn.withSaves {lo hi : Nat} {s t : State} (h : State.WritesIn lo hi s t) (m : KMap Cluster) :
    State.WritesIn lo hi s { t with saves := m } := ⟨congrArg (fun u : State => { u with saves := m }) h.1, h.2⟩

/-- The segments of an area written from `addr` on. -/
def State.writeSegs (s : State) (addr : Nat) (l : Segs) : State :=
  l.foldl (fun t x => if x.2.isEmpty then t else t.writeMarked (addr + x.1) x.2) s

theorem State.writesIn_writeSegs (ha : addr + 65536 ≤ 2 ^ 45) {l : Segs} (h : l.Fit) (s : State) :
    State.WritesIn addr (addr + 65536) s (s.writeSegs addr l) := by
  refine State.writesIn_foldl (fun x hx t => ?_) s
  have hx := h x hx
  split
  · exact .refl ..
  · next hne =>
    have hpos : 0 < x.2.length := List.length_pos_iff.mpr fun h => hne (List.isEmpty_iff.mpr h)
    refine t.writesIn_writeMarked ?_ ?_
    · rw [memKey]; omega
    · rw [memKey]; omega

theorem State.writeArea_eq (s : State) (k addr : Nat) : ∃ zeros : List (Byte × Bool), zeros.length = 65536 ∧
    ∃ m, s.writeArea k addr = { (s.writeMarked addr zeros).writeSegs addr (s.areaSegs k) with saves := m } := by
  unfold State.writeArea
  exact ⟨_, length_tabulate _ _, _, rfl⟩

theorem State.writesIn_writeArea (ha : addr + 65536 ≤ 2 ^ 45) (h : (s.cluster k).AreaBounds) :
    State.WritesIn addr (addr + 65536) s (s.writeArea k addr) := by
  obtain ⟨zeros, hlen, m, hw⟩ := s.writeArea_eq k addr
  have hzero : State.WritesIn addr (addr + 65536) s (s.writeMarked addr zeros) := by
    refine s.writesIn_writeMarked ?_ ?_
    · rw [memKey]; omega
    · rw [hlen, memKey]; omega
  rw [hw]
  exact (hzero.trans (State.writesIn_writeSegs ha (s.fit_areaSegs h) _)).withSaves _

/-- The ranges are copied behind `off`, and no further than the cluster's scratchpad reaches. -/
theorem State.writesIn_copyRanges (hk : clusterBase k + 2 ^ 22 ≤ 2 ^ 45) (rs : List (Nat × Nat)) (s : State) (off : Nat) :
    State.WritesIn (clusterBase k + off) (clusterBase k + 2 ^ 22) s (s.copyRanges k off rs) := by
  induction rs generalizing s off with
  | nil => exact .refl ..
  | cons r rs ih =>
    obtain ⟨lo, hi⟩ := r
    rw [State.copyRanges]
    refine .trans ?_ ((ih _ _).mono (by omega) le_rfl)
    split
    · exact .refl ..
    · have hlen : (s.readMarked (clusterBase k + lo) (min (hi - lo) (2 ^ 22 - off))).length = min (hi - lo) (2 ^ 22 - off) :=
        length_tabulate ..
      refine s.writesIn_writeMarked ?_ ?_
      · rw [memKey]; omega
      · rw [hlen, memKey]; omega

end

/-! ### What closing the windows leaves of a cluster (11 R220, R221) -/

/-- A cluster whose windows are closed and whose records have their places in the ring. -/
def Cluster.windowsClosed (c : Cluster) (at_ stroke : Nat) : Cluster := (c.depositAll at_ stroke).flushRecords (at_ + 1)

/-- Two clusters that differ in their windows and dirty-range records at most, of which none is lost unnoticed. -/
def Cluster.ExceptRecords (c c' : Cluster) : Prop := (c.drlOvf = true → c'.drlOvf = true) ∧ c' = { c with
  windows := c'.windows, drlNew := c'.drlNew, drl := c'.drl, drlHead := c'.drlHead, drlTail := c'.drlTail, drlOvf := c'.drlOvf, drlSeq := c'.drlSeq }

theorem Cluster.ExceptRecords.trans {a b c : Cluster} (h : a.ExceptRecords b) (h' : b.ExceptRecords c) : a.ExceptRecords c :=
  ⟨fun ha => h'.1 (h.1 ha), h'.2.trans (by rw [h.2])⟩

theorem Cluster.exceptRecords_foldl {α : Type} {f : Cluster → α → Cluster} (hf : ∀ (c : Cluster) a, c.ExceptRecords (f c a)) (l : List α)
    (c : Cluster) : c.ExceptRecords (l.foldl f c) := by
  induction l generalizing c with
  | nil => exact ⟨id, rfl⟩
  | cons a l ih => exact (hf c a).trans (ih _)

theorem Cluster.exceptRecords_closeWindow (c : Cluster) (q at_ stroke : Nat) : c.ExceptRecords (c.closeWindow q at_ stroke) := by
  unfold Cluster.closeWindow
  split
  · exact ⟨id, rfl⟩
  · exact ⟨id, rfl⟩

theorem Cluster.exceptRecords_deposit (c : Cluster) (q : Nat) (w : Window) (stroke : Nat) : c.ExceptRecords (c.deposit q w stroke) :=
  ⟨fun h => Bool.or_eq_true_iff.mpr (.inl h), rfl⟩

theorem Cluster.exceptRecords_windowsClosed (c : Cluster) (at_ stroke : Nat) : c.ExceptRecords (c.windowsClosed at_ stroke) := by
  refine Cluster.ExceptRecords.trans (b := c.depositAll at_ stroke)
    (Cluster.exceptRecords_foldl (fun c (w : Nat × Window) => c.exceptRecords_closeWindow w.1 at_ stroke) _ c) ?_
  refine Cluster.ExceptRecords.trans (b := { c.depositAll at_ stroke with
    drlNew := (c.depositAll at_ stroke).drlNew.filter (fun x => !decide (x.1 < at_ + 1)) }) ⟨id, rfl⟩ ?_
  exact Cluster.exceptRecords_foldl (fun c (x : Nat × Nat × Nat × Window) => c.exceptRecords_deposit x.2.1 x.2.2.2 x.2.2.1) _ _

theorem Cluster.windowsClosed_nothing {c : Cluster} (hw : c.windows = []) (hn : c.drlNew = []) (at_ stroke : Nat) :
    (c.windowsClosed at_ stroke).drlOvf = c.drlOvf := by
  have hd : c.depositAll at_ stroke = c := by rw [Cluster.depositAll, hw]; rfl
  rw [Cluster.windowsClosed, hd, Cluster.flushRecords, hn]
  rfl

/-! ### The content of a checkpoint (25 R412; 11 R220) -/

/-- Is an offset in a writable LOCAL extent of the launch? -/
abbrev Cluster.LocalAt (c : Cluster) (o : Nat) : Prop :=
  ∃ f ∈ c.phases, ∃ e ∈ f.ext, e.v = true ∧ e.kind = .local ∧ e.w = true ∧ e.pbase ≤ o ∧ o < e.pbase + e.len

theorem Cluster.localOffset_iff (c : Cluster) (o : Nat) : c.localOffset o = true ↔ c.LocalAt o := by
  simp only [Cluster.localOffset, List.any_eq_true, Bool.and_eq_true, beq_iff_eq, decide_eq_true_eq, and_assoc]

/-- Is the image of the cluster's launch known? -/
abbrev State.KnowsImage (s : State) (k : Nat) : Prop :=
  ∃ z ∈ s.images, z.1 = k ∧ ∃ b, (s.cluster k).bind = some b ∧ b.key = z.2.launch.key

theorem State.knowsImage_iff (s : State) (k : Nat) :
    s.images.any (fun x => x.1 == k && (s.cluster k).bind.any (fun y => y.key == x.2.launch.key)) = true ↔ s.KnowsImage k := by
  simp only [List.any_eq_true, Bool.and_eq_true, beq_iff_eq, Option.any_eq_true]

/-- The number of records since the checkpoint before. -/
def Cluster.newRecords (c : Cluster) : Nat := (c.drlSeq - c.ckptDrl).toNat

/-- Does one of those records hold an offset? -/
def Cluster.Noted (c : Cluster) (k o : Nat) : Prop := ∃ i < c.newRecords, let r := kget (0, 0, 0, 0, 0) c.drl ((c.drlHead + 128 - (c.newRecords - i)) % 64)
  r.2.1 ≤ clusterBase k + o ∧ clusterBase k + o ≤ r.2.2.1

section
variable {s : State} {k o : Nat}

/-- The ranges of the extents hold every offset of them. -/
theorem State.dirtyRanges_all (h : (s.cluster k).drlOvf = true ∨ 64 < (s.cluster k).newRecords ∨ ¬ s.KnowsImage k)
    (ho : (s.cluster k).LocalAt o) : ∃ r ∈ s.dirtyRanges k, r.1 ≤ o ∧ o < r.2 := by
  obtain ⟨f, hf, e, he, hv, hkind, hw, hlo, hhi⟩ := ho
  refine ⟨(e.pbase, e.pbase + e.len), ?_, hlo, hhi⟩
  have hcond : (s.cluster k).drlOvf = true ∨ 64 < ((s.cluster k).drlSeq - (s.cluster k).ckptDrl).toNat ∨
      (!s.images.any (fun x => x.1 == k && (s.cluster k).bind.any (fun y => y.key == x.2.launch.key))) = true := by
    refine h.imp_right (Or.imp_right fun h => ?_)
    rw [Bool.eq_false_of_not_eq_true (mt (s.knowsImage_iff k).mp h)]
    rfl
  rw [State.dirtyRanges, if_pos hcond, List.mem_filterMap]
  refine ⟨e, List.mem_flatMap.mpr ⟨f, hf, he⟩, ?_⟩
  rw [hv, hkind, hw]
  rfl

/-- A record cut to a cluster's scratchpad holds the offsets that the record holds. -/
theorem record_cut {lo hi b top o : Nat} : (max lo b < min (hi + 1) (b + top) ∧ max lo b - b ≤ o ∧ o < min (hi + 1) (b + top) - b) ↔
    o < top ∧ lo ≤ b + o ∧ b + o ≤ hi := by
  omega

/-- The ranges of the records hold the offsets noted. -/
theorem State.dirtyRanges_noted (hovf : (s.cluster k).drlOvf = false) (hn : (s.cluster k).newRecords ≤ 64) (hk : s.KnowsImage k) :
    (∃ r ∈ s.dirtyRanges k, r.1 ≤ o ∧ o < r.2) ↔ o < 2 ^ 22 ∧ (s.cluster k).Noted k o := by
  have hcond : ¬ ((s.cluster k).drlOvf = true ∨ 64 < ((s.cluster k).drlSeq - (s.cluster k).ckptDrl).toNat ∨
      (!s.images.any (fun x => x.1 == k && (s.cluster k).bind.any (fun y => y.key == x.2.launch.key))) = true) := by
    rw [(s.knowsImage_iff k).mpr hk, hovf]
    rintro (h | h | h)
    · exact Bool.false_ne_true h
    · exact absurd h (Nat.not_lt.mpr hn)
    · exact absurd h (by decide)
  rw [State.dirtyRanges, if_neg hcond]
  constructor
  · rintro ⟨r, hr, hlo, hhi⟩
    obtain ⟨i, hi, hri⟩ := List.mem_filterMap.mp hr
    dsimp only at hri
    split at hri
    · next hlt =>
      cases hri
      obtain ⟨ho, hnoted⟩ := record_cut.mp ⟨hlt, hlo, hhi⟩
      exact ⟨ho, i, List.mem_range.mp hi, hnoted⟩
    · cases hri
  · rintro ⟨ho, i, hi, hnoted⟩
    obtain ⟨hlt, hlo, hhi⟩ := record_cut.mpr ⟨ho, hnoted⟩
    exact ⟨_, List.mem_filterMap.mpr ⟨i, List.mem_range.mpr hi, if_pos hlt⟩, hlo, hhi⟩

end

section
variable (s : State) (k : Nat)

/-- A byte of the cluster's scratchpad within its LOCAL extents, as it is now. -/
def State.ByteNow (o : Nat) (z : Byte) : Prop := (clusterBase k + o, z) ∈ s.mem ∧ o < 2 ^ 22 ∧ (s.cluster k).LocalAt o

/-- A byte of the image before. -/
def State.ByteBefore (o : Nat) (z : Byte) : Prop := ∃ e, s.images.find? (fun z => z.1 == k) = some (k, e) ∧ (o, z) ∈ e.mem

/-- The bytes of a checkpoint are those of now within the ranges, and those of before outside them. -/
theorem State.mem_localContent (rs : List (Nat × Nat)) (o : Nat) (z : Byte) : (o, z) ∈ (s.localContent k rs).1 ↔
    (s.ByteBefore k o z ∧ ¬ ((s.cluster k).LocalAt o ∧ ∃ r ∈ rs, r.1 ≤ o ∧ o < r.2)) ∨
    (s.ByteNow k o z ∧ ∃ r ∈ rs, r.1 ≤ o ∧ o < r.2) := by
  have hhit : ((s.cluster k).localOffset o && rs.any (fun r => decide (r.1 ≤ o) && decide (o < r.2))) = true ↔
      (s.cluster k).LocalAt o ∧ ∃ r ∈ rs, r.1 ≤ o ∧ o < r.2 := by
    rw [Bool.and_eq_true, Cluster.localOffset_iff, List.any_eq_true]
    simp only [Bool.and_eq_true, decide_eq_true_eq]
  have hold : (o, z) ∈ (match s.images.find? (fun (x : Nat × Image) => x.1 == k) with
      | some (_, i) => (i.mem, i.pmem)
      | none => (([], []) : List Host.Cell × List Nat)).1 ↔ s.ByteBefore k o z := by
    unfold State.ByteBefore
    cases hf : s.images.find? (fun (x : Nat × Image) => x.1 == k) with
    | none => simp
    | some y =>
      have hj : y.1 = k := beq_iff_eq.mp (List.find?_some (p := fun (x : Nat × Image) => x.1 == k) hf)
      obtain ⟨j, i⟩ := y
      subst hj
      simp
  have hnow : (o, z) ∈ ((s.mem.filter (fun x => decide (clusterBase k ≤ x.1) && decide (x.1 < clusterBase k + 2 ^ 22))).map
      (fun x => (x.1 - clusterBase k, x.2))) ↔ (clusterBase k + o, z) ∈ s.mem ∧ o < 2 ^ 22 := by
    simp only [List.mem_map, List.mem_filter, Bool.and_eq_true, decide_eq_true_eq]
    constructor
    · rintro ⟨⟨a, y⟩, ⟨hmem, hlo, hhi⟩, h⟩
      cases h
      dsimp only at hlo hhi
      rw [Nat.add_sub_cancel' hlo]
      exact ⟨hmem, by omega⟩
    · rintro ⟨hmem, ho⟩
      exact ⟨_, ⟨hmem, by dsimp only; omega, by dsimp only; omega⟩, by rw [Nat.add_sub_cancel_left]⟩
  have hmiss : (!((s.cluster k).localOffset o && rs.any (fun r => decide (r.1 ≤ o) && decide (o < r.2)))) = true ↔
      ¬ ((s.cluster k).LocalAt o ∧ ∃ r ∈ rs, r.1 ≤ o ∧ o < r.2) := by
    rw [Bool.not_eq_true', ← Bool.not_eq_true, hhit]
  refine List.mem_append.trans (or_congr (List.mem_filter.trans (and_congr hold hmiss))
    (List.mem_filter.trans ((and_congr hnow hhit).trans ⟨?_, ?_⟩)))
  · rintro ⟨⟨hmem, ho⟩, hloc, hr⟩
    exact ⟨⟨hmem, ho, hloc⟩, hr⟩
  · rintro ⟨⟨hmem, ho, hloc⟩, hr⟩
    exact ⟨⟨hmem, ho⟩, hloc, hr⟩

section
variable {s k} {rs : List (Nat × Nat)} {o : Nat} {z : Byte}

theorem State.localContent_now_or_before (h : (o, z) ∈ (s.localContent k rs).1) : s.ByteNow k o z ∨ s.ByteBefore k o z :=
  ((s.mem_localContent k rs o z).mp h).symm.imp And.left And.left

theorem State.localContent_within (hl : (s.cluster k).LocalAt o) (hr : ∃ r ∈ rs, r.1 ≤ o ∧ o < r.2) :
    (o, z) ∈ (s.localContent k rs).1 ↔ s.ByteNow k o z := by
  rw [State.mem_localContent]
  constructor
  · rintro (⟨_, h⟩ | ⟨h, _⟩)
    · exact absurd ⟨hl, hr⟩ h
    · exact h
  · exact fun h => .inr ⟨h, hr⟩

theorem State.localContent_outside (hr : ¬ ∃ r ∈ rs, r.1 ≤ o ∧ o < r.2) : (o, z) ∈ (s.localContent k rs).1 ↔ s.ByteBefore k o z := by
  rw [State.mem_localContent]
  constructor
  · rintro (⟨h, _⟩ | ⟨_, h⟩)
    · exact h
    · exact absurd h hr
  · exact fun h => .inl ⟨h, fun h => hr h.2⟩

end

/-- What a checkpoint's bytes are (25 R412). -/
theorem State.checkpoint_bytes (o : Nat) (z : Byte) : let c := s.cluster k
    ((o, z) ∈ (s.localContent k (s.dirtyRanges k)).1 → s.ByteNow k o z ∨ s.ByteBefore k o z) ∧
    (c.newRecords ≤ 64 → c.Noted k o → o < 2 ^ 22 → c.LocalAt o → ((o, z) ∈ (s.localContent k (s.dirtyRanges k)).1 ↔ s.ByteNow k o z)) ∧
    ((c.drlOvf = true ∨ ¬ s.KnowsImage k ∨ 64 < c.newRecords) → c.LocalAt o →
      ((o, z) ∈ (s.localContent k (s.dirtyRanges k)).1 ↔ s.ByteNow k o z)) ∧
    (c.drlOvf = false → s.KnowsImage k → c.newRecords ≤ 64 → ¬ c.Noted k o →
      ((o, z) ∈ (s.localContent k (s.dirtyRanges k)).1 ↔ s.ByteBefore k o z)) := by
  intro c
  have hall : (c.drlOvf = true ∨ ¬ s.KnowsImage k ∨ 64 < c.newRecords) → c.LocalAt o →
      ((o, z) ∈ (s.localContent k (s.dirtyRanges k)).1 ↔ s.ByteNow k o z) := fun h hl =>
    State.localContent_within hl (State.dirtyRanges_all (h.imp_right Or.symm) hl)
  refine ⟨State.localContent_now_or_before, fun hn hnoted ho hl => ?_, hall, fun hovf hk hn hno => ?_⟩
  · by_cases h : c.drlOvf = true ∨ ¬ s.KnowsImage k
    · exact hall (h.imp_right .inl) hl
    · obtain ⟨hovf, hk⟩ := not_or.mp h
      exact State.localContent_within hl
        ((State.dirtyRanges_noted (Bool.eq_false_of_not_eq_true hovf) hn (not_not.mp hk)).mpr ⟨ho, hnoted⟩)
  · exact State.localContent_outside fun hr => hno ((State.dirtyRanges_noted hovf hn hk).mp hr).2

end

/-! ### The checkpoint of a context held at its WAITARR (25 R412) -/

section
variable {s : State} {k : Nat}

theorem exec_checkpoint_unheld (h : (s.cluster k).ckptHold = false) : exec (.checkpoint k) s = .next s :=
  congrArg _ (if_pos (by rw [h]; rfl))

section
variable (h : (s.cluster k).ckptHold = true)
include h

theorem exec_checkpoint_left (hp : (s.cluster k).prog.park ≠ .run ∨ (s.cluster k).prog.entry ≠ 13) :
    exec (.checkpoint k) s = .next (s.updCluster k (fun c => { c with ckptHold := false })) :=
  congrArg _ ((if_neg (by rw [h]; decide)).trans (if_pos hp))

variable (hp : (s.cluster k).prog.park = .run) (he : (s.cluster k).prog.entry = 13)
include hp he

theorem exec_checkpoint_waits (hs : s.progStopped k = false) : exec (.checkpoint k) s = .next s :=
  congrArg _ ((if_neg (by rw [h]; decide)).trans ((if_neg (by rw [hp, he]; decide)).trans (if_pos (by rw [hs]; rfl))))

end

/-- A cluster's windows are closed and their records in the ring. -/
def State.recordsIn (s : State) (k : Nat) : State := s.updCluster k (fun c => c.windowsClosed (s.cyc k) (s.strokeOf (modOf k)))

/-- The save area and the dirty ranges are in the staging area. -/
def State.stagingWritten (s : State) (k addr : Nat) : State :=
  (s.writeArea k addr).copyRanges k (addr - clusterBase k + 65536) (s.dirtyRanges k)

/-- The image of a checkpoint for the buddy module. -/
def State.checkpointImage (s : State) (k addr : Nat) (x : Cox) (buddy : Nat) : Image :=
  ⟨(s.writeArea k addr).readBytes addr 65536, (s.localContent k (s.dirtyRanges k)).1, (s.localContent k (s.dirtyRanges k)).2, s.cluster k,
    x.launch, buddy, (65536 + ((s.dirtyRanges k).map (fun r => r.2 - r.1)).sum + 63) / 64⟩

theorem State.area_checkpointImage (s : State) (k addr : Nat) (x : Cox) (buddy : Nat) :
    (s.checkpointImage k addr x buddy).area = (s.writeArea k addr).readBytes addr 65536 := by
  rw [State.checkpointImage]

/-- A cluster whose checkpoint is on its way. -/
def Cluster.checkpointed (stroke : Nat) (c : Cluster) : Cluster :=
  { c with drlOvf := false, ckptOut := true, ckptSeq := c.ckptSeq + 1, ckptAt := stroke, ckptDrl := c.drlSeq }

theorem exec_checkpoint_writes {cox buddy : Nat} {x : Cox} (h : (s.cluster k).ckptHold = true) (hp : (s.cluster k).prog.park = .run)
    (he : (s.cluster k).prog.entry = 13) (hs : s.progStopped k = true) (hx : s.coxOf k = some (cox, x))
    (hb : (s.cluster k).buddy = some buddy) : let a := (s.cluster k).staging
    let u := (s.recordsIn k).stagingWritten k a
    exec (.checkpoint k) s = .next { (u.updCluster k (Cluster.checkpointed ((s.recordsIn k).strokeOf (modOf k)))).updCluster k
        (fun c => { c with ckptHold := false }) with
      saves := kdel u.saves a, staged := kset u.staged k ((s.recordsIn k).checkpointImage k a x buddy) } := by
  have hcond : ¬ ((s.cluster k).prog.park ≠ .run ∨ (s.cluster k).prog.entry ≠ 13) := by rw [hp, he]; decide
  show execCheckpoint k s = _
  unfold execCheckpoint
  simp only [h, hs, hx, hb, Bool.not_true, Bool.false_eq_true, if_false, hcond]
  rfl

/-- What the writing of an area and of ranges leaves. -/
def State.ExceptMemory (s t : State) : Prop := t = { s with mem := t.mem, pmem := t.pmem, saves := t.saves }

theorem State.ExceptMemory.trans {s t u : State} (h : s.ExceptMemory t) (h' : t.ExceptMemory u) : s.ExceptMemory u :=
  Eq.trans h' (by rw [h])

theorem State.exceptMemory_writeMarked (s : State) (pa : Nat) (bs : List (Byte × Bool)) : s.ExceptMemory (s.writeMarked pa bs) := rfl
theorem State.exceptMemory_saves (s : State) (m : KMap Cluster) : s.ExceptMemory { s with saves := m } := rfl

theorem State.exceptMemory_writeSegs (addr : Nat) (l : Segs) (s : State) : s.ExceptMemory (s.writeSegs addr l) := by
  unfold State.writeSegs
  induction l generalizing s with
  | nil => rfl
  | cons x l ih =>
    rw [List.foldl_cons]
    refine State.ExceptMemory.trans ?_ (ih _)
    split <;> rfl

theorem State.exceptMemory_writeArea (s : State) (k addr : Nat) : s.ExceptMemory (s.writeArea k addr) := by
  obtain ⟨zeros, _, m, h⟩ := s.writeArea_eq k addr
  rw [h]
  exact ((s.exceptMemory_writeMarked addr zeros).trans (State.exceptMemory_writeSegs ..)).trans (State.exceptMemory_saves ..)

theorem State.exceptMemory_copyRanges (k : Nat) (rs : List (Nat × Nat)) (s : State) (off : Nat) :
    s.ExceptMemory (s.copyRanges k off rs) := by
  induction rs generalizing s off with
  | nil => rfl
  | cons r rs ih =>
    rw [State.copyRanges]
    refine State.ExceptMemory.trans ?_ (ih _ _)
    split <;> rfl

theorem State.exceptMemory_stagingWritten (s : State) (k addr : Nat) : s.ExceptMemory (s.stagingWritten k addr) :=
  (s.exceptMemory_writeArea k addr).trans (State.exceptMemory_copyRanges ..)

/-- The bytes that the staging area takes, within its cluster's scratchpad. -/
theorem State.stagingWritten_bytes {s : State} {k addr : Nat} (hk : s.kept = true) (hlo : clusterBase k ≤ addr)
    (hhi : addr + 65536 ≤ clusterBase k + 2 ^ 22) (h45 : clusterBase k + 2 ^ 22 ≤ 2 ^ 45) (hb : (s.cluster k).AreaBounds) :
    (s.stagingWritten k addr).readBytes addr 65536 = (s.writeArea k addr).readBytes addr 65536 ∧
    ∀ a, a < addr ∨ clusterBase k + 2 ^ 22 ≤ a → (s.stagingWritten k addr).byteAt a = s.byteAt a := by
  have harea := State.writesIn_writeArea (s := s) (k := k) (addr := addr) (by omega) hb
  have hcopy := State.writesIn_copyRanges h45 (s.dirtyRanges k) (s.writeArea k addr) (addr - clusterBase k + 65536)
  have hall : State.WritesIn addr (clusterBase k + 2 ^ 22) s (s.stagingWritten k addr) :=
    (harea.mono le_rfl hhi).trans (hcopy.mono (by omega) le_rfl)
  refine ⟨hcopy.readBytes (harea.2 hk).1 fun i hi => ?_, (hall.2 hk).2⟩
  rw [memKey]
  omega

section
variable (s : State) (k : Nat)

theorem State.cluster_recordsIn : (s.cluster k).ExceptRecords ((s.recordsIn k).cluster k) := by
  rw [State.recordsIn, State.cluster_updCluster_self]
  exact Cluster.exceptRecords_windowsClosed ..

theorem State.recordsIn_nothing (hw : (s.cluster k).windows = []) (hn : (s.cluster k).drlNew = []) :
    ((s.recordsIn k).cluster k).drlOvf = (s.cluster k).drlOvf := by
  rw [State.recordsIn, State.cluster_updCluster_self]
  exact Cluster.windowsClosed_nothing hw hn _ _

end

/-- A checkpoint is taken: the area and the ranges are in the staging area, the image is staged, the context goes on. -/
theorem exec_checkpoint_taken {s : State} {k cox m : Nat} {x : Cox} (h : (s.cluster k).ckptHold = true)
    (hp : (s.cluster k).prog.park = .run) (he : (s.cluster k).prog.entry = 13) (hs : s.progStopped k = true)
    (hx : s.coxOf k = some (cox, x)) (hb : (s.cluster k).buddy = some m) :
    let c := s.cluster k
    ∃ (t : State) (img : Image), exec (.checkpoint k) s = .next t ∧
      (let u := t.cluster k
       u.prog = c.prog ∧ u.ckptHold = false ∧ u.ckptOut = true ∧ u.drlOvf = false ∧ u.ckptSeq = c.ckptSeq + 1 ∧ u.ckptDrl = u.drlSeq ∧
       u.ckptAt = s.strokeOf (modOf k) ∧ t.staged.find? (fun z => z.1 == k) = some (k, img) ∧
       img.launch = x.launch ∧ img.holder = m ∧ img.ctx.prog = c.prog ∧ img.ctx.phases = c.phases ∧
       (let n := (u.drlSeq - c.ckptDrl).toNat
        let noted (o : Nat) : Prop := ∃ i < n, let r := kget (0, 0, 0, 0, 0) u.drl ((u.drlHead + 128 - (n - i)) % 64)
          r.2.1 ≤ clusterBase k + o ∧ clusterBase k + o ≤ r.2.2.1
        ∀ (o : Nat) (z : Byte), ((o, z) ∈ img.mem → s.ByteNow k o z ∨ s.ByteBefore k o z) ∧
         (n ≤ 64 → noted o → o < 2 ^ 22 → c.LocalAt o → ((o, z) ∈ img.mem ↔ s.ByteNow k o z)) ∧
         ((c.drlOvf = true ∨ ¬ s.KnowsImage k ∨ 64 < n) → c.LocalAt o → ((o, z) ∈ img.mem ↔ s.ByteNow k o z)) ∧
         (c.drlOvf = false → s.KnowsImage k → c.windows = [] → c.drlNew = [] → n ≤ 64 → ¬ noted o →
           ((o, z) ∈ img.mem ↔ s.ByteBefore k o z))) ∧
       (s.kept = true → clusterBase k ≤ c.staging → c.staging + 65536 ≤ clusterBase k + 2 ^ 22 → clusterBase k + 2 ^ 22 ≤ 2 ^ 45 →
         c.AreaBounds → img.area = t.readBytes c.staging 65536 ∧
         ∀ a, a < c.staging ∨ clusterBase k + 2 ^ 22 ≤ a → t.byteAt a = s.byteAt a)) := by
  intro c
  obtain ⟨hovf, hrec⟩ := s.cluster_recordsIn k
  have hnothing := s.recordsIn_nothing k
  have hexec := exec_checkpoint_writes h hp he hs hx hb
  have hmem : (s.recordsIn k).mem = s.mem := rfl
  have himg : (s.recordsIn k).images = s.images := rfl
  have hstroke : (s.recordsIn k).strokeOf (modOf k) = s.strokeOf (modOf k) := rfl
  have hkept : (s.recordsIn k).kept = s.kept := rfl
  have hbyte : ∀ a, (s.recordsIn k).byteAt a = s.byteAt a := fun _ => rfl
  generalize s.recordsIn k = r at *
  have hprog : (r.cluster k).prog = c.prog := (congrArg Cluster.prog hrec :)
  have hphases : (r.cluster k).phases = c.phases := (congrArg Cluster.phases hrec :)
  have hseq : (r.cluster k).ckptSeq = c.ckptSeq := (congrArg Cluster.ckptSeq hrec :)
  have hdrl : (r.cluster k).ckptDrl = c.ckptDrl := (congrArg Cluster.ckptDrl hrec :)
  have hbind : (r.cluster k).bind = c.bind := (congrArg Cluster.bind hrec :)
  have hmx : (r.cluster k).mx = c.mx := (congrArg Cluster.mx hrec :)
  have hstreams : (r.cluster k).streams = c.streams := (congrArg Cluster.streams hrec :)
  have hlocal : ∀ o, (r.cluster k).LocalAt o ↔ c.LocalAt o := fun o => by rw [Cluster.LocalAt, hphases]
  have hnow : ∀ o z, r.ByteNow k o z ↔ s.ByteNow k o z := fun o z => by rw [State.ByteNow, hmem, hlocal]; rfl
  have hbefore : ∀ o z, r.ByteBefore k o z ↔ s.ByteBefore k o z := fun o z => by rw [State.ByteBefore, himg]; rfl
  have hknows : r.KnowsImage k ↔ s.KnowsImage k := by rw [State.KnowsImage, himg, hbind]
  have hcl : ∀ u : State, r.ExceptMemory u → ((u.updCluster k (Cluster.checkpointed (r.strokeOf (modOf k)))).updCluster k
      (fun c => { c with ckptHold := false })).cluster k =
        { (r.cluster k).checkpointed (s.strokeOf (modOf k)) with ckptHold := false } := by
    intro u hu
    have huc : u.cluster k = r.cluster k := (congrArg (State.cluster · k) hu :)
    rw [State.cluster_updCluster_self, State.cluster_updCluster_self, huc, hstroke]
  refine ⟨_, r.checkpointImage k c.staging x m, hexec, ?_⟩
  intro u
  have hu : u = _ := hcl _ (r.exceptMemory_stagingWritten k c.staging)
  clear_value u
  subst hu
  refine ⟨hprog, rfl, rfl, rfl, congrArg (· + 1) hseq, rfl, rfl, find?_kset_self .., rfl, rfl, hprog, hphases, ?_, ?_⟩
  · intro n noted o z
    obtain ⟨hany, hin, hall, hout⟩ := r.checkpoint_bytes k o z
    have hn : (r.cluster k).newRecords = n := congrArg (fun d => ((r.cluster k).drlSeq - d).toNat) hdrl
    have hnoted : (r.cluster k).Noted k o ↔ noted o := by rw [Cluster.Noted, hn]; rfl
    rw [hn, hnoted, hlocal, hnow] at hin
    rw [hn, hknows, hlocal, hnow] at hall
    rw [hn, hnoted, hknows, hbefore] at hout
    rw [hnow, hbefore] at hany
    refine ⟨hany, hin, fun hc => hall (hc.imp_left hovf), fun hc hk hw hd => hout ((hnothing hw hd).trans hc) hk⟩
  · intro hk hlo hhi h45 hbounds
    have hb' : (r.cluster k).AreaBounds := by
      obtain ⟨h1, h2, h3, h4, h5, h6⟩ := hbounds
      rw [← hmx] at h1 h2 h3 h4 h5
      rw [← hstreams] at h6
      exact ⟨h1, h2, h3, h4, h5, h6⟩
    obtain ⟨harea, hsame⟩ := State.stagingWritten_bytes (hkept.trans hk) hlo hhi h45 hb'
    refine ⟨?_, fun a ha => (hsame a ha).trans (hbyte a)⟩
    rw [State.area_checkpointImage, ← harea]
    exact State.readBytes_congr rfl _ _

end

/-! ### The copy of a checkpoint goes out (25 R412; 19 R353) -/

section
variable {s : State} {k : Nat}

theorem exec_checkpointCommit_nothing (h : s.staged.find? (fun z => z.1 == k) = none) :
    exec (.checkpointCommit k) s = .next (s.updCluster k (fun c => { c with ckptOut := false })) := by
  show execCheckpointCommit k s = _
  simp only [execCheckpointCommit, h]

variable {img : Image} (h : s.staged.find? (fun z => z.1 == k) = some (k, img))
include h

theorem exec_checkpointCommit_copyOut (hl : img.left = 0) (hc : s.copyOut k = true) : exec (.checkpointCommit k) s = .next s := by
  show execCheckpointCommit k s = _
  simp only [execCheckpointCommit, h, hl, hc, if_true]

theorem exec_checkpointCommit_committed (hl : img.left = 0) (hc : s.copyOut k = false) : exec (.checkpointCommit k) s = .next
    { s.updCluster k (fun c => { c with ckptOut := false }) with images := kset s.images k img, staged := kdel s.staged k } := by
  show execCheckpointCommit k s = _
  simp only [execCheckpointCommit, h, hl, hc, if_true, Bool.false_eq_true, if_false]

variable {n : Nat} (hn : min (min img.left 4) ((s.module (modOf k)).migbud - (s.module (modOf k)).migUsed) = n) (hl : img.left ≠ 0)
include hn hl

theorem exec_checkpointCommit_spent (h0 : n = 0) : exec (.checkpointCommit k) s = .next s := by
  show execCheckpointCommit k s = _
  simp only [execCheckpointCommit, h, hl, hn, h0, if_true, if_false]

theorem exec_checkpointCommit_part (h0 : n ≠ 0) : exec (.checkpointCommit k) s = .next
    { (s.updModule (modOf k) (fun d => { d with migUsed := d.migUsed + n })).sendAs (.slot true 16) k (4096 * img.holder) 0
        (.ckpt (64 * n)) .out [] [] false with staged := kset s.staged k { img with left := img.left - n } } := by
  show execCheckpointCommit k s = _
  simp only [execCheckpointCommit, h, hl, hn, h0, if_false]
  rfl

/-- A part of the copy goes out within the migration budget. -/
theorem exec_checkpointCommit_goes (h0 : n ≠ 0) : ∃ t, exec (.checkpointCommit k) s = .next t ∧ (t.mem = s.mem ∧ t.pmem = s.pmem) ∧
    t.cl = s.cl ∧ t.images = s.images ∧ (t.module (modOf k)).migUsed = (s.module (modOf k)).migUsed + n ∧
    t.staged.find? (fun z => z.1 == k) = some (k, { img with left := img.left - n }) ∧
    ∃ x, t.net = s.net ++ [x] ∧ x.kind = .ckpt (64 * n) ∧ x.src = k ∧ modOf x.dst = img.holder := by
  refine ⟨_, exec_checkpointCommit_part h hn hl h0, ⟨rfl, rfl⟩, rfl, rfl, ?_, find?_kset_self .., _, rfl, rfl, rfl,
    Nat.mul_div_cancel_left _ (by decide)⟩
  exact congrArg Module.migUsed (State.module_updModule_self s (modOf k) (fun d => { d with migUsed := d.migUsed + n }))

end

end Sys2Proof.Machine
end

section
/-! SUPPORT. A failed module and the stages that move (25 R413 to R415). -/

namespace Sys2Proof.Machine

/-! ### A module is noted failed (25 R414) -/

theorem State.isFailed_iff (s : State) (m : Nat) : s.isFailed m = true ↔ ∃ z ∈ s.md, z.1 ≠ m ∧ m ∈ z.2.failed := by
  simp only [State.isFailed, List.any_eq_true, Bool.and_eq_true, bne_iff_ne, List.contains_iff_mem]

/-- The other modules note that module `m` has failed. -/
def State.noteFailed (s : State) (m : Nat) : State :=
  { s with md := s.md.map (fun x => if x.1 = m then x else (x.1, { x.2 with failed := x.2.failed ++ [m] })) }

/-- What waits for it is discarded, and what others await of it is answered. -/
def State.cutFrom (s : State) (m : Nat) : State := ((s.noteFailed m).dropCheckpoints m).answerLost m

theorem exec_moduleFailed_idle {s : State} {m : Nat} (h : s.gone m = false ∨ ∃ z ∈ s.md, z.1 ≠ m ∧ m ∈ z.2.failed) :
    exec (.moduleFailed m) s = .next s := by
  refine congrArg _ (if_pos (h.imp (fun h => ?_) (s.isFailed_iff m).mpr))
  rw [h]
  rfl

theorem exec_moduleFailed {s : State} {m : Nat} (hg : s.gone m = true) (hn : ∀ z ∈ s.md, z.1 ≠ m → m ∉ z.2.failed) :
    exec (.moduleFailed m) s = .next (((s.noteFailed m).module m).stages.foldl (fun s st => s.moveStage m st) (s.cutFrom m)) := by
  refine congrArg _ (if_neg ?_)
  rintro (h | h)
  · rw [hg] at h
    exact absurd h (by decide)
  · obtain ⟨z, hz, hzm, hf⟩ := (s.isFailed_iff m).mp h
    exact hn z hz hzm hf

section
variable (s : State) (m : Nat)

/-- What the note leaves of a module. -/
theorem State.field_noteFailed {α : Type} (π : Module → α) (hπ : ∀ d x, π { d with failed := x } = π d) (j : Nat) :
    π ((s.noteFailed m).module j) = π (s.module j) := by
  have h : ∀ (l : KMap Module) d, π (kget d (l.map (fun x => if x.1 = m then x else (x.1, { x.2 with failed := x.2.failed ++ [m] }))) j) =
      π (kget d l j) := by
    intro l d
    induction l with
    | nil => rfl
    | cons x l ih =>
      by_cases hx : x.1 = m
      · rw [List.map_cons, if_pos hx, kget, kget, apply_ite π, apply_ite π, ih]
      · rw [List.map_cons, if_neg hx, kget, kget, apply_ite π, apply_ite π, ih, hπ]
  exact h ..

theorem State.failed_noteFailed {z : Nat × Module} (hz : z ∈ s.md) (hm : z.1 ≠ m) : m ∈ ((s.noteFailed m).module z.1).failed := by
  have h : ∀ (l : KMap Module) d, z ∈ l →
      m ∈ (kget d (l.map (fun x => if x.1 = m then x else (x.1, { x.2 with failed := x.2.failed ++ [m] }))) z.1).failed := by
    intro l d hl
    induction l with
    | nil => exact absurd hl List.not_mem_nil
    | cons x l ih =>
      by_cases hx : x.1 = z.1
      · have hxm : x.1 ≠ m := hx ▸ hm
        rw [List.map_cons, if_neg hxm, kget, if_pos hx]
        exact List.mem_append_right _ List.mem_cons_self
      · have hrest := ih ((List.mem_cons.mp hl).resolve_left fun h => hx (congrArg Prod.fst h).symm)
        by_cases hxm : x.1 = m
        · rw [List.map_cons, if_pos hxm, kget, if_neg hx]
          exact hrest
        · rw [List.map_cons, if_neg hxm, kget, if_neg hx]
          exact hrest
  exact h _ _ hz

end

/-- Two states that differ in the messages at most. -/
def State.OnlyNet (s t : State) : Prop := t = { s with net := t.net }

theorem State.OnlyNet.trans {s t u : State} (h : s.OnlyNet t) (h' : t.OnlyNet u) : s.OnlyNet u := Eq.trans h' (by rw [h])

theorem State.onlyNet_updMsg (s : State) (id : Nat) (f : Msg → Msg) : s.OnlyNet (s.updMsg id f) := rfl

theorem State.onlyNet_answer (s : State) (id : Nat) (bs : List (Byte × Bool)) (deny : Bool) : s.OnlyNet (s.answer id bs deny) := rfl

theorem State.onlyNet_goOn (s : State) (id : Nat) (kind : MsgKind) (done : Bool) (got : List (Nat × List (Byte × Bool))) :
    s.OnlyNet (s.goOn id kind done got) := by
  cases done <;> rfl

theorem State.onlyNet_answerDead (s : State) (m : Msg) : s.OnlyNet (s.answerDead m) := by
  unfold State.answerDead
  dsimp only
  split
  · exact s.onlyNet_answer ..
  · exact s.onlyNet_goOn ..
  · exact s.onlyNet_goOn ..
  · exact s.onlyNet_answer ..
  · exact s.onlyNet_answer ..

theorem State.onlyNet_answerLost (s : State) (m : Nat) : s.OnlyNet (s.answerLost m) := by
  unfold State.answerLost
  generalize s.net.filter _ = l
  induction l generalizing s with
  | nil => rfl
  | cons x l ih => exact ((s.onlyNet_answerDead x).trans (State.onlyNet_updMsg ..)).trans (ih _)

/-- What is left of a state that is cut from a failed module. -/
theorem State.cutFrom_eq (s : State) (m : Nat) : s.cutFrom m = { s.noteFailed m with
    net := (s.cutFrom m).net
    staged := s.staged.filter (fun x => modOf x.1 != m && x.2.holder != m)
    images := s.images.filter (fun x => x.2.holder != m) } := State.onlyNet_answerLost ..

/-! ### A stage without a spare (25 R414) -/

theorem State.moveStage_noSpare {s : State} {m k : Nat} {st : Stage} (hs : st.spare = []) (hh : st.home.head? = some k) :
    s.moveStage m st = (s.updModule m (fun d => { d with stages := d.stages.erase st })).failCox k 0x0A := by
  have hi : s.stageImages st = none := by
    unfold State.stageImages
    rw [hs, List.zip_nil_right]
    rfl
  unfold State.moveStage
  simp only [hi, hh]

/-- The launch of a bound cluster fails. -/
theorem State.find?_failCox {s : State} {k code : Nat} {b : Binding} {x : Cox} (hb : (s.cluster k).bind = some b)
    (hx : (s.dieAt (dieKey k)).coxes.find? (fun z => z.1 == b.cox) = some (b.cox, x)) (hf : x.fail = none) :
    ((s.failCox k code).dieAt (dieKey k)).coxes.find? (fun z => z.1 == b.cox) = some (b.cox, { x with fail := some code }) := by
  unfold State.failCox
  simp only [hb]
  rw [State.dieAt_updDie_self]
  simp only [hx, hf, Option.isSome_none, Bool.false_eq_true, if_false]
  exact find?_kset_self ..

theorem State.kept_failCox (s : State) (k code : Nat) : (s.failCox k code).mem = s.mem ∧ (s.failCox k code).pmem = s.pmem := by
  unfold State.failCox
  split
  · exact ⟨rfl, rfl⟩
  · exact ⟨rfl, rfl⟩

/-! ### What restoring and rebinding leave (25 R405, R414, R415) -/

/-- From `s` to `t` no byte changes, nor what clusters are bound to and their phases. -/
def State.KeepsPlaces (s t : State) : Prop := t.mem = s.mem ∧ ∀ j, (t.cluster j).bind = (s.cluster j).bind ∧
  (t.cluster j).phases = (s.cluster j).phases ∧ (t.cluster j).phase = (s.cluster j).phase

theorem State.KeepsPlaces.refl (s : State) : s.KeepsPlaces s := ⟨rfl, fun _ => ⟨rfl, rfl, rfl⟩⟩

theorem State.KeepsPlaces.trans {s t u : State} (h : s.KeepsPlaces t) (h' : t.KeepsPlaces u) : s.KeepsPlaces u := by
  obtain ⟨hm, hc⟩ := h
  obtain ⟨hm', hc'⟩ := h'
  refine ⟨hm'.trans hm, fun j => ?_⟩
  obtain ⟨h1, h2, h3⟩ := hc j
  obtain ⟨h1', h2', h3'⟩ := hc' j
  exact ⟨h1'.trans h1, h2'.trans h2, h3'.trans h3⟩

theorem State.keepsPlaces_of_cl {s t : State} (hm : t.mem = s.mem) (hc : t.cl = s.cl) : s.KeepsPlaces t := by
  have h : ∀ j, t.cluster j = s.cluster j := fun j => by rw [State.cluster, State.cluster, hc]
  exact ⟨hm, fun j => by rw [h]; exact ⟨rfl, rfl, rfl⟩⟩

theorem State.keepsPlaces_foldl {α : Type} {f : State → α → State} (hf : ∀ (s : State) a, s.KeepsPlaces (f s a)) (l : List α) (s : State) :
    s.KeepsPlaces (l.foldl f s) := by
  induction l generalizing s with
  | nil => exact .refl s
  | cons a l ih => exact (hf s a).trans (ih _)

theorem State.keepsPlaces_updCluster (s : State) (k : Nat) {f : Cluster → Cluster} (hb : ∀ c, (f c).bind = c.bind)
    (hp : ∀ c, (f c).phases = c.phases) (hn : ∀ c, (f c).phase = c.phase) : s.KeepsPlaces (s.updCluster k f) :=
  ⟨rfl, fun j => ⟨s.field_updCluster Cluster.bind k j hb, s.field_updCluster Cluster.phases k j hp, s.field_updCluster Cluster.phase k j hn⟩⟩

theorem State.keepsPlaces_setCtxOf (s : State) (k : Nat) (fw : Bool) (x : Ctx) : s.KeepsPlaces (s.setCtxOf k fw x) := by
  have h : s.KeepsPlaces (s.updCluster k (fun c => if fw then { c with fw := x } else { c with prog := x })) := by
    cases fw <;> exact s.keepsPlaces_updCluster k (fun _ => rfl) (fun _ => rfl) (fun _ => rfl)
  exact h

theorem State.keepsPlaces_failCox (s : State) (k code : Nat) : s.KeepsPlaces (s.failCox k code) := by
  unfold State.failCox
  split
  · exact .refl s
  · exact State.keepsPlaces_of_cl rfl rfl

theorem State.keepsPlaces_reloadPlane (s : State) (k : Nat) (ns : List (Fin 16)) : s.KeepsPlaces (s.reloadPlane k ns) := by
  unfold State.reloadPlane
  refine State.keepsPlaces_foldl (fun u n => ?_) ns s
  split
  · exact .refl u
  · split
    · next t _ _ hl =>
      have ht : ∃ x, t = u.setCtxOf k false x := by
        unfold State.loadGraph at hl
        split at hl
        · cases hl
        · split at hl
          · cases hl
          · obtain ⟨r, _, hr⟩ := Option.map_eq_some_iff.mp hl
            exact ⟨_, (congrArg Prod.fst hr).symm⟩
      obtain ⟨x, rfl⟩ := ht
      exact u.keepsPlaces_setCtxOf ..
    · exact .refl u

theorem State.keepsPlaces_restoreBlock (s : State) (k : Nat) (o : Block) : s.KeepsPlaces (s.restoreBlock k o) := by
  unfold State.restoreBlock
  split
  · exact s.keepsPlaces_setCtxOf ..
  · dsimp only
    split
    · exact s.keepsPlaces_updCluster k (fun _ => rfl) (fun _ => rfl) (fun _ => rfl)
    · refine State.KeepsPlaces.trans ?_ (State.keepsPlaces_failCox ..)
      exact s.keepsPlaces_updCluster k (fun _ => rfl) (fun _ => rfl) (fun _ => rfl)

theorem State.keepsPlaces_restore (s : State) (k : Nat) (old : Cluster) (ns : List (Fin 16)) : s.KeepsPlaces (s.restore k old ns) := by
  have hset : s.KeepsPlaces (s.updCluster k (restored old)) :=
    s.keepsPlaces_updCluster k (fun _ => rfl) (fun _ => rfl) (fun _ => rfl)
  have h : s.KeepsPlaces ((s.updCluster k (restored old)).reloadPlane k ns) := hset.trans (State.keepsPlaces_reloadPlane ..)
  unfold State.restore
  dsimp only
  split
  · exact h.trans (State.keepsPlaces_restoreBlock ..)
  · exact h

theorem State.keepsPlaces_updCmd (s : State) (k q id : Nat) (f : SCmd → SCmd) : s.KeepsPlaces (s.updCmd k q id f) :=
  s.keepsPlaces_updCluster k (fun _ => rfl) (fun _ => rfl) (fun _ => rfl)

theorem State.keepsPlaces_updIch (s : State) (k i : Nat) (f : Ich → Ich) : s.KeepsPlaces (s.updIch k i f) :=
  s.keepsPlaces_updCluster k (fun _ => rfl) (fun _ => rfl) (fun _ => rfl)

theorem State.keepsPlaces_updOch (s : State) (k o : Nat) (f : Och → Och) : s.KeepsPlaces (s.updOch k o f) :=
  s.keepsPlaces_updCluster k (fun _ => rfl) (fun _ => rfl) (fun _ => rfl)

theorem State.noteMsg_packet (s : State) (k : Nat) (by_ : Issuer) (i : Fin 16) (q : Word) (bs : List (Byte × Bool)) (p : Bool) :
    s.noteMsg k by_ (.packet i q bs p) = s := by
  cases by_ <;> rfl

theorem State.keepsPlaces_sendPacket (s : State) (by_ : Issuer) (src dst va : Nat) (i : Fin 16) (q : Word) (bs : List (Byte × Bool))
    (p : Bool) (cond : List Dep) (after : List Nat) : s.KeepsPlaces (s.send by_ src dst va (.packet i q bs p) cond after) := by
  unfold State.send
  rw [State.noteMsg_packet]
  split
  · exact State.keepsPlaces_of_cl rfl rfl
  · exact State.keepsPlaces_of_cl rfl rfl

theorem State.keepsPlaces_resend (s : State) (k o : Nat) (q : Word) (old : Option Msg) : s.KeepsPlaces (s.resend k o q old) := by
  unfold State.resend
  dsimp only
  have hroute : ∀ (u : State) (id : Nat) (r : List Nat), u.KeepsPlaces (u.routeLast id r) := fun u _ _ => State.keepsPlaces_of_cl rfl rfl
  split
  · exact ((s.keepsPlaces_sendPacket ..).trans (hroute ..)).trans (State.keepsPlaces_updCmd ..)
  · exact (s.keepsPlaces_sendPacket ..).trans (hroute ..)

theorem State.keepsPlaces_replay (s : State) (k o : Nat) (a : Word) (lost : List Msg) : s.KeepsPlaces (s.replay k o a lost) := by
  unfold State.replay
  dsimp only
  refine State.KeepsPlaces.trans (State.keepsPlaces_foldl (fun u m => ?_) _ s)
    (State.keepsPlaces_foldl (fun u q => u.keepsPlaces_resend ..) _ _)
  split
  · exact u.keepsPlaces_updCmd ..
  · exact .refl u

theorem State.keepsPlaces_rebind (s : State) (mv : Moved) (k o j i ok oj : Nat) : s.KeepsPlaces (s.rebind mv k o j i ok oj) := by
  have hagain : ∀ (u : State) (b : Bool) (f : Och → Och) (a : Word) (lost : List Msg),
      u.KeepsPlaces (if b then (u.updOch k o f).replay k o a lost else u.updOch k o f) := by
    intro u b f a lost
    split
    · exact (u.keepsPlaces_updOch ..).trans (State.keepsPlaces_replay ..)
    · exact u.keepsPlaces_updOch ..
  have hdrop : ∀ (u : State) ids (b : Bool) (f : Msg → Msg), u.KeepsPlaces
      (if b then u.dropAll ids else { u.dropAll ids with net := (u.dropAll ids).net.map f }) := by
    intro u ids b f
    split
    · exact State.keepsPlaces_of_cl rfl rfl
    · exact State.keepsPlaces_of_cl rfl rfl
  unfold State.rebind
  dsimp only
  cases mv with
  | receiver => exact ((hdrop ..).trans (State.keepsPlaces_updIch ..)).trans (hagain ..)
  | neither => exact (hdrop ..).trans (hagain ..)
  | sender => exact ((hdrop ..).trans (State.keepsPlaces_updIch ..)).trans (State.keepsPlaces_updOch ..)

theorem State.keepsPlaces_rebindIns (s : State) (old k : Nat) : s.KeepsPlaces (s.rebindIns old k) := by
  unfold State.rebindIns
  refine State.keepsPlaces_foldl (fun u x => ?_) _ s
  split
  · exact u.keepsPlaces_rebind ..
  · exact .refl u

theorem State.keepsPlaces_rebindOuts (s : State) (old k : Nat) : s.KeepsPlaces (s.rebindOuts old k) := by
  unfold State.rebindOuts
  refine State.keepsPlaces_foldl (fun u x => ?_) _ s
  split
  · exact u.keepsPlaces_rebind ..
  · exact .refl u

/-! ### The bytes of an image are placed (25 R414) -/

/-- Bytes written one by one from `b` on. -/
def memSetCells (b : Nat) (m : List Host.Cell) (l : List Host.Cell) : List Host.Cell := l.foldl (fun m x => memSet m (b + x.1) x.2) m

section
variable {b a : Nat} {l : List Host.Cell} {m : List Host.Cell} (hw : Memory.wf m = true)
include hw

theorem memGet_memSetCells_of_not_mem (h : ∀ x ∈ l, a ≠ b + x.1) : memGet (memSetCells b m l) a = memGet m a := by
  induction l generalizing m with
  | nil => rfl
  | cons x l ih =>
    obtain ⟨hx, hl⟩ := List.forall_mem_cons.mp h
    rw [memSetCells, List.foldl_cons, ← memSetCells, ih (Memory.wf_memSet _ _ _ hw) hl, memGet_memSet _ _ _ _ hw, if_neg hx]

theorem memGet_memSetCells {x : Host.Cell} (hd : (l.map (·.1)).Nodup) (h : x ∈ l) : memGet (memSetCells b m l) (b + x.1) = x.2 := by
  induction l generalizing m with
  | nil => exact absurd h List.not_mem_nil
  | cons y l ih =>
    obtain ⟨hy, hl⟩ := List.nodup_cons.mp hd
    rw [memSetCells, List.foldl_cons, ← memSetCells]
    rcases List.mem_cons.mp h with rfl | h
    · have hrest : ∀ z ∈ l, b + x.1 ≠ b + z.1 := fun z hz he => hy (List.mem_map.mpr ⟨z, hz, Nat.add_left_cancel he.symm⟩)
      rw [memGet_memSetCells_of_not_mem (Memory.wf_memSet _ _ _ hw) hrest, memGet_memSet _ _ _ _ hw, if_pos rfl]
    · exact ih (Memory.wf_memSet _ _ _ hw) hl h

end

/-- Is an address one of the writable LOCAL extents that an image has bytes of? -/
def Image.owns (i : Image) (k a : Nat) : Bool :=
  decide (clusterBase k ≤ a) && decide (a < clusterBase k + 2 ^ 22) && i.ctx.localOffset (a - clusterBase k)

theorem State.mem_placeBytes (s : State) (k : Nat) (i : Image) :
    (s.placeBytes k i).mem = memSetCells (clusterBase k) (s.mem.filter (fun x => !i.owns k x.1)) i.mem := by
  have hfold : ∀ (l : List Host.Cell) (u : State), (l.foldl (fun (s : State) x => { s with mem := memSet s.mem (clusterBase k + x.1) x.2 }) u).mem =
      memSetCells (clusterBase k) u.mem l := by
    intro l
    induction l with
    | nil => exact fun _ => rfl
    | cons x l ih => exact fun u => ih _
  exact hfold ..

section
variable {s : State} {k : Nat} {i : Image} (hw : Memory.wf s.mem = true)
include hw

theorem State.byteAt_placeBytes_elsewhere (hi : ∀ z ∈ i.mem, z.1 < 2 ^ 22) {a : Nat} (ha : a / 2 ^ 22 ≠ k) : (s.placeBytes k i).byteAt a = s.byteAt a := by
  have hno : i.owns k a = false := by
    refine Bool.eq_false_of_not_eq_true fun h => ha ?_
    rw [Image.owns, Bool.and_eq_true, Bool.and_eq_true, decide_eq_true_eq, decide_eq_true_eq, clusterBase] at h
    omega
  rw [State.byteAt, State.mem_placeBytes, memGet_memSetCells_of_not_mem (Memory.wf_filter _ _ hw) fun z hz he => ?_,
    memGet_filter (fun a => !i.owns k a), hno]
  · rfl
  · have := hi z hz
    rw [clusterBase] at he
    omega

theorem State.byteAt_placeBytes_unlisted {o : Nat} (ho : o < 2 ^ 22) (hl : i.ctx.LocalAt o) (hn : o ∉ i.mem.map (·.1)) :
    (s.placeBytes k i).byteAt (clusterBase k + o) = 0 := by
  have hown : i.owns k (clusterBase k + o) = true := by
    rw [Image.owns, Nat.add_sub_cancel_left, (Cluster.localOffset_iff ..).mpr hl, Bool.and_true, Bool.and_eq_true, decide_eq_true_eq,
      decide_eq_true_eq]
    omega
  rw [State.byteAt, State.mem_placeBytes, memGet_memSetCells_of_not_mem (Memory.wf_filter _ _ hw) fun z hz he => ?_,
    memGet_filter (fun a => !i.owns k a), hown]
  · rfl
  · exact hn (List.mem_map.mpr ⟨z, hz, by omega⟩)

theorem State.byteAt_placeBytes_listed (hd : (i.mem.map (·.1)).Nodup) {z : Host.Cell} (hz : z ∈ i.mem) : (s.placeBytes k i).byteAt (clusterBase k + z.1) = z.2 := by
  rw [State.byteAt, State.mem_placeBytes]
  exact memGet_memSetCells (Memory.wf_filter _ _ hw) hd hz

end

/-- A spare cluster as it is configured for an image, before its context is restored. -/
def State.placeConfigured (s : State) (k : Nat) (i : Image) (b : Binding) (pos : List Nat) : State :=
  ((s.placeBytes k i).updCluster k (fun c => { c with
    bind := some b, phases := i.ctx.phases, phase := i.ctx.phase, launch := i.ctx.launch, det := i.ctx.det, fmtcfg := i.ctx.fmtcfg
    phbase := i.ctx.phbase, padm := i.ctx.padm, done := false, ibuf := [], wanted := [], scPos := pos, mapreqs := [], wake := [] })).updCluster k
      (fun c => { c with ich := i.ctx.ich.map (fun x => (x.1, { x.2 with phys := ringBase k c x.2.rbase })), och := i.ctx.och })

/-- An image placed on a spare cluster: its bytes, its phases, its binding. -/
theorem State.place_spec (s : State) (k : Nat) (i : Image) (b : Binding) (pos : List Nat) :
    (s.place k i b pos).mem = (s.placeBytes k i).mem ∧ ((s.place k i b pos).cluster k).bind = some b ∧
      ((s.place k i b pos).cluster k).phases = i.ctx.phases ∧ ((s.place k i b pos).cluster k).phase = i.ctx.phase := by
  obtain ⟨hm, hc⟩ := State.keepsPlaces_restore { s.placeConfigured k i b pos with nextId := (s.placeConfigured k i b pos).nextId + 56 } k
    ((areaState i.area).fromArea 0 (s.placeConfigured k i b pos).nextId i.ctx) ((areaState i.area).areaPlane 0)
  have hset : ((s.placeConfigured k i b pos).cluster k).bind = some b ∧ ((s.placeConfigured k i b pos).cluster k).phases = i.ctx.phases ∧
      ((s.placeConfigured k i b pos).cluster k).phase = i.ctx.phase := by
    rw [State.placeConfigured, State.cluster_updCluster_self, State.cluster_updCluster_self]
    exact ⟨rfl, rfl, rfl⟩
  obtain ⟨hbind, hphases, hphase⟩ := hset
  obtain ⟨h1, h2, h3⟩ := hc k
  exact ⟨hm, h1.trans hbind, h2.trans hphases, h3.trans hphase⟩

/-! ### A stage of one cluster moves (25 R414) -/

/-- The weights of a stage of one cluster lie in its spare. -/
theorem State.stageWeights_bytes {s : State} (p : Nat) (hk : s.kept = true) : (s.stageWeights [p]).kept = true ∧
    ∀ a, a / 2 ^ 22 ≠ p → (s.stageWeights [p]).byteAt a = s.byteAt a := by
  have hw : State.WritesIn (p * 2 ^ 22) (p * 2 ^ 22 + 2 ^ 22) { s with free := s.free + 1 } (s.stageWeights [p]) := by
    refine State.writesIn_foldl (fun x hx u => ?_) _
    have hkeep := (List.mem_filter.mp hx).2
    simp only [Bool.and_eq_true, beq_iff_eq, List.contains_iff_mem, List.mem_singleton, decide_eq_true_eq] at hkeep
    obtain ⟨⟨_, hp⟩, hfit⟩ := hkeep
    have hmod : memKey x.1 % 2 ^ 22 = x.1 % 2 ^ 22 := by rw [memKey]; omega
    have hdiv : memKey x.1 / 2 ^ 22 = p := hp
    refine u.writesIn_writeMarked ?_ ?_
    · omega
    · rw [List.length_map]
      omega
  obtain ⟨hkept, hsame⟩ := hw.2 hk
  exact ⟨hkept, fun a ha => hsame a (by omega)⟩

/-- A launch where its stage has moved from home cluster `h` to spare `p`. -/
def Launch.movedTo (l : Launch) (h p : Nat) : Launch :=
  { l with die := dieKey p % 4, row0 := shifted l.row0 (rowOf h) (rowOf p), col0 := shifted l.col0 (colOf h) (colOf p), moved := true }

/-- The binding of a spare cluster to the image of its home. -/
def Image.binding (i : Image) (cox : Nat) (l : Launch) : Binding :=
  ⟨cox, l.row0, l.col0, l.rows, l.cols, (i.ctx.bind.map (·.index)).getD 0, l.key⟩

section
variable {s : State} {m h p cox : Nat} {img : Image} {pos : List (Nat × List Nat)}

theorem State.moveStage_one (hi : s.stageImages ⟨[h], [p]⟩ = some [(h, p, img)]) (hr : s.stageRoom ⟨[h], [p]⟩ img.launch p = some (cox, pos)) :
    ∃ u, (((s.updModule m (fun d => { d with stages := d.stages.erase ⟨[h], [p]⟩ })).stageWeights [p]).place p img
        (img.binding cox (img.launch.movedTo h p)) (((pos.find? (fun y => y.1 == p)).map (·.2)).getD [])).KeepsPlaces u ∧
      s.moveStage m ⟨[h], [p]⟩ = u.setCox (dieKey p) cox ⟨img.launch.movedTo h p, img.ctx.phase, [p], none, none, .run⟩ := by
  refine ⟨_, (State.keepsPlaces_rebindIns _ h p).trans (State.keepsPlaces_rebindOuts _ h p), ?_⟩
  unfold State.moveStage
  simp only [hi, hr, List.head?_cons]
  rfl

/-- The one with a committed image moves. -/
theorem State.moveStage_spec (hi : s.stageImages ⟨[h], [p]⟩ = some [(h, p, img)])
    (hr : s.stageRoom ⟨[h], [p]⟩ img.launch p = some (cox, pos)) : let t := s.moveStage m ⟨[h], [p]⟩
    (t.dieAt (dieKey p)).coxes.find? (fun z => z.1 == cox) = some (cox, ⟨img.launch.movedTo h p, img.ctx.phase, [p], none, none, .run⟩) ∧
    (t.cluster p).bind = some (img.binding cox (img.launch.movedTo h p)) ∧ (t.cluster p).phases = img.ctx.phases ∧
    (t.cluster p).phase = img.ctx.phase ∧
    (s.kept = true → (img.mem.map (·.1)).Nodup → (∀ z ∈ img.mem, z.1 < 2 ^ 22 ∧ img.ctx.LocalAt z.1) →
      (∀ a, a / 2 ^ 22 ≠ p → t.byteAt a = s.byteAt a) ∧ (∀ z ∈ img.mem, t.byteAt (clusterBase p + z.1) = z.2) ∧
      ∀ o < 2 ^ 22, img.ctx.LocalAt o → o ∉ img.mem.map (·.1) → t.byteAt (clusterBase p + o) = 0) := by
  intro t
  obtain ⟨u, ⟨hmem, hplaces⟩, ht⟩ := State.moveStage_one (m := m) hi hr
  have hkept := State.stageWeights_bytes (s := s.updModule m (fun d => { d with stages := d.stages.erase ⟨[h], [p]⟩ })) p
  have hleft : (s.updModule m (fun d => { d with stages := d.stages.erase ⟨[h], [p]⟩ })).kept = s.kept ∧
      ∀ a, (s.updModule m (fun d => { d with stages := d.stages.erase ⟨[h], [p]⟩ })).byteAt a = s.byteAt a := ⟨rfl, fun _ => rfl⟩
  generalize s.updModule m (fun d => { d with stages := d.stages.erase ⟨[h], [p]⟩ }) = v at hmem hplaces hkept hleft
  obtain ⟨hpm, hbind, hphases, hphase⟩ := (v.stageWeights [p]).place_spec p img (img.binding cox (img.launch.movedTo h p))
    (((pos.find? (fun y => y.1 == p)).map (·.2)).getD [])
  obtain ⟨h1, h2, h3⟩ := hplaces p
  have htm : t.mem = ((v.stageWeights [p]).placeBytes p img).mem := (congrArg State.mem ht).trans (hmem.trans hpm)
  have hbyte : ∀ a, t.byteAt a = ((v.stageWeights [p]).placeBytes p img).byteAt a := fun a => by
    rw [State.byteAt, State.byteAt, htm]
  have htc : t.cluster p = u.cluster p := (congrArg (State.cluster · p) ht :)
  refine ⟨?_, ?_, ?_, ?_, fun hk hd hin => ?_⟩
  · rw [show t = _ from ht]
    exact State.find?_setCox ..
  · rw [htc, h1, hbind]
  · rw [htc, h2, hphases]
  · rw [htc, h3, hphase]
  · obtain ⟨hwk, hwb⟩ := hkept (hleft.1.trans hk)
    obtain ⟨hwf, _⟩ := (State.kept_iff _).mp hwk
    refine ⟨fun a ha => ?_, fun z hz => ?_, fun o ho hl hno => ?_⟩
    · rw [hbyte, State.byteAt_placeBytes_elsewhere hwf (fun z hz => (hin z hz).1) ha, hwb a ha, hleft.2]
    · rw [hbyte, State.byteAt_placeBytes_listed hwf hd hz]
    · rw [hbyte, State.byteAt_placeBytes_unlisted hwf ho hl hno]

end

/-- An entry found is found too by a test that it meets and that implies the other. -/
theorem find?_of_stronger {α : Type} {a b : α → Bool} {l : List α} {x : α} (h : l.find? a = some x) (hx : b x = true)
    (hab : ∀ y, b y = true → a y = true) : l.find? b = some x := by
  induction l with
  | nil => cases h
  | cons y l ih =>
    by_cases hy : a y = true
    · rw [List.find?_cons_of_pos hy] at h
      cases h
      exact List.find?_cons_of_pos hx
    · rw [List.find?_cons_of_neg hy] at h
      rw [List.find?_cons_of_neg (mt (hab y) hy)]
      exact ih h

section
variable {s : State} {m h p cox : Nat} {img : Image} {pos : List (Nat × List Nat)}

theorem State.stageImages_cutFrom (hf : s.images.find? (fun z => z.1 == h) = some (h, img)) (hh : img.holder ≠ m)
    (hl : layoutOf img.area = (s.module (modOf p)).active) : (s.cutFrom m).stageImages ⟨[h], [p]⟩ = some [(h, p, img)] := by
  have himg : (s.cutFrom m).images = s.images.filter (fun x => x.2.holder != m) := (congrArg State.images (s.cutFrom_eq m) :)
  have hmod : (s.cutFrom m).module (modOf p) = (s.noteFailed m).module (modOf p) := (congrArg (State.module · (modOf p)) (s.cutFrom_eq m) :)
  have hact : ((s.cutFrom m).module (modOf p)).active = (s.module (modOf p)).active := by
    rw [hmod]
    exact s.field_noteFailed m Module.active (fun _ _ => rfl) _
  have hfind : (s.images.filter (fun x => x.2.holder != m)).find? (fun i => i.1 == h && fld (ofBytes (i.2.area.take 8)) 0 16 ==
      (s.module (modOf p)).active) = some (h, img) := by
    rw [List.find?_filter]
    refine find?_of_stronger hf ?_ fun y hy => ?_
    · have hl' : fld (ofBytes (img.area.take 8)) 0 16 = (s.module (modOf p)).active := hl
      exact decide_eq_true ⟨bne_iff_ne.mpr hh, by rw [hl', beq_self_eq_true, beq_self_eq_true]; rfl⟩
    · simp only [Bool.and_eq_true, decide_eq_true_eq] at hy
      exact hy.2.1
  unfold State.stageImages
  simp only [himg, hact, List.zip_cons_cons, List.zip_nil_right, List.filterMap_cons, List.filterMap_nil, hfind, Option.map_some]
  rfl

theorem State.stageRoom_cutFrom (hb : (s.cluster p).bind = none) (hw : (s.module (modOf p)).fwBusy = false)
    (hc : (s.dieAt (dieKey p)).freeCox = some cox)
    (hp : wheelAllot ((img.launch.tr.map (·.scpos)).getD 0) (s.wheelUsed (modOf p)) [p] = some pos) :
    (s.cutFrom m).stageRoom ⟨[h], [p]⟩ img.launch p = some (cox, pos) := by
  have hcluster : (s.cutFrom m).cluster p = s.cluster p := (congrArg (State.cluster · p) (s.cutFrom_eq m) :)
  have hfree : (s.cutFrom m).membersFree [p] = true := by
    simp only [State.membersFree, List.all_cons, List.all_nil, hcluster, hb, Option.isNone_none, Bool.and_self]
  have hbusy : ((s.cutFrom m).module (modOf p)).fwBusy = false := by
    rw [← hw, ← s.field_noteFailed m Module.fwBusy (fun _ _ => rfl)]
    exact (congrArg (fun t : State => (t.module (modOf p)).fwBusy) (s.cutFrom_eq m) :)
  have hdie : (s.cutFrom m).dieAt (dieKey p) = s.dieAt (dieKey p) := (congrArg (State.dieAt · (dieKey p)) (s.cutFrom_eq m) :)
  have hused : (s.cutFrom m).wheelUsed (modOf p) = s.wheelUsed (modOf p) := (congrArg (State.wheelUsed · (modOf p)) (s.cutFrom_eq m) :)
  unfold State.stageRoom
  simp only [hfree, hbusy, hdie, hused, hc, hp, Bool.not_true, Bool.false_eq_true, or_self, if_false]

end

/-! ### What the failure of a module does (25 R414) -/

section
variable {s : State} {m : Nat} (hg : s.gone m = true) (hn : ∀ z ∈ s.md, z.1 ≠ m → m ∉ z.2.failed)
include hg hn

theorem exec_moduleFailed_noStage (hs : (s.module m).stages = []) : ∃ t, exec (.moduleFailed m) s = .next t ∧
    (t.mem = s.mem ∧ t.pmem = s.pmem) ∧ (∀ z ∈ s.md, z.1 ≠ m → m ∈ (t.module z.1).failed) ∧ ∀ z ∈ t.images, z.2.holder ≠ m := by
  have hst : ((s.noteFailed m).module m).stages = [] := (s.field_noteFailed m Module.stages (fun _ _ => rfl) m).trans hs
  refine ⟨s.cutFrom m, ?_, ?_, fun z hz hzm => ?_, fun z hz => ?_⟩
  · rw [exec_moduleFailed hg hn, hst, List.foldl_nil]
  · rw [s.cutFrom_eq m]
    exact ⟨rfl, rfl⟩
  · rw [(congrArg (State.module · z.1) (s.cutFrom_eq m) :)]
    exact s.failed_noteFailed m hz hzm
  · rw [(congrArg State.images (s.cutFrom_eq m) :)] at hz
    exact bne_iff_ne.mp (List.mem_filter.mp hz).2

theorem exec_moduleFailed_noSpare {k : Nat} {st : Stage} {b : Binding} {x : Cox} (hs : (s.module m).stages = [st]) (hh : st.home.head? = some k)
    (hsp : st.spare = []) (hb : (s.cluster k).bind = some b)
    (hx : (s.dieAt (dieKey k)).coxes.find? (fun z => z.1 == b.cox) = some (b.cox, x)) (hf : x.fail = none) :
    ∃ t, exec (.moduleFailed m) s = .next t ∧ (t.mem = s.mem ∧ t.pmem = s.pmem) ∧
      (t.dieAt (dieKey k)).coxes.find? (fun z => z.1 == b.cox) = some (b.cox, { x with fail := some 0x0A }) := by
  have hst : ((s.noteFailed m).module m).stages = [st] := (s.field_noteFailed m Module.stages (fun _ _ => rfl) m).trans hs
  have hcluster : (s.cutFrom m).cluster k = s.cluster k := (congrArg (State.cluster · k) (s.cutFrom_eq m) :)
  have hdie : (s.cutFrom m).dieAt (dieKey k) = s.dieAt (dieKey k) := (congrArg (State.dieAt · (dieKey k)) (s.cutFrom_eq m) :)
  have hmem : (s.cutFrom m).mem = s.mem ∧ (s.cutFrom m).pmem = s.pmem := by
    rw [s.cutFrom_eq m]
    exact ⟨rfl, rfl⟩
  refine ⟨((s.cutFrom m).updModule m (fun d => { d with stages := d.stages.erase st })).failCox k 0x0A, ?_, ?_, ?_⟩
  · rw [exec_moduleFailed hg hn, hst, List.foldl_cons, List.foldl_nil, State.moveStage_noSpare hsp hh]
  · obtain ⟨h1, h2⟩ := State.kept_failCox ((s.cutFrom m).updModule m (fun d => { d with stages := d.stages.erase st })) k 0x0A
    exact ⟨h1.trans hmem.1, h2.trans hmem.2⟩
  · exact State.find?_failCox (hcluster ▸ hb) (hdie ▸ hx) hf

theorem exec_moduleFailed_moves {h p cox : Nat} {img : Image} {pos : List (Nat × List Nat)} (hs : (s.module m).stages = [⟨[h], [p]⟩])
    (hf : s.images.find? (fun z => z.1 == h) = some (h, img)) (hh : img.holder ≠ m) (hl : layoutOf img.area = (s.module (modOf p)).active)
    (hb : (s.cluster p).bind = none) (hw : (s.module (modOf p)).fwBusy = false) (hc : (s.dieAt (dieKey p)).freeCox = some cox)
    (hp : wheelAllot ((img.launch.tr.map (·.scpos)).getD 0) (s.wheelUsed (modOf p)) [p] = some pos) :
    ∃ (t : State) (l : Launch), exec (.moduleFailed m) s = .next t ∧ l.moved = true ∧ l.key = img.launch.key ∧
      l.rows = img.launch.rows ∧ l.cols = img.launch.cols ∧ (rowOf h ≤ img.launch.row0 + rowOf p → l.row0 + rowOf h = img.launch.row0 + rowOf p) ∧
      (colOf h ≤ img.launch.col0 + colOf p → l.col0 + colOf h = img.launch.col0 + colOf p) ∧
      (t.dieAt (dieKey p)).coxes.find? (fun z => z.1 == cox) = some (cox, ⟨l, img.ctx.phase, [p], none, none, .run⟩) ∧
      (t.cluster p).bind = some (img.binding cox l) ∧ (t.cluster p).phases = img.ctx.phases ∧ (t.cluster p).phase = img.ctx.phase ∧
      (s.kept = true → (img.mem.map (·.1)).Nodup → (∀ z ∈ img.mem, z.1 < 2 ^ 22 ∧ img.ctx.LocalAt z.1) →
        (∀ a, a / 2 ^ 22 ≠ p → t.byteAt a = s.byteAt a) ∧ (∀ z ∈ img.mem, t.byteAt (clusterBase p + z.1) = z.2) ∧
        ∀ o < 2 ^ 22, img.ctx.LocalAt o → o ∉ img.mem.map (·.1) → t.byteAt (clusterBase p + o) = 0) := by
  have hst : ((s.noteFailed m).module m).stages = [⟨[h], [p]⟩] := (s.field_noteFailed m Module.stages (fun _ _ => rfl) m).trans hs
  have hkept : (s.cutFrom m).kept = s.kept := (congrArg State.kept (s.cutFrom_eq m) :)
  have hbyte : ∀ a, (s.cutFrom m).byteAt a = s.byteAt a := fun a => (congrArg (State.byteAt · a) (s.cutFrom_eq m) :)
  obtain ⟨hcox, hbind, hphases, hphase, hbytes⟩ :=
    State.moveStage_spec (m := m) (State.stageImages_cutFrom hf hh hl) (State.stageRoom_cutFrom hb hw hc hp)
  refine ⟨_, img.launch.movedTo h p, ?_, rfl, rfl, rfl, rfl, Nat.sub_add_cancel, Nat.sub_add_cancel, hcox, hbind, hphases, hphase, fun hk hd hin => ?_⟩
  · rw [exec_moduleFailed hg hn, hst, List.foldl_cons, List.foldl_nil]
  · obtain ⟨h1, h2⟩ := hbytes (hkept.trans hk) hd hin
    exact ⟨fun a ha => (h1 a ha).trans (hbyte a), h2⟩

end

end Sys2Proof.Machine
end

section
/-! SUPPORT. The activation of a firmware image (25 R410, R411). -/

namespace Sys2Proof.Machine

/-- The save areas and images of module `m` that the firmware image in place does not accept. -/
def State.areasLeft (s : State) (m : Nat) : List (Held × List Byte) :=
  (s.areasOf m).filter (fun x => !bitAt (s.imageField (s.module m).fwaddr 24 8) (layoutOf x.2))

/-- What the conversion routines give for these areas. -/
def State.areasMade (s : State) (m : Nat) : List (Held × Option (List Byte)) :=
  (s.areasLeft m).map (fun x => (x.1, Config.convert (s.imageBytes (s.module m).fwaddr) (layoutOf x.2) x.2))

/-- An activation ends with a result; a layout is reported with result 2. -/
def State.activationEnds (s : State) (m r bad : Nat) : State :=
  s.updModule m (fun d => { d with fwBusy := false, fwResult := r, badLayout := if r = 2 then bad else d.badLayout })

/-- The areas made stand in place of those they are made of. -/
def State.areasReplaced (s : State) (m : Nat) : State :=
  (s.areasMade m).foldl (fun t x => t.replaceArea x.1 (freshArea (s.imageField (s.module m).fwaddr 16 2) (x.2.getD []))) s

/-- Firmware contexts of module `m` start afresh under its new image. -/
def State.restarted (s : State) (m : Nat) (image : List Byte) : State :=
  { s with cl := s.cl.map (fun x => if modOf x.1 = m then (x.1, { x.2 with fw := x.2.fw.restart image x.1 }) else x) }

/-- An image is activated. -/
def State.activated (s : State) (m : Nat) : State :=
  (((s.areasReplaced m).restarted m (s.imageBytes (s.module m).fwaddr)).activationEnds m 1 0).updModule m
    (fun d => { d with active := s.imageField (s.module m).fwaddr 16 2, image := s.imageBytes (s.module m).fwaddr })

/-- Does the image in place accept an area, or can it convert one? -/
def State.Accepts (s : State) (m : Nat) (z : List Byte) : Prop := (s.imageField (s.module m).fwaddr 24 8).testBit (layoutOf z) = true
def State.CanConvert (s : State) (m : Nat) (z : List Byte) : Prop :=
  layoutOf z < 8 ∧ s.imageField (s.module m).fwaddr (32 + 8 * layoutOf z) 8 ≠ 0

section
variable {s : State} {m : Nat}

theorem exec_firmwareActivation_idle (h : (s.module m).fwBusy = false ∨ s.settled m = false) : exec (.firmwareActivation m) s = .next s := by
  refine congrArg _ (if_pos (h.imp (fun h => ?_) (fun h => ?_)))
  · rw [h]
    rfl
  · rw [h]
    rfl

variable (hb : (s.module m).fwBusy = true) (hs : s.settled m = true)
include hb hs

theorem exec_firmwareActivation_due : exec (.firmwareActivation m) s = .next (
    if !s.imageOk m (s.module m).fwaddr then s.activationEnds m 4 0
    else match (s.areasLeft m).find? (fun x => !s.converts (s.module m).fwaddr (layoutOf x.2)) with
      | some x => s.activationEnds m 2 (layoutOf x.2)
      | none => if (s.areasMade m).any (fun x => x.2.isNone) then s.activationEnds m 3 0 else s.activated m) := by
  have hdue : ¬ ((!(s.module m).fwBusy) = true ∨ (!s.settled m) = true) := by
    rw [hb, hs]
    decide
  show execFirmwareActivation m s = _
  unfold execFirmwareActivation State.activated State.activationEnds State.restarted State.areasReplaced State.areasMade State.areasLeft
  exact congrArg _ (if_neg hdue)

theorem exec_firmwareActivation_bad (h : s.imageOk m (s.module m).fwaddr = false) :
    exec (.firmwareActivation m) s = .next (s.activationEnds m 4 0) := by
  rw [exec_firmwareActivation_due hb hs, h, if_pos (by rfl)]

variable (h : s.imageOk m (s.module m).fwaddr = true)
include h

theorem exec_firmwareActivation_ok : exec (.firmwareActivation m) s = .next (
    match (s.areasLeft m).find? (fun x => !s.converts (s.module m).fwaddr (layoutOf x.2)) with
      | some x => s.activationEnds m 2 (layoutOf x.2)
      | none => if (s.areasMade m).any (fun x => x.2.isNone) then s.activationEnds m 3 0 else s.activated m) := by
  rw [exec_firmwareActivation_due hb hs, h, if_neg (by decide)]

omit hb hs h in
theorem State.mem_areasLeft (z : Held × List Byte) : z ∈ s.areasLeft m ↔ z ∈ s.areasOf m ∧ ¬ s.Accepts m z.2 := by
  rw [State.areasLeft, List.mem_filter, bitAt_eq_testBit, Bool.not_eq_true', State.Accepts, Bool.not_eq_true]

omit hb hs h in
theorem State.not_converts_iff (z : List Byte) : (!s.converts (s.module m).fwaddr (layoutOf z)) = true ↔ ¬ s.CanConvert m z := by
  rw [State.converts, State.CanConvert, Bool.not_eq_true', ← Bool.not_eq_true, Bool.and_eq_true, decide_eq_true_eq, bne_iff_ne]

theorem exec_firmwareActivation_unreadable (hz : ∃ z ∈ s.areasOf m, ¬ s.Accepts m z.2 ∧ ¬ s.CanConvert m z.2) :
    ∃ z ∈ s.areasOf m, (¬ s.Accepts m z.2 ∧ ¬ s.CanConvert m z.2) ∧
      exec (.firmwareActivation m) s = .next (s.activationEnds m 2 (layoutOf z.2)) := by
  obtain ⟨z, hz, ha, hc⟩ := hz
  cases hf : (s.areasLeft m).find? (fun x => !s.converts (s.module m).fwaddr (layoutOf x.2)) with
  | none => exact absurd ((State.not_converts_iff z.2).mpr hc) (List.find?_eq_none.mp hf z ((State.mem_areasLeft z).mpr ⟨hz, ha⟩))
  | some x =>
    obtain ⟨hx, hxa⟩ := (State.mem_areasLeft x).mp (List.mem_of_find?_eq_some hf)
    have hxc := List.find?_some (p := fun x : Held × List Byte => !s.converts (s.module m).fwaddr (layoutOf x.2)) hf
    refine ⟨x, hx, ⟨hxa, (State.not_converts_iff x.2).mp hxc⟩, ?_⟩
    rw [exec_firmwareActivation_ok hb hs h, hf]

variable (hall : ∀ z ∈ s.areasOf m, s.Accepts m z.2 ∨ s.CanConvert m z.2)
include hall

theorem exec_firmwareActivation_readable : exec (.firmwareActivation m) s = .next (
    if (s.areasMade m).any (fun x => x.2.isNone) then s.activationEnds m 3 0 else s.activated m) := by
  have hf : (s.areasLeft m).find? (fun x => !s.converts (s.module m).fwaddr (layoutOf x.2)) = none := by
    refine List.find?_eq_none.mpr fun z hz hc => ?_
    obtain ⟨hz, ha⟩ := (State.mem_areasLeft z).mp hz
    exact (State.not_converts_iff z.2).mp hc ((hall z hz).resolve_left ha)
  rw [exec_firmwareActivation_ok hb hs h, hf]

theorem exec_firmwareActivation_unconverted
    (hz : ∃ z ∈ s.areasOf m, ¬ s.Accepts m z.2 ∧ Config.convert (s.imageBytes (s.module m).fwaddr) (layoutOf z.2) z.2 = none) :
    exec (.firmwareActivation m) s = .next (s.activationEnds m 3 0) := by
  obtain ⟨z, hz, ha, hc⟩ := hz
  rw [exec_firmwareActivation_readable hb hs h hall, if_pos]
  rw [State.areasMade, List.any_map, List.any_eq_true]
  exact ⟨z, (State.mem_areasLeft z).mpr ⟨hz, ha⟩, Option.isNone_iff_eq_none.mpr hc⟩

theorem exec_firmwareActivation_activates
    (hz : ∀ z ∈ s.areasOf m, s.Accepts m z.2 ∨ Config.convert (s.imageBytes (s.module m).fwaddr) (layoutOf z.2) z.2 ≠ none) :
    exec (.firmwareActivation m) s = .next (s.activated m) := by
  rw [exec_firmwareActivation_readable hb hs h hall, if_neg]
  rw [State.areasMade, List.any_map, List.any_eq_true]
  rintro ⟨z, hzl, hc⟩
  obtain ⟨hzm, ha⟩ := (State.mem_areasLeft z).mp hzl
  exact (hz z hzm).resolve_left ha (Option.isNone_iff_eq_none.mp hc)

end

/-! ### What an activation leaves -/

/-- Two states that differ in the memory and the images at most. -/
def State.ExceptAreas (s t : State) : Prop := t = { s with mem := t.mem, pmem := t.pmem, images := t.images }

theorem State.ExceptAreas.trans {s t u : State} (h : s.ExceptAreas t) (h' : t.ExceptAreas u) : s.ExceptAreas u :=
  Eq.trans h' (by rw [h])

section
variable (s : State) (m : Nat)

theorem State.activationEnds_module (r bad : Nat) : ((s.activationEnds m r bad).module m) =
    { s.module m with fwBusy := false, fwResult := r, badLayout := if r = 2 then bad else (s.module m).badLayout } := State.module_updModule_self ..

theorem State.exceptAreas_replaceArea (h : Held) (bs : List Byte) : s.ExceptAreas (s.replaceArea h bs) := by
  cases h <;> rfl

theorem State.exceptAreas_areasReplaced : s.ExceptAreas (s.areasReplaced m) := by
  have h : ∀ (lay : Nat) (l : List (Held × Option (List Byte))) (u : State),
      u.ExceptAreas (l.foldl (fun t x => t.replaceArea x.1 (freshArea lay (x.2.getD []))) u) := by
    intro lay l
    induction l with
    | nil => exact fun _ => rfl
    | cons x l ih => exact fun u => (u.exceptAreas_replaceArea ..).trans (ih _)
  exact h ..

theorem State.module_activationEnds_updModule (f : Module → Module) : ((s.activationEnds m 1 0).updModule m f).module m =
    f { s.module m with fwBusy := false, fwResult := 1 } := by
  rw [State.module_updModule_self, State.activationEnds_module, if_neg (by decide)]

theorem State.image_activationEnds (lay : Nat) (image : List Byte) :
    let d := ((s.activationEnds m 1 0).updModule m (fun d => { d with active := lay, image := image })).module m
    d.fwBusy = false ∧ d.fwResult = 1 ∧ d.active = lay ∧ d.image = image := by
  rw [State.module_activationEnds_updModule]
  exact ⟨rfl, rfl, rfl, rfl⟩

/-- An activated image. -/
theorem State.activated_module : let d := (s.activated m).module m
    d.fwBusy = false ∧ d.fwResult = 1 ∧ d.active = s.imageField (s.module m).fwaddr 16 2 ∧ d.image = s.imageBytes (s.module m).fwaddr :=
  State.image_activationEnds ..

theorem State.cluster_restarted (image : List Byte) (k : Nat) : (s.restarted m image).cluster k =
    if modOf k = m then { s.cluster k with fw := (s.cluster k).fw.restart image k } else s.cluster k := by
  have h : ∀ l : KMap Cluster, kget Cluster.reset (l.map (fun x => if modOf x.1 = m then (x.1, { x.2 with fw := x.2.fw.restart image x.1 }) else x)) k =
      if modOf k = m then { kget Cluster.reset l k with fw := (kget Cluster.reset l k).fw.restart image k } else kget Cluster.reset l k := by
    intro l
    induction l with
    | nil => exact (ite_self _).symm
    | cons x l ih =>
      by_cases hx : x.1 = k
      · subst hx
        by_cases hm : modOf x.1 = m <;> simp only [List.map_cons, hm, if_true, if_false, kget]
      · by_cases hm : modOf x.1 = m <;> simp only [List.map_cons, hm, if_true, if_false, kget, hx, ih]
  exact h ..

theorem State.cluster_activated (k : Nat) : (s.activated m).cluster k =
    if modOf k = m then { s.cluster k with fw := (s.cluster k).fw.restart (s.imageBytes (s.module m).fwaddr) k } else s.cluster k := by
  have hr : (s.areasReplaced m).cluster k = s.cluster k := (congrArg (State.cluster · k) (s.exceptAreas_areasReplaced m) :)
  rw [← hr]
  exact State.cluster_restarted ..

theorem State.ctxOf_activated_prog (k : Nat) : (s.activated m).ctxOf k false = s.ctxOf k false := by
  rw [State.ctxOf, State.ctxOf, State.cluster_activated, apply_ite (Cluster.ctx · false)]
  exact ite_self _

theorem State.ctxOf_activated_fw {k : Nat} (hk : modOf k = m) : (s.activated m).ctxOf k true =
    if (s.cluster k).fw.park = .halted then Ctx.reset else
      { Ctx.reset with park := .run, pc := Config.fwEntry (s.imageBytes (s.module m).fwaddr) k } := by
  rw [State.ctxOf, State.cluster_activated, if_pos hk]
  rfl

end

section
variable {s : State} {m : Nat}

theorem State.areasLeft_accepted (h : ∀ z ∈ s.areasOf m, s.Accepts m z.2) : s.areasLeft m = [] :=
  List.eq_nil_iff_forall_not_mem.mpr fun z hz => ((State.mem_areasLeft z).mp hz).2 (h z ((State.mem_areasLeft z).mp hz).1)

theorem State.activated_accepted (h : ∀ z ∈ s.areasOf m, s.Accepts m z.2) :
    ((s.activated m).mem = s.mem ∧ (s.activated m).pmem = s.pmem) ∧ (s.activated m).images = s.images := by
  have hr : s.areasReplaced m = s := by
    rw [State.areasReplaced, State.areasMade, State.areasLeft_accepted h]
    rfl
  have hframe : ((s.activated m).mem = (s.areasReplaced m).mem ∧ (s.activated m).pmem = (s.areasReplaced m).pmem) ∧
      (s.activated m).images = (s.areasReplaced m).images := ⟨⟨rfl, rfl⟩, rfl⟩
  rwa [hr] at hframe

end

/-! ### A fresh area (log 20) -/

theorem ofBytes_lt (l : List Byte) : ofBytes l < 256 ^ l.length := by
  induction l with
  | nil => exact Nat.one_pos
  | cons b l ih =>
    have hb := b.isLt
    rw [ofBytes, List.length_cons, pow_succ']
    omega

theorem State.imageField_two_lt (s : State) (a o : Nat) : s.imageField a o 2 < 65536 := by
  have h := ofBytes_lt (s.readBytes (a + o) 2)
  rw [State.readBytes, length_tabulate, ← State.readBytes] at h
  exact Nat.lt_of_lt_of_eq h (by norm_num)

/-- Bytes read are those that stand there. -/
theorem State.readBytes_of_byteAt {s : State} {i n : Nat} {l : List Byte} (hl : l.length = n) (hi : i + n ≤ 2 ^ 45)
    (h : ∀ j < n, s.byteAt (i + j) = l.getD j 0) : s.readBytes i n = l := by
  refine List.ext_getElem ((length_tabulate ..).trans hl.symm) fun j h1 h2 => ?_
  have hj : j < n := hl ▸ h2
  have hkey : memKey (i + j) = i + j := Nat.mod_eq_of_lt (by omega)
  have hget := h j hj
  rw [List.getD_eq_getElem _ _ h2, State.byteAt] at hget
  simp only [State.readBytes, tabulate, List.getElem_map, List.getElem_range, hkey, hget]

theorem State.byteAt_writeMarked_unmarked {s : State} {pa o : Nat} {bs : List Byte} (hk : s.kept = true) (hpa : memKey pa = pa)
    (ho : o < bs.length) : (s.writeMarked pa (bs.map (fun b => (b, false)))).byteAt (pa + o) = bs.getD o 0 := by
  have h := s.byteAt_writeMarked_inside pa o (bs.map (fun b => (b, false))) hk (by rwa [List.length_map])
  rw [hpa, List.getElem_map] at h
  rw [h, List.getD_eq_getElem _ _ ho]

theorem length_freshArea (lay : Nat) (bs : List Byte) : (freshArea lay bs).length = 65536 := by
  simp only [freshArea, List.length_append, length_toBytes, length_tabulate, Nat.reduceAdd]

theorem take_freshArea (lay : Nat) (bs : List Byte) : (freshArea lay bs).take 8 = toBytes 8 (lay + 65536 * 2 ^ 32) := by
  rw [freshArea, List.take_left' (length_toBytes ..)]

theorem getD_freshArea (lay : Nat) (bs : List Byte) {o : Nat} (h8 : 8 ≤ o) (h : o < 65536) : (freshArea lay bs).getD o 0 = bs.getD o 0 := by
  have hn : nth (tabulate 65528 (fun i => nth bs (i + 8) 0)) (o - 8) 0 = nth bs (o - 8 + 8) 0 := nth_tabulate _ _ (by omega)
  rw [freshArea, List.getD_append_right _ _ _ _ (by rw [length_toBytes]; exact h8), length_toBytes]
  rw [Nat.sub_add_cancel h8] at hn
  exact hn

section
variable {s : State} {m i : Nat} {bs cv : List Byte} (hk : s.kept = true) (ha : s.areasOf m = [(.area i, bs)]) (hn : ¬ s.Accepts m bs)
  (hc : Config.convert (s.imageBytes (s.module m).fwaddr) (layoutOf bs) bs = some cv)
include ha hn hc

theorem State.byteAt_activated_area (a : Nat) : (s.activated m).byteAt a =
    (s.writeMarked i ((freshArea (s.imageField (s.module m).fwaddr 16 2) cv).map (fun b => (b, false)))).byteAt a := by
  have hleft : s.areasLeft m = [(.area i, bs)] := by
    have hacc : bitAt (s.imageField (s.module m).fwaddr 24 8) (layoutOf bs) = false := by
      rw [bitAt_eq_testBit]
      exact Bool.eq_false_of_not_eq_true hn
    rw [State.areasLeft, ha, List.filter_cons, hacc]
    rfl
  have hr : s.areasReplaced m = s.writeMarked i ((freshArea (s.imageField (s.module m).fwaddr 16 2) cv).map (fun b => (b, false))) := by
    rw [State.areasReplaced, State.areasMade, hleft, List.map_cons, List.map_nil, hc]
    rfl
  have hframe : (s.activated m).byteAt a = (s.areasReplaced m).byteAt a := rfl
  rw [hframe, hr]

include hk

/-- The bytes of the fresh area stand where the area stood. -/
theorem State.activated_inside (hi : i + 65536 ≤ 2 ^ 45) {o : Nat} (ho : o < 65536) :
    (s.activated m).byteAt (i + o) = (freshArea (s.imageField (s.module m).fwaddr 16 2) cv).getD o 0 := by
  rw [State.byteAt_activated_area ha hn hc]
  exact State.byteAt_writeMarked_unmarked hk (Nat.mod_eq_of_lt (by omega)) (Nat.lt_of_lt_of_eq ho (length_freshArea ..).symm)

theorem State.activated_outside (hi : i + 65536 ≤ 2 ^ 45) {a : Nat} (h : a < i ∨ i + 65536 ≤ a) : (s.activated m).byteAt a = s.byteAt a := by
  have hkey : memKey i = i := Nat.mod_eq_of_lt (by omega)
  rw [State.byteAt_activated_area ha hn hc, s.byteAt_writeMarked_outside i a _ hk]
  rw [hkey, List.length_map, length_freshArea]
  exact h

theorem State.activated_header (hi : i + 65536 ≤ 2 ^ 45) :
    ofBytes ((s.activated m).readBytes i 8) = s.imageField (s.module m).fwaddr 16 2 + 65536 * 2 ^ 32 := by
  have hin : ∀ j < 8, (s.activated m).byteAt (i + j) = ((freshArea (s.imageField (s.module m).fwaddr 16 2) cv).take 8).getD j 0 := by
    intro j hj
    rw [State.activated_inside hk ha hn hc hi (by omega), List.getD_eq_getElem?_getD, List.getD_eq_getElem?_getD, List.getElem?_take_of_lt hj]
  have hlay := s.imageField_two_lt (s.module m).fwaddr 16
  rw [take_freshArea] at hin
  rw [State.readBytes_of_byteAt (length_toBytes ..) (by omega) hin, ofBytes_toBytes]
  exact Nat.mod_eq_of_lt (by omega)

/-- A fresh area stands where the converted one stood. -/
theorem State.activated_area (hi : i + 65536 ≤ 2 ^ 45) : (∀ a, a < i ∨ i + 65536 ≤ a → (s.activated m).byteAt a = s.byteAt a) ∧
    ofBytes ((s.activated m).readBytes i 8) = s.imageField (s.module m).fwaddr 16 2 + 65536 * 2 ^ 32 ∧
    ∀ o, 8 ≤ o → o < 65536 → (s.activated m).byteAt (i + o) = cv.getD o 0 :=
  ⟨fun _ h => State.activated_outside hk ha hn hc hi h, State.activated_header hk ha hn hc hi,
    fun _ h8 ho => (State.activated_inside hk ha hn hc hi ho).trans (getD_freshArea _ _ h8 ho)⟩

end

/-! ### The clauses of contexts moved -/

/-- A checkpoint committed is the cluster's image, staged no more. -/
theorem exec_checkpointCommit_commits {s : State} {k : Nat} {img : Image} (h : s.staged.find? (fun z => z.1 == k) = some (k, img))
    (hl : img.left = 0) (hc : s.copyOut k = false) : ∃ t, exec (.checkpointCommit k) s = .next t ∧ (t.mem = s.mem ∧ t.pmem = s.pmem) ∧
      (t.cluster k).ckptOut = false ∧ t.images.find? (fun z => z.1 == k) = some (k, img) ∧ t.staged.find? (fun z => z.1 == k) = none := by
  refine ⟨_, exec_checkpointCommit_committed h hl hc, ⟨rfl, rfl⟩, ?_, find?_kset_self .., ?_⟩
  · exact congrArg Cluster.ckptOut (State.cluster_updCluster_self s k (fun c => { c with ckptOut := false }))
  · exact find?_kdel_self ..

/-- Where an activation ends. -/
theorem exec_firmwareActivation_ends {s : State} {m : Nat} (hb : (s.module m).fwBusy = true) (hs : s.settled m = true)
    (k i : Nat) (bs cv : List Byte) : let image := s.imageBytes (s.module m).fwaddr
    let lay := s.imageField (s.module m).fwaddr 16 2
    ∃ t, exec (.firmwareActivation m) s = .next t ∧ (t.module m).fwBusy = false ∧
      (s.imageOk m (s.module m).fwaddr = false → t.cl = s.cl ∧ (t.mem = s.mem ∧ t.pmem = s.pmem) ∧
        t.module m = { s.module m with fwBusy := false, fwResult := 4 }) ∧
      (s.imageOk m (s.module m).fwaddr = true →
        ((∃ z ∈ s.areasOf m, ¬ s.Accepts m z.2 ∧ ¬ s.CanConvert m z.2) → t.cl = s.cl ∧ (t.mem = s.mem ∧ t.pmem = s.pmem) ∧
          (t.module m).fwResult = 2 ∧
          ∃ z ∈ s.areasOf m, ¬ s.Accepts m z.2 ∧ ¬ s.CanConvert m z.2 ∧ (t.module m).badLayout = layoutOf z.2) ∧
        ((∀ z ∈ s.areasOf m, s.Accepts m z.2 ∨ s.CanConvert m z.2) →
          ((∃ z ∈ s.areasOf m, ¬ s.Accepts m z.2 ∧ Config.convert image (layoutOf z.2) z.2 = none) →
            t.cl = s.cl ∧ (t.mem = s.mem ∧ t.pmem = s.pmem) ∧ t.module m = { s.module m with fwBusy := false, fwResult := 3 }) ∧
          ((∀ z ∈ s.areasOf m, s.Accepts m z.2 ∨ Config.convert image (layoutOf z.2) z.2 ≠ none) →
            (t.module m).fwResult = 1 ∧ (t.module m).active = lay ∧ (t.module m).image = image ∧ t.ctxOf k false = s.ctxOf k false ∧
            (modOf k = m → t.ctxOf k true = if (s.cluster k).fw.park = .halted then Ctx.reset else
              { Ctx.reset with park := .run, pc := Config.fwEntry image k }) ∧
            ((∀ z ∈ s.areasOf m, s.Accepts m z.2) → (t.mem = s.mem ∧ t.pmem = s.pmem) ∧ t.images = s.images) ∧
            (s.kept = true → s.areasOf m = [(.area i, bs)] → ¬ s.Accepts m bs → Config.convert image (layoutOf bs) bs = some cv →
              i + 65536 ≤ 2 ^ 45 → (∀ a, a < i ∨ i + 65536 ≤ a → t.byteAt a = s.byteAt a) ∧
              ofBytes (t.readBytes i 8) = lay + 65536 * 2 ^ 32 ∧ ∀ o, 8 ≤ o → o < 65536 → t.byteAt (i + o) = cv.getD o 0)))) := by
  intro image lay
  have hends : ∀ r bad, (s.activationEnds m r bad).cl = s.cl ∧ (s.activationEnds m r bad).mem = s.mem ∧
      (s.activationEnds m r bad).pmem = s.pmem := fun _ _ => ⟨rfl, rfl, rfl⟩
  by_cases hok : s.imageOk m (s.module m).fwaddr = true
  · by_cases hun : ∃ z ∈ s.areasOf m, ¬ s.Accepts m z.2 ∧ ¬ s.CanConvert m z.2
    · obtain ⟨z, hz, ⟨hza, hzc⟩, hexec⟩ := exec_firmwareActivation_unreadable hb hs hok hun
      have hd := s.activationEnds_module m 2 (layoutOf z.2)
      obtain ⟨hcl, hkept⟩ := hends 2 (layoutOf z.2)
      refine ⟨_, hexec, by rw [hd], fun h => absurd (h.symm.trans hok) (by decide), fun _ => ⟨fun _ => ⟨hcl, hkept, by rw [hd],
        z, hz, hza, hzc, by rw [hd, if_pos rfl]⟩, fun hall => ?_⟩⟩
      exact absurd (hall z hz) (not_or.mpr ⟨hza, hzc⟩)
    · have hall : ∀ z ∈ s.areasOf m, s.Accepts m z.2 ∨ s.CanConvert m z.2 := fun z hz =>
        or_iff_not_imp_left.mpr fun ha => not_not.mp fun hc => hun ⟨z, hz, ha, hc⟩
      by_cases hcv : ∃ z ∈ s.areasOf m, ¬ s.Accepts m z.2 ∧ Config.convert image (layoutOf z.2) z.2 = none
      · have hd := s.activationEnds_module m 3 0
        obtain ⟨hcl, hkept⟩ := hends 3 0
        refine ⟨_, exec_firmwareActivation_unconverted hb hs hok hall hcv, by rw [hd], fun h => absurd (h.symm.trans hok) (by decide),
          fun _ => ⟨fun h => absurd h hun, fun _ => ⟨fun _ => ⟨hcl, hkept, by rw [hd, if_neg (by decide)]⟩, fun h => ?_⟩⟩⟩
        obtain ⟨z, hz, ha, hc⟩ := hcv
        exact absurd hc ((h z hz).resolve_left ha)
      · have hconv : ∀ z ∈ s.areasOf m, s.Accepts m z.2 ∨ Config.convert image (layoutOf z.2) z.2 ≠ none := fun z hz =>
          or_iff_not_imp_left.mpr fun ha hc => hcv ⟨z, hz, ha, hc⟩
        obtain ⟨hbusy, hres, hact, himg⟩ := s.activated_module m
        exact ⟨_, exec_firmwareActivation_activates hb hs hok hall hconv, hbusy, fun h => absurd (h.symm.trans hok) (by decide),
          fun _ => ⟨fun h => absurd h hun, fun _ => ⟨fun h => absurd h hcv, fun _ => ⟨hres, hact, himg, s.ctxOf_activated_prog m k,
            s.ctxOf_activated_fw m, State.activated_accepted, State.activated_area⟩⟩⟩⟩
  · have hd := s.activationEnds_module m 4 0
    obtain ⟨hcl, hkept⟩ := hends 4 0
    exact ⟨_, exec_firmwareActivation_bad hb hs (Bool.eq_false_of_not_eq_true hok), by rw [hd],
      fun _ => ⟨hcl, hkept, by rw [hd, if_neg (by decide)]⟩, fun h => absurd h hok⟩

/-- CTXSAVE and CTXLOAD in firmware. -/
theorem exec_swap_clauses {s : State} {a : SReg} (hfw : s.curFw = true) : let y := s.ctx.rdS a
    let v := y.val.toNat
    let swaps (i : Instr) (save : Bool) : Prop := exec i s = .next (s.updCtx (fun c => { c with swap := some ⟨v, save, s.slot, none⟩ }))
    (y.poison = true → ∀ i ∈ ([.ctxsave a, .ctxload a] : List Instr), exec i s = .next (s.poisonUse v)) ∧
    (y.poison = false → ∀ i ∈ ([.ctxsave a, .ctxload a] : List Instr),
      ((2 ^ 45 ≤ v ∨ v / 2 ^ 34 ≠ s.cur / 4096) → exec i s = .next (s.raise 0x21 (y.val.setWidth 32) (v % 2 ^ 48))) ∧
      (v < 2 ^ 45 → v / 2 ^ 34 = s.cur / 4096 → v % 65536 ≠ 0 → exec i s = .next (s.raise 0x20 (y.val.setWidth 32) v))) ∧
    (y.poison = false → v < 2 ^ 45 → v / 2 ^ 34 = s.cur / 4096 → v % 65536 = 0 →
      (s.me.bind = none → exec (.ctxsave a) s = .next s.illegalField) ∧ (s.me.bind ≠ none → swaps (.ctxsave a) true) ∧
      (let h := s.readWord v
       let fits := (h.setWidth 16).toNat = (s.module (s.cur / 4096)).active ∧ (h.extractLsb' 32 32).toNat = 65536
       (¬ fits → exec (.ctxload a) s = .next (s.raise 0x02 (BitVec.ofNat 32 (h.setWidth 16).toNat))) ∧
       (fits → s.rebound s.cur v = false → exec (.ctxload a) s = .next s.illegalField) ∧
       (fits → s.rebound s.cur v = true → swaps (.ctxload a) false))) := by
  intro y v swaps
  refine ⟨fun hp => exec_swap_faults (State.swapArea_marked hfw hp), fun hp i hi => ⟨fun h => ?_, fun h45 hmod h => ?_⟩,
    fun hp h45 hmod h => ?_⟩
  · exact exec_swap_faults (State.swapArea_outside hfw hp h) i hi
  · exact exec_swap_faults ((State.swapArea_inside hfw hp h45 hmod).trans (if_pos h)) i hi
  · have harea : s.swapArea a = .inr v := (State.swapArea_inside hfw hp h45 hmod).trans (if_neg (not_not.mpr h))
    have hload := exec_ctxload_area harea
    rw [State.areaLayout_eq, State.areaLength_eq] at hload
    refine ⟨fun hb => ?_, fun hb => ?_, fun hf => ?_, fun ⟨hl, hn⟩ hr => ?_, fun ⟨hl, hn⟩ hr => ?_⟩
    · exact (exec_ctxsave_area harea).trans (congrArg _ (if_pos (Option.isNone_iff_eq_none.mpr hb)))
    · exact (exec_ctxsave_area harea).trans (congrArg _ (if_neg (mt Option.isNone_iff_eq_none.mp hb)))
    · exact hload.trans (congrArg _ (if_pos (not_and_or.mp hf)))
    · have hfit := not_or.mpr ⟨not_not.mpr hl, not_not.mpr hn⟩
      exact hload.trans (congrArg _ ((if_neg hfit).trans (if_pos (by rw [hr]; rfl))))
    · have hfit := not_or.mpr ⟨not_not.mpr hl, not_not.mpr hn⟩
      exact hload.trans (congrArg _ ((if_neg hfit).trans (if_neg (by rw [hr]; decide))))

/-- Settles O54, clause by clause: the swaps of areas, PREEMPT and PREEMPT_REBIND, the checkpoint and its copy, the failure of a
module, and the activation of an image. -/
theorem contextsMoved : Obligations.ContextsMoved := by
  intro s a g cox k m i h p x n l d ms sv pos img st b bs cv y v dg c kept swaps find gives w local_ known lay accepts converts image
  refine ⟨exec_swap_clauses, exec_preempt_none, fun hf => ⟨fun hm => ⟨exec_preempt_unselected hf hm, exec_preempt_refused hf hm,
    fun hs htr hb hlap hd hgive => ?_⟩, fun hm => ⟨exec_preempt_unsaved hf hm, exec_preempt_saved hf hm k⟩, fun hm => ⟨exec_preempt_loading hf hm,
      exec_preemptRebind_unloaded hf hm, fun hall => ?_⟩⟩, fun hf => ⟨exec_preemptRebind_nothing hf, exec_preemptRebind_fenced hf,
    fun hs hl ht hc hb hm hw => exec_preemptRebind_binds hf hs hl ht hc hb hm hw k⟩, exec_checkpoint_unheld, fun hh => ⟨exec_checkpoint_left hh,
    exec_checkpoint_waits hh, fun hp he hs hx hb => ?_⟩, exec_checkpointCommit_nothing, fun hf => ⟨exec_checkpointCommit_copyOut hf,
    exec_checkpointCommit_spent hf rfl, exec_checkpointCommit_commits hf, exec_checkpointCommit_goes hf rfl⟩, exec_moduleFailed_idle,
    fun hg hn => ⟨exec_moduleFailed_noStage hg hn, exec_moduleFailed_noSpare hg hn, exec_moduleFailed_moves hg hn⟩,
    exec_firmwareActivation_idle, fun hb hs => exec_firmwareActivation_ends hb hs k i bs cv⟩
  · exact ⟨_, exec_preempt_stops hf hm hs htr hb hlap hgive, State.preempt_stops hf hlap hd k⟩
  · exact ⟨_, exec_preemptRebind_loaded hf hm hall, ⟨rfl, rfl⟩, rfl, State.find?_setCox ..⟩
  · obtain ⟨t, img, hexec, hprog, hhold, hout, hovf, hseq, hdrl, hat, hst, hla, hho, hcp, hph, hbytes, harea⟩ :=
      exec_checkpoint_taken hh hp he hs hx hb
    exact ⟨t, img, hexec, hprog, hhold, hout, hovf, hseq, hdrl, hat, hst, hla, hho, hcp, hph, hbytes,
      fun hk hlo hhi htop hA hB hcols hscale htiles hstreams => harea hk hlo hhi htop ⟨hA, hB, hcols, hscale, htiles, hstreams⟩⟩

end Sys2Proof.Machine
end
